-- ==== Sys2Proof/Word.lean ====
section
/-! DEFINITION. The word types of the module and the plainest operations on them (R5, R6). -/

namespace Sys2Proof

/-- One byte. -/
abbrev Byte := BitVec 8
/-- A 16-bit word: a format word (R57), an FP16 or BF16 code. -/
abbrev W16 := BitVec 16
/-- A 32-bit word: an FP32 code, an operation number, an event argument. -/
abbrev W32 := BitVec 32
/-- A 64-bit word: one register slot (R661), one descriptor word (R204). -/
abbrev W64 := BitVec 64

/-- Bits [hi:lo] of a number, as a number (R5). -/
def bits (v hi lo : Nat) : Nat := (v >>> lo) % 2 ^ (hi + 1 - lo)

/-- Bit i of a number. -/
def bit (v i : Nat) : Bool := bits v i i == 1

/-- The number with bits [hi:lo] replaced by the low bits of x. -/
def putBits (v hi lo x : Nat) : Nat :=
  v - (bits v hi lo) * 2 ^ lo + (x % 2 ^ (hi + 1 - lo)) * 2 ^ lo

/-- A Bool as a number, 0 or 1. -/
def b2n (b : Bool) : Nat := if b then 1 else 0

/-- Ceiling of a quotient of naturals; 0 for a zero divisor. -/
def cdiv (a b : Nat) : Nat := if b = 0 then 0 else (a + b - 1) / b

/-- The w-bit two's complement reading of a number. -/
def signed (w v : Nat) : Int :=
  let x := v % 2 ^ w
  if 2 * x < 2 ^ w then (x : Int) else (x : Int) - (2 ^ w : Nat)

/-- The w-bit two's complement code of an integer. -/
def unsigned (w : Nat) (x : Int) : Nat := (x % (2 ^ w : Nat)).toNat

end Sys2Proof
end

