-- ==== Sys2Proof/Syntax.lean ====
section
/-! DEFINITION. The commands of the block: one constructor per row of spec/opcode_table.json, with the
row's operands. A command is an event of the module or an access to it; its operands name the unit it
happens at, and carry what only the surroundings or the physical world can say (a pin level, a reading,
a symbol error that has struck a store, a flit's bytes). -/

namespace Sys2Proof

/-- A symbol error that has struck a stored 144/128 word since it was written (R316): the cell key of the
word's first byte divided by 16 (2^46 added for the copy of a memory word in a shared cache line), the symbol position 0 to
17, and the error value added to that symbol. -/
structure Upset where
  word : Nat
  sym  : Fin 18
  err  : Byte
deriving DecidableEq, Repr

/-- A disturbance of one accumulator of a dot-mode pass as it drains (R100): array 0 or 1, cell row and
column, and the accumulator word that is found there in place of the computed one. Row 32 is the checksum
row and column 32 the checksum column. -/
structure Disturb where
  array : Fin 2
  row   : Nat
  col   : Nat
  value : W32
deriving DecidableEq, Repr

/-- The stall causes, in the order of the table under R38. -/
inductive StallCause where
  | fault | refresh | debug | credit | arbiter | d2d | other
deriving DecidableEq, Repr

/-- What cuts a life-cycle transition short when only its first state word is burned (R640). -/
inductive BurnCut where
  | signal | management | power
deriving DecidableEq, Repr

/-- The requesters of a core store access (R47, R80). -/
inductive CsUser where
  | arrays | vector | sparse | slotFill | remote | fillCopy | debug
deriving DecidableEq, Repr

/-- One core store access (R140): a read or a masked write, by row or by column. Rows are row-relative to
the task's region when a task makes the access; `data` and `mask` list one 16-byte word after another. -/
structure CsAccess where
  user   : CsUser
  write  : Bool
  column : Bool
  row    : Nat
  word   : Nat
  count  : Nat
  data   : List (BitVec 128)
  mask   : List (BitVec 128)
deriving DecidableEq, Repr

/-- A flit as received (R465): the header fields and the 624 body bytes. -/
structure Flit where
  ftype  : Nat
  seq    : Nat
  ack    : Nat
  ackV   : Bool
  classA : Fin 4
  credA  : Nat
  classB : Fin 4
  credB  : Nat
  first  : Nat
  body   : List Byte
deriving DecidableEq, Repr

/-- What the receiver finds of a flit (R466): the codeword clean, corrected or uncorrectable, and whether
the crc is right. -/
structure FlitCheck where
  corrected     : Bool
  uncorrectable : Bool
  crcOk         : Bool
deriving DecidableEq, Repr

/-- A host Ethernet frame as received (R516 to R518). -/
structure HostFrame where
  dstMac    : BitVec 48
  srcMac    : BitVec 48
  ethertype : W16
  tagged    : Bool
  payload   : List Byte
deriving DecidableEq, Repr

/-- A temperature sensor (R612): its class code (R616) and its number within the class. -/
structure Sensor where
  cls : Fin 7
  idx : Nat
deriving DecidableEq, Repr

/-- Why a stack or Letrix die is declared lost (R582). -/
inductive LossCause where
  | portLock | training | sensor | words16
deriving DecidableEq, Repr

/-- The paths of R581: a Letrix die's port, or the die bridge. -/
inductive DiePath where
  | letrix (k : Fin 12)
  | bridge (far : Fin 2)
deriving DecidableEq, Repr

/-- The targets of the patrol scrubber (R587). -/
inductive ScrubTarget where
  | tier0 | tier1 | coreStores | sharedCache
deriving DecidableEq, Repr

/-- Whoever makes a register access (R550, R661, R663, R695). -/
inductive Seat where
  | active | standby | referee | management | debug
deriving DecidableEq, Repr

/-- An access of the debug port (R46): to the register fabric or to a core store port. -/
inductive DebugAccess where
  | regRead  (addr : Nat)
  | regWrite (addr : Nat) (value : W64)
  | store    (ch : Fin 4) (core : Fin 800) (acc : CsAccess)
deriving DecidableEq, Repr

/-- A training job as its plan states it (R446, R448, R458): the model, where the snapshot lies in tier 1, the rows
kept for the backward pass (1024 * channel + logical core, and rows), the trained tensors with their backward copies
(device address and bytes), and the number of its steps. -/
structure TrainJob where
  model     : Nat
  snapshot  : Nat
  kept      : List (Nat × Nat)
  tensors   : List (Nat × Nat)
  steps     : Nat
deriving DecidableEq, Repr

/-- The commands, in the order of the table. -/
inductive Instr where
  | powerOn
  | resetRelease (straps : Fin 8) (primaryStarts : Bool) (nonce : W64)
  | memoryTrainingDone (deadStacks : List (Fin 12)) (deadPackages : List (Fin 24)) (t0Dead t1Dead : Bool)
  | wipeComplete
  | bypassRound
  | bypassRoundClose
  | bypassRoundInsert
  | modelWeightDigest (model : Nat)
  | timingModeWrite (ch : Fin 4) (value : W64)
  | brownout
  | brownoutRestart
  | inputCurrentLimit
  | currentLimitRelease
  | railFault (page : Fin 17)
  | thermalSensorSample (readings : List (Sensor × Int))
  | thermalStepUpdate
  | powerCapUpdate (watts : Nat)
  | supplySag (ch : Fin 4) (level : Fin 3)
  | stretchRelease (ch : Fin 4)
  | resetSignal (high : Bool) (lowNs : Nat)
  | managementReset
  | tapLeaveTestLogicReset
  | tapReturnTestLogicReset
  | dormant
  | active
  | coreClockGate (ch : Fin 4) (core : Fin 800)
  | lcTransition (seed seedBack : List Byte) (nonce : W64) (cut : Option BurnCut := none)
  | debugToken (nonce : W64)
  | attestationRequest
  | product (ch : Fin 4)
  | prefillAttention (ch : Fin 4)
  | sparseBySparse (ch : Fin 4)
  | vectorOperation (ch : Fin 4)
  | fillAndCopy (ch : Fin 4)
  | matrixVector (ch : Fin 4)
  | decodeAttention (ch : Fin 4)
  | gather (ch : Fin 4)
  | scatter (ch : Fin 4)
  | scatterAdd (ch : Fin 4)
  | indexIntersection (ch : Fin 4)
  | encode (ch : Fin 4)
  | decode (ch : Fin 4)
  | operationHeldLoad (ch : Fin 4) (heldCycles : Nat)
  | workQueueTailWrite (ch : Fin 4) (value : W64)
  | operationStart (ch : Fin 4) (core : Fin 768)
  | operationComplete (ch : Fin 4) (opId : W32)
  | operationDeadlineMiss (ch : Fin 4) (opId : W32)
  | tileRequest (ch : Fin 4) (core : Fin 768) (slot : Fin 8)
  | fetchIssue (ch : Fin 4)
  | fetchComplete (ch : Fin 4) (stream : Fin 4096) (tile late : Nat) (cause : StallCause) (upsets : List Upset)
  | dramWriteBack (word : Nat)
  | streamResume (ch : Fin 4) (value : W64)
  | streamCancel (ch : Fin 4) (value : W64)
  | cancelComplete (ch : Fin 4)
  | scale (ch : Fin 4) (core : Fin 768) (stream : Fin 4096) (tile : Nat) (half : Fin 8) (late : Nat := 0)
    (cause : StallCause := .other)
  | pageList (ch : Fin 4) (core : Option (Fin 768)) (pages : List W32)
  | counter (ch : Fin 4) (pairs : List (Nat × W32))
  | arrivalNotice (ch : Fin 4) (core : Fin 768) (window : Fin 8)
  | cancelNotice (ch : Fin 4) (core : Fin 768) (opId : W32)
  | rotationForward (ch : Fin 4) (core : Fin 768) (slot : Fin 8) (late : Nat) (cause : StallCause := .other)
  | checksumCompare (ch : Fin 4) (core : Fin 768) (disturb : List Disturb)
  | storePathWait (ch : Fin 4) (core : Fin 768) (cycles : Nat)
  | combine (ch : Fin 4) (core : Fin 768)
  | arrivalWaitResume (ch : Fin 4) (core : Fin 768)
  | coreStoreAccess (ch : Fin 4) (core : Fin 800) (acc : CsAccess) (waited : Nat) (upsets : List Upset) (late : Nat := 0)
    (cause : StallCause := .other)
  | coreStoreWriteBack (ch : Fin 4) (core : Fin 800)
  | fill (ch : Fin 4) (core : Fin 768)
  | copy (ch : Fin 4) (core : Fin 768)
  | coreCsPowerWrite (ch : Fin 4) (core : Fin 800) (value : W64)
  | rowMapWrite (ch : Fin 4) (core : Fin 800) (k : Fin 8) (value : W64)
  | recvWindowWrite (ch : Fin 4) (core : Fin 800) (k : Fin 8) (value : W64)
  | arrivalCounterWrite (ch : Fin 4) (core : Fin 800) (k : Fin 8) (value : W64) (arrivals : Nat)
  | coreMapWrite (ch : Fin 4) (c : Fin 768) (value : W64)
  | dramRefresh (ch : Fin 4) (tier1 : Bool) (device : Fin 6) (pc : Fin 32) (bank : Option (Fin 16))
  | hotChannelSample (ch : Fin 4) (occupancy : List Nat)
  | fetchFromTier1 (ch : Fin 4)
  | copyToTier1 (ch : Fin 4)
  | fetchFromHost (ch : Fin 4)
  | markAbsent (ch : Fin 4)
  | markPresent (ch : Fin 4)
  | evict (ch : Fin 4)
  | repairBlockFromMirror (ch : Fin 4)
  | migrationComplete (ch : Fin 4)
  | t0FenceWrite (ch : Fin 4) (value : W64)
  | stackLoss (ch : Fin 4) (unit : Fin 3) (die : Bool) (cause : LossCause)
  | dieTransferUncorrectable (path : DiePath)
  | ilLockWrite (value : W64)
  | combineChunk (ch : Fin 4) (opId : W32)
  | sumChunkSend (die : Fin 12) (opId : W32) (waited : Nat)
  | lengthTableEntry (ch : Fin 4) (opId : W32)
  | pageHeader (ch : Fin 4) (opId : W32) (late : List (Nat × StallCause) := [])
  | pageListEntry (ch : Fin 4) (opId : W32)
  | attentionStatesMerge (ch : Fin 4) (opId : W32)
  | exportMerge (ch : Fin 4) (opId : W32)
  | gatherIndex (die : Fin 12) (opId : W32)
  | pair (ch : Fin 4) (core : Fin 768) (record : W64)
  | block (ch : Fin 4) (core : Fin 768) (record : W64)
  | end_ (ch : Fin 4) (core : Fin 768) (record : W64)
  | shadowBlockCopy (ch : Fin 4) (block : Nat)
  | shadowSyncRequest (ch : Fin 4) (value : W64)
  | shadowSyncComplete (ch : Fin 4)
  | sequenceRetire (seq : W16)
  | responseIssue (seq : W16) (token : W32)
  | deferredAdmit
  | dataFlit (port : Fin 8) (flit : Flit) (check : FlitCheck) (struck : List Nat := [])
  | idleFlit (port : Fin 8) (flit : Flit) (check : FlitCheck)
  | nakFlit (port : Fin 8) (flit : Flit) (check : FlitCheck)
  | replayTimeout (port : Fin 8)
  | nakResendTimeout (port : Fin 8)
  | messageForward (port : Fin 8) (cls : Fin 4)
  | messageAgeDrop (port : Fin 8) (cls : Fin 4)
  | windowWrite (port : Fin 8) (dataBad : Bool)
  | reject (port : Fin 8)
  | heartbeat (port : Fin 8)
  | heartbeatSend
  | neighbourHung (port : Fin 8)
  | membershipUpdate (port : Fin 8)
  | rejoinStart (port : Fin 8)
  | rejoinDone (port : Fin 8)
  | registerRead (port : Fin 8)
  | registerWrite (port : Fin 8)
  | reply (port : Fin 8)
  | transferData (port : Fin 8)
  | eventNotice (port : Fin 8)
  | request (port : Fin 8)
  | continueSequence (port : Fin 8)
  | cancel (port : Fin 8)
  | replay (port : Fin 8)
  | response (port : Fin 8)
  | status (port : Fin 8)
  | requestIncompleteTimeout (htag : W32)
  | hostFrame (port : Fin 8) (frame : HostFrame)
  | hostResendTimeout (port : Fin 8)
  | laneLoss (port : Fin 8) (lane partnerLane : Fin 4)
  | lossOfSignal (port : Fin 8)
  | relockComplete (port : Fin 8) (lanes : BitVec 4) (partner : Fin 8) (partnerPort : Fin 8)
  | relockTimeout (port : Fin 8)
  | trainingComplete (port : Fin 8) (lanes : BitVec 4) (partner : Fin 8) (partnerPort : Fin 8)
  | trainingTimeout (port : Fin 8) (signalSeen : Bool)
  | linkEnable (port : Fin 8) (value : W64)
  | retrain (port : Fin 8)
  | relockDirect (port : Fin 8)
  | byeInsertWrite (value : W64)
  | byeFault (relay : Fin 8) (sensedClosed : Bool)
  | sendCommand (ch : Fin 4) (value : W64)
  | sendStart (ch : Fin 4)
  | sendComplete (ch : Fin 4)
  | ready (tag : Fin 4096)
  | return_ (tag : Fin 4096)
  | redReset (tag : Fin 4096)
  | reduceSegment (port : Fin 8)
  | adderSegment (tag : Fin 4096)
  | returnParameters (port : Fin 8)
  | returnScales (port : Fin 8)
  | watchdogInterval (pair : Fin 5)
  | machineCheck (pair : Fin 5)
  | heartbeatWrite (pair : Fin 5) (seat : Seat) (value : W64)
  | eventQueueHeadWrite (queue : Fin 5) (value : W64)
  | eventQueueBaseWrite (queue : Fin 5) (value : W64)
  | eventForward
  | eventAcknowledge
  | coreUnresponsive (ch : Fin 4) (core : Fin 768) (spare : Fin 800)
  | coreRetire (ch : Fin 4) (value : W64)
  | thaderLoss
  | thader0Loss
  | scrubPass (ch : Fin 4) (target : ScrubTarget) (upsets : List Upset)
  | page (write : Option Byte) (pecOk : Bool)
  | clearFaults (pecOk : Bool)
  | voutMode
  | statusWord
  | statusVout
  | statusIout
  | statusInput
  | statusTemperature
  | readVin (milli : Nat)
  | readIin (milli : Nat)
  | readVout (milli : Nat)
  | readIout (milli : Nat)
  | readTemperature1
  | readPout (milli : Nat)
  | readPin (milli : Nat)
  | pmbusRevision
  | mfrId
  | mfrModel
  | mfrPwrStatusLo (write : Option W16) (pecOk : Bool)
  | mfrPwrStatusHi (write : Option W16) (pecOk : Bool)
  | mfrThermStatusLo (write : Option W16) (pecOk : Bool)
  | mfrThermStatusHi (write : Option W16) (pecOk : Bool)
  | mfrByeCtrl (write : Option W16) (pecOk : Bool)
  | mfrByeStatus (write : Option W16) (pecOk : Bool)
  | mfrStartCtrl (write : Option W16) (pecOk : Bool)
  | mfrResetCause
  | mfrDieStatus
  | mfrModuleReset (pecOk : Bool)
  | pmbusUnsupported (code : Byte)
  | plainRegisterWrite (seat : Seat) (addr : Nat) (value : W64)
  | ld (ch : Fin 4) (core : Fin 768)
  | st (ch : Fin 4) (core : Fin 768)
  | bcast (ch : Fin 4) (core : Fin 768)
  | add (ch : Fin 4) (core : Fin 768)
  | sub (ch : Fin 4) (core : Fin 768)
  | mul (ch : Fin 4) (core : Fin 768)
  | fma (ch : Fin 4) (core : Fin 768)
  | min (ch : Fin 4) (core : Fin 768)
  | max (ch : Fin 4) (core : Fin 768)
  | abs (ch : Fin 4) (core : Fin 768)
  | neg (ch : Fin 4) (core : Fin 768)
  | copysign (ch : Fin 4) (core : Fin 768)
  | cmp (ch : Fin 4) (core : Fin 768)
  | sel (ch : Fin 4) (core : Fin 768)
  | div (ch : Fin 4) (core : Fin 768)
  | sqrt (ch : Fin 4) (core : Fin 768)
  | recip (ch : Fin 4) (core : Fin 768)
  | rsqrt (ch : Fin 4) (core : Fin 768)
  | exp2 (ch : Fin 4) (core : Fin 768)
  | log2 (ch : Fin 4) (core : Fin 768)
  | exp (ch : Fin 4) (core : Fin 768)
  | ln (ch : Fin 4) (core : Fin 768)
  | tanh (ch : Fin 4) (core : Fin 768)
  | sigmoid (ch : Fin 4) (core : Fin 768)
  | erf (ch : Fin 4) (core : Fin 768)
  | gelu (ch : Fin 4) (core : Fin 768)
  | silu (ch : Fin 4) (core : Fin 768)
  | lsum (ch : Fin 4) (core : Fin 768)
  | lmax (ch : Fin 4) (core : Fin 768)
  | lmin (ch : Fin 4) (core : Fin 768)
  | iadd (ch : Fin 4) (core : Fin 768)
  | isub (ch : Fin 4) (core : Fin 768)
  | imul (ch : Fin 4) (core : Fin 768)
  | shl (ch : Fin 4) (core : Fin 768)
  | shr (ch : Fin 4) (core : Fin 768)
  | and (ch : Fin 4) (core : Fin 768)
  | or (ch : Fin 4) (core : Fin 768)
  | xor (ch : Fin 4) (core : Fin 768)
  | icmp (ch : Fin 4) (core : Fin 768)
  | popcnt (ch : Fin 4) (core : Fin 768)
  | clz (ch : Fin 4) (core : Fin 768)
  | cvt (ch : Fin 4) (core : Fin 768)
  | rand (ch : Fin 4) (core : Fin 768)
  | sort (ch : Fin 4) (core : Fin 768)
  | vecEnd (ch : Fin 4) (core : Fin 768)
  | auxInputLoss
  | vinLow (low : Bool)
  | hostLinkUp (port : Fin 8)
  | wakeComplete
  | debugPortAccess (acc : DebugAccess) (cycles : Nat)
  | rcCounterRead (addr : Nat) (increment : Bool)
  | trainingJobStart (job : TrainJob)
deriving DecidableEq, Repr

end Sys2Proof
end

