-- ==== Sys2Proof/Machine/Num.lean ====
section
/-! DEFINITION. Exact numbers, the one rounding of a floating format, and the FP32 and INT32 arithmetic of the
accumulators and the vector unit (R55, R56, R60, R109, R112, R114). A number is kept exactly until it is
rounded, so every rounding is visible. -/

namespace Sys2Proof.Machine

/-- A value of any format, exactly: a NaN, an infinity, or (-1)^neg * m * 2^e. -/
inductive Num where
  | nan
  | inf (neg : Bool)
  | fin (neg : Bool) (m : Nat) (e : Int)
deriving DecidableEq, Repr

/-- The rounding modes of a format word (R57); the stochastic one carries its 16 random bits (R73). -/
inductive Rnd where
  | nearest
  | zero
  | stoch (r : Nat)
deriving DecidableEq, Repr

/-- A floating format: exponent bits, mantissa bits, bias, the largest finite code, and whether the format
has infinities (R51). -/
structure FloatFmt where
  ebits : Nat
  man   : Nat
  bias  : Nat
  top   : Nat
  hasInf : Bool
  nanCode : Option Nat
deriving DecidableEq, Repr

def fmtE2M1 : FloatFmt := ⟨2, 1, 1, 0x7, false, none⟩
def fmtE4M3 : FloatFmt := ⟨4, 3, 7, 0x7E, false, some 0x7F⟩
def fmtE5M2 : FloatFmt := ⟨5, 2, 15, 0x7B, true, some 0x7E⟩
def fmtBF16 : FloatFmt := ⟨8, 7, 127, 0x7F7F, true, some 0x7FC0⟩
def fmtFP16 : FloatFmt := ⟨5, 10, 15, 0x7BFF, true, some 0x7E00⟩
def fmtFP32 : FloatFmt := ⟨8, 23, 127, 0x7F7FFFFF, true, some 0x7FC00000⟩

/-- Width in bits of a floating format. -/
def FloatFmt.width (f : FloatFmt) : Nat := 1 + f.ebits + f.man
/-- The exponent of the format's least positive value. -/
def FloatFmt.emin (f : FloatFmt) : Int := 1 - (f.bias : Int) - (f.man : Int)

/-- 2^e times a numerator, as a fraction of naturals. -/
def frac (m : Nat) (e : Int) : Nat × Nat :=
  if e < 0 then (m, 2 ^ (-e).toNat) else (m * 2 ^ e.toNat, 1)

/-- floor(log2 (a / b)) for positive a and b. -/
def ilog (a b : Nat) : Int :=
  let k : Int := (Nat.log2 a : Int) - (Nat.log2 b : Int)
  if k < 0 then (if a * 2 ^ (-k).toNat < b then k - 1 else k)
  else (if a < b * 2 ^ k.toNat then k - 1 else k)

/-- A non-negative fraction a / b rounded to an integer (R57, R73). -/
def roundMag (r : Rnd) (a b : Nat) : Nat :=
  let q := a / b
  let m := a % b
  match r with
  | .nearest => if 2 * m < b then q else if 2 * m = b then q + q % 2 else q + 1
  | .zero => q
  | .stoch x => (a * 2 ^ 16 + x * b) / (b * 2 ^ 16)

/-- Rounding of a positive fraction to the precision and least exponent of a format, with its exponent range
unbounded above (R69): an integer and its exponent. -/
def roundFloat (f : FloatFmt) (r : Rnd) (a b : Nat) : Nat × Int :=
  let q := max (ilog a b - (f.man : Int)) f.emin
  let n := if q < 0 then roundMag r (a * 2 ^ (-q).toNat) b else roundMag r a (b * 2 ^ q.toNat)
  (n, q)

/-- The code without its sign of a rounded magnitude, subnormals included; it exceeds `top` on overflow. -/
def magCode (f : FloatFmt) (n : Nat) (q : Int) : Nat :=
  if n < 2 ^ f.man then n else (q - f.emin + 1).toNat * 2 ^ f.man + (n - 2 ^ f.man)

/-- The sign bit of a format. -/
def signBit (f : FloatFmt) (neg : Bool) : Nat := if neg then 2 ^ (f.width - 1) else 0

/-- A code of a floating format as a number (R51, R55, R56). -/
def decodeFloat (f : FloatFmt) (c : Nat) : Num :=
  let neg := bit c (f.width - 1)
  let mag := c % 2 ^ (f.width - 1)
  let e := mag / 2 ^ f.man
  let m := mag % 2 ^ f.man
  if mag > f.top then
    (if f.hasInf && m = 0 then .inf neg else .nan)
  else if e = 0 then .fin neg m f.emin
  else .fin neg (2 ^ f.man + m) (f.emin + (e : Int) - 1)

/-- Whether rounding under r takes a finite value above the format's largest finite value (R69). -/
def overflows (f : FloatFmt) (r : Rnd) (m : Nat) (e : Int) : Bool :=
  if m = 0 then false
  else
    let ab := frac m e
    let nq := roundFloat f r ab.1 ab.2
    decide (magCode f nq.1 nq.2 > f.top)

/-- A finite fraction encoded; on overflow the infinity of the format, or its largest finite value where it
has none or `sat` is set. -/
def encodeFrac (f : FloatFmt) (r : Rnd) (sat : Bool) (neg : Bool) (a b : Nat) : Nat :=
  if a = 0 then signBit f neg
  else
    let nq := roundFloat f r a b
    let c := magCode f nq.1 nq.2
    if c > f.top then signBit f neg + (if f.hasInf && !sat then f.top + 1 else f.top)
    else signBit f neg + c

/-- A number encoded in a format. -/
def encodeNum (f : FloatFmt) (r : Rnd) (sat : Bool) : Num → Nat
  | .nan => f.nanCode.getD 0
  | .inf neg => signBit f neg + (if f.hasInf then f.top + 1 else f.top)
  | .fin neg m e => let ab := frac m e; encodeFrac f r sat neg ab.1 ab.2

namespace Num

/-- Zero, of either sign. -/
def isZero : Num → Bool
  | .fin _ m _ => m = 0
  | _ => false
/-- NaN. -/
def isNaN : Num → Bool
  | .nan => true
  | _ => false
/-- An infinity. -/
def isInf : Num → Bool
  | .inf _ => true
  | _ => false
/-- Finite. -/
def isFin : Num → Bool
  | .fin _ _ _ => true
  | _ => false
/-- Sign; a NaN counts as positive (R56). -/
def neg? : Num → Bool
  | .nan => false
  | .inf n => n
  | .fin n _ _ => n

/-- Zero with a sign. -/
def zero (neg : Bool) : Num := .fin neg 0 0
/-- An integer. -/
def ofInt (x : Int) : Num := .fin (decide (x < 0)) x.natAbs 0

/-- The mantissas of two finite numbers brought to one exponent, signed. -/
def align (a : Bool × Nat × Int) (b : Bool × Nat × Int) : Int × Int × Int :=
  let e := if a.2.2 ≤ b.2.2 then a.2.2 else b.2.2
  let x : Int := (a.2.1 * 2 ^ (a.2.2 - e).toNat : Nat)
  let y : Int := (b.2.1 * 2 ^ (b.2.2 - e).toNat : Nat)
  ((if a.1 then -x else x), (if b.1 then -y else y), e)

/-- The exact sum; a zero sum has the sign that rounding to nearest gives it (IEEE 754-2019). -/
def add : Num → Num → Num
  | .nan, _ => .nan
  | _, .nan => .nan
  | .inf a, .inf b => if a = b then .inf a else .nan
  | .inf a, .fin _ _ _ => .inf a
  | .fin _ _ _, .inf b => .inf b
  | .fin n m e, .fin n' m' e' =>
    let (x, y, q) := align (n, m, e) (n', m', e')
    let s := x + y
    if s = 0 then .fin (if m = 0 && m' = 0 then n && n' else false) 0 0
    else .fin (decide (s < 0)) s.natAbs q

/-- The sign changed; a NaN stays a NaN. -/
def neg : Num → Num
  | .nan => .nan
  | .inf a => .inf (!a)
  | .fin n m e => .fin (!n) m e

/-- The magnitude. -/
def abs : Num → Num
  | .nan => .nan
  | .inf _ => .inf false
  | .fin _ m e => .fin false m e

/-- The exact product (R60); infinity times zero is NaN. -/
def mul : Num → Num → Num
  | .nan, _ => .nan
  | _, .nan => .nan
  | .inf a, .inf b => .inf (a != b)
  | .inf a, .fin n m _ => if m = 0 then .nan else .inf (a != n)
  | .fin n m _, .inf b => if m = 0 then .nan else .inf (n != b)
  | .fin n m e, .fin n' m' e' => .fin (n != n') (m * m') (e + e')

/-- Scaled by 2^k. -/
def scale2 (k : Int) : Num → Num
  | .fin n m e => .fin n m (e + k)
  | x => x

/-- The order of two numbers; none when either is a NaN. -/
def cmp : Num → Num → Option Ordering
  | .nan, _ => none
  | _, .nan => none
  | .inf a, .inf b => some (if a = b then .eq else if a then .lt else .gt)
  | .inf a, .fin _ _ _ => some (if a then .lt else .gt)
  | .fin _ _ _, .inf b => some (if b then .gt else .lt)
  | .fin n m e, .fin n' m' e' =>
    let (x, y, _) := align (n, m, e) (n', m', e')
    some (if x < y then .lt else if x = y then .eq else .gt)

/-- Less than, false for a NaN. -/
def lt (a b : Num) : Bool := cmp a b = some .lt
/-- Equal in value, false for a NaN. -/
def eqv (a b : Num) : Bool := cmp a b = some .eq

/-- e(x) = floor(log2 |x|) of a finite non-zero number (the cancellation monitor's exponent). -/
def expo : Num → Option Int
  | .fin _ m e => if m = 0 then none else some ((Nat.log2 m : Int) + e)
  | _ => none

/-- The integer nearest toward minus infinity of a finite number. -/
def floorInt : Num → Int
  | .fin n m e =>
    let ab := frac m e
    if n then -(cdiv ab.1 ab.2 : Nat) else ((ab.1 / ab.2 : Nat) : Int)
  | _ => 0

end Num

/-- An FP32 code as a number. -/
def f32 (x : W32) : Num := decodeFloat fmtFP32 x.toNat
/-- A number rounded once to FP32, to nearest with ties to even (R112). -/
def toF32 (x : Num) : W32 := BitVec.ofNat 32 (encodeNum fmtFP32 .nearest false x)
/-- A fraction rounded once to FP32. -/
def fracF32 (neg : Bool) (a b : Nat) : W32 := BitVec.ofNat 32 (encodeFrac fmtFP32 .nearest false neg a b)
/-- An INT32 accumulator word as a number. -/
def i32 (x : W32) : Num := Num.ofInt x.toInt
/-- The canonical FP32 NaN (R56). -/
def nan32 : W32 := 0x7FC00000
/-- Plus and minus infinity in FP32. -/
def posInf32 : W32 := 0x7F800000
def negInf32 : W32 := 0xFF800000

/-- One rounded FP32 addition (R112). -/
def fadd (a b : W32) : W32 := toF32 (Num.add (f32 a) (f32 b))
/-- One rounded FP32 subtraction. -/
def fsub (a b : W32) : W32 := toF32 (Num.add (f32 a) (Num.neg (f32 b)))
/-- One rounded FP32 product. -/
def fmul (a b : W32) : W32 := toF32 (Num.mul (f32 a) (f32 b))
/-- A product and a sum rounded once (R109). -/
def ffma (a b c : W32) : W32 := toF32 (Num.add (Num.mul (f32 a) (f32 b)) (f32 c))

/-- FP32 division, correctly rounded (R109), infinities and zeros as IEEE 754-2019 gives them. -/
def fdiv (a b : W32) : W32 :=
  match f32 a, f32 b with
  | .nan, _ => nan32
  | _, .nan => nan32
  | .inf _, .inf _ => nan32
  | .inf n, .fin n' _ _ => toF32 (.inf (n != n'))
  | .fin n _ _, .inf n' => toF32 (Num.zero (n != n'))
  | .fin n m e, .fin n' m' e' =>
    if m' = 0 then (if m = 0 then nan32 else toF32 (.inf (n != n')))
    else
      let ab := frac m (e - e')
      fracF32 (n != n') ab.1 (ab.2 * m')

/-- The integer square root, by Newton steps on a fuel that covers every width used here. -/
def isqrtLoop : Nat → Nat → Nat → Nat
  | 0, _, x => x
  | k + 1, n, x =>
    let y := (x + n / x) / 2
    if y < x then isqrtLoop k n y else x
/-- floor(sqrt n). -/
def isqrt (n : Nat) : Nat := if n = 0 then 0 else isqrtLoop 1024 n (2 ^ (Nat.log2 n / 2 + 1))

/-- FP32 square root, correctly rounded (R109): the root is taken to 64 extra bits, the last of them sticky. -/
def fsqrt (a : W32) : W32 :=
  match f32 a with
  | .nan => nan32
  | .inf false => posInf32
  | .inf true => nan32
  | .fin n m e =>
    if m = 0 then a
    else if n then nan32
    else
      let sh : Nat := if e % 2 = 0 then 0 else 1
      let x := m * 2 ^ sh * 2 ^ 128
      let r := isqrt x
      let r2 := 2 * r + (if r * r = x then 0 else 1)
      let ab := frac r2 ((e - (sh : Int)) / 2 - 65)
      fracF32 false ab.1 ab.2

/-- min of the vector unit: the number where one operand is a NaN (R109). -/
def fmin (a b : W32) : W32 :=
  match f32 a, f32 b with
  | .nan, .nan => nan32
  | .nan, _ => b
  | _, .nan => a
  | x, y => if Num.lt y x then b else if Num.lt x y then a else if x.neg? then a else b
/-- max of the vector unit. -/
def fmax (a b : W32) : W32 :=
  match f32 a, f32 b with
  | .nan, .nan => nan32
  | .nan, _ => b
  | _, .nan => a
  | x, y => if Num.lt x y then b else if Num.lt y x then a else if x.neg? then b else a

/-- abs, neg and copysign act on the sign bit; a NaN is written as the canonical NaN (R56). -/
def fabs (a : W32) : W32 := toF32 (Num.abs (f32 a))
def fneg (a : W32) : W32 := toF32 (Num.neg (f32 a))
def fcopysign (a b : W32) : W32 :=
  if (f32 a).isNaN then nan32
  else BitVec.ofNat 32 (a.toNat % 2 ^ 31 + (if b.msb then 2 ^ 31 else 0))

/-- Addition in the accumulator: FP32 rounded once, or INT32 exact modulo 2^32 (R112, R114). -/
def accAdd (isInt : Bool) (acc : W32) (term : Num) : W32 :=
  if isInt then
    match term with
    | .fin n m e =>
      let v : Nat := m * 2 ^ e.toNat / 2 ^ (-e).toNat
      if n then acc - BitVec.ofNat 32 v else acc + BitVec.ofNat 32 v
    | _ => acc
  else toF32 (Num.add (f32 acc) term)

/-- An accumulator word as a number. -/
def accNum (isInt : Bool) (acc : W32) : Num := if isInt then i32 acc else f32 acc

end Sys2Proof.Machine
end

