-- ==== Sys2Proof/Machine/Operands.lean ====
section
/-! DEFINITION. Format words and load conversion: how the bits of an element become a number, for every FMT
code, with all planes or fewer, with a block scale or without (R51 to R67). -/

namespace Sys2Proof.Machine

/-- A format word (R57). -/
structure Fmt where
  rnd    : Nat
  sat    : Bool
  mid    : Bool
  planes : Nat
  planar : Bool
  owid   : Nat
  fmt    : Nat
deriving DecidableEq, Repr

/-- The fields of a format word. -/
def Fmt.ofWord (w : Nat) : Fmt :=
  ⟨bits w 15 14, bit w 13, bit w 12, bits w 11 8, bit w 7, bits w 6 4, bits w 3 0⟩

/-- Element width in bits (R51). -/
def Fmt.width (f : Fmt) : Nat :=
  match f.fmt with
  | 0x0 => 4 | 0x1 => 4 | 0x2 => 4 | 0x3 => 8 | 0x4 => 8 | 0x5 => 8 | 0x6 => 8
  | 0x7 => 16 | 0x8 => 16 | 0x9 => 32 | 0xA => 8 | 0xB => 1 | 0xC => f.owid | _ => 8

/-- Plain two's complement formats (INT4, INT8, odd width). -/
def Fmt.isInt (f : Fmt) : Bool := f.fmt == 0x0 || f.fmt == 0x3 || f.fmt == 0xC
/-- Block-scaled formats. -/
def Fmt.isMX (f : Fmt) : Bool := f.fmt == 0x2 || f.fmt == 0x6 || f.fmt == 0xA
/-- UINT1. -/
def Fmt.isBit (f : Fmt) : Bool := f.fmt == 0xB
/-- Element codes that are two's complement: the integers and MXINT8. -/
def Fmt.intCode (f : Fmt) : Bool := f.isInt || f.fmt == 0xA

/-- The floating format of an element code, where it is one. -/
def Fmt.float? (f : Fmt) : Option FloatFmt :=
  match f.fmt with
  | 0x1 => some fmtE2M1 | 0x2 => some fmtE2M1
  | 0x4 => some fmtE4M3 | 0x6 => some fmtE4M3
  | 0x5 => some fmtE5M2 | 0x7 => some fmtBF16 | 0x8 => some fmtFP16 | 0x9 => some fmtFP32
  | _ => none

/-- Planes a read takes: `planes`, or all (R57). -/
def Fmt.read (f : Fmt) : Nat := if f.planes = 0 then f.width else f.planes

/-- The least planes value of a format (R65). -/
def Fmt.minPlanes (f : Fmt) : Nat :=
  match f.fmt with
  | 0x3 => 1 | 0xA => 1
  | 0xC => if f.owid = 3 then 3 else 1
  | 0x4 => 5 | 0x6 => 5 | 0x5 => 6 | 0x8 => 6 | 0x7 => 9
  | _ => f.width

/-- Cycles per product (R64). -/
def Fmt.cycles (f : Fmt) : Nat := if f.read ≤ 4 then 1 else if f.read ≤ 8 then 2 else 4

/-- The owid the fmt asks for (R57). -/
def Fmt.owidOk (f : Fmt) : Bool :=
  if f.fmt == 0xC then f.owid == 3 || f.owid == 5 || f.owid == 6 else f.owid == 0

/-- The dropped planes of an element filled in: zeros, or a one in the highest of them (R66). -/
def fillDropped (w p : Nat) (mid : Bool) (code : Nat) : Nat :=
  let d := w - p
  code / 2 ^ d * 2 ^ d + (if mid && d > 0 then 2 ^ (d - 1) else 0)

/-- An element as its format and the planes read decode it, block scale apart (R54, R66). -/
def decodeElem (f : Fmt) (code : Nat) : Num :=
  let w := f.width
  let p := f.read
  let c := code % 2 ^ w
  match f.float? with
  | none =>
    if f.isBit then Num.ofInt c
    else
      let v := Num.ofInt (signed w (fillDropped w p f.mid c))
      if f.fmt == 0xA then v.scale2 (-6) else v
  | some g =>
    if p ≥ w then decodeFloat g c
    else
      let top := c / 2 ^ (w - p) * 2 ^ (w - p)
      let ex := bits c (w - 2) g.man
      let kept := p - 1 - g.ebits
      let mread := bits c (g.man - 1) 0 / 2 ^ (w - p)
      if ex + 1 = 2 ^ g.ebits then
        if g.hasInf then
          if mread = 0 then .inf (bit c (w - 1)) else .nan
        else if mread + 1 = 2 ^ kept then
          .fin (bit c (w - 1)) (2 ^ g.man + bits top (g.man - 1) 0) (g.emin + (ex : Int) - 1)
        else decodeFloat g (fillDropped w p f.mid c)
      else decodeFloat g (fillDropped w p f.mid c)

/-- An E8M0 scale byte applied (R52). -/
def applyScale (scale : Byte) (x : Num) : Num :=
  if scale = 0xFF then .nan else x.scale2 ((scale.toNat : Int) - 127)

/-- An element with its block scale where the format has one. -/
def decodeScaled (f : Fmt) (scale : Byte) (code : Nat) : Num :=
  if f.isMX then applyScale scale (decodeElem f code) else decodeElem f code

/-- Whether a scaled element exceeds the FP32 range on load (R67). -/
def loadOverflows (x : Num) : Bool :=
  match x with
  | .fin _ m e => overflows fmtFP32 .nearest m e
  | _ => false

/-- Load conversion to FP32 (R67). -/
def loadF32 (x : Num) : W32 := toF32 x

/-- A run of bits of a byte string, bit 0 of byte 0 first (R63). -/
def takeBits (bs : List Byte) (start n : Nat) : Nat :=
  let lo := start / 8
  let hi := (start + n + 7) / 8
  let v := ((bs.drop lo).take (hi - lo)).foldr (fun (b : Byte) (acc : Nat) => acc * 256 + b.toNat) 0
  bits v (start % 8 + n - 1) (start % 8)

/-- The code of element e of a planar group of width w whose plane rows stand in bs, the top plane first (R61);
planes beyond those fetched read as zero. -/
def planarCode (w : Nat) (bs : List Byte) (e : Nat) : Nat :=
  (List.range w).foldl (fun acc j => acc * 2 + b2n (bit ((bs.getD (j * 64 + e / 8) 0).toNat) (e % 8))) 0

/-- Bytes as a little-endian number (R563). -/
def leNat (bs : List Byte) : Nat := bs.foldr (fun (b : Byte) (acc : Nat) => acc * 256 + b.toNat) 0

/-- A number as n little-endian bytes. -/
def leBytes : Nat → Nat → List Byte
  | 0, _ => []
  | n + 1, v => BitVec.ofNat 8 v :: leBytes n (v / 256)

end Sys2Proof.Machine
end

