-- ==== Sys2Proof/Machine/Flags.lean ====
section
/-! DEFINITION. Store conversion and the flags it raises (R68 to R73): rounding once, the zero point, the
clamp, saturation, lost NaNs, and the block scale. -/

namespace Sys2Proof.Machine

/-- What a conversion raises (R74, R75): saturations on store, and the sticky flags. -/
structure Raised where
  sat      : Nat  := 0
  nanLost  : Bool := false
  overflow : Bool := false
  scaleNan : Bool := false
  fault    : Bool := false
deriving DecidableEq, Repr

/-- Two sets of flags together; saturations add up (R76). -/
def Raised.join (a b : Raised) : Raised :=
  ⟨a.sat + b.sat, a.nanLost || b.nanLost, a.overflow || b.overflow, a.scaleNan || b.scaleNan,
    a.fault || b.fault⟩

/-- Rounding of a signed number to an integer (R68 step 2). -/
def roundInt (r : Rnd) (neg : Bool) (m : Nat) (e : Int) : Int :=
  let ab := frac m e
  let q := roundMag r ab.1 ab.2
  if neg then -(q : Int) else q

/-- A number stored in a two's complement format of w bits with least value lo, zero point z (R68 to R70). -/
def storeInt (w : Nat) (lo : Int) (r : Rnd) (z : Int) (x : Num) : Nat × Raised :=
  let hi : Int := (2 ^ (w - 1) : Nat) - 1
  match x with
  | .nan => (0, { nanLost := true })
  | .inf n => (unsigned w (if n then lo else hi), { nanLost := true })
  | .fin n m e =>
    let v := roundInt r n m e + z
    if v > hi then (unsigned w hi, { sat := 1 })
    else if v < lo then (unsigned w lo, { sat := 1 })
    else (unsigned w v, {})

/-- A number stored in a floating format (R69, R70). -/
def storeFloat (g : FloatFmt) (r : Rnd) (sat : Bool) (x : Num) : Nat × Raised :=
  match x with
  | .nan => match g.nanCode with
    | some c => (c, {})
    | none => (0, { nanLost := true })
  | .inf n => (encodeNum g r sat (.inf n), { nanLost := !g.hasInf })
  | .fin n m e => (encodeNum g r sat (.fin n m e), { sat := b2n (overflows g r m e) })

/-- One element of a format that is not block-scaled (R68 to R72), x after the store scale. -/
def storeElem (f : Fmt) (r : Rnd) (z : Int) (x : Num) : Nat × Raised :=
  match f.float? with
  | some g => storeFloat g r f.sat x
  | none =>
    if f.isBit then (b2n (Num.lt (Num.zero false) x), {})
    else storeInt f.width (-(2 ^ (f.width - 1) : Nat)) r z x

/-- The shared exponent's offset m of R71. -/
def mxOffset (f : Fmt) : Int := if f.fmt == 0x2 then 2 else if f.fmt == 0x6 then 8 else 0

/-- The greatest exponent of the non-zero elements of a block. -/
def blockExpo (xs : List Num) : Option Int :=
  xs.foldl (fun acc x => match acc, Num.expo x with
    | none, e => e
    | some a, none => some a
    | some a, some e => some (max a e)) none

/-- One element of a block-scaled format, already divided by the shared scale. -/
def storeMxElem (f : Fmt) (r : Rnd) (x : Num) : Nat × Raised :=
  if f.fmt == 0xA then storeInt 8 (-127) r 0 (x.scale2 6)
  else match f.float? with
    | some g => storeFloat g r true x
    | none => (0, {})

/-- A block of a block-scaled format (R71): its scale byte, its element codes, its flags. -/
def storeBlock (f : Fmt) (xs : List (Num × Rnd)) : Byte × List Nat × Raised :=
  if xs.any (fun p => p.1.isNaN || p.1.isInf) then
    (0xFF, xs.map (fun _ => 0), { nanLost := true })
  else match blockExpo (xs.map (·.1)) with
    | none => (0, xs.map (fun _ => 0), {})
    | some a =>
      let x := max (-127) (min 127 (a - mxOffset f))
      let ys := xs.map fun p => storeMxElem f p.2 (p.1.scale2 (-x))
      (BitVec.ofNat 8 (x + 127).toNat, ys.map (·.1), ys.foldl (fun acc y => acc.join y.2) {})

/-- The rounding a format word names, with a draw where it is stochastic (R57, R73). -/
def Fmt.rounding (f : Fmt) (draw : Nat) : Rnd :=
  match f.rnd with
  | 1 => .zero
  | 2 => .stoch (draw % 2 ^ 16)
  | _ => .nearest

end Sys2Proof.Machine
end

