-- ==== Sys2Proof/Machine/Types.lean ====
section
/-! DEFINITION. The records of the data path that the state holds: operation descriptors as the loader has read
them, streams, core tasks, and what the Letrix dies and the engines keep between commands. Plain data. -/

namespace Sys2Proof.Machine

/-- One loop level (R209). -/
structure Level where
  bound : Nat
  axis  : Nat
  tag   : Nat
  visit : Nat
  dims  : List Nat
  steps : List Int
deriving DecidableEq, Repr

/-- One operand table entry (R207). -/
structure OpSlot where
  en    : Bool
  throw : Nat
  lead  : Nat
  desc  : Nat
  xform : Nat
deriving DecidableEq, Repr

/-- A layout descriptor (R183); strides are in units of 64 bytes, and stride 0 is unused. -/
structure Layout where
  rank      : Nat
  bcast     : Bool
  space     : Bool
  base      : Nat
  padKind   : Nat
  fmt       : Nat
  padValue  : Nat
  extents   : List Nat
  strides   : List Int
  scaleLink : Int
deriving DecidableEq, Repr

/-- A sparse map header with its block ranges (R286, R289). -/
structure SparseMap where
  base     : Nat
  groups   : Nat
  ksteps   : Nat
  dirOff   : Nat
  permOff  : Nat
  rangeOff : Nat
  total    : Nat
  ranges   : List Int
deriving DecidableEq, Repr

/-- A rotation table entry matched to an operand (R263). -/
structure RotEntry where
  slot    : Nat
  members : Nat
  shard   : Nat
  home    : Nat
  recv    : Nat
deriving DecidableEq, Repr

/-- An operation descriptor (R204 to R209) with the layout descriptors its operands name. -/
structure Op where
  opId      : W32
  kind      : Nat
  mode      : Nat
  shape     : Nat
  w24       : Bool
  preEn     : Bool
  idxEn     : Bool
  arrive    : Bool
  haltIdx   : Bool
  parts     : Nat
  nlevels   : Nat
  first     : Nat
  gridM     : Nat
  gridN     : Nat
  deadline  : Nat
  density   : Nat
  share     : Nat
  seed      : W32
  indexBase : Int
  zeroPoint : Int
  kspec     : List W64
  slots     : List OpSlot
  levels    : List Level
  layouts   : List (Option Layout)
  scales    : List (Option Layout)
  map       : Option SparseMap
  map2      : Option SparseMap
  rot       : List RotEntry        -- the rotation entries matched at load
  entry     : Nat                  -- the work queue entry that named it
deriving DecidableEq, Repr

/-- A fill or copy command of kind 0x4 (R697). -/
structure FillCmd where
  copy    : Bool
  dst     : Nat
  len     : Nat
  src     : Nat
  pattern : BitVec 128
deriving DecidableEq, Repr

/-- What the loader finds in an entry of the work queue (R252, R558, R700). -/
inductive Entry where
  | bad (opId : W32)
  | op (wait : Bool) (bs : List Byte) (bad : List Nat) (op : Op)
deriving DecidableEq, Repr

/-- A core of an operation's grid: logical and physical number, grid row, grid column and part (R217), and the
region its task loaded with (R150). -/
structure GridCore where
  log  : Nat
  phys : Nat
  i    : Nat
  j    : Nat
  p    : Nat
  base : Nat
  len  : Nat
deriving DecidableEq, Repr

/-- The running state of one query row (R377). -/
structure RowState where
  m : W32
  l : W32
  o : List W32
deriving DecidableEq, Repr

/-- A length table entry (R388). -/
structure LenEntry where
  seq  : Nat
  list : Nat
  kv   : Nat
  q    : Nat
  row  : Nat
  qpos : Nat
  kpos : Nat
  kvh  : Nat
  gen  : Nat
  seg  : Nat
deriving DecidableEq, Repr

/-- Why a core task has halted at an access (R144, R148, R152, R162, R338); `merge` names the word that a partial write could
not be merged into (R319). -/
inductive TaskHalt where
  | data | bound | window | store | page (frame : Nat) | merge (a : Nat)
deriving DecidableEq, Repr

/-- One cell of an array (R84): accumulator, largest exponent of a partial sum, captured index. -/
structure Cell where
  acc : W32
  ex  : Option Int
  idx : W32
deriving DecidableEq, Repr

/-- What an operation of a Letrix kind, or of kind 0x1, holds between its commands: per die the next chunk or index
element it works on, the sums and states that have crossed the ports, what the combining core holds, and the length
table entries and pages met so far (R360, R363, R388, R405, R409, R413). -/
structure LxWork where
  next     : List Nat              -- per die: next chunk or index element
  sums     : List (Nat × List Cell) -- key 3 * chunk + die: the sums present at the combining core
  states   : List (Nat × List RowState) -- key 3 * entry + die: the states present there
  held     : List (Nat × List RowState) -- key entry: the channel's merged states, held for an export (R413)
  done     : Nat                   -- chunks or entries written
  arrived  : Nat                   -- length table entries that have arrived
  entries  : List (Nat × LenEntry) -- those that passed their checks, with their index in the table
  walking  : Nat                   -- which of them is being walked
  page     : Nat                   -- the next page whose header is checked, and the tokens of the pages before it
  tokens   : Nat
  pages    : List Nat              -- the frames its list has named so far
  rows     : List (List RowState)  -- per die: the states of the entry being walked
  exported : W32                   -- the export window's counter at load (R413)
  blocks   : List (Nat × Nat)      -- kind 0xB: the blocks and steps intersected so far
  window   : List (List (W32 × List (Nat × Nat))) -- kind 0xA: per die, the last 64 indices, latest first, each with its row (R307)
  groups   : List (List (W32 × List Nat)) -- scatters: per die, the elements that wait to be written or added (R308, R364)
  offset   : Nat                   -- encode: bytes of the destination written so far (R367)
  stopAt   : Option Nat            -- kind 0x9: since when the dies are stopped on full merge entries (R409)
  halted   : Option TaskHalt       -- why the combining core's store has halted it (R144, R162, R338)
  queries  : List (Nat × List Nat) -- kind 0x9: the query buffer: the codes of an entry's queries (R406)
  merged   : Nat                   -- kind 0x9: exported entries merged and written (R413)
  entry    : Nat                   -- bytes of each of the combining core's two entries (R360, R409)
deriving DecidableEq, Repr

/-- A loaded operation. -/
structure LoadedOp where
  op       : Op
  grid     : List GridCore
  deck     : List Nat              -- logical cores on which it waits on deck (R270)
  started  : List Nat              -- logical cores on which it has started
  finished : List Nat              -- logical cores whose work in it is written
  missed   : Bool                  -- its deadline miss has been reported (R220)
  counter7 : List (Nat × W32)      -- part-0 cores: arrival counter 7 at load (R698)
  cmds     : List FillCmd
  lx       : LxWork
  stopped  : Bool                  -- a cancel of it runs (R258)
  before   : List (Nat × List Byte) -- words of a written tensor that a read slot shares, as they were before it wrote them (R191)
deriving DecidableEq, Repr

/-- A fetch that waits to be issued (R247). -/
structure Pend where
  tile     : Nat
  deadline : Nat
deriving DecidableEq, Repr

/-- A tile that its consumer requested before its slot was full (R34, R37): the cycle of the first request, and whether
service mode was in force then, with recovery clear. -/
structure Wait where
  tile  : Nat
  since : Nat
  svc   : Bool
deriving DecidableEq, Repr

/-- A stream context (R233, R235, R353). `used` false is a free context. -/
structure Stream where
  used     : Bool
  opId     : W32
  slot     : Nat
  letrix   : Bool
  die      : Nat
  loc      : Nat
  cores    : List Nat              -- logical cores of its set (R221)
  lead     : Nat
  period   : Nat
  length   : Nat
  deck     : Bool
  next     : Nat                   -- next tile to be fetched
  asked    : List (Nat × Nat)      -- per core: tiles requested so far
  pend     : List Pend
  inflight : List Nat
  filled   : List Nat              -- tiles written out of order, not yet full (R241)
  full     : Nat                   -- tiles below this one are full
  scaled   : List Nat              -- 2 * tile + half: scale bytes that have arrived
  marked   : List Nat              -- fetches that faulted (R253)
  halt     : Option Nat            -- halt cause (R254)
  frame    : Option Nat            -- the frame of a page-fault halt: channel * 2^23 + frame
  rings    : List (Nat × Nat)      -- per core: base row of its ring
  warm     : Nat                   -- warm fetches made (R271)
  wait     : Option Wait           -- the requested tile whose slot is not full (R34)
  exempt   : List Nat              -- the tiles at which the stream has halted, latest first, until they are full (R38, R256)
  stuck    : Option Nat            -- since when it is halted at a tile that no consumer waits for (R38)
  ends     : List (Nat × Nat)      -- per core of its set: the tiles its own block takes (R216, R222)
  walked   : Nat                   -- a walking stream's blocks read so far (R351, R401, R407)
  held     : List (Nat × List Byte) -- Letrix: the words its tiles delivered; else scale bytes beyond a slot's 128, key 8 * tile + half
deriving DecidableEq, Repr

/-- A free context. -/
def Stream.free : Stream :=
  ⟨false, 0, 0, false, 0, 0, [], 0, 0, 0, false, 0, [], [], [], [], 0, [], [], none, none, [], 0, none, [], none, [], 0, []⟩

/-- A pass: which tile of the core's work and which pass of the tile; its working cells row by row, and its
checksum row and column cells (R84, R100). -/
structure Pass where
  seq    : Nat
  pass   : Nat
  isInt  : Bool
  rows   : Nat
  cells  : List Cell
  rowChk : List Cell               -- per array, 32 columns
  colChk : List Cell               -- one per row
deriving DecidableEq, Repr

/-- The attention tile a core works on (R396 to R404). -/
structure AttnTile where
  block  : Nat                     -- key blocks scored
  keys   : List (Nat × Nat)        -- its key blocks: entry and first key
  scores : List W32                -- FP32 scores of the block, row by row
  p      : List W32                -- weights p of the block, row by row
  carry  : List W32                -- state.o * c of the block, the preload of its value passes
  states : List RowState
  phase  : Nat                     -- 0 score passes of `block`; value passes of block - 2 (1) or block - 1 (2)
  rowEnt : List (Option Nat)       -- the entry of each of the 64 rows
  slots  : List (BitVec 128)       -- the key or value slot words of the pass last fed (R401)
  scales : List Byte               -- and the block scales that came ahead of them
deriving DecidableEq, Repr

/-- The array task of a core (R80). -/
structure ArrayTask where
  opId     : W32
  i        : Nat
  j        : Nat
  p        : Nat
  seq      : Nat                   -- tiles of the core's work done
  pass     : Nat                   -- passes of the tile done
  kpos     : Nat                   -- reduction elements of the pass done
  cur      : Option Pass
  swap     : Option Pass           -- the swap registers of the working and checksum cells: the next pass's preload (R84)
  awaiting : List Pass             -- drained passes that await commit (R90)
  remote   : List (Nat × W32 × Nat) -- remote operands: slot, counter at load, arrivals taken (R167, R211)
  scales   : List W32              -- store scales received, 32 for each stream tile of slot 5
  kept     : List (Nat × List Byte) -- stream tiles taken from the rings, key 8 * tile + slot (R214, R240)
  scbytes  : List (Nat × List Byte) -- the block scales of those tiles, under the same keys (R238)
  combined : Nat                   -- tiles combined (R122)
  pair     : Option (Nat × Nat × List W64) -- kind 0x2: block, step and the pair records still to come (R303)
  attn     : Option AttnTile
  arrive   : Option Nat            -- lowest address stored by the tile so far (R163)
  halted   : Option TaskHalt
deriving DecidableEq, Repr

/-- The vector task of a core running a kind 0x3 program (R560, R561). -/
structure VecTask where
  opId   : W32
  i      : Nat
  j      : Nat
  seq    : Nat
  pc     : Nat
  remote : List (Nat × W32 × Nat)
  v      : List (List W32)         -- v0 to v7, 32 lanes each
  arrive : Option Nat
  halted : Option TaskHalt
deriving DecidableEq, Repr

/-- The fill and copy task of a core (R157, R697). -/
structure FillTask where
  opId   : W32
  pos    : Nat
  halted : Option TaskHalt
deriving DecidableEq, Repr

/-- A gather-buffer entry (R147). -/
structure Gather where
  word : Nat
  data : BitVec 128
  mask : BitVec 128
  task : Nat
deriving DecidableEq, Repr

/-- A scoreboard entry (R153): the result area of a dot-mode pass, named by its tile and pass. -/
structure Score where
  task  : Nat
  seq   : Nat
  pass  : Nat
  write : Bool
  r0    : Nat
  r1    : Nat
  j0    : Nat
  j1    : Nat
deriving DecidableEq, Repr

/-- A ring of a core (R243): the stream that fills it, or 4096 and the slot for a rotation; its base row; its operation. -/
structure Ring where
  stream : Nat
  row    : Nat
  opId   : W32
deriving DecidableEq, Repr

/-- A rotated operand on a member (R264 to R267): the operation and slot, the stream tiles received, why forwarding
from this member has halted, the tiles that its consumer has requested, and the one it waits for. -/
structure Rot where
  opId : W32
  slot : Nat
  got  : Nat
  halt : Option Nat
  asked : Nat
  wait : Option Wait
deriving DecidableEq, Repr

/-- A physical core (R79, R80), its core store apart. -/
structure Core where
  array  : Option ArrayTask
  behind : Option (ArrayTask × W32 × Nat) -- the earlier array task, whose last passes drain, commit and store, with
                                   -- the seed and the draws of its operation (R73, R272)
  deck   : Option W32
  vec    : Option VecTask
  fill   : Option FillTask
  gather : List Gather
  score  : List Score
  seed   : W32                     -- seed and draws of the generator (R73)
  draws  : Nat
  wb     : List Nat                -- words whose write-back is due (R143)
  gated  : Bool                    -- arithmetic clock stopped (R605)
  part   : List (Nat × Nat)        -- windows with a transfer under way, and its source (R163, R164)
  ring   : List Ring
  rot    : List Rot
  pages  : List W32                -- the page numbers of the last page list message received (R250)
deriving DecidableEq, Repr

/-- A core at reset. -/
def Core.idle : Core := ⟨none, none, none, none, none, [], [], 0, 0, [], false, [], [], [], []⟩

/-- A line of the shared cache (R223, R225): its address, the operation that owns it. -/
structure Line where
  addr  : Nat
  owner : W32
deriving DecidableEq, Repr

/-- A migration command (R341). -/
structure MigCmd where
  op     : Nat
  resume : Bool
  event  : Bool
  frame  : Nat
  t1     : Nat
  xfer   : W32
  tag    : W32
  moved  : Bool                    -- its operation has been carried out; only its completion is due
  drain  : Bool := false           -- op 0x6: its frame is marked absent, and accesses that had passed drain (R339)
deriving DecidableEq, Repr

/-- A hot-channel episode (R328, R330). -/
structure Episode where
  stack   : Nat
  pc      : Nat
  samples : Nat
  peak    : Nat
  posted  : Bool
  noted   : Bool                   -- CH_HOT_LAST records it
deriving DecidableEq, Repr

/-- An event that waits for room in its queue, or is to be written (R563): code, words 0 to 2 but for time and
seq. -/
structure Ev where
  code : Nat
  chan : Nat
  op   : W32
  arg0 : W32
  arg1 : W64
  host : Bool
  fault : Bool
deriving DecidableEq, Repr

/-- One event queue's hardware side (R564, R565). -/
structure EvQueue where
  seq     : Nat
  waiting : List Ev
  lost    : Nat
  fwd     : Nat                    -- global queue: records below this seq have been forwarded (R567)
deriving DecidableEq, Repr

/-- A shadow sync under way (R437). -/
structure Sync where
  blocks : List Nat                -- blocks still to be written
  tag    : W32
  seqs   : List (Nat × Nat)        -- sequences whose step had stored its last keys and values, with the step's number (R438)
deriving DecidableEq, Repr

/-- A send command of a channel (R486, R487). -/
structure SendCmd where
  no    : Nat                      -- serial number in its channel
  w0    : W64
  w1    : W64
  w2    : W64
  w3    : W64
  sent  : Bool
  err   : Nat                      -- status so far
  left  : Nat                      -- flits that the first hop has not acknowledged
deriving DecidableEq, Repr

end Sys2Proof.Machine
end

