-- ==== Sys2Proof/Machine/Records.lean ====
section
/-! DEFINITION. The records that the state holds outside the data path: ports and their messages, the run image as
boot firmware has parsed it, fuses and boot flash, the board controller, the referee's and the channel firmware's
books, reductions and training. Plain data. -/

namespace Sys2Proof.Machine

/-! ### Links -/

/-- A Dorul message: its four header words and its data bytes (R468, R469). -/
structure Msg where
  w0   : W64
  w1   : W64
  w2   : W64
  w3   : W64
  data : List Byte
deriving DecidableEq, Repr

/-- A data flit in a replay buffer (R467): number, the word where the first header starts, the body, and the send
command (channel and serial number) that a message in it belongs to. -/
structure TxFlit where
  seq   : Nat
  first : Nat
  body  : List Byte
  send  : Option (Nat × Nat)
deriving DecidableEq, Repr

/-- A message that waits for credits, replay room or an active port. `origin` marks one that starts here (R476). -/
structure TxMsg where
  msg    : Msg
  origin : Bool
  send   : Option (Nat × Nat)
deriving DecidableEq, Repr

/-- A port beside its registers (R465 to R479, R490 to R492, R516 to R519). -/
structure Port where
  txSeq   : Nat                    -- number of the next data flit
  replay  : List TxFlit            -- unacknowledged data flits, oldest first
  waiting : List TxMsg             -- messages not yet sent, oldest first
  used    : List Nat               -- per class: credits taken at the next port since it trained, modulo 4096
  seen    : List Nat               -- per class: credits it has reported freed, modulo 4096
  rxNext  : Nat                    -- the data flit expected next
  rxAny   : Bool                   -- a data flit has been received in order
  nak     : Bool                   -- data flits are ignored until the expected one arrives
  part    : List Byte              -- bytes of a message that spans flits
  rxq     : List Msg               -- received messages, oldest first
  bad     : List Msg               -- those of them whose data decode is not clean
  freed   : List Nat               -- per class: credits freed since the port trained, modulo 4096
  alt     : Bool                   -- the next flit reports classes 2 and 3
  faced   : Option (Nat × Nat)     -- partner module and port when it last came up
  direct  : Bool                   -- a relock under way is onto the direct set
  beat    : Nat                    -- GLB_TIME of the last heartbeat received
  hup     : Bool                   -- host mode: the link is up
  hmac    : Option (BitVec 48)     -- host mode: the host's MAC address
  htx     : Nat                    -- host mode: number of the next frame
  hrx     : Nat                    -- host mode: number of the frame expected next
  hun     : List (Nat × Msg)       -- host mode: unacknowledged frames
  hwait   : List Msg               -- host mode: messages waiting for room
  out     : Option Flit            -- the last flit sent
  hout    : Option (Nat × Nat × Msg) -- host mode: hseq, hack and message of the last frame sent
deriving DecidableEq, Repr

/-- A port at reset. -/
def Port.reset : Port :=
  ⟨0, [], [], [0, 0, 0, 0], [0, 0, 0, 0], 0, false, false, [], [], [], [0, 0, 0, 0], false, none, false, 0, false,
    none, 0, 0, [], [], none, none⟩

/-! ### The run image, parsed -/

/-- What the run image says of one channel (R332, R423, R427, R428, R435, R526). -/
structure ChanPlan where
  mirrors : List W64
  kvArea  : W64
  pools   : List W64
  limits  : List Nat               -- per pool: admission limit in pages
  shadows : List (Nat × Nat)       -- per pool: first shadow slot and their number
  evicts  : List (Nat × Nat)       -- per pool: address of the first eviction slot and their number
  shadow  : W64
  slots   : List Nat               -- addresses of the transfer slots
  wq      : Nat
  eq      : Nat
  weights : List (Nat × Nat)       -- weight frames, first and last
deriving DecidableEq, Repr

/-- A template of a step program (R556): the descriptor, where firmware puts it, its wait bit, and the length table
entries it fills in: where, and of which page list. -/
structure Template where
  bytes : List Byte
  place : Nat
  wait  : Bool
  lens  : List (Nat × Nat)
deriving DecidableEq, Repr

/-- A layout descriptor that a masked operation narrows to a rectangle of its tensor (R452): its operand slot, its bytes,
and the dimensions along which it follows k and n. -/
structure Cut where
  slot  : Nat
  bytes : List Byte
  kdim  : Option Nat
  ndim  : Option Nat
deriving DecidableEq, Repr

/-- An item of a backward pass or an update (R449 to R455), with its layer counted from the last: an operation that is
no product of a trained tensor; the gradient of a product's data, or of its layer's input; the scores of attention
backward, formed again one key block at a time by a kind 0x0 product and the vector step that uses them; an operation on
a trained tensor, by its row of the training table, with the layouts that its mask narrows. -/
inductive TrainOp where
  | plain (layer : Nat) (t : Template)
  | dataGrad (layer : Nat) (input : Bool) (t : Template)
  | attention (layer : Nat) (blocks : List (Template × Template))
  | masked (layer row : Nat) (t : Template) (cuts : List Cut)
deriving DecidableEq, Repr

/-- A channel's share of a training step (R449 to R456), and the encodes of the backward copies before the first. -/
structure TrainProg where
  encode   : List Template
  forward  : List Template
  backward : List TrainOp
  update   : List TrainOp
deriving DecidableEq, Repr

/-- What the run image says of one model (R26, R421, R425, R556, R634). -/
structure ModelPlan where
  model   : Nat
  split   : Bool
  pool    : Nat
  digest  : BitVec 512
  homes   : List (Nat × List (Nat × Nat)) -- per channel of the primary copy: offset and length of its parts
  chans   : List Nat               -- every channel that holds the model
  kfmt    : W16
  vfmt    : W16
  kscale  : W32
  vscale  : W32
  ltok    : Nat
  lists   : List (Nat × Nat)       -- per page list of a channel: layer and key/value head
  listAt  : List Nat               -- per page list: its offset within its sequence's part of the list area
  seqArea : Nat                    -- bytes of a sequence's part; lists taken over from the partner fill its second half
  prefill : List (Nat × List Template) -- by channel; by 4 + channel for one that serves its partner's columns too
  gener   : List (Nat × List Template)
  train   : List (Nat × TrainProg) -- a training step, by the same keys
  saveAt  : List Nat               -- per page list: where the headers of its parked pages stand in its sequence's part (R439)
deriving DecidableEq, Repr

/-- A row of the training table (R446): tensor number, the layer it belongs to counted from the last (0 to 3), whether
it is an embedding or the head, role, mask, rectangles (first k, number of k, first n, number of n), optimizer, state tier,
rounding. -/
structure TrainRow where
  tensor : Nat
  layer  : Nat
  frozen : Bool
  role   : Nat
  mask   : Nat
  rects  : List (Nat × Nat × Nat × Nat)
  optim  : Nat
  tier   : Nat
  rnd    : Nat
deriving DecidableEq, Repr

/-- The run image as boot firmware parses its payload. -/
structure RunPlan where
  keys     : List W32              -- interleave key (R324)
  chans    : List ChanPlan
  hostCfg  : W64
  geq      : Nat                   -- the global event queue's ring
  size     : Nat                   -- group size (R505)
  chords   : List ((Nat × Nat) × (Nat × Nat)) -- module and port, partner and port
  eligible : List Nat              -- captain-eligible modules
  models   : List ModelPlan
  train    : List TrainRow
  coolant  : Int                   -- warn point of the coolant outlet (R612)
deriving DecidableEq, Repr

/-- An image in a slot of the boot flash (R626): its header, its payload, and what the payload says. -/
structure Image where
  header  : List Byte
  payload : List Byte
  plan    : Option RunPlan
deriving DecidableEq, Repr

/-- An entry of the field record (R590), as its 16 bytes' number. -/
abbrev FieldEntry := BitVec 128

/-- The boot flash (R625): boot firmware slots, run image slots, field record, certificate. -/
structure Flash where
  boot   : List (Option Image)
  run    : List (Option Image)
  record : List FieldEntry
  cert   : List Byte
deriving DecidableEq, Repr

/-- The fuses (R623, R669). -/
structure Fuses where
  vendor    : List (BitVec 512)
  vendorRev : List Bool
  owner     : List (Option (BitVec 512))
  ownerRev  : List Bool
  seed0     : List Byte
  seed1     : List Byte
  minBoot   : Nat
  minRun    : Nat
  state0    : Nat
  state1    : Nat
  coreMap   : List (List Nat)      -- per channel, the physical index of each logical core
  rowMap    : List (Nat × Nat × Nat × Nat) -- mapped rows: channel, physical core, entry, row (R172)
deriving DecidableEq, Repr

/-! ### The board controller -/

/-- An instruction of the test access port (R687, R689). -/
inductive TapInstr where
  | bypass | idcode | samplePreload | extest | debugAccess
deriving DecidableEq, Repr

/-- The test access port (R687 to R689): whether its controller is outside Test-Logic-Reset, the instruction in force,
the data register it has captured or shifted, and the boundary register's latched values. -/
structure Tap where
  outside  : Bool
  instr    : TapInstr
  data     : List Bool
  boundary : List Bool
deriving DecidableEq, Repr

/-- The port in Test-Logic-Reset, where IEEE 1149.1 puts IDCODE in force. -/
def Tap.reset : Tap := ⟨false, .idcode, [], []⟩

/-- The board controller beside its registers (R597 to R622, R644). -/
structure Board where
  off      : Bool                  -- the auxiliary input is out of limits: OFF
  mac      : BitVec 48             -- the module's MAC address (R517)
  straps   : Nat                   -- strapping as read at reset release
  causes   : Nat                   -- causes of the reset under way, as GLB_RESET_CAUSE numbers them
  held     : Bool                  -- RESET_N is low
  tap      : Tap                   -- the test access port (R687 to R689)
  lockout  : Bool                  -- waiting under R615
  page     : Nat                   -- PMBus PAGE
  comm     : Bool                  -- communication bit of STATUS_WORD
  ilimit   : Bool                  -- R598 holds the ceilings
  vinLow   : Bool                  -- R597 holds the ceilings
  capStep  : Nat
  therm    : List Nat              -- thermal step of each channel
  temps    : List (Sensor × Int)   -- last readings
  hotOnce  : List Sensor           -- sensors at or above trip in the last sample
  warmed   : List Sensor           -- sensors not 3 °C below throttle in every sample of this interval
  retained : Bool                  -- core stores in retention, DRAMs in self-refresh (R602)
deriving DecidableEq, Repr

/-- The board controller in AUX. -/
def Board.aux : Board :=
  ⟨false, 0, 0, 0, false, Tap.reset, false, 0, false, false, false, 8, [8, 8, 8, 8], [], [], [], false⟩

/-! ### The referee and the channel firmware -/

/-- A request as its parts arrive (R522). -/
structure Request where
  src    : Nat                     -- module that sent it
  port   : Nat                     -- port its last part came by
  model  : Nat
  htag   : W32
  nparts : Nat
  maxNew : Nat
  parts  : List (Nat × List W32)
deriving DecidableEq, Repr

/-- A step of a sequence in one channel: its operations that have not completed. -/
structure StepWork where
  ch   : Nat
  ops  : List W32
  lens : List (W32 × List (Nat × Nat)) -- operations whose length tables count the step's tokens once those before are done (R431)
deriving DecidableEq, Repr

/-- A part of a request that has arrived whole and waits to be taken: its port, the message, and when (R29). -/
structure Arrived where
  port : Nat
  msg  : Msg
  at_  : Nat
deriving DecidableEq, Repr

/-- A live sequence (R433, R522 to R524, R555). -/
structure Live where
  id      : Nat
  gen     : Nat
  model   : Nat
  htag    : W32
  src     : Nat
  input   : List W32               -- tokens not yet run: the prompt or the last token made
  counted : Nat                    -- tokens whose keys and values are stored (R431)
  maxNew  : Nat
  made    : Nat
  kept    : List (Nat × W32)       -- last 256 output tokens with their index
  work    : Option (List StepWork) -- the step under way
  waits   : Bool                   -- its next step waits for pages (R432)
  synced  : List Nat               -- channels whose sync was asked for after the step's stores (R438)
  parked  : Bool
  left    : List (Nat × W32)       -- operations of cancelled steps that are still queued: channel and op_id (R434)
deriving DecidableEq, Repr

/-- A page of a sequence in a channel (R425, R430, R439): the list it belongs to, its frame, its shadow slot, and its
eviction slot while it is parked. -/
structure PageRec where
  seq   : Nat
  list  : Nat
  frame : Nat
  slot  : Nat
  pool  : Nat
  away  : Option Nat
  hdr   : List Byte
deriving DecidableEq, Repr

/-- A host transfer under way in a channel (R526). -/
structure Xfer where
  xfer   : W32
  slot   : Nat
  pieces : List Nat
deriving DecidableEq, Repr

/-- A recovery of the table of fault budgets that spans commands, by its fault domain (R40, R572): a core by its
logical number, or a port whose neighbour was lost. -/
inductive Recovery where
  | core (log : Nat)
  | port (p : Nat)
deriving DecidableEq, Repr

/-- A record of a control core's journal (R551, R573): its sequence number, and the recovery it says has begun or
ended. -/
structure JRec where
  seq    : Nat
  begins : Bool
  what   : Recovery
deriving DecidableEq, Repr

/-- The books of a channel's firmware (R430, R526, R557), with its journal of recoveries (R551). -/
structure Book where
  opNo  : Nat
  pages : List PageRec
  xfers : List Xfer
  sendNo : Nat                     -- sends enqueued since reset
  journal : List JRec              -- complete records, oldest first (R551)
  lost  : List PageRec             -- pages of the partner's that still wait for a fetch from their shadow slots (R441)
  moving : List (Nat × Nat)        -- sequence and frame of those whose fetch is queued (R441)
  stalls : List Nat                -- totals of the stall counters read before service, in register order (R651)
deriving DecidableEq, Repr

/-- A model at the referee: not loaded, ready, or its digest failed (R27, R634, R657). -/
inductive ModelState where
  | notReady | ready | failed
deriving DecidableEq, Repr

/-- A training job (R451, R457, R458). -/
structure Job where
  job   : TrainJob
  left  : Nat                      -- steps that have not ended
  begun : Bool                     -- the encodes are done: a step runs
  queued : Bool                    -- its operations are in the work queues
  work  : List StepWork            -- the operations under way
  abort : Option Nat               -- cause of an abort that waits for the step boundary (R459)
deriving DecidableEq, Repr

/-- The referee beside its registers (R505 to R515, R522 to R524, R555, R655). -/
structure Referee where
  arrived  : List Arrived          -- request parts in the receive buffers, in order of arrival (R29)
  partial_ : List Request
  deferred : List Request
  live     : List Live
  nextId   : Nat
  models   : List (Nat × ModelState)
  job      : Option Job
  retiring : List (Nat × Nat)      -- identifiers whose fence runs, with the generation it wrote (R434)
  rounds   : List Nat              -- modules whose bypass round is done (R655)
  round    : Nat                   -- this module's bypass round: 0 none, 1 announced, 2 relays closed, 3 inserted
  formed   : Bool                  -- the update of R656 has been made or adopted
  rejoin   : Option Nat            -- module that rejoins (R527)
  via      : List (Nat × Nat)      -- host port by which the host's message of a type and tag arrived (R516)
deriving DecidableEq, Repr

/-- The referee at reset. -/
def Referee.reset : Referee := ⟨[], [], [], [], 0, [], none, [], [], 0, false, none, []⟩

/-! ### Reduction -/

/-- What a bucket's hardware keeps beside its table entry (R533, R534, R540, R544). -/
structure Bucket where
  segs   : List Nat                -- reduce segments received in this generation
  rets   : List Nat                -- parameter messages received
  scales : List Nat                -- scale messages received
  next   : Nat                     -- next segment of the adder
deriving DecidableEq, Repr

/-- A bucket at reset. -/
def Bucket.reset : Bucket := ⟨[], [], [], 0⟩

/-! ### Security -/

/-- The referee's security state beside its registers (R624, R631 to R635, R639). -/
structure Sec where
  key    : Option (List Byte)      -- seed of the identity key pair in referee memory
  log    : List (List Byte)        -- measurement log, 80 bytes an entry
  count  : Nat                     -- reports signed since reset
  boot   : Option Image            -- boot firmware accepted
  run    : Option Image            -- run image accepted
deriving DecidableEq, Repr

/-- The security state at reset. -/
def Sec.reset : Sec := ⟨none, [], 0, none, none⟩

end Sys2Proof.Machine
end

