-- ==== Sys2Proof/Config.lean ====
section
/-! DEFINITION. The free values of the model: what the spec leaves open, as constants without a body, so that
no proof can lean on one. Each is named in the assumption log. -/

namespace Sys2Proof.Config

/-- Which of the FP32 codes within an estimate's error bound the vector unit returns (R109): a number that
picks among them, for the function's opcode and the operand's code. -/
opaque estimate : Nat → W32 → Nat

/-- The n-th draw of the generator of a core that started from a seed (R73): the recurrence is not given. -/
opaque draw : W32 → Nat → Nat → W32

/-- SHA3-512 of a byte string (R633 and FIPS 202): the function is the standard's, its text is not the spec's. -/
opaque sha3 : List Byte → BitVec 512

/-- Whether an ML-DSA-87 signature over a byte string is valid under the key of this hash (FIPS 204). -/
opaque verify : BitVec 512 → List Byte → List Byte → Bool

/-- The ML-DSA-87 signature of a byte string by the identity key of this seed (FIPS 204). -/
opaque sign : List Byte → List Byte → List Byte

/-- The public key of the identity key pair that a seed gives (R631). -/
opaque publicKey : List Byte → List Byte

/-- A digest of an item whose bytes the spec does not give (R632, R633), by the rule and what it hangs on. -/
opaque openDigest : Nat → List Nat → BitVec 512

/-- The order in which a scatter-add adds duplicate indices (R308: unspecified): a number that ranks the
additions of one operation. -/
opaque scatterRank : W32 → Nat → Nat

/-- A value the spec's effect leaves open, by the rule that leaves it open and the arguments it hangs on. -/
opaque openValue : Nat → List Nat → W64

/-- The vendor key hash burned into a slot at wafer test (R623). -/
opaque vendorHash : Nat → BitVec 512

/-- The identity seed that a module leaves the factory with (R3, R623). -/
opaque factorySeed : List Byte

/-- The bytes the vendor has written into the boot flash of a shipped module (R3, R625): 0 and 1 header and payload of
its boot firmware, 2 and 3 those of its run image, 4 the certificate. -/
opaque vendorImage : Nat → List Byte

/-- What the payload of the vendor's run image says (R3). -/
opaque vendorPlan : Option Machine.RunPlan

/-- The IDCODE value, given in the BSDL file (R687). -/
opaque idcode : BitVec 32

end Sys2Proof.Config
end

