-- ==== Sys2Proof/Machine/Maps.lean ====
section
/-! DEFINITION. Sparse maps from numbers to data: the one canonical form in which the state holds what is
addressed (memory bytes, register slots, cores, streams, ports). A map is a list of key and value pairs with
strictly rising keys; an unlisted key reads as the map's default, and no entry equals that default. -/

namespace Sys2Proof.Machine

/-- The entry of a key, if one is listed. -/
def mfind {α : Type} : List (Nat × α) → Nat → Option α
  | [], _ => none
  | (j, v) :: r, k => if j = k then some v else mfind r k

/-- The map with an entry of key k put in, in the place the rising order gives it. -/
def minsert {α : Type} : List (Nat × α) → Nat → α → List (Nat × α)
  | [], k, x => [(k, x)]
  | (j, v) :: r, k, x =>
    if k < j then (k, x) :: (j, v) :: r
    else if k = j then (k, x) :: r
    else (j, v) :: minsert r k x

/-- The map without key k. -/
def merase {α : Type} : List (Nat × α) → Nat → List (Nat × α)
  | [], _ => []
  | (j, v) :: r, k => if j = k then merase r k else (j, v) :: merase r k

/-- Reading a key: its entry, or the default d. -/
def mget {α : Type} (d : α) (m : List (Nat × α)) (k : Nat) : α := (mfind m k).getD d

/-- Writing a key: writing the default removes the entry. -/
def mset {α : Type} [DecidableEq α] (d : α) (m : List (Nat × α)) (k : Nat) (x : α) : List (Nat × α) :=
  if x = d then merase m k else minsert m k x

/-- Keys rise strictly. -/
def Rising {α : Type} (m : List (Nat × α)) : Prop := m.Pairwise fun a b => a.1 < b.1

/-- The canonical form of a map with default d. -/
def Canonical {α : Type} (d : α) (m : List (Nat × α)) : Prop := Rising m ∧ ∀ e ∈ m, e.2 ≠ d

/-- The canonical form of the memory, decided: addresses rise strictly and no listed byte is 0, which an unlisted
address reads as. -/
def Memory.wf : List (Nat × Byte) → Bool
  | [] => true
  | [e] => e.2 != 0
  | e :: f :: r => e.2 != 0 && decide (e.1 < f.1) && Memory.wf (f :: r)

/-- Keeping only the entries whose key satisfies p. -/
def mkeep {α : Type} (p : Nat → Bool) (m : List (Nat × α)) : List (Nat × α) := m.filter fun e => p e.1

end Sys2Proof.Machine
end

