-- ==== Sys2Proof/Machine/Registers.lean ====
section
/-! DEFINITION. The register map (R661 to R676): for every register its block, its offset, how many of it
lie in a row and how far apart, and its fields with their access codes and reset values; and a reference
(slot address and reset value) for every register, named as the manual names it. -/

namespace Sys2Proof.Machine

/-- Access codes of a field (the table under R9). -/
inductive Acc where
  | ro | rw | w1c | rc
deriving DecidableEq, Repr

/-- One field: its bits [hi:lo], its access code, whether it is reserved, and its reset value. -/
structure Field where
  hi    : Nat
  lo    : Nat
  acc   : Acc
  resv  : Bool
  reset : Nat
deriving DecidableEq, Repr

/-- The kinds of register block (R667, R668, R674, R676). -/
inductive Block where
  | channel | core | glb | letrix
deriving DecidableEq, Repr

/-- One row of the map: `count` like registers from `off`, `stride` bytes apart. -/
structure RegRow where
  block  : Block
  off    : Nat
  count  : Nat
  stride : Nat
  fields : List Field
deriving DecidableEq, Repr

/-- A register: the address of its slot and the value it resets to. -/
structure RegRef where
  addr  : Nat
  reset : W64
deriving DecidableEq, Repr

/-- The block of channel n (R667). -/
def chBlock (n : Nat) : Nat := 0x07F000000000 + 0x01000000 * n
/-- The page of physical core i of channel n (R668). -/
def corePage (n i : Nat) : Nat := chBlock n + 0x800000 + 0x1000 * i
/-- The global block (R674). -/
def glbBlock : Nat := 0x07F400000000
/-- The block of Letrix die k (R676). -/
def lxBlock (k : Nat) : Nat := 0x07F800000000 + 0x00100000 * k

namespace Reg

/-- CH_CORE_CAPS (R81). -/
def chCoreCaps (n : Nat) : RegRef := ⟨chBlock n + 0x0, 0xC83008283F00⟩
/-- CORE_STORE_SIZE (R135). -/
def coreStoreSize (n : Nat) : RegRef := ⟨chBlock n + 0x8, 0x40000⟩
/-- CORE_STORE_CAPS (R138). -/
def coreStoreCaps (n : Nat) : RegRef := ⟨chBlock n + 0x10, 0x8888456⟩
/-- CH_STREAM_CAPS (R236). -/
def chStreamCaps (n : Nat) : RegRef := ⟨chBlock n + 0x18, 0xA00170E4⟩
/-- CH_ARB_CAPS0 (R670). -/
def chArbCaps0 (n : Nat) : RegRef := ⟨chBlock n + 0x20, 0x10100101⟩
/-- CH_ARB_CAPS1 (R670). -/
def chArbCaps1 (n : Nat) : RegRef := ⟨chBlock n + 0x28, 0x20200400⟩
/-- CH_ARB_CAPS2 (R670). -/
def chArbCaps2 (n : Nat) : RegRef := ⟨chBlock n + 0x30, 0x8400800⟩
/-- CH_ARB_CAPS3 (R670). -/
def chArbCaps3 (n : Nat) : RegRef := ⟨chBlock n + 0x38, 0x4040200⟩
/-- CH_ARB_CAPS4 (R670). -/
def chArbCaps4 (n : Nat) : RegRef := ⟨chBlock n + 0x40, 0x20⟩
/-- CH_ARB_CAPS5 (R670). -/
def chArbCaps5 (n : Nat) : RegRef := ⟨chBlock n + 0x48, 0x40100040⟩
/-- CH_ARB_CAPS6 (R670). -/
def chArbCaps6 (n : Nat) : RegRef := ⟨chBlock n + 0x50, 0x4030040101⟩
/-- CH_ARB_CAPS7 (R670). -/
def chArbCaps7 (n : Nat) : RegRef := ⟨chBlock n + 0x58, 0x10100201⟩
/-- CH_ARB_CAPS8 (R670). -/
def chArbCaps8 (n : Nat) : RegRef := ⟨chBlock n + 0x60, 0x4080600⟩
/-- CH_ARB_CAPS9 (R670). -/
def chArbCaps9 (n : Nat) : RegRef := ⟨chBlock n + 0x68, 0x8040081⟩
/-- CH_TIMING_MODE (R35). -/
def chTimingMode (n : Nat) : RegRef := ⟨chBlock n + 0x1000, 0x0⟩
/-- CH_CHK_CTRL (R106). -/
def chChkCtrl (n : Nat) : RegRef := ⟨chBlock n + 0x1008, 0x41⟩
/-- CH_CS_CTRL (R177). -/
def chCsCtrl (n : Nat) : RegRef := ⟨chBlock n + 0x1010, 0x3⟩
/-- CH_HOT_CTRL (R329). -/
def chHotCtrl (n : Nat) : RegRef := ⟨chBlock n + 0x1018, 0x80044064⟩
/-- CH_SCRUB_CTRL (R588). -/
def chScrubCtrl (n : Nat) : RegRef := ⟨chBlock n + 0x1020, 0x18180064⟩
/-- CH_ROT_BASE (R263). -/
def chRotBase (n : Nat) : RegRef := ⟨chBlock n + 0x1028, 0x0⟩
/-- CH_T0_FENCE (R335). -/
def chT0Fence (n : Nat) : RegRef := ⟨chBlock n + 0x1030, 0x0⟩
/-- CH_CORE_RETIRE (R575). -/
def chCoreRetire (n : Nat) : RegRef := ⟨chBlock n + 0x1038, 0x0⟩
/-- CH_CC_HEARTBEAT (R550). -/
def chCcHeartbeat (n : Nat) : RegRef := ⟨chBlock n + 0x1040, 0x0⟩
/-- CH_CC_STATUS (R554). -/
def chCcStatus (n : Nat) : RegRef := ⟨chBlock n + 0x1048, 0x40000000⟩
/-- CH_CLK_STATUS (R611). -/
def chClkStatus (n : Nat) : RegRef := ⟨chBlock n + 0x1050, 0xEB200000⟩
/-- CH_MIRROR (R332). -/
def chMirror (n : Nat) (j : Nat) : RegRef := ⟨chBlock n + 0x1800 + j * 8, 0x0⟩
/-- CH_KV_AREA (R423). -/
def chKvArea (n : Nat) : RegRef := ⟨chBlock n + 0x1880, 0x0⟩
/-- CH_KV_POOL (R427). -/
def chKvPool (n : Nat) (j : Nat) : RegRef := ⟨chBlock n + 0x1888 + j * 8, 0x0⟩
/-- CH_KV_SHADOW (R435). -/
def chKvShadow (n : Nat) : RegRef := ⟨chBlock n + 0x18A8, 0x0⟩
/-- CH_KV_SYNC (R437). -/
def chKvSync (n : Nat) : RegRef := ⟨chBlock n + 0x18B0, 0x0⟩
/-- CH_STREAM_HALT (R255). -/
def chStreamHalt (n : Nat) : RegRef := ⟨chBlock n + 0x2000, 0x0⟩
/-- CH_STREAM_RESUME (R256). -/
def chStreamResume (n : Nat) : RegRef := ⟨chBlock n + 0x2008, 0x0⟩
/-- CH_STREAM_CANCEL (R258). -/
def chStreamCancel (n : Nat) : RegRef := ⟨chBlock n + 0x2010, 0x0⟩
/-- CH_STREAM_SEL (R672). -/
def chStreamSel (n : Nat) : RegRef := ⟨chBlock n + 0x2018, 0x0⟩
/-- CH_STREAM_CTX (R672). -/
def chStreamCtx (n : Nat) : RegRef := ⟨chBlock n + 0x2020, 0x0⟩
/-- CH_STREAM_CTX_OP (R672). -/
def chStreamCtxOp (n : Nat) : RegRef := ⟨chBlock n + 0x2028, 0x0⟩
/-- CH_DEADLINE_WORST (R275). -/
def chDeadlineWorst (n : Nat) : RegRef := ⟨chBlock n + 0x2030, 0x0⟩
/-- CH_WQ_BASE (R559). -/
def chWqBase (n : Nat) : RegRef := ⟨chBlock n + 0x3000, 0x0⟩
/-- CH_WQ_HEAD (R559). -/
def chWqHead (n : Nat) : RegRef := ⟨chBlock n + 0x3008, 0x0⟩
/-- CH_WQ_TAIL (R559). -/
def chWqTail (n : Nat) : RegRef := ⟨chBlock n + 0x3010, 0x0⟩
/-- CH_EQ_BASE (R565). -/
def chEqBase (n : Nat) : RegRef := ⟨chBlock n + 0x3018, 0x0⟩
/-- CH_EQ_HEAD (R565). -/
def chEqHead (n : Nat) : RegRef := ⟨chBlock n + 0x3020, 0x0⟩
/-- CH_EQ_TAIL (R565). -/
def chEqTail (n : Nat) : RegRef := ⟨chBlock n + 0x3028, 0x0⟩
/-- CH_MIG_CMD0 (R341). -/
def chMigCmd0 (n : Nat) : RegRef := ⟨chBlock n + 0x3030, 0x0⟩
/-- CH_MIG_CMD1 (R341). -/
def chMigCmd1 (n : Nat) : RegRef := ⟨chBlock n + 0x3038, 0x0⟩
/-- CH_MIG_CMD2 (R341). -/
def chMigCmd2 (n : Nat) : RegRef := ⟨chBlock n + 0x3040, 0x0⟩
/-- CH_MIG_CMD3 (R341). -/
def chMigCmd3 (n : Nat) : RegRef := ⟨chBlock n + 0x3048, 0x0⟩
/-- CH_MIG_STATUS (R344). -/
def chMigStatus (n : Nat) : RegRef := ⟨chBlock n + 0x3050, 0x40⟩
/-- CH_LINK_SEND_CMD0 (R486). -/
def chLinkSendCmd0 (n : Nat) : RegRef := ⟨chBlock n + 0x3058, 0x0⟩
/-- CH_LINK_SEND_CMD1 (R486). -/
def chLinkSendCmd1 (n : Nat) : RegRef := ⟨chBlock n + 0x3060, 0x0⟩
/-- CH_LINK_SEND_CMD2 (R486). -/
def chLinkSendCmd2 (n : Nat) : RegRef := ⟨chBlock n + 0x3068, 0x0⟩
/-- CH_LINK_SEND_CMD3 (R486). -/
def chLinkSendCmd3 (n : Nat) : RegRef := ⟨chBlock n + 0x3070, 0x0⟩
/-- CH_LINK_SEND_STATUS (R489). -/
def chLinkSendStatus (n : Nat) : RegRef := ⟨chBlock n + 0x3078, 0x40⟩
/-- CH_LINK_STATUS (R502). -/
def chLinkStatus (n : Nat) (j : Nat) : RegRef := ⟨chBlock n + 0x3080 + j * 8, 0x0⟩
/-- CH_LINK_CTRL (R503). -/
def chLinkCtrl (n : Nat) (j : Nat) : RegRef := ⟨chBlock n + 0x3090 + j * 8, 0x0⟩
/-- CH_CORE_MAP (R669). -/
def chCoreMap (n : Nat) (j : Nat) : RegRef := ⟨chBlock n + 0x4000 + j * 8, 0x0⟩
/-- CH_FAULT_SUMMARY (R673). -/
def chFaultSummary (n : Nat) : RegRef := ⟨chBlock n + 0x6000, 0x0⟩
/-- CH_FMT_STATUS (R74). -/
def chFmtStatus (n : Nat) : RegRef := ⟨chBlock n + 0x6008, 0x0⟩
/-- CH_CHK_LAST (R108). -/
def chChkLast (n : Nat) : RegRef := ⟨chBlock n + 0x6010, 0x0⟩
/-- CH_CANCEL_MON_LAST (R133). -/
def chCancelMonLast (n : Nat) : RegRef := ⟨chBlock n + 0x6018, 0x0⟩
/-- CH_CANCEL_MON_TILE (R134). -/
def chCancelMonTile (n : Nat) : RegRef := ⟨chBlock n + 0x6020, 0x0⟩
/-- CH_LOAD_FAULT (R231). -/
def chLoadFault (n : Nat) : RegRef := ⟨chBlock n + 0x6028, 0x0⟩
/-- CH_SPARSE_STATUS (R313). -/
def chSparseStatus (n : Nat) : RegRef := ⟨chBlock n + 0x6030, 0x0⟩
/-- CH_SPARSE_FAULT (R314). -/
def chSparseFault (n : Nat) : RegRef := ⟨chBlock n + 0x6038, 0x0⟩
/-- CH_SPARSE_FAULT_POS (R314). -/
def chSparseFaultPos (n : Nat) : RegRef := ⟨chBlock n + 0x6040, 0x0⟩
/-- CH_PAGE_FAULT (R340). -/
def chPageFault (n : Nat) : RegRef := ⟨chBlock n + 0x6048, 0x0⟩
/-- CH_HOT_LAST (R330). -/
def chHotLast (n : Nat) : RegRef := ⟨chBlock n + 0x6050, 0x0⟩
/-- CH_ATTN_FAULT (R417). -/
def chAttnFault (n : Nat) : RegRef := ⟨chBlock n + 0x6058, 0x0⟩
/-- CH_KV_HDR_FAULT (R442). -/
def chKvHdrFault (n : Nat) : RegRef := ⟨chBlock n + 0x6060, 0x0⟩
/-- CH_STALL_FAULT (R38). -/
def chStallFault (n : Nat) : RegRef := ⟨chBlock n + 0x7000, 0x0⟩
/-- CH_STALL_REFRESH (R38). -/
def chStallRefresh (n : Nat) : RegRef := ⟨chBlock n + 0x7008, 0x0⟩
/-- CH_STALL_DEBUG (R38). -/
def chStallDebug (n : Nat) : RegRef := ⟨chBlock n + 0x7010, 0x0⟩
/-- CH_STALL_CREDIT (R38). -/
def chStallCredit (n : Nat) : RegRef := ⟨chBlock n + 0x7018, 0x0⟩
/-- CH_STALL_ARBITER (R38). -/
def chStallArbiter (n : Nat) : RegRef := ⟨chBlock n + 0x7020, 0x0⟩
/-- CH_STALL_D2D (R38). -/
def chStallD2d (n : Nat) : RegRef := ⟨chBlock n + 0x7028, 0x0⟩
/-- CH_STALL_OTHER (R38). -/
def chStallOther (n : Nat) : RegRef := ⟨chBlock n + 0x7030, 0x0⟩
/-- CH_DEADLINE_MISS_COUNT (R274). -/
def chDeadlineMissCount (n : Nat) : RegRef := ⟨chBlock n + 0x7038, 0x0⟩
/-- CH_OP_DEADLINE_MISS_COUNT (R232). -/
def chOpDeadlineMissCount (n : Nat) : RegRef := ⟨chBlock n + 0x7040, 0x0⟩
/-- CH_LOAD_REJECT_COUNT (R232). -/
def chLoadRejectCount (n : Nat) : RegRef := ⟨chBlock n + 0x7048, 0x0⟩
/-- CH_FMT_SAT_COUNT (R75). -/
def chFmtSatCount (n : Nat) : RegRef := ⟨chBlock n + 0x7100, 0x0⟩
/-- CH_CHK_MISMATCH_COUNT (R107). -/
def chChkMismatchCount (n : Nat) : RegRef := ⟨chBlock n + 0x7108, 0x0⟩
/-- CH_CANCEL_MON_COUNT (R132). -/
def chCancelMonCount (n : Nat) : RegRef := ⟨chBlock n + 0x7110, 0x0⟩
/-- CH_CS_CE_COUNT (R182). -/
def chCsCeCount (n : Nat) : RegRef := ⟨chBlock n + 0x7118, 0x0⟩
/-- CH_CS_UE_COUNT (R182). -/
def chCsUeCount (n : Nat) : RegRef := ⟨chBlock n + 0x7120, 0x0⟩
/-- CH_CS_WINDOW_REJECT_COUNT (R182). -/
def chCsWindowRejectCount (n : Nat) : RegRef := ⟨chBlock n + 0x7128, 0x0⟩
/-- CH_SB_WAIT_CYCLES (R182). -/
def chSbWaitCycles (n : Nat) : RegRef := ⟨chBlock n + 0x7130, 0x0⟩
/-- CH_SC_HIT_COUNT (R227). -/
def chScHitCount (n : Nat) : RegRef := ⟨chBlock n + 0x7138, 0x0⟩
/-- CH_SC_MISS_COUNT (R227). -/
def chScMissCount (n : Nat) : RegRef := ⟨chBlock n + 0x7140, 0x0⟩
/-- CH_STREAM_FETCH_COUNT (R274). -/
def chStreamFetchCount (n : Nat) : RegRef := ⟨chBlock n + 0x7200, 0x0⟩
/-- CH_STREAM_WARM_COUNT (R274). -/
def chStreamWarmCount (n : Nat) : RegRef := ⟨chBlock n + 0x7208, 0x0⟩
/-- CH_STREAM_CTX_WAIT_CYCLES (R274). -/
def chStreamCtxWaitCycles (n : Nat) : RegRef := ⟨chBlock n + 0x7210, 0x0⟩
/-- CH_STREAM_HALT_COUNT (R274). -/
def chStreamHaltCount (n : Nat) : RegRef := ⟨chBlock n + 0x7218, 0x0⟩
/-- CH_CANCEL_COUNT (R274). -/
def chCancelCount (n : Nat) : RegRef := ⟨chBlock n + 0x7220, 0x0⟩
/-- CH_CANCEL_DROP_COUNT (R274). -/
def chCancelDropCount (n : Nat) : RegRef := ⟨chBlock n + 0x7228, 0x0⟩
/-- CH_ROT_HOP_COUNT (R274). -/
def chRotHopCount (n : Nat) : RegRef := ⟨chBlock n + 0x7230, 0x0⟩
/-- CH_SP_MSG_COUNT (R274). -/
def chSpMsgCount (n : Nat) : RegRef := ⟨chBlock n + 0x7238, 0x0⟩
/-- CH_SPARSE_ARRAY_TILE_COUNT (R315). -/
def chSparseArrayTileCount (n : Nat) : RegRef := ⟨chBlock n + 0x7300, 0x0⟩
/-- CH_SPARSE_SU_TILE_COUNT (R315). -/
def chSparseSuTileCount (n : Nat) : RegRef := ⟨chBlock n + 0x7308, 0x0⟩
/-- CH_SPARSE_SKIP_TILE_COUNT (R315). -/
def chSparseSkipTileCount (n : Nat) : RegRef := ⟨chBlock n + 0x7310, 0x0⟩
/-- CH_SPARSE_BAD_INDEX_COUNT (R315). -/
def chSparseBadIndexCount (n : Nat) : RegRef := ⟨chBlock n + 0x7318, 0x0⟩
/-- CH_SPARSE_STRUCT_COUNT (R315). -/
def chSparseStructCount (n : Nat) : RegRef := ⟨chBlock n + 0x7320, 0x0⟩
/-- CH_GATHER_COALESCE_COUNT (R315). -/
def chGatherCoalesceCount (n : Nat) : RegRef := ⟨chBlock n + 0x7328, 0x0⟩
/-- CH_ISECT_PAIR_COUNT (R315). -/
def chIsectPairCount (n : Nat) : RegRef := ⟨chBlock n + 0x7330, 0x0⟩
/-- CH_T0_CE_COUNT (R348). -/
def chT0CeCount (n : Nat) : RegRef := ⟨chBlock n + 0x7400, 0x0⟩
/-- CH_T0_UE_COUNT (R348). -/
def chT0UeCount (n : Nat) : RegRef := ⟨chBlock n + 0x7408, 0x0⟩
/-- CH_T1_CE_COUNT (R348). -/
def chT1CeCount (n : Nat) : RegRef := ⟨chBlock n + 0x7410, 0x0⟩
/-- CH_T1_UE_COUNT (R348). -/
def chT1UeCount (n : Nat) : RegRef := ⟨chBlock n + 0x7418, 0x0⟩
/-- CH_PAGE_FAULT_COUNT (R348). -/
def chPageFaultCount (n : Nat) : RegRef := ⟨chBlock n + 0x7420, 0x0⟩
/-- CH_MIG_DONE_COUNT (R348). -/
def chMigDoneCount (n : Nat) : RegRef := ⟨chBlock n + 0x7428, 0x0⟩
/-- CH_MIRROR_WRITE_COUNT (R348). -/
def chMirrorWriteCount (n : Nat) : RegRef := ⟨chBlock n + 0x7430, 0x0⟩
/-- CH_HOT_COUNT (R348). -/
def chHotCount (n : Nat) : RegRef := ⟨chBlock n + 0x7438, 0x0⟩
/-- CH_ATTN_EMPTY_ROW_COUNT (R419). -/
def chAttnEmptyRowCount (n : Nat) : RegRef := ⟨chBlock n + 0x7500, 0x0⟩
/-- CH_ATTN_NAN_ROW_COUNT (R419). -/
def chAttnNanRowCount (n : Nat) : RegRef := ⟨chBlock n + 0x7508, 0x0⟩
/-- CH_ATTN_SKIP_BLOCK_COUNT (R419). -/
def chAttnSkipBlockCount (n : Nat) : RegRef := ⟨chBlock n + 0x7510, 0x0⟩
/-- CH_ATTN_STALE_ITEM_COUNT (R419). -/
def chAttnStaleItemCount (n : Nat) : RegRef := ⟨chBlock n + 0x7518, 0x0⟩
/-- CH_KV_HDR_FAULT_COUNT (R443). -/
def chKvHdrFaultCount (n : Nat) : RegRef := ⟨chBlock n + 0x7520, 0x0⟩
/-- CH_KV_SHADOW_BLOCK_COUNT (R443). -/
def chKvShadowBlockCount (n : Nat) : RegRef := ⟨chBlock n + 0x7528, 0x0⟩
/-- CH_KV_SHADOW_DIRTY (R443). -/
def chKvShadowDirty (n : Nat) : RegRef := ⟨chBlock n + 0x7530, 0x0⟩
/-- CH_CORE_RETIRE_COUNT (R592). -/
def chCoreRetireCount (n : Nat) : RegRef := ⟨chBlock n + 0x7600, 0x0⟩
/-- CH_DRAM_ROW_FAIL_COUNT (R592). -/
def chDramRowFailCount (n : Nat) : RegRef := ⟨chBlock n + 0x7608, 0x0⟩
/-- CH_T0_SCRUB_PASS_COUNT (R592). -/
def chT0ScrubPassCount (n : Nat) : RegRef := ⟨chBlock n + 0x7610, 0x0⟩
/-- CH_T1_SCRUB_PASS_COUNT (R592). -/
def chT1ScrubPassCount (n : Nat) : RegRef := ⟨chBlock n + 0x7618, 0x0⟩
/-- CH_CLK_STRETCH_CYCLES (R622). -/
def chClkStretchCycles (n : Nat) : RegRef := ⟨chBlock n + 0x7620, 0x0⟩
/-- CH_CLK_STRETCH_COUNT (R622). -/
def chClkStretchCount (n : Nat) : RegRef := ⟨chBlock n + 0x7628, 0x0⟩
/-- CH_EQ_LOST_COUNT (R565). -/
def chEqLostCount (n : Nat) : RegRef := ⟨chBlock n + 0x7630, 0x0⟩
/-- CH_KV_GEN (R433). -/
def chKvGen (n : Nat) (j : Nat) : RegRef := ⟨chBlock n + 0x600000 + j * 8, 0x0⟩
/-- CH_LINK_FEC_CORR_COUNT (R504). -/
def chLinkFecCorrCount (n : Nat) (j : Nat) : RegRef := ⟨chBlock n + 0x7700 + j * 64, 0x0⟩
/-- CH_LINK_FEC_UNCORR_COUNT (R504). -/
def chLinkFecUncorrCount (n : Nat) (j : Nat) : RegRef := ⟨chBlock n + 0x7708 + j * 64, 0x0⟩
/-- CH_LINK_CRC_COUNT (R504). -/
def chLinkCrcCount (n : Nat) (j : Nat) : RegRef := ⟨chBlock n + 0x7710 + j * 64, 0x0⟩
/-- CH_LINK_REPLAY_COUNT (R504). -/
def chLinkReplayCount (n : Nat) (j : Nat) : RegRef := ⟨chBlock n + 0x7718 + j * 64, 0x0⟩
/-- CH_LINK_LANE_DROP_COUNT (R504). -/
def chLinkLaneDropCount (n : Nat) (j : Nat) : RegRef := ⟨chBlock n + 0x7720 + j * 64, 0x0⟩
/-- CH_LINK_RELOCK_COUNT (R504). -/
def chLinkRelockCount (n : Nat) (j : Nat) : RegRef := ⟨chBlock n + 0x7728 + j * 64, 0x0⟩
/-- CH_LINK_BADMSG_COUNT (R504). -/
def chLinkBadmsgCount (n : Nat) (j : Nat) : RegRef := ⟨chBlock n + 0x7730 + j * 64, 0x0⟩
/-- CORE_TASK_REGION (R150). -/
def coreTaskRegion (n i : Nat) (j : Nat) : RegRef := ⟨corePage n i + 0x0 + j * 8, 0x0⟩
/-- CORE_CS_POWER (R168). -/
def coreCsPower (n i : Nat) : RegRef := ⟨corePage n i + 0x18, 0xF⟩
/-- CORE_CS_STATUS (R176). -/
def coreCsStatus (n i : Nat) : RegRef := ⟨corePage n i + 0x20, 0x800000⟩
/-- CORE_RECV_WINDOW (R160). -/
def coreRecvWindow (n i : Nat) (j : Nat) : RegRef := ⟨corePage n i + 0x40 + j * 8, 0x0⟩
/-- CORE_ARRIVAL (R165). -/
def coreArrival (n i : Nat) (j : Nat) : RegRef := ⟨corePage n i + 0x80 + j * 8, 0x0⟩
/-- CORE_ROW_MAP (R172). -/
def coreRowMap (n i : Nat) (j : Nat) : RegRef := ⟨corePage n i + 0xC0 + j * 8, 0x0⟩
/-- CORE_RING (R243). -/
def coreRing (n i : Nat) (j : Nat) : RegRef := ⟨corePage n i + 0x100 + j * 8, 0x0⟩
/-- GLB_TIME (R675). -/
def glbTime : RegRef := ⟨glbBlock + 0x0, 0x0⟩
/-- GLB_RESET_CAUSE (R646). -/
def glbResetCause : RegRef := ⟨glbBlock + 0x8, 0x1⟩
/-- GLB_RESET_CTRL (R646). -/
def glbResetCtrl : RegRef := ⟨glbBlock + 0x10, 0x0⟩
/-- GLB_START_CTRL (R660). -/
def glbStartCtrl : RegRef := ⟨glbBlock + 0x18, 0x0⟩
/-- GLB_START_STATUS (R660). -/
def glbStartStatus : RegRef := ⟨glbBlock + 0x20, 0x0⟩
/-- GLB_DIE_STATUS (R586). -/
def glbDieStatus : RegRef := ⟨glbBlock + 0x28, 0x0⟩
/-- GLB_FIELD_STATUS (R591). -/
def glbFieldStatus : RegRef := ⟨glbBlock + 0x30, 0x0⟩
/-- GLB_FAULT_SUMMARY (R675). -/
def glbFaultSummary : RegRef := ⟨glbBlock + 0x38, 0x0⟩
/-- GLB_IL_KEY (R324). -/
def glbIlKey (j : Nat) : RegRef := ⟨glbBlock + 0x1000 + j * 8, 0x0⟩
/-- GLB_IL_CTRL (R325). -/
def glbIlCtrl : RegRef := ⟨glbBlock + 0x1030, 0x0⟩
/-- GLB_REF_HEARTBEAT (R550). -/
def glbRefHeartbeat : RegRef := ⟨glbBlock + 0x2000, 0x0⟩
/-- GLB_REF_STATUS (R554). -/
def glbRefStatus : RegRef := ⟨glbBlock + 0x2008, 0x40000000⟩
/-- GLB_EQ_BASE (R565). -/
def glbEqBase : RegRef := ⟨glbBlock + 0x2010, 0x0⟩
/-- GLB_EQ_HEAD (R565). -/
def glbEqHead : RegRef := ⟨glbBlock + 0x2018, 0x0⟩
/-- GLB_EQ_TAIL (R565). -/
def glbEqTail : RegRef := ⟨glbBlock + 0x2020, 0x0⟩
/-- GLB_EVT_HOST_MASK (R568). -/
def glbEvtHostMask : RegRef := ⟨glbBlock + 0x2028, 0xF14EF00057194⟩
/-- GLB_EVT_STATUS (R568). -/
def glbEvtStatus : RegRef := ⟨glbBlock + 0x2030, 0x0⟩
/-- GLB_EVT_SEL (R568). -/
def glbEvtSel : RegRef := ⟨glbBlock + 0x2038, 0x0⟩
/-- GLB_EVT_REC (R568). -/
def glbEvtRec (j : Nat) : RegRef := ⟨glbBlock + 0x2040 + j * 8, 0x0⟩
/-- GLB_GROUP_STATUS (R511). -/
def glbGroupStatus : RegRef := ⟨glbBlock + 0x3000, 0x0⟩
/-- GLB_ROUTE (R512). -/
def glbRoute (j : Nat) : RegRef := ⟨glbBlock + 0x3008 + j * 8, 0x0⟩
/-- GLB_HOST_CFG (R521). -/
def glbHostCfg : RegRef := ⟨glbBlock + 0x3048, 0x0⟩
/-- GLB_BYE_CTRL (R501). -/
def glbByeCtrl : RegRef := ⟨glbBlock + 0x3050, 0x0⟩
/-- GLB_BYE_STATUS (R501). -/
def glbByeStatus : RegRef := ⟨glbBlock + 0x3058, 0xFF⟩
/-- GLB_RED_BASE (R546). -/
def glbRedBase : RegRef := ⟨glbBlock + 0x4000, 0x0⟩
/-- GLB_RED_CMD (R537). -/
def glbRedCmd : RegRef := ⟨glbBlock + 0x4008, 0x0⟩
/-- GLB_RED_STATUS (R546). -/
def glbRedStatus : RegRef := ⟨glbBlock + 0x4010, 0x0⟩
/-- GLB_RED_DIGEST_SEL (R545). -/
def glbRedDigestSel : RegRef := ⟨glbBlock + 0x4018, 0x0⟩
/-- GLB_RED_DIGEST (R545). -/
def glbRedDigest (j : Nat) : RegRef := ⟨glbBlock + 0x4020 + j * 8, 0x0⟩
/-- GLB_TRAIN_STATUS (R460). -/
def glbTrainStatus : RegRef := ⟨glbBlock + 0x4030, 0x0⟩
/-- GLB_PWR_CAP (R618). -/
def glbPwrCap : RegRef := ⟨glbBlock + 0x5000, 0xC00006D6⟩
/-- GLB_PWR_CTRL (R618). -/
def glbPwrCtrl : RegRef := ⟨glbBlock + 0x5008, 0x0⟩
/-- GLB_PWR_STATUS (R618). -/
def glbPwrStatus : RegRef := ⟨glbBlock + 0x5010, 0x28000000⟩
/-- GLB_THERM_STATUS (R616). -/
def glbThermStatus : RegRef := ⟨glbBlock + 0x5018, 0x0⟩
/-- GLB_LC_STATUS (R643). -/
def glbLcStatus : RegRef := ⟨glbBlock + 0x6000, 0x0⟩
/-- GLB_LC_CMD (R643). -/
def glbLcCmd : RegRef := ⟨glbBlock + 0x6008, 0x0⟩
/-- GLB_LC_NONCE (R643). -/
def glbLcNonce : RegRef := ⟨glbBlock + 0x6010, 0x0⟩
/-- GLB_ATT_CMD (R643). -/
def glbAttCmd : RegRef := ⟨glbBlock + 0x6018, 0x0⟩
/-- GLB_SEC_MEAS (R633). -/
def glbSecMeas (j : Nat) : RegRef := ⟨glbBlock + 0x6020 + j * 8, 0x0⟩
/-- GLB_LC_TOKEN (R643). -/
def glbLcToken (j : Nat) : RegRef := ⟨glbBlock + 0x10000 + j * 8, 0x0⟩
/-- GLB_ATT_NONCE (R643). -/
def glbAttNonce (j : Nat) : RegRef := ⟨glbBlock + 0x12000 + j * 8, 0x0⟩
/-- GLB_ATT_REPORT (R643). -/
def glbAttReport (j : Nat) : RegRef := ⟨glbBlock + 0x14000 + j * 8, 0x0⟩
/-- GLB_ATT_LOG (R643). -/
def glbAttLog (j : Nat) : RegRef := ⟨glbBlock + 0x16000 + j * 8, 0x0⟩
/-- GLB_LINK_STALE_COUNT (R504). -/
def glbLinkStaleCount : RegRef := ⟨glbBlock + 0x30000, 0x0⟩
/-- GLB_LINK_TTL_DROP_COUNT (R504). -/
def glbLinkTtlDropCount : RegRef := ⟨glbBlock + 0x30008, 0x0⟩
/-- GLB_LINK_UNROUTE_COUNT (R504). -/
def glbLinkUnrouteCount : RegRef := ⟨glbBlock + 0x30010, 0x0⟩
/-- GLB_LINK_AGE_DROP_COUNT (R504). -/
def glbLinkAgeDropCount : RegRef := ⟨glbBlock + 0x30018, 0x0⟩
/-- GLB_WIN_REJECT_COUNT (R504). -/
def glbWinRejectCount : RegRef := ⟨glbBlock + 0x30020, 0x0⟩
/-- GLB_HOST_RX_FRAME_COUNT (R528). -/
def glbHostRxFrameCount : RegRef := ⟨glbBlock + 0x30028, 0x0⟩
/-- GLB_HOST_DROP_COUNT (R528). -/
def glbHostDropCount : RegRef := ⟨glbBlock + 0x30030, 0x0⟩
/-- GLB_HOST_RESEND_COUNT (R528). -/
def glbHostResendCount : RegRef := ⟨glbBlock + 0x30038, 0x0⟩
/-- GLB_GROUP_EPOCH_COUNT (R528). -/
def glbGroupEpochCount : RegRef := ⟨glbBlock + 0x30040, 0x0⟩
/-- GLB_RED_SEG_COUNT (R547). -/
def glbRedSegCount : RegRef := ⟨glbBlock + 0x30048, 0x0⟩
/-- GLB_RED_RESCALE_BLOCK_COUNT (R547). -/
def glbRedRescaleBlockCount : RegRef := ⟨glbBlock + 0x30050, 0x0⟩
/-- GLB_RED_RESCALE_BITS_COUNT (R547). -/
def glbRedRescaleBitsCount : RegRef := ⟨glbBlock + 0x30058, 0x0⟩
/-- GLB_RED_SAT_COUNT (R547). -/
def glbRedSatCount : RegRef := ⟨glbBlock + 0x30060, 0x0⟩
/-- GLB_RED_DROP_COUNT (R547). -/
def glbRedDropCount : RegRef := ⟨glbBlock + 0x30068, 0x0⟩
/-- GLB_RED_DUP_COUNT (R547). -/
def glbRedDupCount : RegRef := ⟨glbBlock + 0x30070, 0x0⟩
/-- GLB_TRAIN_STEP_COUNT (R460). -/
def glbTrainStepCount : RegRef := ⟨glbBlock + 0x30078, 0x0⟩
/-- GLB_REQ_ADMIT_COUNT (R569). -/
def glbReqAdmitCount : RegRef := ⟨glbBlock + 0x30080, 0x0⟩
/-- GLB_REQ_DEFER_COUNT (R569). -/
def glbReqDeferCount : RegRef := ⟨glbBlock + 0x30088, 0x0⟩
/-- GLB_RESP_TOKEN_COUNT (R569). -/
def glbRespTokenCount : RegRef := ⟨glbBlock + 0x30090, 0x0⟩
/-- GLB_CC_TAKEOVER_COUNT (R569). -/
def glbCcTakeoverCount : RegRef := ⟨glbBlock + 0x30098, 0x0⟩
/-- GLB_EQ_LOST_COUNT (R569). -/
def glbEqLostCount : RegRef := ⟨glbBlock + 0x300A0, 0x0⟩
/-- GLB_EVT_NOTICE_COUNT (R569). -/
def glbEvtNoticeCount : RegRef := ⟨glbBlock + 0x300A8, 0x0⟩
/-- GLB_PWR_CAP_STEP_COUNT (R622). -/
def glbPwrCapStepCount : RegRef := ⟨glbBlock + 0x300B0, 0x0⟩
/-- GLB_THERM_THROTTLE_COUNT (R622). -/
def glbThermThrottleCount : RegRef := ⟨glbBlock + 0x300B8, 0x0⟩
/-- GLB_ILIMIT_COUNT (R622). -/
def glbIlimitCount : RegRef := ⟨glbBlock + 0x300C0, 0x0⟩
/-- GLB_WIN_CTRL (R480). -/
def glbWinCtrl (j : Nat) : RegRef := ⟨glbBlock + 0x20000 + j * 32, 0x0⟩
/-- GLB_WIN_BASE (R480). -/
def glbWinBase (j : Nat) : RegRef := ⟨glbBlock + 0x20008 + j * 32, 0x0⟩
/-- GLB_WIN_LEN (R480). -/
def glbWinLen (j : Nat) : RegRef := ⟨glbBlock + 0x20010 + j * 32, 0x0⟩
/-- GLB_WIN_ARRIVAL (R480). -/
def glbWinArrival (j : Nat) : RegRef := ⟨glbBlock + 0x20018 + j * 32, 0x0⟩
/-- LX_CAPS (R375). -/
def lxCaps (k : Nat) : RegRef := ⟨lxBlock k + 0x0, 0xA004020084404000⟩
/-- LX_ATTN_CAPS (R418). -/
def lxAttnCaps (k : Nat) : RegRef := ⟨lxBlock k + 0x8, 0x8001000204080000⟩
/-- LX_MV_MAC_COUNT (R376). -/
def lxMvMacCount (k : Nat) : RegRef := ⟨lxBlock k + 0x1000, 0x0⟩
/-- LX_SUM_WAIT_CYCLES (R376). -/
def lxSumWaitCycles (k : Nat) : RegRef := ⟨lxBlock k + 0x1008, 0x0⟩
/-- LX_GATHER_ROW_COUNT (R376). -/
def lxGatherRowCount (k : Nat) : RegRef := ⟨lxBlock k + 0x1010, 0x0⟩
/-- LX_CODEC_GROUP_COUNT (R376). -/
def lxCodecGroupCount (k : Nat) : RegRef := ⟨lxBlock k + 0x1018, 0x0⟩
/-- LX_WALK_PAGE_COUNT (R376). -/
def lxWalkPageCount (k : Nat) : RegRef := ⟨lxBlock k + 0x1020, 0x0⟩
/-- LX_PORT_UP_BYTES (R376). -/
def lxPortUpBytes (k : Nat) : RegRef := ⟨lxBlock k + 0x1028, 0x0⟩
/-- LX_PORT_DOWN_BYTES (R376). -/
def lxPortDownBytes (k : Nat) : RegRef := ⟨lxBlock k + 0x1030, 0x0⟩
/-- LX_ATTN_TOKEN_COUNT (R419). -/
def lxAttnTokenCount (k : Nat) : RegRef := ⟨lxBlock k + 0x1038, 0x0⟩
/-- LX_ATTN_WAIT_CYCLES (R419). -/
def lxAttnWaitCycles (k : Nat) : RegRef := ⟨lxBlock k + 0x1040, 0x0⟩

end Reg

/-- Rows of the channel block (R667). -/
def channelRows0 : List RegRow :=
  [ ⟨.channel, 0x0, 1, 8, [⟨63, 48, .ro, true, 0x0⟩, ⟨47, 38, .ro, false, 0x320⟩, ⟨37, 28, .ro, false, 0x300⟩, ⟨27, 22, .ro, false, 0x20⟩, ⟨21, 20, .ro, false, 0x2⟩, ⟨19, 14, .ro, false, 0x20⟩, ⟨13, 8, .ro, false, 0x3F⟩, ⟨7, 0, .ro, true, 0x0⟩]⟩
  , ⟨.channel, 0x8, 1, 8, [⟨31, 0, .ro, false, 0x40000⟩]⟩
  , ⟨.channel, 0x10, 1, 8, [⟨31, 28, .ro, true, 0x0⟩, ⟨27, 24, .ro, false, 0x8⟩, ⟨23, 20, .ro, false, 0x8⟩, ⟨19, 16, .ro, false, 0x8⟩, ⟨15, 12, .ro, false, 0x8⟩, ⟨11, 8, .ro, false, 0x4⟩, ⟨7, 4, .ro, false, 0x5⟩, ⟨3, 0, .ro, false, 0x6⟩]⟩
  , ⟨.channel, 0x18, 1, 8, [⟨31, 30, .ro, false, 0x2⟩, ⟨29, 17, .ro, false, 0x1000⟩, ⟨16, 13, .ro, false, 0xB⟩, ⟨12, 9, .ro, false, 0x8⟩, ⟨8, 5, .ro, false, 0x7⟩, ⟨4, 1, .ro, false, 0x2⟩, ⟨0, 0, .ro, true, 0x0⟩]⟩
  , ⟨.channel, 0x20, 1, 8, [⟨63, 0, .ro, false, 0x10100101⟩]⟩
  , ⟨.channel, 0x28, 1, 8, [⟨63, 0, .ro, false, 0x20200400⟩]⟩
  , ⟨.channel, 0x30, 1, 8, [⟨63, 0, .ro, false, 0x8400800⟩]⟩
  , ⟨.channel, 0x38, 1, 8, [⟨63, 0, .ro, false, 0x4040200⟩]⟩
  , ⟨.channel, 0x40, 1, 8, [⟨63, 0, .ro, false, 0x20⟩]⟩
  , ⟨.channel, 0x48, 1, 8, [⟨63, 0, .ro, false, 0x40100040⟩]⟩
  , ⟨.channel, 0x50, 1, 8, [⟨63, 0, .ro, false, 0x4030040101⟩]⟩
  , ⟨.channel, 0x58, 1, 8, [⟨63, 0, .ro, false, 0x10100201⟩]⟩
  , ⟨.channel, 0x60, 1, 8, [⟨63, 0, .ro, false, 0x4080600⟩]⟩
  , ⟨.channel, 0x68, 1, 8, [⟨63, 0, .ro, false, 0x8040081⟩]⟩
  , ⟨.channel, 0x1000, 1, 8, [⟨31, 3, .ro, true, 0x0⟩, ⟨2, 2, .ro, false, 0x0⟩, ⟨1, 0, .rw, false, 0x0⟩]⟩
  , ⟨.channel, 0x1008, 1, 8, [⟨31, 8, .ro, true, 0x0⟩, ⟨7, 4, .rw, false, 0x4⟩, ⟨3, 1, .ro, true, 0x0⟩, ⟨0, 0, .rw, false, 0x1⟩]⟩
  , ⟨.channel, 0x1010, 1, 8, [⟨31, 4, .ro, true, 0x0⟩, ⟨3, 0, .rw, false, 0x3⟩]⟩
  , ⟨.channel, 0x1018, 1, 8, [⟨31, 31, .rw, false, 0x1⟩, ⟨30, 20, .ro, true, 0x0⟩, ⟨19, 16, .rw, false, 0x4⟩, ⟨15, 12, .rw, false, 0x4⟩, ⟨11, 0, .rw, false, 0x64⟩]⟩
  , ⟨.channel, 0x1020, 1, 8, [⟨31, 24, .rw, false, 0x18⟩, ⟨23, 16, .rw, false, 0x18⟩, ⟨15, 0, .rw, false, 0x64⟩]⟩
  , ⟨.channel, 0x1028, 1, 8, [⟨63, 48, .ro, true, 0x0⟩, ⟨47, 0, .rw, false, 0x0⟩]⟩
  , ⟨.channel, 0x1030, 1, 8, [⟨31, 31, .rw, false, 0x0⟩, ⟨30, 3, .ro, true, 0x0⟩, ⟨2, 2, .ro, false, 0x0⟩, ⟨1, 0, .ro, false, 0x0⟩]⟩
  , ⟨.channel, 0x1038, 1, 8, [⟨63, 63, .rw, false, 0x0⟩, ⟨62, 62, .ro, false, 0x0⟩, ⟨61, 60, .ro, false, 0x0⟩, ⟨59, 50, .rw, false, 0x0⟩, ⟨49, 40, .rw, false, 0x0⟩, ⟨39, 0, .ro, true, 0x0⟩]⟩
  , ⟨.channel, 0x1040, 1, 8, [⟨31, 0, .rw, false, 0x0⟩]⟩
  , ⟨.channel, 0x1048, 1, 8, [⟨31, 30, .ro, false, 0x1⟩, ⟨29, 29, .ro, false, 0x0⟩, ⟨28, 28, .ro, false, 0x0⟩, ⟨27, 24, .ro, false, 0x0⟩, ⟨23, 2, .ro, true, 0x0⟩, ⟨1, 0, .ro, false, 0x0⟩]⟩ ]

/-- Rows of the channel block (R667). -/
def channelRows1 : List RegRow :=
  [ ⟨.channel, 0x1050, 1, 8, [⟨31, 22, .ro, false, 0x3AC⟩, ⟨21, 18, .ro, false, 0x8⟩, ⟨17, 16, .ro, false, 0x0⟩, ⟨15, 15, .ro, false, 0x0⟩, ⟨14, 14, .ro, false, 0x0⟩, ⟨13, 13, .ro, false, 0x0⟩, ⟨12, 12, .ro, false, 0x0⟩, ⟨11, 0, .ro, true, 0x0⟩]⟩
  , ⟨.channel, 0x1800, 16, 8, [⟨63, 63, .rw, false, 0x0⟩, ⟨62, 48, .ro, true, 0x0⟩, ⟨47, 29, .rw, false, 0x0⟩, ⟨28, 17, .ro, true, 0x0⟩, ⟨16, 0, .rw, false, 0x0⟩]⟩
  , ⟨.channel, 0x1880, 1, 8, [⟨63, 63, .rw, false, 0x0⟩, ⟨62, 48, .ro, true, 0x0⟩, ⟨47, 29, .rw, false, 0x0⟩, ⟨28, 17, .ro, true, 0x0⟩, ⟨16, 0, .rw, false, 0x0⟩]⟩
  , ⟨.channel, 0x1888, 4, 8, [⟨63, 63, .rw, false, 0x0⟩, ⟨62, 62, .rw, false, 0x0⟩, ⟨61, 46, .ro, true, 0x0⟩, ⟨45, 23, .rw, false, 0x0⟩, ⟨22, 0, .rw, false, 0x0⟩]⟩
  , ⟨.channel, 0x18A8, 1, 8, [⟨63, 63, .rw, false, 0x0⟩, ⟨62, 62, .ro, false, 0x0⟩, ⟨61, 48, .ro, true, 0x0⟩, ⟨47, 0, .rw, false, 0x0⟩]⟩
  , ⟨.channel, 0x18B0, 1, 8, [⟨63, 63, .rw, false, 0x0⟩, ⟨62, 32, .ro, true, 0x0⟩, ⟨31, 0, .rw, false, 0x0⟩]⟩
  , ⟨.channel, 0x2000, 1, 8, [⟨63, 63, .w1c, false, 0x0⟩, ⟨62, 59, .ro, false, 0x0⟩, ⟨58, 47, .ro, false, 0x0⟩, ⟨46, 32, .ro, true, 0x0⟩, ⟨31, 0, .ro, false, 0x0⟩]⟩
  , ⟨.channel, 0x2008, 1, 8, [⟨31, 31, .rw, false, 0x0⟩, ⟨30, 12, .ro, true, 0x0⟩, ⟨11, 0, .rw, false, 0x0⟩]⟩
  , ⟨.channel, 0x2010, 1, 8, [⟨63, 63, .rw, false, 0x0⟩, ⟨62, 62, .ro, false, 0x0⟩, ⟨61, 32, .ro, true, 0x0⟩, ⟨31, 0, .rw, false, 0x0⟩]⟩
  , ⟨.channel, 0x2018, 1, 8, [⟨31, 12, .ro, true, 0x0⟩, ⟨11, 0, .rw, false, 0x0⟩]⟩
  , ⟨.channel, 0x2020, 1, 8, [⟨63, 63, .ro, false, 0x0⟩, ⟨62, 61, .ro, false, 0x0⟩, ⟨60, 60, .ro, false, 0x0⟩, ⟨59, 56, .ro, false, 0x0⟩, ⟨55, 32, .ro, false, 0x0⟩, ⟨31, 0, .ro, false, 0x0⟩]⟩
  , ⟨.channel, 0x2028, 1, 8, [⟨31, 0, .ro, false, 0x0⟩]⟩
  , ⟨.channel, 0x2030, 1, 8, [⟨63, 63, .w1c, false, 0x0⟩, ⟨62, 44, .ro, true, 0x0⟩, ⟨43, 32, .ro, false, 0x0⟩, ⟨31, 0, .ro, false, 0x0⟩]⟩
  , ⟨.channel, 0x3000, 1, 8, [⟨63, 63, .w1c, false, 0x0⟩, ⟨62, 48, .ro, true, 0x0⟩, ⟨47, 0, .rw, false, 0x0⟩]⟩
  , ⟨.channel, 0x3008, 1, 8, [⟨31, 12, .ro, true, 0x0⟩, ⟨11, 0, .ro, false, 0x0⟩]⟩
  , ⟨.channel, 0x3010, 1, 8, [⟨31, 12, .ro, true, 0x0⟩, ⟨11, 0, .rw, false, 0x0⟩]⟩
  , ⟨.channel, 0x3018, 1, 8, [⟨63, 48, .ro, true, 0x0⟩, ⟨47, 0, .rw, false, 0x0⟩]⟩
  , ⟨.channel, 0x3020, 1, 8, [⟨31, 10, .ro, true, 0x0⟩, ⟨9, 0, .rw, false, 0x0⟩]⟩
  , ⟨.channel, 0x3028, 1, 8, [⟨31, 10, .ro, true, 0x0⟩, ⟨9, 0, .ro, false, 0x0⟩]⟩
  , ⟨.channel, 0x3030, 1, 8, [⟨63, 60, .rw, false, 0x0⟩, ⟨59, 59, .rw, false, 0x0⟩, ⟨58, 58, .rw, false, 0x0⟩, ⟨57, 23, .ro, true, 0x0⟩, ⟨22, 0, .rw, false, 0x0⟩]⟩
  , ⟨.channel, 0x3038, 1, 8, [⟨63, 48, .ro, true, 0x0⟩, ⟨47, 0, .rw, false, 0x0⟩]⟩
  , ⟨.channel, 0x3040, 1, 8, [⟨63, 32, .rw, false, 0x0⟩, ⟨31, 0, .rw, false, 0x0⟩]⟩
  , ⟨.channel, 0x3048, 1, 8, [⟨63, 0, .rw, false, 0x0⟩]⟩
  , ⟨.channel, 0x3050, 1, 8, [⟨31, 10, .ro, true, 0x0⟩, ⟨9, 9, .w1c, false, 0x0⟩, ⟨8, 8, .w1c, false, 0x0⟩, ⟨7, 7, .ro, true, 0x0⟩, ⟨6, 0, .ro, false, 0x40⟩]⟩ ]

/-- Rows of the channel block (R667). -/
def channelRows2 : List RegRow :=
  [ ⟨.channel, 0x3058, 1, 8, [⟨63, 61, .rw, false, 0x0⟩, ⟨60, 53, .rw, false, 0x0⟩, ⟨52, 45, .rw, false, 0x0⟩, ⟨44, 32, .ro, true, 0x0⟩, ⟨31, 0, .rw, false, 0x0⟩]⟩
  , ⟨.channel, 0x3060, 1, 8, [⟨63, 48, .ro, true, 0x0⟩, ⟨47, 0, .rw, false, 0x0⟩]⟩
  , ⟨.channel, 0x3068, 1, 8, [⟨63, 32, .rw, false, 0x0⟩, ⟨31, 0, .rw, false, 0x0⟩]⟩
  , ⟨.channel, 0x3070, 1, 8, [⟨63, 32, .rw, false, 0x0⟩, ⟨31, 16, .rw, false, 0x0⟩, ⟨15, 8, .rw, false, 0x0⟩, ⟨7, 7, .rw, false, 0x0⟩, ⟨6, 6, .rw, false, 0x0⟩, ⟨5, 5, .rw, false, 0x0⟩, ⟨4, 0, .ro, true, 0x0⟩]⟩
  , ⟨.channel, 0x3078, 1, 8, [⟨31, 10, .ro, true, 0x0⟩, ⟨9, 9, .w1c, false, 0x0⟩, ⟨8, 8, .w1c, false, 0x0⟩, ⟨7, 7, .ro, true, 0x0⟩, ⟨6, 0, .ro, false, 0x40⟩]⟩
  , ⟨.channel, 0x3080, 2, 8, [⟨31, 29, .ro, false, 0x0⟩, ⟨28, 25, .ro, false, 0x0⟩, ⟨24, 24, .ro, false, 0x0⟩, ⟨23, 23, .ro, false, 0x0⟩, ⟨22, 22, .ro, false, 0x0⟩, ⟨21, 19, .ro, false, 0x0⟩, ⟨18, 16, .ro, false, 0x0⟩, ⟨15, 13, .ro, false, 0x0⟩, ⟨12, 12, .ro, false, 0x0⟩, ⟨11, 0, .ro, true, 0x0⟩]⟩
  , ⟨.channel, 0x3090, 2, 8, [⟨31, 31, .rw, false, 0x0⟩, ⟨30, 30, .rw, false, 0x0⟩, ⟨29, 29, .rw, false, 0x0⟩, ⟨28, 0, .ro, true, 0x0⟩]⟩
  , ⟨.channel, 0x4000, 768, 8, [⟨31, 10, .ro, true, 0x0⟩, ⟨9, 0, .rw, false, 0x0⟩]⟩
  , ⟨.channel, 0x6000, 1, 8, [⟨31, 13, .ro, true, 0x0⟩, ⟨12, 12, .ro, false, 0x0⟩, ⟨11, 11, .ro, false, 0x0⟩, ⟨10, 10, .ro, false, 0x0⟩, ⟨9, 9, .ro, false, 0x0⟩, ⟨8, 8, .ro, false, 0x0⟩, ⟨7, 7, .ro, false, 0x0⟩, ⟨6, 6, .ro, false, 0x0⟩, ⟨5, 5, .ro, false, 0x0⟩, ⟨4, 4, .ro, false, 0x0⟩, ⟨3, 3, .ro, false, 0x0⟩, ⟨2, 2, .ro, false, 0x0⟩, ⟨1, 1, .ro, false, 0x0⟩, ⟨0, 0, .ro, false, 0x0⟩]⟩
  , ⟨.channel, 0x6008, 1, 8, [⟨31, 5, .ro, true, 0x0⟩, ⟨4, 4, .w1c, false, 0x0⟩, ⟨3, 3, .w1c, false, 0x0⟩, ⟨2, 2, .w1c, false, 0x0⟩, ⟨1, 1, .w1c, false, 0x0⟩, ⟨0, 0, .w1c, false, 0x0⟩]⟩
  , ⟨.channel, 0x6010, 1, 8, [⟨63, 63, .w1c, false, 0x0⟩, ⟨62, 53, .ro, false, 0x0⟩, ⟨52, 52, .ro, false, 0x0⟩, ⟨51, 51, .ro, false, 0x0⟩, ⟨50, 50, .ro, false, 0x0⟩, ⟨49, 45, .ro, false, 0x0⟩, ⟨44, 40, .ro, false, 0x0⟩, ⟨39, 32, .ro, true, 0x0⟩, ⟨31, 0, .ro, false, 0x0⟩]⟩
  , ⟨.channel, 0x6018, 1, 8, [⟨63, 63, .w1c, false, 0x0⟩, ⟨62, 53, .ro, false, 0x0⟩, ⟨52, 52, .ro, false, 0x0⟩, ⟨51, 51, .ro, false, 0x0⟩, ⟨50, 50, .ro, false, 0x0⟩, ⟨49, 45, .ro, false, 0x0⟩, ⟨44, 40, .ro, false, 0x0⟩, ⟨39, 32, .ro, false, 0x0⟩, ⟨31, 0, .ro, false, 0x0⟩]⟩
  , ⟨.channel, 0x6020, 1, 8, [⟨31, 0, .ro, false, 0x0⟩]⟩
  , ⟨.channel, 0x6028, 1, 8, [⟨63, 63, .w1c, false, 0x0⟩, ⟨62, 58, .ro, true, 0x0⟩, ⟨57, 54, .ro, false, 0x0⟩, ⟨53, 51, .ro, false, 0x0⟩, ⟨50, 48, .ro, false, 0x0⟩, ⟨47, 32, .ro, true, 0x0⟩, ⟨31, 0, .ro, false, 0x0⟩]⟩
  , ⟨.channel, 0x6030, 1, 8, [⟨31, 3, .ro, true, 0x0⟩, ⟨2, 2, .w1c, false, 0x0⟩, ⟨1, 1, .w1c, false, 0x0⟩, ⟨0, 0, .w1c, false, 0x0⟩]⟩
  , ⟨.channel, 0x6038, 1, 8, [⟨63, 63, .w1c, false, 0x0⟩, ⟨62, 59, .ro, false, 0x0⟩, ⟨58, 56, .ro, false, 0x0⟩, ⟨55, 32, .ro, true, 0x0⟩, ⟨31, 0, .ro, false, 0x0⟩]⟩
  , ⟨.channel, 0x6040, 1, 8, [⟨31, 0, .ro, false, 0x0⟩]⟩
  , ⟨.channel, 0x6048, 1, 8, [⟨63, 63, .w1c, false, 0x0⟩, ⟨62, 62, .ro, false, 0x0⟩, ⟨61, 60, .ro, false, 0x0⟩, ⟨59, 58, .ro, false, 0x0⟩, ⟨57, 55, .ro, true, 0x0⟩, ⟨54, 32, .ro, false, 0x0⟩, ⟨31, 12, .ro, true, 0x0⟩, ⟨11, 0, .ro, false, 0x0⟩]⟩
  , ⟨.channel, 0x6050, 1, 8, [⟨63, 63, .w1c, false, 0x0⟩, ⟨62, 61, .ro, false, 0x0⟩, ⟨60, 56, .ro, false, 0x0⟩, ⟨55, 48, .ro, true, 0x0⟩, ⟨47, 40, .ro, false, 0x0⟩, ⟨39, 32, .ro, false, 0x0⟩, ⟨31, 0, .ro, false, 0x0⟩]⟩
  , ⟨.channel, 0x6058, 1, 8, [⟨63, 63, .w1c, false, 0x0⟩, ⟨62, 59, .ro, false, 0x0⟩, ⟨58, 56, .ro, true, 0x0⟩, ⟨55, 32, .ro, false, 0x0⟩, ⟨31, 0, .ro, false, 0x0⟩]⟩
  , ⟨.channel, 0x6060, 1, 8, [⟨63, 63, .w1c, false, 0x0⟩, ⟨62, 60, .ro, false, 0x0⟩, ⟨59, 55, .ro, true, 0x0⟩, ⟨54, 32, .ro, false, 0x0⟩, ⟨31, 0, .ro, false, 0x0⟩]⟩
  , ⟨.channel, 0x7000, 1, 8, [⟨63, 0, .rc, false, 0x0⟩]⟩
  , ⟨.channel, 0x7008, 1, 8, [⟨63, 0, .rc, false, 0x0⟩]⟩
  , ⟨.channel, 0x7010, 1, 8, [⟨63, 0, .rc, false, 0x0⟩]⟩ ]

/-- Rows of the channel block (R667). -/
def channelRows3 : List RegRow :=
  [ ⟨.channel, 0x7018, 1, 8, [⟨63, 0, .rc, false, 0x0⟩]⟩
  , ⟨.channel, 0x7020, 1, 8, [⟨63, 0, .rc, false, 0x0⟩]⟩
  , ⟨.channel, 0x7028, 1, 8, [⟨63, 0, .rc, false, 0x0⟩]⟩
  , ⟨.channel, 0x7030, 1, 8, [⟨63, 0, .rc, false, 0x0⟩]⟩
  , ⟨.channel, 0x7038, 1, 8, [⟨31, 0, .rc, false, 0x0⟩]⟩
  , ⟨.channel, 0x7040, 1, 8, [⟨31, 0, .rc, false, 0x0⟩]⟩
  , ⟨.channel, 0x7048, 1, 8, [⟨31, 0, .rc, false, 0x0⟩]⟩
  , ⟨.channel, 0x7100, 1, 8, [⟨31, 0, .rc, false, 0x0⟩]⟩
  , ⟨.channel, 0x7108, 1, 8, [⟨31, 0, .rc, false, 0x0⟩]⟩
  , ⟨.channel, 0x7110, 1, 8, [⟨31, 0, .rc, false, 0x0⟩]⟩
  , ⟨.channel, 0x7118, 1, 8, [⟨31, 0, .rc, false, 0x0⟩]⟩
  , ⟨.channel, 0x7120, 1, 8, [⟨31, 0, .rc, false, 0x0⟩]⟩
  , ⟨.channel, 0x7128, 1, 8, [⟨31, 0, .rc, false, 0x0⟩]⟩
  , ⟨.channel, 0x7130, 1, 8, [⟨63, 0, .rc, false, 0x0⟩]⟩
  , ⟨.channel, 0x7138, 1, 8, [⟨63, 0, .rc, false, 0x0⟩]⟩
  , ⟨.channel, 0x7140, 1, 8, [⟨63, 0, .rc, false, 0x0⟩]⟩
  , ⟨.channel, 0x7200, 1, 8, [⟨63, 0, .rc, false, 0x0⟩]⟩
  , ⟨.channel, 0x7208, 1, 8, [⟨63, 0, .rc, false, 0x0⟩]⟩
  , ⟨.channel, 0x7210, 1, 8, [⟨63, 0, .rc, false, 0x0⟩]⟩
  , ⟨.channel, 0x7218, 1, 8, [⟨31, 0, .rc, false, 0x0⟩]⟩
  , ⟨.channel, 0x7220, 1, 8, [⟨31, 0, .rc, false, 0x0⟩]⟩
  , ⟨.channel, 0x7228, 1, 8, [⟨31, 0, .rc, false, 0x0⟩]⟩
  , ⟨.channel, 0x7230, 1, 8, [⟨63, 0, .rc, false, 0x0⟩]⟩
  , ⟨.channel, 0x7238, 1, 8, [⟨63, 0, .rc, false, 0x0⟩]⟩ ]

/-- Rows of the channel block (R667). -/
def channelRows4 : List RegRow :=
  [ ⟨.channel, 0x7300, 1, 8, [⟨63, 0, .rc, false, 0x0⟩]⟩
  , ⟨.channel, 0x7308, 1, 8, [⟨63, 0, .rc, false, 0x0⟩]⟩
  , ⟨.channel, 0x7310, 1, 8, [⟨63, 0, .rc, false, 0x0⟩]⟩
  , ⟨.channel, 0x7318, 1, 8, [⟨31, 0, .rc, false, 0x0⟩]⟩
  , ⟨.channel, 0x7320, 1, 8, [⟨31, 0, .rc, false, 0x0⟩]⟩
  , ⟨.channel, 0x7328, 1, 8, [⟨63, 0, .rc, false, 0x0⟩]⟩
  , ⟨.channel, 0x7330, 1, 8, [⟨63, 0, .rc, false, 0x0⟩]⟩
  , ⟨.channel, 0x7400, 1, 8, [⟨31, 0, .rc, false, 0x0⟩]⟩
  , ⟨.channel, 0x7408, 1, 8, [⟨31, 0, .rc, false, 0x0⟩]⟩
  , ⟨.channel, 0x7410, 1, 8, [⟨31, 0, .rc, false, 0x0⟩]⟩
  , ⟨.channel, 0x7418, 1, 8, [⟨31, 0, .rc, false, 0x0⟩]⟩
  , ⟨.channel, 0x7420, 1, 8, [⟨31, 0, .rc, false, 0x0⟩]⟩
  , ⟨.channel, 0x7428, 1, 8, [⟨63, 0, .rc, false, 0x0⟩]⟩
  , ⟨.channel, 0x7430, 1, 8, [⟨63, 0, .rc, false, 0x0⟩]⟩
  , ⟨.channel, 0x7438, 1, 8, [⟨31, 0, .rc, false, 0x0⟩]⟩
  , ⟨.channel, 0x7500, 1, 8, [⟨31, 0, .rc, false, 0x0⟩]⟩
  , ⟨.channel, 0x7508, 1, 8, [⟨31, 0, .rc, false, 0x0⟩]⟩
  , ⟨.channel, 0x7510, 1, 8, [⟨63, 0, .rc, false, 0x0⟩]⟩
  , ⟨.channel, 0x7518, 1, 8, [⟨31, 0, .rc, false, 0x0⟩]⟩
  , ⟨.channel, 0x7520, 1, 8, [⟨31, 0, .rc, false, 0x0⟩]⟩
  , ⟨.channel, 0x7528, 1, 8, [⟨63, 0, .rc, false, 0x0⟩]⟩
  , ⟨.channel, 0x7530, 1, 8, [⟨31, 0, .ro, false, 0x0⟩]⟩
  , ⟨.channel, 0x7600, 1, 8, [⟨31, 0, .rc, false, 0x0⟩]⟩
  , ⟨.channel, 0x7608, 1, 8, [⟨31, 0, .rc, false, 0x0⟩]⟩ ]

/-- Rows of the channel block (R667). -/
def channelRows5 : List RegRow :=
  [ ⟨.channel, 0x7610, 1, 8, [⟨31, 0, .rc, false, 0x0⟩]⟩
  , ⟨.channel, 0x7618, 1, 8, [⟨31, 0, .rc, false, 0x0⟩]⟩
  , ⟨.channel, 0x7620, 1, 8, [⟨63, 0, .rc, false, 0x0⟩]⟩
  , ⟨.channel, 0x7628, 1, 8, [⟨31, 0, .rc, false, 0x0⟩]⟩
  , ⟨.channel, 0x7630, 1, 8, [⟨31, 0, .rc, false, 0x0⟩]⟩
  , ⟨.channel, 0x600000, 8192, 8, [⟨63, 0, .rw, false, 0x0⟩]⟩
  , ⟨.channel, 0x7700, 2, 64, [⟨63, 0, .rc, false, 0x0⟩]⟩
  , ⟨.channel, 0x7708, 2, 64, [⟨31, 0, .rc, false, 0x0⟩]⟩
  , ⟨.channel, 0x7710, 2, 64, [⟨31, 0, .rc, false, 0x0⟩]⟩
  , ⟨.channel, 0x7718, 2, 64, [⟨31, 0, .rc, false, 0x0⟩]⟩
  , ⟨.channel, 0x7720, 2, 64, [⟨31, 0, .rc, false, 0x0⟩]⟩
  , ⟨.channel, 0x7728, 2, 64, [⟨31, 0, .rc, false, 0x0⟩]⟩
  , ⟨.channel, 0x7730, 2, 64, [⟨31, 0, .rc, false, 0x0⟩]⟩ ]

/-- Every row of the channel block (R667). -/
def channelRows : List RegRow := channelRows0 ++ channelRows1 ++ channelRows2 ++ channelRows3 ++ channelRows4 ++ channelRows5

/-- Rows of the core page (R668). -/
def coreRows0 : List RegRow :=
  [ ⟨.core, 0x0, 3, 8, [⟨31, 26, .ro, true, 0x0⟩, ⟨25, 16, .rw, false, 0x0⟩, ⟨15, 9, .ro, true, 0x0⟩, ⟨8, 0, .rw, false, 0x0⟩]⟩
  , ⟨.core, 0x18, 1, 8, [⟨31, 4, .ro, true, 0x0⟩, ⟨3, 1, .rw, false, 0x7⟩, ⟨0, 0, .ro, false, 0x1⟩]⟩
  , ⟨.core, 0x20, 1, 8, [⟨31, 31, .ro, false, 0x0⟩, ⟨30, 30, .ro, false, 0x0⟩, ⟨29, 28, .ro, true, 0x0⟩, ⟨27, 24, .ro, false, 0x0⟩, ⟨23, 20, .ro, false, 0x8⟩, ⟨19, 9, .ro, true, 0x0⟩, ⟨8, 0, .ro, false, 0x0⟩]⟩
  , ⟨.core, 0x40, 8, 8, [⟨31, 31, .rw, false, 0x0⟩, ⟨30, 29, .ro, true, 0x0⟩, ⟨28, 26, .rw, false, 0x0⟩, ⟨25, 16, .rw, false, 0x0⟩, ⟨15, 9, .ro, true, 0x0⟩, ⟨8, 0, .rw, false, 0x0⟩]⟩
  , ⟨.core, 0x80, 8, 8, [⟨31, 0, .rw, false, 0x0⟩]⟩
  , ⟨.core, 0xC0, 8, 8, [⟨31, 31, .rw, false, 0x0⟩, ⟨30, 30, .ro, false, 0x0⟩, ⟨29, 9, .ro, true, 0x0⟩, ⟨8, 0, .rw, false, 0x0⟩]⟩
  , ⟨.core, 0x100, 8, 8, [⟨31, 31, .ro, false, 0x0⟩, ⟨30, 29, .ro, false, 0x0⟩, ⟨28, 26, .ro, false, 0x0⟩, ⟨25, 22, .ro, false, 0x0⟩, ⟨21, 19, .ro, false, 0x0⟩, ⟨18, 15, .ro, false, 0x0⟩, ⟨14, 12, .ro, false, 0x0⟩, ⟨11, 9, .ro, true, 0x0⟩, ⟨8, 0, .ro, false, 0x0⟩]⟩ ]

/-- Every row of the core page (R668). -/
def coreRows : List RegRow := coreRows0

/-- Rows of the global block (R674). -/
def glbRows0 : List RegRow :=
  [ ⟨.glb, 0x0, 1, 8, [⟨63, 0, .ro, false, 0x0⟩]⟩
  , ⟨.glb, 0x8, 1, 8, [⟨31, 7, .ro, true, 0x0⟩, ⟨6, 6, .ro, false, 0x0⟩, ⟨5, 5, .ro, false, 0x0⟩, ⟨4, 4, .ro, false, 0x0⟩, ⟨3, 3, .ro, false, 0x0⟩, ⟨2, 2, .ro, false, 0x0⟩, ⟨1, 1, .ro, false, 0x0⟩, ⟨0, 0, .ro, false, 0x1⟩]⟩
  , ⟨.glb, 0x10, 1, 8, [⟨31, 31, .rw, false, 0x0⟩, ⟨30, 0, .ro, true, 0x0⟩]⟩
  , ⟨.glb, 0x18, 1, 8, [⟨31, 1, .ro, true, 0x0⟩, ⟨0, 0, .rw, false, 0x0⟩]⟩
  , ⟨.glb, 0x20, 1, 8, [⟨31, 31, .ro, false, 0x0⟩, ⟨30, 27, .ro, false, 0x0⟩, ⟨26, 23, .ro, false, 0x0⟩, ⟨22, 0, .ro, false, 0x0⟩]⟩
  , ⟨.glb, 0x28, 1, 8, [⟨31, 4, .ro, true, 0x0⟩, ⟨3, 3, .ro, false, 0x0⟩, ⟨2, 2, .ro, true, 0x0⟩, ⟨1, 1, .ro, false, 0x0⟩, ⟨0, 0, .ro, false, 0x0⟩]⟩
  , ⟨.glb, 0x30, 1, 8, [⟨31, 13, .ro, true, 0x0⟩, ⟨12, 12, .ro, false, 0x0⟩, ⟨11, 0, .ro, false, 0x0⟩]⟩
  , ⟨.glb, 0x38, 1, 8, [⟨31, 9, .ro, true, 0x0⟩, ⟨8, 8, .ro, false, 0x0⟩, ⟨7, 7, .ro, false, 0x0⟩, ⟨6, 6, .ro, false, 0x0⟩, ⟨5, 5, .ro, false, 0x0⟩, ⟨4, 4, .ro, false, 0x0⟩, ⟨3, 0, .ro, false, 0x0⟩]⟩
  , ⟨.glb, 0x1000, 6, 8, [⟨31, 0, .rw, false, 0x0⟩]⟩
  , ⟨.glb, 0x1030, 1, 8, [⟨31, 1, .ro, true, 0x0⟩, ⟨0, 0, .rw, false, 0x0⟩]⟩
  , ⟨.glb, 0x2000, 1, 8, [⟨31, 0, .rw, false, 0x0⟩]⟩
  , ⟨.glb, 0x2008, 1, 8, [⟨31, 30, .ro, false, 0x1⟩, ⟨29, 29, .ro, false, 0x0⟩, ⟨28, 28, .ro, false, 0x0⟩, ⟨27, 24, .ro, false, 0x0⟩, ⟨23, 2, .ro, true, 0x0⟩, ⟨1, 0, .ro, false, 0x0⟩]⟩
  , ⟨.glb, 0x2010, 1, 8, [⟨63, 48, .ro, true, 0x0⟩, ⟨47, 0, .rw, false, 0x0⟩]⟩
  , ⟨.glb, 0x2018, 1, 8, [⟨31, 10, .ro, true, 0x0⟩, ⟨9, 0, .rw, false, 0x0⟩]⟩
  , ⟨.glb, 0x2020, 1, 8, [⟨31, 10, .ro, true, 0x0⟩, ⟨9, 0, .ro, false, 0x0⟩]⟩
  , ⟨.glb, 0x2028, 1, 8, [⟨63, 0, .rw, false, 0xF14EF00057194⟩]⟩
  , ⟨.glb, 0x2030, 1, 8, [⟨31, 1, .ro, true, 0x0⟩, ⟨0, 0, .w1c, false, 0x0⟩]⟩
  , ⟨.glb, 0x2038, 1, 8, [⟨31, 0, .rw, false, 0x0⟩]⟩
  , ⟨.glb, 0x2040, 4, 8, [⟨63, 0, .ro, false, 0x0⟩]⟩
  , ⟨.glb, 0x3000, 1, 8, [⟨63, 48, .ro, false, 0x0⟩, ⟨47, 40, .ro, false, 0x0⟩, ⟨39, 37, .ro, false, 0x0⟩, ⟨36, 36, .ro, false, 0x0⟩, ⟨35, 33, .ro, false, 0x0⟩, ⟨32, 32, .ro, false, 0x0⟩, ⟨31, 28, .ro, false, 0x0⟩, ⟨27, 25, .ro, false, 0x0⟩, ⟨24, 0, .ro, true, 0x0⟩]⟩
  , ⟨.glb, 0x3008, 8, 8, [⟨31, 31, .rw, false, 0x0⟩, ⟨30, 28, .rw, false, 0x0⟩, ⟨27, 25, .rw, false, 0x0⟩, ⟨24, 0, .ro, true, 0x0⟩]⟩
  , ⟨.glb, 0x3048, 1, 8, [⟨31, 16, .rw, false, 0x0⟩, ⟨15, 3, .ro, true, 0x0⟩, ⟨2, 2, .rw, false, 0x0⟩, ⟨1, 1, .rw, false, 0x0⟩, ⟨0, 0, .rw, false, 0x0⟩]⟩
  , ⟨.glb, 0x3050, 1, 8, [⟨31, 1, .ro, true, 0x0⟩, ⟨0, 0, .rw, false, 0x0⟩]⟩
  , ⟨.glb, 0x3058, 1, 8, [⟨31, 16, .ro, true, 0x0⟩, ⟨15, 8, .w1c, false, 0x0⟩, ⟨7, 0, .ro, false, 0xFF⟩]⟩ ]

/-- Rows of the global block (R674). -/
def glbRows1 : List RegRow :=
  [ ⟨.glb, 0x4000, 1, 8, [⟨63, 48, .ro, true, 0x0⟩, ⟨47, 0, .rw, false, 0x0⟩]⟩
  , ⟨.glb, 0x4008, 1, 8, [⟨63, 63, .rw, false, 0x0⟩, ⟨62, 60, .rw, false, 0x0⟩, ⟨59, 48, .rw, false, 0x0⟩, ⟨47, 0, .ro, true, 0x0⟩]⟩
  , ⟨.glb, 0x4010, 1, 8, [⟨31, 3, .ro, true, 0x0⟩, ⟨2, 2, .w1c, false, 0x0⟩, ⟨1, 1, .w1c, false, 0x0⟩, ⟨0, 0, .w1c, false, 0x0⟩]⟩
  , ⟨.glb, 0x4018, 1, 8, [⟨63, 12, .ro, true, 0x0⟩, ⟨11, 0, .rw, false, 0x0⟩]⟩
  , ⟨.glb, 0x4020, 2, 8, [⟨63, 0, .ro, false, 0x0⟩]⟩
  , ⟨.glb, 0x4030, 1, 8, [⟨31, 8, .ro, true, 0x0⟩, ⟨7, 4, .ro, false, 0x0⟩, ⟨3, 0, .ro, false, 0x0⟩]⟩
  , ⟨.glb, 0x5000, 1, 8, [⟨31, 31, .rw, false, 0x1⟩, ⟨30, 27, .rw, false, 0x8⟩, ⟨26, 12, .ro, true, 0x0⟩, ⟨11, 0, .rw, false, 0x6D6⟩]⟩
  , ⟨.glb, 0x5008, 1, 8, [⟨31, 2, .ro, true, 0x0⟩, ⟨1, 0, .rw, false, 0x0⟩]⟩
  , ⟨.glb, 0x5010, 1, 8, [⟨31, 29, .ro, false, 0x1⟩, ⟨28, 28, .ro, false, 0x0⟩, ⟨27, 27, .ro, false, 0x1⟩, ⟨26, 26, .w1c, false, 0x0⟩, ⟨25, 25, .w1c, false, 0x0⟩, ⟨24, 24, .w1c, false, 0x0⟩, ⟨23, 19, .ro, false, 0x0⟩, ⟨18, 0, .ro, true, 0x0⟩]⟩
  , ⟨.glb, 0x5018, 1, 8, [⟨31, 24, .ro, false, 0x0⟩, ⟨23, 20, .ro, false, 0x0⟩, ⟨19, 16, .ro, false, 0x0⟩, ⟨15, 6, .ro, true, 0x0⟩, ⟨5, 1, .ro, false, 0x0⟩, ⟨0, 0, .w1c, false, 0x0⟩]⟩
  , ⟨.glb, 0x6000, 1, 8, [⟨31, 28, .ro, false, 0x0⟩, ⟨27, 26, .ro, false, 0x0⟩, ⟨25, 25, .ro, false, 0x0⟩, ⟨24, 24, .ro, false, 0x0⟩, ⟨23, 23, .ro, false, 0x0⟩, ⟨22, 22, .ro, false, 0x0⟩, ⟨21, 21, .ro, false, 0x0⟩, ⟨20, 0, .ro, true, 0x0⟩]⟩
  , ⟨.glb, 0x6008, 1, 8, [⟨31, 31, .rw, false, 0x0⟩, ⟨30, 30, .ro, false, 0x0⟩, ⟨29, 26, .ro, false, 0x0⟩, ⟨25, 25, .rw, false, 0x0⟩, ⟨24, 0, .ro, true, 0x0⟩]⟩
  , ⟨.glb, 0x6010, 1, 8, [⟨63, 0, .ro, false, 0x0⟩]⟩
  , ⟨.glb, 0x6018, 1, 8, [⟨31, 31, .rw, false, 0x0⟩, ⟨30, 30, .ro, false, 0x0⟩, ⟨29, 29, .w1c, false, 0x0⟩, ⟨28, 0, .ro, true, 0x0⟩]⟩
  , ⟨.glb, 0x6020, 64, 8, [⟨63, 0, .ro, false, 0x0⟩]⟩
  , ⟨.glb, 0x10000, 1024, 8, [⟨63, 0, .rw, false, 0x0⟩]⟩
  , ⟨.glb, 0x12000, 8, 8, [⟨63, 0, .rw, false, 0x0⟩]⟩
  , ⟨.glb, 0x14000, 1024, 8, [⟨63, 0, .ro, false, 0x0⟩]⟩
  , ⟨.glb, 0x16000, 640, 8, [⟨63, 0, .ro, false, 0x0⟩]⟩
  , ⟨.glb, 0x30000, 1, 8, [⟨31, 0, .rc, false, 0x0⟩]⟩
  , ⟨.glb, 0x30008, 1, 8, [⟨31, 0, .rc, false, 0x0⟩]⟩
  , ⟨.glb, 0x30010, 1, 8, [⟨31, 0, .rc, false, 0x0⟩]⟩
  , ⟨.glb, 0x30018, 1, 8, [⟨31, 0, .rc, false, 0x0⟩]⟩
  , ⟨.glb, 0x30020, 1, 8, [⟨31, 0, .rc, false, 0x0⟩]⟩ ]

/-- Rows of the global block (R674). -/
def glbRows2 : List RegRow :=
  [ ⟨.glb, 0x30028, 1, 8, [⟨63, 0, .rc, false, 0x0⟩]⟩
  , ⟨.glb, 0x30030, 1, 8, [⟨31, 0, .rc, false, 0x0⟩]⟩
  , ⟨.glb, 0x30038, 1, 8, [⟨31, 0, .rc, false, 0x0⟩]⟩
  , ⟨.glb, 0x30040, 1, 8, [⟨31, 0, .rc, false, 0x0⟩]⟩
  , ⟨.glb, 0x30048, 1, 8, [⟨63, 0, .rc, false, 0x0⟩]⟩
  , ⟨.glb, 0x30050, 1, 8, [⟨31, 0, .rc, false, 0x0⟩]⟩
  , ⟨.glb, 0x30058, 1, 8, [⟨63, 0, .rc, false, 0x0⟩]⟩
  , ⟨.glb, 0x30060, 1, 8, [⟨31, 0, .rc, false, 0x0⟩]⟩
  , ⟨.glb, 0x30068, 1, 8, [⟨31, 0, .rc, false, 0x0⟩]⟩
  , ⟨.glb, 0x30070, 1, 8, [⟨31, 0, .rc, false, 0x0⟩]⟩
  , ⟨.glb, 0x30078, 1, 8, [⟨63, 0, .rc, false, 0x0⟩]⟩
  , ⟨.glb, 0x30080, 1, 8, [⟨63, 0, .rc, false, 0x0⟩]⟩
  , ⟨.glb, 0x30088, 1, 8, [⟨31, 0, .rc, false, 0x0⟩]⟩
  , ⟨.glb, 0x30090, 1, 8, [⟨63, 0, .rc, false, 0x0⟩]⟩
  , ⟨.glb, 0x30098, 1, 8, [⟨31, 0, .rc, false, 0x0⟩]⟩
  , ⟨.glb, 0x300A0, 1, 8, [⟨31, 0, .rc, false, 0x0⟩]⟩
  , ⟨.glb, 0x300A8, 1, 8, [⟨63, 0, .rc, false, 0x0⟩]⟩
  , ⟨.glb, 0x300B0, 1, 8, [⟨31, 0, .rc, false, 0x0⟩]⟩
  , ⟨.glb, 0x300B8, 1, 8, [⟨31, 0, .rc, false, 0x0⟩]⟩
  , ⟨.glb, 0x300C0, 1, 8, [⟨31, 0, .rc, false, 0x0⟩]⟩
  , ⟨.glb, 0x20000, 256, 32, [⟨63, 63, .rw, false, 0x0⟩, ⟨62, 61, .rw, false, 0x0⟩, ⟨60, 53, .rw, false, 0x0⟩, ⟨52, 45, .rw, false, 0x0⟩, ⟨44, 43, .rw, false, 0x0⟩, ⟨42, 33, .rw, false, 0x0⟩, ⟨32, 30, .rw, false, 0x0⟩, ⟨29, 0, .ro, true, 0x0⟩]⟩
  , ⟨.glb, 0x20008, 256, 32, [⟨63, 48, .ro, true, 0x0⟩, ⟨47, 0, .rw, false, 0x0⟩]⟩
  , ⟨.glb, 0x20010, 256, 32, [⟨63, 32, .ro, true, 0x0⟩, ⟨31, 0, .rw, false, 0x0⟩]⟩
  , ⟨.glb, 0x20018, 256, 32, [⟨63, 32, .ro, true, 0x0⟩, ⟨31, 0, .rw, false, 0x0⟩]⟩ ]

/-- Every row of the global block (R674). -/
def glbRows : List RegRow := glbRows0 ++ glbRows1 ++ glbRows2

/-- Rows of the Letrix block (R676). -/
def letrixRows0 : List RegRow :=
  [ ⟨.letrix, 0x0, 1, 8, [⟨63, 52, .ro, false, 0xA00⟩, ⟨51, 42, .ro, false, 0x100⟩, ⟨41, 32, .ro, false, 0x200⟩, ⟨31, 27, .ro, false, 0x10⟩, ⟨26, 23, .ro, false, 0x8⟩, ⟨22, 16, .ro, false, 0x40⟩, ⟨15, 8, .ro, false, 0x40⟩, ⟨7, 0, .ro, true, 0x0⟩]⟩
  , ⟨.letrix, 0x8, 1, 8, [⟨63, 50, .ro, false, 0x2000⟩, ⟨49, 36, .ro, false, 0x1000⟩, ⟨35, 28, .ro, false, 0x20⟩, ⟨27, 22, .ro, false, 0x10⟩, ⟨21, 16, .ro, false, 0x8⟩, ⟨15, 0, .ro, true, 0x0⟩]⟩
  , ⟨.letrix, 0x1000, 1, 8, [⟨63, 0, .rc, false, 0x0⟩]⟩
  , ⟨.letrix, 0x1008, 1, 8, [⟨63, 0, .rc, false, 0x0⟩]⟩
  , ⟨.letrix, 0x1010, 1, 8, [⟨63, 0, .rc, false, 0x0⟩]⟩
  , ⟨.letrix, 0x1018, 1, 8, [⟨63, 0, .rc, false, 0x0⟩]⟩
  , ⟨.letrix, 0x1020, 1, 8, [⟨63, 0, .rc, false, 0x0⟩]⟩
  , ⟨.letrix, 0x1028, 1, 8, [⟨63, 0, .rc, false, 0x0⟩]⟩
  , ⟨.letrix, 0x1030, 1, 8, [⟨63, 0, .rc, false, 0x0⟩]⟩
  , ⟨.letrix, 0x1038, 1, 8, [⟨63, 0, .rc, false, 0x0⟩]⟩
  , ⟨.letrix, 0x1040, 1, 8, [⟨63, 0, .rc, false, 0x0⟩]⟩ ]

/-- Every row of the Letrix block (R676). -/
def letrixRows : List RegRow := letrixRows0

/-- The row that assigns an offset of a block to a register, if one does. -/
def rowAt (rows : List RegRow) (off : Nat) : Option RegRow :=
  rows.find? fun r => r.off ≤ off && (off - r.off) % r.stride == 0 && (off - r.off) / r.stride < r.count

/-- The row of the register whose slot lies at a device address; none where R662 finds no register. -/
def regRow (a : Nat) : Option RegRow :=
  if a % 8 ≠ 0 then none
  else if chBlock 0 ≤ a ∧ a < chBlock 4 then
    let o := (a - chBlock 0) % 0x01000000
    if 0x800000 ≤ o then
      if (o - 0x800000) / 0x1000 < 800 then rowAt coreRows ((o - 0x800000) % 0x1000) else none
    else rowAt channelRows o
  else if glbBlock ≤ a ∧ a < glbBlock + 0x01000000 then rowAt glbRows (a - glbBlock)
  else if lxBlock 0 ≤ a ∧ a < lxBlock 12 then rowAt letrixRows ((a - lxBlock 0) % 0x00100000)
  else none

/-- The reset value that a list of fields gives a register. -/
def fieldsReset (fs : List Field) : Nat := fs.foldl (fun v f => v + f.reset * 2 ^ f.lo) 0

/-- The register ranges of the device address map (R21). -/
def inRegRange (a : Nat) : Bool :=
  (chBlock 0 ≤ a && a < chBlock 4) || (glbBlock ≤ a && a < glbBlock + 0x01000000)
    || (lxBlock 0 ≤ a && a < lxBlock 12)

end Sys2Proof.Machine
end

