-- ==== Sys2Proof/Machine/State.lean ====
section
/-! DEFINITION. The state of the module, all of it plain data: device memory and its check symbols, the
registers, what every channel, core, stream, Letrix die and port holds, the board controller, the referee's
records, and the queue of waiting commands. -/

namespace Sys2Proof.Machine

/-- Why the machine stops. No command of this block stops it: the spec gives each of them an effect. -/
inductive Fault where
  /-- Raised by nothing: the module raises no fault that ends a run (safe). -/
  | none
deriving DecidableEq, Repr

/-- Why a command is not carried out. -/
inductive Refusal where
  /-- Raised by an arm of `exec` whose command has no meaning yet (safe). -/
  | notModelled (mnemonic : String)
deriving DecidableEq, Repr

/-- What a channel holds beside its registers, streams and cores. -/
structure Chan where
  ops     : List LoadedOp          -- loaded operations, in load order
  last    : Nat                    -- the stream last granted by the fetch issue (R248)
  cache   : List Line              -- shared cache lines, most recently used first (R223)
  mig     : List MigCmd            -- migration queue (R341)
  absent  : List (Nat × Nat)       -- absent frames, as intervals first to last (R337)
  wb      : List Nat               -- DRAM words whose write-back is due (R347)
  hot     : Option Episode         -- hot-channel episode under way (R328)
  eq      : EvQueue                -- event queue (R564)
  dirty   : List Nat               -- dirty 2 KiB blocks of shadowed pools, by block number (R436)
  sync    : Option Sync            -- shadow sync under way (R437)
  sends   : List SendCmd           -- send queue (R486)
  cancel  : Option W32             -- operation whose cancel has not completed (R258)
  retired : List Nat               -- physical cores retired (R577)
  dead    : List Nat               -- physical cores that no longer respond (R579)
  ues     : List (Nat × Nat)       -- uncorrectable words read: stack within the channel, time in ns (R582)
  rowCe   : List (Nat × Nat)       -- corrected words in the present scrub pass: DRAM row and word (R589)
  rowFail : List Nat               -- DRAM rows that have failed (R589)
  held    : List Nat               -- frames withheld from the pools (R589)
  lastRef : Option (Bool × Nat × Nat × Option Nat) -- the last refresh: tier 1, device, pseudo-channel, bank (R321)
  rotUse  : List (Nat × Nat)       -- rotation entries in use by loaded operations, keyed by entry (R263)
  heldFor : Option Bool            -- the entry at the head is held: for contexts or rings (R235, R243), or otherwise
  burst   : List Entry             -- entries that the loader has fetched ahead, from the head on (R252)
  pages   : List W32               -- the page numbers of the last page list message to the stream engine (R250)
  book    : Book                   -- the channel firmware's books
  cycles  : Nat                    -- cycles its arithmetic clock has counted since reset release (R8, R50)
  recov   : List Recovery          -- recoveries of its fault domains under way (R35, R37)
  out     : Bool                   -- the channel is out of service (R553)
  t1Out   : Bool                   -- its tier 1 is out of service (R649, R584)
deriving DecidableEq, Repr

/-- A channel at reset: nothing loaded, nothing queued, every frame present (R337). The rotating order of the fetch
issue starts from stream 0 as the one last granted, a start the spec does not give (DESIGN CHOICE). -/
def Chan.reset : Chan :=
  ⟨[], 0, [], [], [], [], none, ⟨0, [], 0, 0⟩, [], none, [], none, [], [], [], [], [], [], none, [], none, [], [], ⟨0, [], [], 0, [], [], [], []⟩, 0, [], false, false⟩

/-- A Letrix die (R349): whether it is lost, and when its port last delivered an uncorrectable transfer (R581). What
its units hold for an operation stands with the operation. -/
structure Die where
  lost   : Bool
  portUe : Option Nat
deriving DecidableEq, Repr

/-- A die at reset. -/
def Die.reset : Die := ⟨false, none⟩

/-- What last left the module on a bus that answers: the model's own record of read data. -/
structure Out where
  fabric : W64                     -- last value a register read returned over the fabric
  store  : List Byte               -- data of the last core store read (R142)
  pmbus  : List Byte               -- last answer of a PMBus command (R620)
deriving DecidableEq, Repr

/-- The state. -/
structure State where
  pending : List Instr             -- the commands that wait, first in first out
  mem     : List (Nat × Byte)      -- device memory and core stores, by address
  errs    : List (Nat × Byte)      -- symbol errors: key 18 * word + symbol
  regs    : List (Nat × W64)       -- register slots that differ from their reset value
  cap     : List (Nat × W64)       -- captured upper slots of multi-slot registers (R665)
  chans   : List (Nat × Chan)
  cores   : List (Nat × Core)      -- key 800 * channel + physical index
  streams : List (Nat × Stream)    -- key 4096 * channel + stream number
  dies    : List (Nat × Die)
  geq     : EvQueue                -- global event queue
  ports   : List (Nat × Port)
  board   : Board
  fuses   : Fuses
  flash   : Flash
  sec     : Sec
  ref     : Referee
  beats   : List Nat               -- control-core pairs whose heartbeat has been written in this interval (R549)
  red     : List (Nat × Bucket)    -- by bucket tag
  draws   : Nat                    -- free values drawn so far (the model's own counter)
  out     : Out
deriving DecidableEq, Repr

/-- The fuses of a module as it is shipped (R3, R623, R636): the vendor's key hashes and the identity seed burned, no
owner key, PROVISIONED. Hashes and seed are free values. -/
def Fuses.shipped : Fuses :=
  ⟨(List.range 4).map Config.vendorHash, [false, false, false, false], [none, none, none, none],
    [false, false, false, false], Config.factorySeed, Config.factorySeed, 0, 0, 2, 2, [], []⟩

/-- The boot flash of a module as it is shipped (R3, R625, R636): the vendor's boot firmware and run image in the slots
A, whose contents are free values. -/
def Flash.shipped : Flash :=
  ⟨[some ⟨Config.vendorImage 0, Config.vendorImage 1, none⟩, none],
    [some ⟨Config.vendorImage 2, Config.vendorImage 3, Config.vendorPlan⟩, none], [], Config.vendorImage 4⟩

/-- The machine right after reset: a shipped module in AUX, nothing powered but the board controller. -/
def State.reset : State :=
  { pending := [], mem := [], errs := [], regs := [], cap := [], chans := [], cores := [], streams := [], dies := [],
    geq := ⟨0, [], 0, 0⟩, ports := [], board := Board.aux, fuses := Fuses.shipped, flash := Flash.shipped,
    sec := Sec.reset, ref := Referee.reset, beats := [], red := [], draws := 0, out := ⟨0, [], []⟩ }

/-- Access to the maps of the state. -/
def State.chan (s : State) (n : Nat) : Chan := mget Chan.reset s.chans n
def State.setChan (s : State) (n : Nat) (c : Chan) : State := { s with chans := mset Chan.reset s.chans n c }
def State.core (s : State) (n i : Nat) : Core := mget Core.idle s.cores (800 * n + i)
def State.setCore (s : State) (n i : Nat) (c : Core) : State :=
  { s with cores := mset Core.idle s.cores (800 * n + i) c }
def State.stream (s : State) (n i : Nat) : Stream := mget Stream.free s.streams (4096 * n + i)
def State.setStream (s : State) (n i : Nat) (c : Stream) : State :=
  { s with streams := mset Stream.free s.streams (4096 * n + i) c }
def State.die (s : State) (k : Nat) : Die := mget Die.reset s.dies k
def State.setDie (s : State) (k : Nat) (d : Die) : State := { s with dies := mset Die.reset s.dies k d }

def State.port (s : State) (p : Nat) : Port := mget Port.reset s.ports p
def State.setPort (s : State) (p : Nat) (x : Port) : State := { s with ports := mset Port.reset s.ports p x }
def State.bucket (s : State) (t : Nat) : Bucket := mget Bucket.reset s.red t
def State.setBucket (s : State) (t : Nat) (b : Bucket) : State := { s with red := mset Bucket.reset s.red t b }
/-- The run image in force. -/
def State.plan (s : State) : Option RunPlan := s.sec.run.bind (·.plan)

end Sys2Proof.Machine
end

