-- ==== Sys2Proof/Machine/Ops.lean ====
section
/-! DEFINITION. The named operations over registers, counters, fault records and event queues that every meaning
uses (R563 to R568, R661 to R666). -/

namespace Sys2Proof.Machine

/-! ### Registers -/

/-- The value a register holds. -/
def rd (s : State) (r : RegRef) : W64 := mget r.reset s.regs r.addr
/-- A register's value replaced. -/
def wr (s : State) (r : RegRef) (v : W64) : State := { s with regs := mset r.reset s.regs r.addr v }
/-- A field of a register. -/
def fld (s : State) (r : RegRef) (hi lo : Nat) : Nat := bits (rd s r).toNat hi lo
/-- A one-bit field. -/
def flag (s : State) (r : RegRef) (i : Nat) : Bool := fld s r i i == 1
/-- A field of a register replaced. -/
def setFld (s : State) (r : RegRef) (hi lo x : Nat) : State :=
  wr s r (BitVec.ofNat 64 (putBits (rd s r).toNat hi lo x))
/-- A one-bit field set or cleared. -/
def setFlag (s : State) (r : RegRef) (i : Nat) (b : Bool) : State := setFld s r i i (b2n b)

/-- A 32-bit counter raised by n; it stops at its largest value (R666). -/
def count32 (s : State) (r : RegRef) (n : Nat) : State :=
  wr s r (BitVec.ofNat 64 (min ((rd s r).toNat + n) 0xFFFFFFFF))
/-- A 64-bit counter raised by n; it wraps (R666). -/
def count64 (s : State) (r : RegRef) (n : Nat) : State := wr s r (rd s r + BitVec.ofNat 64 n)

/-- A fault record written if its valid bit [63] is clear. -/
def recordOnce (s : State) (r : RegRef) (v : Nat) : State :=
  if flag s r 63 then s else wr s r (BitVec.ofNat 64 (2 ^ 63 + v))

/-- GLB_TIME in ns (R675). -/
def timeNs (s : State) : Nat := (rd s Reg.glbTime).toNat
/-- The present cycle of a channel's arithmetic clock (R8, R50): it counts at the frequency in force. -/
def cycleNow (s : State) (n : Nat) : Nat := (s.chan n).cycles

/-- Channel timing (R35): service mode with recovery clear. -/
def inService (s : State) (n : Nat) : Bool :=
  fld s (Reg.chTimingMode n) 1 0 == 1 && !flag s (Reg.chTimingMode n) 2
/-- Whether CH_TIMING_MODE.mode is test, whatever recovery is (R106). -/
def inTest (s : State) (n : Nat) : Bool := fld s (Reg.chTimingMode n) 1 0 == 2

/-- The recoveries under way in a channel, with the bit that says there are some (R35, R37). -/
def setRecov (s : State) (n : Nat) (l : List Recovery) : State :=
  setFlag (s.setChan n { s.chan n with recov := l }) (Reg.chTimingMode n) 2 !l.isEmpty

/-- A record added to the journal of a channel's control core (R551). -/
def journal (s : State) (n : Nat) (begins : Bool) (x : Recovery) : State :=
  let b := (s.chan n).book
  let no := ((b.journal.getLast?).map (·.seq + 1)).getD 0
  s.setChan n { s.chan n with book := { b with journal := b.journal ++ [⟨no, begins, x⟩] } }

/-- The first action of a recovery (R37). A second fault in its domain starts none before it has completed (R573). -/
def beginRecovery (s : State) (n : Nat) (x : Recovery) : State :=
  if (s.chan n).recov.contains x then s else setRecov (journal s n true x) n ((s.chan n).recov ++ [x])

/-- A recovery completes (R37). -/
def endRecovery (s : State) (n : Nat) (x : Recovery) : State :=
  if (s.chan n).recov.contains x then setRecov (journal s n false x) n ((s.chan n).recov.filter (· != x)) else s

/-- The recoveries that a journal shows under way (R551, R573). -/
def JRec.running (l : List JRec) : List Recovery :=
  l.foldl (fun (a : List Recovery) r => if r.begins then a ++ [r.what] else a.filter (· != r.what)) []

/-- The mirror partner of a channel (R12). -/
def partner (n : Nat) : Nat := n ^^^ 2

/-- A free value drawn: a fresh one each time, by the state's own counter. -/
def drawFree (s : State) (rule : Nat) (args : List Nat) : W64 × State :=
  (Config.openValue rule (s.draws :: args), { s with draws := s.draws + 1 })

/-! ### Waking -/

/-- A wake begins in DORMANT (R603, R604). -/
def startWake (s : State) : State :=
  if fld s Reg.glbPwrStatus 31 29 = 4 then setFld s Reg.glbPwrStatus 31 29 6
  else s

/-- Whether the module is in DORMANT, entering it or waking (R604). -/
def isDormant (s : State) : Bool := decide (4 ≤ fld s Reg.glbPwrStatus 31 29)

/-! ### Events -/

/-- Arguments packed from bit 0 of arg0 upward, then into arg1; none is split (R563). -/
def packArgs : List (Nat × Nat) → Nat → Nat → Bool → Nat → Nat → W32 × W64
  | [], _, _, _, a0, a1 => (BitVec.ofNat 32 a0, BitVec.ofNat 64 a1)
  | (w, v) :: r, pos0, pos1, moved, a0, a1 =>
    if !moved && pos0 + w ≤ 32 then packArgs r (pos0 + w) pos1 false (a0 + (v % 2 ^ w) * 2 ^ pos0) a1
    else packArgs r pos0 (pos1 + w) true a0 (a1 + (v % 2 ^ w) * 2 ^ pos1)

/-- The fault-class codes of the catalogue (R566). -/
def evFault (code : Nat) : Bool :=
  [0x04, 0x05, 0x07, 0x08, 0x0A, 0x0C, 0x10, 0x12, 0x20, 0x21, 0x22, 0x25, 0x26, 0x27, 0x2A, 0x2C, 0x30,
    0x32].contains code

/-- The registers of an event queue: 0 to 3 the channels', 4 the global one (R565). -/
def eqBase (q : Nat) : RegRef := if q < 4 then Reg.chEqBase q else Reg.glbEqBase
def eqHead (q : Nat) : RegRef := if q < 4 then Reg.chEqHead q else Reg.glbEqHead
def eqTail (q : Nat) : RegRef := if q < 4 then Reg.chEqTail q else Reg.glbEqTail
def eqLost (q : Nat) : RegRef := if q < 4 then Reg.chEqLostCount q else Reg.glbEqLostCount

/-- The hardware side of a queue. -/
def getEq (s : State) (q : Nat) : EvQueue := if q < 4 then (s.chan q).eq else s.geq
def setEq (s : State) (q : Nat) (e : EvQueue) : State :=
  if q < 4 then s.setChan q { s.chan q with eq := e } else { s with geq := e }

/-- A queue without room: one more record would make tail equal head, or its base is 0 (R564, R565). -/
def eqFull (s : State) (q : Nat) : Bool :=
  fld s (eqBase q) 47 0 == 0 || (fld s (eqTail q) 9 0 + 1) % 1024 == fld s (eqHead q) 9 0

/-- Bytes written into memory as they stand, with valid check bits. -/
def pokeBytes : State → Nat → List Byte → State
  | s, _, [] => s
  | s, a, b :: r =>
    pokeBytes { s with mem := mset 0 s.mem a b, errs := mset 0 s.errs (18 * (a / 16) + a % 16) 0 } (a + 1) r
/-- The bytes of a range as they stand. -/
def peekBytes (s : State) (a n : Nat) : List Byte := (List.range n).map fun i => mget 0 s.mem (a + i)

/-- The four words of a record (R563). -/
def evWords (s : State) (e : Ev) (seq : Nat) : List Nat :=
  [ e.code * 2 ^ 56 + (e.chan % 4) * 2 ^ 54 + b2n e.fault * 2 ^ 53 + b2n e.host * 2 ^ 52 + timeNs s % 2 ^ 48,
    e.op.toNat * 2 ^ 32 + e.arg0.toNat, e.arg1.toNat, (seq % 2 ^ 32) * 2 ^ 32 ]

/-- A record written at the tail of a queue that has room. -/
def evWrite (s : State) (q : Nat) (e : Ev) : State :=
  let h := getEq s q
  let a := fld s (eqBase q) 47 0 + 32 * fld s (eqTail q) 9 0
  let s := pokeBytes s a ((evWords s e h.seq).flatMap (leBytes 8))
  let s := setFld s (eqTail q) 9 0 ((fld s (eqTail q) 9 0 + 1) % 1024)
  setEq s q { h with seq := (h.seq + 1) % 2 ^ 32 }

/-- An event reaches a queue: it is written, or it waits (fault class), or it is dropped and counted (R565). -/
def evEnter (s : State) (q : Nat) (e : Ev) : State :=
  if eqFull s q then
    if e.fault then setEq s q { getEq s q with waiting := (getEq s q).waiting ++ [e] }
    else
      let s := count32 s (eqLost q) 1
      setEq s q { getEq s q with lost := (getEq s q).lost + 1 }
  else evWrite s q e

/-- Event of a code from a channel, with the arguments' widths and values (R563, R564). Codes of global sources
go to the global queue alone (q = 4); the others go to their channel's queue, and to the global queue when the
host asks for them. -/
def post (s : State) (q : Nat) (code : Nat) (op : W32) (args : List (Nat × Nat)) : State :=
  let host := flag s Reg.glbEvtHostMask code
  let a := packArgs args 0 0 false 0 0
  let e : Ev := ⟨code, if q < 4 then q else 0, op, a.1, a.2, host, evFault code⟩
  let s := evEnter s q e
  if q < 4 && host then evEnter s 4 e else s

/-- The waiting records of a queue enter in order while it has room. -/
def evDrain : Nat → State → Nat → State
  | 0, s, _ => s
  | k + 1, s, q =>
    match (getEq s q).waiting with
    | [] => s
    | e :: r =>
      if eqFull s q then s
      else evDrain k (evWrite (setEq s q { getEq s q with waiting := r }) q e) q

/-- A queue gains room: the waiting fault records enter, then event 0x31 with the events dropped (R565). -/
def evRoom (s : State) (q : Nat) : State :=
  let s := evDrain 1024 s q
  let h := getEq s q
  if h.waiting.isEmpty && decide (0 < h.lost) && !eqFull s q then
    let host := flag s Reg.glbEvtHostMask 0x31
    let e : Ev := ⟨0x31, if q < 4 then q else 0, 0, BitVec.ofNat 32 (min h.lost 0xFFFFFFFF), 0, host, false⟩
    let s := evWrite (setEq s q { h with lost := 0 }) q e
    if q < 4 && host then evEnter s 4 e else s
  else s

/-! ### Lateness (R36, R38) -/

/-- The stall counter of a cause (R38). -/
def stallReg (n : Nat) : StallCause → RegRef
  | .fault => Reg.chStallFault n
  | .refresh => Reg.chStallRefresh n
  | .debug => Reg.chStallDebug n
  | .credit => Reg.chStallCredit n
  | .arbiter => Reg.chStallArbiter n
  | .d2d => Reg.chStallD2d n
  | .other => Reg.chStallOther n

/-- CH_DEADLINE_WORST holds the greatest lateness since its valid bit was cleared (R275). -/
def noteWorst (s : State) (n stream late : Nat) : State :=
  let l := min late 0xFFFFFFFF
  if !flag s (Reg.chDeadlineWorst n) 63 || fld s (Reg.chDeadlineWorst n) 31 0 < l then
    wr s (Reg.chDeadlineWorst n) (BitVec.ofNat 64 (2 ^ 63 + (stream % 4096) * 2 ^ 32 + l))
  else s

/-- A late tile, by the mode that was in force at its request (R37): a deadline miss in service mode with recovery clear, a
stall otherwise (R36). -/
def lateAs (s : State) (n : Nat) (svc : Bool) (op : W32) (stream tile cycles : Nat) (cause : StallCause) : State :=
  if cycles = 0 then s
  else if svc then
    let s := count32 s (Reg.chDeadlineMissCount n) 1
    let s := noteWorst s n stream cycles
    post s n 0x03 op [(12, stream), (32, tile), (32, min cycles 0xFFFFFFFF)]
  else count64 s (stallReg n cause) cycles

/-- A late tile in the present mode. -/
def late (s : State) (n : Nat) (op : W32) (stream tile cycles : Nat) (cause : StallCause) : State :=
  lateAs s n (inService s n) op stream tile cycles cause

end Sys2Proof.Machine
end

