-- ==== Sys2Proof/Machine/Memory.lean ====
section
/-! DEFINITION. Memory: the device address map (R21 to R24), the 144/128 code (R316, R317), tier placement and
mirroring (R322 to R338), the core store's rows (R136, R172), and the reads and writes of every unit. A byte that
nothing has written reads as zero, as the wipe leaves it (R642). -/

namespace Sys2Proof.Machine

/-! ### The device address map -/

/-- What an address names (R21). -/
inductive Place where
  | tier0 (n off : Nat)
  | tier1 (n off : Nat)
  | store (n i off : Nat)
  | none
deriving DecidableEq, Repr

/-- Bytes of a channel's tier 0 and tier 1. -/
def tier0Size : Nat := 0x2400000000
def tier1Size : Nat := 0x6000000000
def tier0Base (n : Nat) : Nat := tier0Size * n
def tier1Base (n : Nat) : Nat := 0x10000000000 + tier1Size * n
def storeBase (n i : Nat) : Nat := 0x40000000000 + 0x40000000 * n + 0x40000 * i

/-- Frames of a channel's tier 0 (R337). -/
def frames : Nat := 4718592

/-- The place of an address. -/
def place (a : Nat) : Place :=
  if a < 4 * tier0Size then .tier0 (a / tier0Size) (a % tier0Size)
  else if 0x10000000000 ≤ a ∧ a < 0x10000000000 + 4 * tier1Size then
    .tier1 ((a - 0x10000000000) / tier1Size) ((a - 0x10000000000) % tier1Size)
  else if 0x40000000000 ≤ a ∧ a < 0x40000000000 + 4 * 0x40000000 then
    let n := (a - 0x40000000000) / 0x40000000
    let o := (a - 0x40000000000) % 0x40000000
    if o < 0x0C800000 then .store n (o / 0x40000) (o % 0x40000) else .none
  else .none

/-- The physical core of a logical core (R15, R669). -/
def physOf (s : State) (n log : Nat) : Nat := fld s (Reg.chCoreMap n log) 9 0

/-- The lowest logical core mapped to a physical core, among the first k. -/
def findLog (s : State) (n phys : Nat) : Nat → Option Nat
  | 0 => none
  | k + 1 => match findLog s n phys k with
    | some c => some c
    | none => if physOf s n k = phys then some k else none

/-- The logical number of a physical core in service. -/
def logOf (s : State) (n phys : Nat) : Option Nat := findLog s n phys 768

/-- Whether the window of a physical core is mapped: it is in service and not retired (R23). -/
def storeMapped (s : State) (n i : Nat) : Bool :=
  !(s.chan n).retired.contains i && !(s.chan n).dead.contains i && (logOf s n i).isSome

/-- Whether a row of a core store lies in a powered quarter (R168, R171). -/
def rowPowered (s : State) (n i row : Nat) : Bool := flag s (Reg.coreCsPower n i) (row / 128)

/-! ### The core store's cells -/

/-- The spare that stands for a row: the lowest valid entry that names it (R172, R173). -/
def spareOf (s : State) (n i row : Nat) : Option Nat :=
  (List.range 8).find? fun k => flag s (Reg.coreRowMap n i k) 31 && fld s (Reg.coreRowMap n i k) 8 0 == row

/-- Key of a byte of a spare row: the spares lie above the 48-bit device addresses. -/
def spareKey (n i k byte : Nat) : Nat := 2 ^ 48 + 512 * (8 * (800 * n + i) + k) + byte

/-- Key of byte `off` of a core store, through the row map. -/
def csKey (s : State) (n i off : Nat) : Nat :=
  match spareOf s n i (off / 512) with
  | some k => spareKey n i k (off % 512)
  | none => storeBase n i + off

/-! ### The 144/128 code -/

/-- Doubling in GF(2^8) under x^8 + x^4 + x^3 + x^2 + 1 (R316). -/
def gfDouble (x : Nat) : Nat := if x < 128 then 2 * x else (2 * x - 256) ^^^ 0x1D
/-- α^k times x. -/
def gfAlpha : Nat → Nat → Nat
  | 0, x => x
  | k + 1, x => gfDouble (gfAlpha k x)

/-- Outcome of the decoder (R317). -/
inductive Decoded where
  | clean
  | corrected (sym err : Nat)
  | bad
deriving DecidableEq, Repr

/-- The error symbols of a word, 18 of them. -/
def wordErrs (s : State) (w : Nat) : List Nat := (List.range 18).map fun k => (mget 0 s.errs (18 * w + k)).toNat

/-- The decoder's outcome from the error symbols: the code is linear, so the syndromes of the word are those of
its errors (R317). -/
def decodeErrs (e : List Nat) : Decoded :=
  let s0 := e.foldl (· ^^^ ·) 0
  let s1 := (e.zipIdx.map fun p => gfAlpha p.2 p.1).foldl (· ^^^ ·) 0
  if s0 = 0 then (if s1 = 0 then .clean else .bad)
  else match (List.range 18).find? (fun k => gfAlpha k s0 == s1) with
    | some k => .corrected k s0
    | none => .bad

/-- The decoder's outcome for a word. -/
def decodeWord (s : State) (w : Nat) : Decoded := decodeErrs (wordErrs s w)

/-- A stored byte as the decoder delivers it. -/
def goodByte (s : State) (a : Nat) : Byte :=
  let raw := mget 0 s.mem a ^^^ mget 0 s.errs (18 * (a / 16) + a % 16)
  match decodeWord s (a / 16) with
  | .corrected k e => if k = a % 16 then raw ^^^ BitVec.ofNat 8 e else raw
  | _ => raw

/-- The bytes of a range as the decoder delivers them. -/
def goodBytes (s : State) (a n : Nat) : List Byte := (List.range n).map fun i => goodByte s (a + i)

/-- Symbol errors that have struck stored words since they were written. -/
def strike (s : State) : List Upset → State
  | [] => s
  | u :: r =>
    let k := 18 * u.word + u.sym.val
    let e := mget 0 s.errs k ^^^ u.err
    strike { s with errs := mset 0 s.errs k e } r

/-- The errors of a word removed, as a write with new check bits removes them. -/
def clearErrs (s : State) (w : Nat) : State :=
  { s with errs := (List.range 18).foldl (fun m k => mset 0 m (18 * w + k) 0) s.errs }

/-- Bytes stored whole, word by word, with their errors cleared. -/
def storeRaw : State → Nat → List Byte → State
  | s, _, [] => s
  | s, a, b :: r => storeRaw { s with mem := mset 0 s.mem a b } (a + 1) r

/-- A word rewritten with what the decoder delivers (R143, R347). -/
def rewriteWord (s : State) (w : Nat) : State :=
  let good := goodBytes s (16 * w) 16
  clearErrs (storeRaw s (16 * w) good) w

/-- A word written back after a read has corrected it (R143, R347): as that read delivered it, even where errors that have
struck it since leave it uncorrectable; for that the word as it was stored is taken. -/
def writeBackWord (s : State) (w : Nat) : State :=
  match decodeWord s w with
  | .bad => clearErrs s w
  | _ => rewriteWord s w

/-- The copy of a memory word in a line of a shared cache (R318): its errors stand apart from the word's own, under a key
above every cell of the memory and the core stores. What a sound copy holds is what the memory holds (R224). -/
def cachedWord (w : Nat) : Nat := 2 ^ 46 + w

/-- The copies of k words written anew, without errors. -/
def freshCached (s : State) (w k : Nat) : State :=
  { s with errs := mkeep (fun i => !(decide (18 * cachedWord w ≤ i) && decide (i < 18 * (cachedWord w + k)))) s.errs }

/-- A word's contents and errors copied to another word: an uncorrectable word stays one (R175). -/
def copyWord (s : State) (src dst : Nat) : State :=
  match decodeWord s src with
  | .bad =>
    let s1 := storeRaw s (16 * dst) (peekBytes s (16 * src) 16)
    let put := fun (m : List (Nat × Byte)) (k : Nat) => mset 0 m (18 * dst + k) (mget 0 s.errs (18 * src + k))
    { s1 with errs := (List.range 18).foldl put s1.errs }
  | _ => clearErrs (storeRaw s (16 * dst) (goodBytes s (16 * src) 16)) dst

/-- 16 bytes as a number, and back. -/
def wordNat (bs : List Byte) : Nat := leNat bs
def natWord (v : Nat) : List Byte := leBytes 16 v

/-- A write of the masked bits of one word: a full word as it stands, else a read, a merge and a write of the
whole word; a merge that reads an uncorrectable word writes nothing (R319). The result says whether it wrote. -/
def putWord (s : State) (w data mask : Nat) : State × Bool :=
  if mask = 2 ^ 128 - 1 then (clearErrs (storeRaw s (16 * w) (natWord data)) w, true)
  else match decodeWord s w with
    | .bad => (s, false)
    | _ =>
      let old := wordNat (goodBytes s (16 * w) 16)
      let v := (old &&& (2 ^ 128 - 1 - mask % 2 ^ 128)) ||| (data &&& mask)
      (clearErrs (storeRaw s (16 * w) (natWord v)) w, true)

/-- Bit writes gathered into word writes: each write is a bit address, a number of bits and their value. -/
def addBits (m : List (Nat × Nat × Nat)) (a n v : Nat) : List (Nat × Nat × Nat) :=
  let w := a / 128
  let o := a % 128
  let fit := min n (128 - o)
  let put := fun (m : List (Nat × Nat × Nat)) (w o k v : Nat) =>
    let old := (mfind m w).getD (0, 0)
    let mk := (2 ^ k - 1) * 2 ^ o
    minsert m w (((old.1 &&& (2 ^ 128 - 1 - mk)) ||| ((v % 2 ^ k) * 2 ^ o)), old.2 ||| mk)
  let m := put m w o fit v
  if fit < n then put m (w + 1) 0 (n - fit) (v / 2 ^ fit) else m

/-- Word writes of a list of bit writes, in rising word order; later bits win. -/
def gatherBits (ws : List (Nat × Nat × Nat)) : List (Nat × Nat × Nat) :=
  ws.foldl (fun m p => addBits m p.1 p.2.1 p.2.2) []

/-- Word writes of a byte range. -/
def byteWrites (a : Nat) (bs : List Byte) : List (Nat × Nat × Nat) :=
  gatherBits (bs.zipIdx.map fun p => (8 * (a + p.2), 8, p.1.toNat))

/-! ### Interleave and mirroring -/

/-- Ones of a number among its low 32 bits. -/
def popcount (v : Nat) : Nat := (List.range 32).foldl (fun c i => c + b2n (bit v i)) 0

/-- A key word (R324). -/
def ilKey (s : State) (j : Nat) : Nat := fld s (Reg.glbIlKey j) 31 0

/-- The stack, within the channel, that holds a tier-0 offset (R322). -/
def stackOf (s : State) (off : Nat) : Nat :=
  let b := off / 2048
  (b % 3 + popcount (b / 3 &&& ilKey s 0)) % 3

/-- The pseudo-channel and local granule of a tier-0 offset (R322). -/
def pseudoOf (s : State) (off : Nat) : Nat × Nat :=
  let q := off / 2048 / 3
  let g := off / 256 % 8
  let t := q / 4
  let par := fun (k : Nat) => popcount (t &&& ilKey s k) % 2
  let group := (q % 4) ^^^ (par 2 * 2 + par 1)
  let low := g ^^^ (par 5 * 4 + par 4 * 2 + par 3)
  (group * 8 + low, t)

/-- The bank and row of a local granule (R323): the row includes the stack ID. -/
def bankRow (t : Nat) : Nat × Nat := (t % 16, t / 64)

/-- The package, x16 channel and local granule of a tier-1 offset (R327). -/
def packageOf (off : Nat) : Nat × Nat × Nat :=
  let c := off / 256
  (c % 24 / 4, c % 24 % 4, c / 24)

/-! ### Failing rows and the field record (R582, R589, R590) -/

/-- One byte of a CRC-32C. -/
def crc32cByte (c : Nat) (b : Byte) : Nat :=
  (List.range 8).foldl (fun c _ => if c % 2 = 1 then (c / 2) ^^^ 0x82F63B78 else c / 2) (c ^^^ b.toNat)
/-- CRC-32C of a byte string (R590). -/
def crc32c (bs : List Byte) : Nat := (bs.foldl crc32cByte 0xFFFFFFFF) ^^^ 0xFFFFFFFF

/-- An entry of the field record: kind, channel, place, and the crc over its bits [127:32] (R590). -/
def fieldEntry (kind n pl : Nat) : FieldEntry :=
  let hi := kind * 2 ^ 88 + n * 2 ^ 86 + pl * 2 ^ 58
  BitVec.ofNat 128 (hi * 2 ^ 32 + crc32c (leBytes 12 hi))

/-- A field mapping written into the field record, which stops being written when it is full (R590, R591). -/
def recordField (s : State) (kind n pl : Nat) : State :=
  let e := fieldEntry kind n pl
  let l := s.flash.record
  if l.contains e then s
  else if 4096 ≤ l.length then setFlag s Reg.glbFieldStatus 12 true
  else
    let s := { s with flash := { s.flash with record := l ++ [e] } }
    let s := setFld s Reg.glbFieldStatus 11 0 (min 0xFFF (fld s Reg.glbFieldStatus 11 0 + 1))
    if l.length + 1 = 4096 then setFlag s Reg.glbFieldStatus 12 true else s

/-- The DRAM row of an address, with its channel and its kind and place in the field record. The bank and row of a
tier-1 granule are not given: free values. -/
def dramRow (s : State) (a : Nat) : Option (Nat × Nat × Nat) :=
  match place a with
  | .tier0 n off =>
    let p := pseudoOf s off
    let b := bankRow p.2
    some (n, 3, stackOf s off * 2 ^ 26 + p.1 * 2 ^ 21 + b.1 * 2 ^ 17 + b.2 % 2 ^ 17)
  | .tier1 n off =>
    let p := packageOf off
    some (n, 4, p.1 * 2 ^ 25 + p.2.1 * 2 ^ 23 + (Config.openValue 327 [p.2.2]).toNat % 2 ^ 22 * 2)
  | _ => none

/-- The tier-0 offsets whose granules lie in a row (R322, R323). -/
def dramRowOffsets (s : State) (pl : Nat) : List Nat :=
  let stack := pl / 2 ^ 26
  let pc := pl / 2 ^ 21 % 32
  (List.range 4).map fun j =>
    let t := pl % 2 ^ 17 * 64 + 16 * j + pl / 2 ^ 17 % 16
    let par := fun (k : Nat) => popcount (t &&& ilKey s k) % 2
    let q := 4 * t + ((pc / 8) ^^^ (par 2 * 2 + par 1))
    let g := (pc % 8) ^^^ (par 5 * 4 + par 4 * 2 + par 3)
    let r := ((List.range 3).find? fun r => (r + popcount (q &&& ilKey s 0)) % 3 == stack).getD 0
    (3 * q + r) * 2048 + g * 256

/-- A row fails: it is counted once, recorded, and its frames are withheld from the pools (R589). -/
def failRow (s : State) (n kind pl : Nat) : State :=
  let key := kind * 2 ^ 28 + pl
  let c := s.chan n
  if c.rowFail.contains key then s
  else
    let fs := if kind = 3 then ((dramRowOffsets s pl).map (· / 32768)).eraseDups else []
    let s := s.setChan n { c with rowFail := c.rowFail ++ [key], held := c.held ++ fs.filter fun f => !c.held.contains f }
    recordField (count32 s (Reg.chDramRowFailCount n) 1) kind n pl

/-- A corrected word of a DRAM row: three distinct ones in one scrub pass fail the row (R589). -/
def noteCeWord (s : State) (a : Nat) : State :=
  match dramRow s a with
  | none => s
  | some (n, kind, pl) =>
    let c := s.chan n
    let key := kind * 2 ^ 28 + pl
    if c.rowCe.contains (key, a / 16) then s
    else
      let l := c.rowCe ++ [(key, a / 16)]
      let s := s.setChan n { c with rowCe := l }
      if 3 ≤ (l.filter fun e => e.1 == key).length then failRow s n kind pl else s

/-- Whether a pool whose pages are shadowed holds a tier-0 offset (R427, R436). -/
def shadowedPool (s : State) (n off : Nat) : Bool :=
  (List.range 4).any fun j =>
    let v := (rd s (Reg.chKvPool n j)).toNat
    bit v 63 && bit v 62 && decide (bits v 22 0 ≤ off / 32768) && decide (off / 32768 < bits v 22 0 + bits v 45 23)

/-- A 2 KiB block marked dirty by a write (R436). -/
def markDirty (s : State) (n off : Nat) : State :=
  let b := off / 2048
  if shadowedPool s n off && flag s (Reg.chKvShadow n) 63 && !flag s (Reg.chKvShadow n) 62
      && !(s.chan n).dirty.contains b then
    s.setChan n { s.chan n with dirty := (s.chan n).dirty ++ [b] }
  else s

/-- Every block of the page whose shadow slot holds an address marked dirty, to be shadowed anew (R580). -/
def reshadow (s : State) (a : Nat) : State :=
  (List.range 4).foldl (fun s n =>
    let base := fld s (Reg.chKvShadow n) 47 0
    if a < base then s
    else match (s.chan n).book.pages.find? fun (p : PageRec) => p.slot == (a - base) / 32768 && p.away.isNone with
      | some p => (List.range 16).foldl (fun s b => markDirty s n (32768 * p.frame + 2048 * b)) s
      | none => s) s

/-- An uncorrectable word read: it fails its row, counts toward the loss of its stack, and has the page whose shadow it
spoils shadowed anew (R580, R582, R589). -/
def noteUeWord (s : State) (a : Nat) : State :=
  match dramRow s a with
  | none => s
  | some (n, kind, pl) =>
    let s := if kind = 4 then reshadow s a else s
    let c := s.chan n
    let s := if kind = 3 then
        s.setChan n { c with ues := (pl / 2 ^ 26, timeNs s) :: c.ues.filter fun e => decide (timeNs s < e.2 + 1000000) }
      else s
    failRow s n kind pl

/-- A range register of 2 MiB units: en, len, start (R332, R423). -/
def inRange2M (v : W64) (off : Nat) : Bool :=
  bit v.toNat 63 && decide (bits v.toNat 16 0 * 0x200000 ≤ off) &&
    decide (off < (bits v.toNat 16 0 + bits v.toNat 47 29) * 0x200000)

/-- Whether a tier-0 offset of channel n lies in a mirrored range (R332). -/
def mirrored (s : State) (n off : Nat) : Bool :=
  (List.range 16).any fun j => inRange2M (rd s (Reg.chMirror n j)) off

/-- Whether a channel's tier 0 is fenced (R335). -/
def fenced (s : State) (n : Nat) : Bool := flag s (Reg.chT0Fence n) 31

/-- Whether a frame is absent: the intervals of the residency map (R337). -/
def absent (s : State) (n f : Nat) : Bool := (s.chan n).absent.any fun p => decide (p.1 ≤ f) && decide (f ≤ p.2)

/-- Intervals with a frame taken out. -/
def dropFrame (ivs : List (Nat × Nat)) (f : Nat) : List (Nat × Nat) :=
  ivs.flatMap fun p =>
    if p.1 ≤ f ∧ f ≤ p.2 then
      (if p.1 < f then [(p.1, f - 1)] else []) ++ (if f < p.2 then [(f + 1, p.2)] else [])
    else [p]

/-- A frame marked present or absent, in both channels of the pair where it is mirrored (R337). -/
def markFrame (s : State) (n f : Nat) (present : Bool) : State :=
  let one := fun (s : State) (n : Nat) =>
    let ivs := dropFrame (s.chan n).absent f
    s.setChan n { s.chan n with absent := if present then ivs else (f, f) :: ivs }
  let s' := one s n
  if mirrored s n (32768 * f) then one s' (partner n) else s'

/-! ### Words of a core store (R142, R143, R177) -/

/-- Key of word j of a row, as a word number. -/
def csWord (s : State) (n i row j : Nat) : Nat := csKey s n i (row * 512 + j * 16) / 16

/-- The gather-buffer entry of a store word, word number row * 32 + j. -/
def gatherOf (c : Core) (w : Nat) : Option Gather := c.gather.find? (·.word == w)

/-- A word as a read sees it: the decoder's bytes with the gather buffer's bits (R142). -/
def csView (s : State) (n i row j : Nat) : Nat :=
  let v := wordNat (goodBytes s (16 * csWord s n i row j) 16)
  match gatherOf (s.core n i) (row * 32 + j) with
  | some g => (v &&& (2 ^ 128 - 1 - g.mask.toNat)) ||| (g.data.toNat &&& g.mask.toNat)
  | none => v

/-- How an event names a core: by its logical number, or by its physical one where it has none, as a spare has (DESIGN
CHOICE: R563 gives the field 10 bits and says no more). -/
def coreName (s : State) (n i : Nat) : Nat := (logOf s n i).getD i

/-- The event of a core store fault: core, row and word (R144, R152, R162). -/
def storeFaultEvent (s : State) (n i : Nat) (op : W32) (row j : Nat) : State :=
  post s n 0x08 op [(10, coreName s n i), (9, row), (5, j)]

/-- A corrected error's row: ce_row, ce_row_count and the mapping request when the count comes to the threshold
(R177). -/
def noteCeRow (s : State) (n i row : Nat) : State :=
  let r := Reg.coreCsStatus n i
  let same := decide (fld s r 8 0 = row)
  let old := fld s r 27 24
  let cnt := if same then min (old + 1) 15 else 1
  let s := setFld (setFld s r 8 0 row) r 27 24 cnt
  let th := fld s (Reg.chCsCtrl n) 3 0
  if th ≠ 0 ∧ cnt = th ∧ !(same && old == th) then post s n 0x09 0 [(10, coreName s n i), (9, row)] else s

/-- A word decoded for a read: corrected words are counted and due for write-back, uncorrectable ones counted
(R143, R144). True when the word delivers data. -/
def csDecode (s : State) (n i row j : Nat) : State × Bool :=
  let w := csWord s n i row j
  match decodeWord s w with
  | .clean => (s, true)
  | .corrected _ _ =>
    let s := count32 s (Reg.chCsCeCount n) 1
    let c := s.core n i
    let s := s.setCore n i { c with wb := if c.wb.contains w then c.wb else c.wb ++ [w] }
    (noteCeRow s n i row, true)
  | .bad => (count32 s (Reg.chCsUeCount n) 1, false)

/-! ### Accesses of a unit to a channel's memory -/

/-- Why an access is not made: the halt causes of R254 it leads to. A page fault names the channel that owns the frame and
the tier-0 offset accessed (R338), an uncorrectable word of memory the address it was met at (R319, R346). -/
inductive Stop where
  | page (n off : Nat) (write : Bool)
  | unmapped
  | fence
  | bad (a : Nat)
  | window (n i row j : Nat)
  | word (n i row j : Nat)
  | bound (n i row j : Nat)
deriving DecidableEq, Repr

/-- The halt cause of a stopped access (R254). -/
def Stop.cause : Stop → Nat
  | .page _ _ _ => 1
  | .unmapped => 2
  | .fence => 3
  | .bad _ => 3
  | .window _ _ _ _ => 7
  | .word _ _ _ _ => 8
  | .bound _ _ _ _ => 9

/-- The core store fault that a stopped access raises beside its halt (R144, R152, R162, R181). -/
def stopEvent (s : State) (op : W32) : Stop → State
  | .window n i row j => storeFaultEvent s n i op row j
  | .word n i row j => storeFaultEvent s n i op row j
  | .bound n i row j => storeFaultEvent s n i op row j
  | _ => s

/-- The fence redirection and the residency check of one address, in the order of R338: the address that serves
it, or why it stops. -/
def resolve (s : State) (a : Nat) (write : Bool) : Except Stop Nat :=
  match place a with
  | .tier0 n off =>
    if fenced s n then
      if mirrored s n off && !fenced s (partner n) then
        if absent s (partner n) (off / 32768) then .error (.page (partner n) off write)
        else .ok (tier0Base (partner n) + off)
      else .error .fence
    else if absent s n (off / 32768) then .error (.page n off write)
    else .ok a
  | .tier1 _ _ => .ok a
  | .store n i off =>
    if storeMapped s n i && rowPowered s n i (off / 512) then .ok (csKey s n i off) else .error .unmapped
  | .none => .error .unmapped

/-- The counters of a decoded DRAM word: corrected and uncorrectable, by where the word lies. -/
def ceReg (a : Nat) : Option RegRef :=
  match place a with
  | .tier0 n _ => some (Reg.chT0CeCount n)
  | .tier1 n _ => some (Reg.chT1CeCount n)
  | _ => none
def ueReg (a : Nat) : Option RegRef :=
  match place a with
  | .tier0 n _ => some (Reg.chT0UeCount n)
  | .tier1 n _ => some (Reg.chT1UeCount n)
  | _ => none

/-- A DRAM word due for write-back (R347), in the channel that owns it. -/
def noteWriteBack (s : State) (a : Nat) : State :=
  let add := fun (n : Nat) =>
    if (s.chan n).wb.contains (a / 16) then s else s.setChan n { s.chan n with wb := (s.chan n).wb ++ [a / 16] }
  match place a with
  | .tier0 n _ => add n
  | .tier1 n _ => add n
  | _ => s

/-- Bytes that cross the port of the Letrix die that holds a tier-0 address (R373, R376). -/
def portBytes (s : State) (up : Bool) (a n : Nat) : State :=
  match place a with
  | .tier0 m off =>
    let k := 3 * m + stackOf s off
    count64 s (if up then Reg.lxPortUpBytes k else Reg.lxPortDownBytes k) n
  | _ => s

/-- One DRAM word read at the address that serves it, with its counts: the bytes, or why not (R317, R346, R347). -/
def readDram (s : State) (k : Nat) : State × Except Stop (List Byte) :=
  match decodeWord s (k / 16) with
  | .bad => (noteUeWord (match ueReg k with | some r => count32 s r 1 | none => s) k, .error (.bad k))
  | .corrected _ _ =>
    let bs := goodBytes s k 16
    (noteCeWord (noteWriteBack (match ceReg k with | some r => count32 s r 1 | none => s) k) k, .ok bs)
  | .clean => (s, .ok (goodBytes s k 16))

/-- The die of the module that is die d of channel n. -/
def dieNo (n d : Nat) : Nat := 3 * n + d

/-- Bytes sent up a die's port, and down it (R376). -/
def portUp (s : State) (k n : Nat) : State := count64 s (Reg.lxPortUpBytes k) n
def portDown (s : State) (k n : Nat) : State := count64 s (Reg.lxPortDownBytes k) n

/-- One word read at an address as a unit names it (R142 to R144, R338): a core store word with the bits that wait in
the gather buffer, a DRAM word through its decode. `inside` marks a read that does not cross a Letrix port: a die's
own, or one that the shared cache serves. -/
def readAt (inside : Bool) (s : State) (a : Nat) : State × Except Stop (List Byte) :=
  let a := a / 16 * 16
  match resolve s a false with
  | .error e => (s, .error e)
  | .ok k =>
    match place a with
    | .store n i off =>
      let r := csDecode s n i (off / 512) (off / 16 % 32)
      if r.2 then (r.1, .ok (natWord (csView r.1 n i (off / 512) (off / 16 % 32))))
      else (r.1, .error (.word n i (off / 512) (off / 16 % 32)))
    | _ => readDram (if inside then s else portBytes s true k 16) k

/-- The words of a list read in order, stopping at the first that stops. -/
def readWordsOn (inside : Bool) : State → List Nat → State × Except Stop (List (Nat × List Byte))
  | s, [] => (s, .ok [])
  | s, w :: r =>
    match readAt inside s (16 * w) with
    | (s, .error e) => (s, .error e)
    | (s, .ok bs) =>
      match readWordsOn inside s r with
      | (s, .error e) => (s, .error e)
      | (s, .ok l) => (s, .ok ((w, bs) :: l))

/-- Words read across the ports. -/
def readWords (s : State) (ws : List Nat) : State × Except Stop (List (Nat × List Byte)) := readWordsOn false s ws

/-- The word numbers of a byte range. -/
def wordsOf (a n : Nat) : List Nat :=
  if n = 0 then [] else (List.range ((a + n - 1) / 16 - a / 16 + 1)).map (· + a / 16)

/-- A byte range read through the checks. -/
def readRange (s : State) (a n : Nat) : State × Except Stop (List Byte) :=
  match readWords s (wordsOf a n) with
  | (s, .error e) => (s, .error e)
  | (s, .ok l) => (s, .ok (((l.flatMap (·.2)).drop (a % 16)).take n))

/-- A byte of device memory as a read sees it, without counting (for values read again from words already counted). -/
def deviceByte (s : State) (a : Nat) : Byte :=
  match resolve s (a / 16 * 16) false with
  | .error _ => 0
  | .ok k =>
    match place a with
    | .store n i off => BitVec.ofNat 8 (csView s n i (off / 512) (off / 16 % 32) / 2 ^ (8 * (a % 16)))
    | _ => goodByte s (k + a % 16)

/-- The frame of tier 0 that serves an address, in the channel that the fence leaves it with (R335, R338). -/
def servedFrame (s : State) (a : Nat) : Option (Nat × Nat) :=
  match place a with
  | .tier0 n off => some (if fenced s n then partner n else n, off / 32768)
  | _ => none

/-- A byte as deviceByte gives it, for an access that has passed the residency check: though its frame be absent (R339). -/
def heldByte (s : State) (a : Nat) : Byte :=
  match resolve s (a / 16 * 16) false with
  | .error (.page m off _) => goodByte s (tier0Base m + off + a % 16)
  | _ => deviceByte s a

/-- A word read by an access that has passed the residency check; it crosses no port any more (R339, R373). -/
def readHeldAt (s : State) (a : Nat) : State × Except Stop (List Byte) :=
  match resolve s (a / 16 * 16) false with
  | .error (.page m off _) => readDram s (tier0Base m + off)
  | _ => readAt true s a

/-- The words of a fetch that has passed the residency check, read in order, stopping at the first that stops. -/
def readHeld : State → List Nat → State × Except Stop (List (Nat × List Byte))
  | s, [] => (s, .ok [])
  | s, w :: r =>
    match readHeldAt s (16 * w) with
    | (s, .error e) => (s, .error e)
    | (s, .ok bs) =>
      match readHeld s r with
      | (s, .error e) => (s, .error e)
      | (s, .ok l) => (s, .ok ((w, bs) :: l))

/-- A byte range as its words stand. -/
def viewRange (s : State) (a n : Nat) : List Byte := (List.range n).map fun i => deviceByte s (a + i)

/-- What the read of a partial-word merge notes: a corrected word is counted, an uncorrectable one counted, and both note
their DRAM row (R317, R319, R347, R589). -/
def noteMerge (s : State) (a mask : Nat) : State :=
  if mask = 2 ^ 128 - 1 then s
  else match decodeWord s (a / 16) with
    | .clean => s
    | .corrected _ _ => noteCeWord (match ceReg a with | some r => count32 s r 1 | none => s) a
    | .bad => noteUeWord (match ueReg a with | some r => count32 s r 1 | none => s) a

/-- One masked word written in one channel's tier 0 or tier 1: the partial-word merge of R319, the dirty mark of
R436; a copy of the word in the shared cache is updated (R224). -/
def writeDram (s : State) (a data mask : Nat) : State × Bool :=
  let r := putWord (noteMerge s a mask) (a / 16) data mask
  match place a with
  | .tier0 n off =>
    if r.2 then
      let c := r.1.chan n
      let t := r.1.setChan n { c with wb := c.wb.filter (· != a / 16) }
      (freshCached (portBytes (markDirty t n off) false a 16) (a / 16) 1, true)
    else r
  | .tier1 n _ =>
    if r.2 then
      let c := r.1.chan n
      (freshCached (r.1.setChan n { c with wb := c.wb.filter (· != a / 16) }) (a / 16) 1, true)
    else r
  | _ => r

/-- One masked word written at a DRAM address by any unit: fence and residency (R335, R338), both copies of a
mirrored range (R333). A write that the fence redirects is made in the partner as its only copy and is not counted as a
write to a partner copy (R348 does not say; DESIGN CHOICE). -/
def writeWord (s : State) (a data mask : Nat) : State × Except Stop Unit :=
  let a := a / 16 * 16
  match place a with
  | .tier0 n off =>
    match resolve s a true with
    | .error e => (s, .error e)
    | .ok k =>
      let (s, ok) := writeDram s k data mask
      if k = a && mirrored s n off && !fenced s (partner n) then
        let (s, both) := writeDram s (tier0Base (partner n) + off) data mask
        let s := if both then count64 s (Reg.chMirrorWriteCount n) 1 else s
        if ok && both then (s, .ok ()) else (s, .error (.bad (if ok then tier0Base (partner n) + off else a)))
      else if ok then (s, .ok ()) else (s, .error (.bad k))
  | .tier1 _ _ =>
    let (s, ok) := writeDram s a data mask
    if ok then (s, .ok ()) else (s, .error (.bad a))
  | _ => (s, .error .unmapped)

/-- Masked words written in order. Every word but one that an uncorrectable merge stops is written (R319); the
first stop is reported. -/
def writeWords : State → List (Nat × Nat × Nat) → State × Except Stop Unit
  | s, [] => (s, .ok ())
  | s, (w, d, m) :: r =>
    match writeWord s (16 * w) d m with
    | (s, .ok _) => writeWords s r
    | (s, .error (.bad a)) => let (s, _) := writeWords s r; (s, .error (.bad a))
    | (s, .error e) => (s, .error e)

/-- A byte range written at a DRAM address. -/
def writeRange (s : State) (a : Nat) (bs : List Byte) : State × Except Stop Unit := writeWords s (byteWrites a bs)

/-! ### Page faults -/

/-- A page fault recorded, counted and posted to the channel that owns the issuer (R338, R340): `kind` is the
origin, `issuer` its number, and the event carries the operation of what halted (R563). -/
def pageFault (s : State) (n : Nat) (op : W32) (origin issuer : Nat) (own off : Nat) (write : Bool) : State :=
  let s := recordOnce s (Reg.chPageFault n)
    (b2n write * 2 ^ 62 + origin * 2 ^ 60 + own * 2 ^ 58 + off / 32768 * 2 ^ 32 + issuer)
  let s := count32 s (Reg.chPageFaultCount n) 1
  post s n 0x0A op [(12, issuer), (48, tier0Base own + off)]

end Sys2Proof.Machine
end

