-- ==== Sys2Proof/Machine/Store.lean ====
section
/-! DEFINITION. The core store: accesses by row and by column, the gather buffer, the scoreboard, task regions,
receive windows and arrival counters, row mapping, quarters and write-backs (R135 to R182, R697). -/

namespace Sys2Proof.Machine

/-- Bytes of a core store as a read sees them. -/
def csBytes (s : State) (n i off len : Nat) : List Byte :=
  ((wordsOf off len).flatMap fun w => natWord (csView s n i (w / 32) (w % 32))).drop (off % 16) |>.take len

/-- The operation of a core's task: 0 array, 1 vector, 2 fill and copy; other numbers stand for no task. -/
def taskOp (c : Core) (t : Nat) : W32 :=
  match t with
  | 0 => (c.array.map (·.opId)).getD 0
  | 1 => (c.vec.map (·.opId)).getD 0
  | 2 => (c.fill.map (·.opId)).getD 0
  | _ => 0

/-- A task halted at its access, with its position saved (R144, R152, R162). -/
def haltTask (s : State) (n i t : Nat) (h : TaskHalt) : State :=
  let c := s.core n i
  s.setCore n i (match t with
    | 0 => { c with array := c.array.map fun a => { a with halted := some h } }
    | 1 => { c with vec := c.vec.map fun a => { a with halted := some h } }
    | 2 => { c with fill := c.fill.map fun a => { a with halted := some h } }
    | _ => c)

/-- The words of an access: row and word of each (R140). -/
def accWords (column : Bool) (row word count : Nat) : List (Nat × Nat) :=
  if column then (List.range count).map fun k => (row + k, word) else (List.range count).map fun k => (row, word + k)

/-- The bounds of an access form (R140). -/
def accOk (column : Bool) (row word count : Nat) : Bool :=
  decide (0 < count) && decide (row < 512) && decide (word < 32) && decide (count ≤ 32) &&
    (if column then decide (row + count ≤ 512) else decide (word + count ≤ 32))

/-- A read of a list of words: all decoded; no data when one is uncorrectable, and the first such word. -/
def csRead : State → Nat → Nat → List (Nat × Nat) → State × Option (Nat × Nat)
  | s, _, _, [] => (s, none)
  | s, n, i, (r, j) :: rest =>
    let (s, ok) := csDecode s n i r j
    let (s, bad) := csRead s n i rest
    (s, if ok then bad else some (r, j))

/-- A task's read: a data fault halts the task and raises the event (R144). True when data are delivered. -/
def taskRead (s : State) (n i t : Nat) (ws : List (Nat × Nat)) : State × Bool :=
  match csRead s n i ws with
  | (s, none) => (s, true)
  | (s, some (r, j)) => (haltTask (storeFaultEvent s n i (taskOp (s.core n i) t) r j) n i t .data, false)

/-! ### The gather buffer (R146 to R149) -/

/-- A word written to its bank, its pending write-back superseded (R143). A merge reads the word first, and a word it
corrects is counted (R148, R177, R182). -/
def csPut (s : State) (n i row j data mask : Nat) : State × Bool :=
  let w := csWord s n i row j
  let s := match decide (mask = 2 ^ 128 - 1), decodeWord s w with
    | false, .corrected _ _ => noteCeRow (count32 s (Reg.chCsCeCount n) 1) n i row
    | _, _ => s
  let r := putWord s w data mask
  let c := r.1.core n i
  (r.1.setCore n i { c with wb := if r.2 then c.wb.filter (· != w) else c.wb }, r.2)

/-- A gather-buffer entry flushed and freed (R148). -/
def flushEntry (s : State) (n i : Nat) (g : Gather) : State :=
  let c := s.core n i
  let s := s.setCore n i { c with gather := c.gather.filter (·.word != g.word) }
  let (s, ok) := csPut s n i (g.word / 32) (g.word % 32) g.data.toNat g.mask.toNat
  if ok then s
  else
    let s := count32 s (Reg.chCsUeCount n) 1
    let s := storeFaultEvent s n i (taskOp (s.core n i) g.task) (g.word / 32) (g.word % 32)
    haltTask s n i g.task .data

/-- Whether a flush of a task's entries would meet a word that cannot be read (R148). -/
def flushLoses (s : State) (n i t : Nat) : Bool :=
  (s.core n i).gather.any fun g => g.task == t && decide (g.mask.toNat ≠ 2 ^ 128 - 1) &&
    (match decodeWord s (csWord s n i (g.word / 32) (g.word % 32)) with | .bad => true | _ => false)

/-- Every entry a task filled is flushed at its end (R147). -/
def flushTask (s : State) (n i t : Nat) : State :=
  ((s.core n i).gather.filter (·.task == t)).foldl (fun s g => flushEntry s n i g) s

/-- A write of the masked bits of one word by a task (R146, R147). An entry that writes of two tasks have merged into is
flushed at the end of the task that filled it first, which a fault of that flush halts: the spec does not say which of
them has filled it (DESIGN CHOICE). -/
def csWrite (s : State) (n i t row j data mask : Nat) : State :=
  let w := row * 32 + j
  let c := s.core n i
  if mask = 2 ^ 128 - 1 then
    (csPut (s.setCore n i { c with gather := c.gather.filter (·.word != w) }) n i row j data mask).1
  else match gatherOf c w with
    | some g =>
      let m := g.mask.toNat ||| mask
      let d := (g.data.toNat &&& (2 ^ 128 - 1 - mask)) ||| (data &&& mask)
      if m = 2 ^ 128 - 1 then
        (csPut (s.setCore n i { c with gather := c.gather.filter (·.word != w) }) n i row j d m).1
      else
        let g' : Gather := { g with data := BitVec.ofNat 128 d, mask := BitVec.ofNat 128 m }
        s.setCore n i { c with gather := c.gather.map fun e => if e.word = w then g' else e }
    | none =>
      let s := if c.gather.length < 8 then s else match c.gather with
        | [] => s
        | g :: _ => flushEntry s n i g
      let c := s.core n i
      let g : Gather := ⟨w, BitVec.ofNat 128 (data &&& mask), BitVec.ofNat 128 mask, t⟩
      s.setCore n i { c with gather := c.gather ++ [g] }

/-! ### Task regions and the scoreboard -/

/-- The region register of a task (R150): base and length in rows. -/
def taskRegion (s : State) (n i t : Nat) : Nat × Nat :=
  (fld s (Reg.coreTaskRegion n i t) 8 0, fld s (Reg.coreTaskRegion n i t) 25 16)

/-- Whether an access overlaps an entry. -/
def scoreHit (e : Score) (r0 r1 j0 j1 : Nat) : Bool :=
  decide (e.r0 ≤ r1) && decide (r0 ≤ e.r1) && decide (e.j0 ≤ j1) && decide (j0 ≤ e.j1)

/-- Whether an access of task t has to wait on the scoreboard (R154, R155). -/
def scoreWaits (c : Core) (t : Nat) (write : Bool) (r0 r1 j0 j1 : Nat) : Bool :=
  decide (16 ≤ c.score.length) ||
    c.score.any fun e => e.task != t && (write || e.write) && scoreHit e r0 r1 j0 j1

/-- Result-area entries of a pass entered and released (R153), and those of a task whose passes are discarded. -/
def scoreEnter (s : State) (n i : Nat) (e : Score) : State :=
  let c := s.core n i
  s.setCore n i { c with score := c.score ++ [e] }
def scoreDone (s : State) (n i seq ps : Nat) : State :=
  let c := s.core n i
  s.setCore n i { c with score := c.score.eraseP fun e => e.seq == seq && e.pass == ps }
def scoreLeave (s : State) (n i t : Nat) : State :=
  let c := s.core n i
  s.setCore n i { c with score := c.score.filter (·.task != t) }

/-- Whether an access to a list of words, each as row and word, has to wait on the scoreboard (R154, R155). -/
def wordsWait (c : Core) (t : Nat) (write : Bool) (ws : List (Nat × Nat)) : Bool :=
  ws.any fun w => scoreWaits c t write w.1 w.1 w.2 w.2

/-- An access held by the scoreboard: the core waits a cycle (R155). -/
def scoreHeld (s : State) (n : Nat) : State := count64 s (Reg.chSbWaitCycles n) 1

/-- Whether a word of a list lies outside a task's region (R151, R152). -/
def outsideRegion (base len : Nat) (ws : List (Nat × Nat)) : Option (Nat × Nat) :=
  ws.find? fun w => decide (w.1 < base) || decide (base + len ≤ w.1)

/-- A core store bound fault: the task halts at its access, which is not performed (R152). -/
def boundFault (s : State) (n i t row j : Nat) : State :=
  haltTask (storeFaultEvent s n i (taskOp (s.core n i) t) row j) n i t .bound

/-! ### Receive windows and arrivals (R160 to R167) -/

/-- Whether a window holds a byte range of the store. -/
def windowHolds (s : State) (n i k off len : Nat) : Bool :=
  let r := Reg.coreRecvWindow n i k
  flag s r 31 && decide (fld s r 8 0 * 512 ≤ off) && decide (off + len ≤ (fld s r 8 0 + fld s r 25 16) * 512)

/-- The enabled window that holds a range. -/
def windowOf (s : State) (n i off len : Nat) : Option Nat :=
  (List.range 8).find? fun k => windowHolds s n i k off len

/-- A transfer arrives at a window: its counter rises by 1 (R163). -/
def arriveAt (s : State) (n i k : Nat) : State :=
  let c := fld s (Reg.coreRecvWindow n i k) 28 26
  setFld s (Reg.coreArrival n i c) 31 0 ((fld s (Reg.coreArrival n i c) 31 0 + 1) % 2 ^ 32)

/-- A part of a transfer is written into a window: the transfer is under way there, from its source (R163, R164). -/
def underWay (s : State) (n i k src : Nat) : State :=
  let c := s.core n i
  if c.part.contains (k, src) then s else s.setCore n i { c with part := c.part ++ [(k, src)] }

/-- A transfer of several parts ends: it arrives at the window that holds its lowest address, unless it has been
discarded in between (R163, R164). -/
def endTransfer (s : State) (n i k src : Nat) : State :=
  let c := s.core n i
  if c.part.any (·.2 == src) then arriveAt (s.setCore n i { c with part := c.part.filter (·.2 != src) }) n i k
  else s

/-- A counter has reached its target (R167). -/
def reached (s : State) (n i c : Nat) (v : W32) : Bool :=
  decide ((BitVec.ofNat 32 (fld s (Reg.coreArrival n i c) 31 0) - v).toNat < 2 ^ 31)

/-- Masked words written into a mapped core store from outside: only wholly inside one enabled window, else discarded
and counted (R162). True when written. -/
def extWrite (s : State) (n i : Nat) (ws : List (Nat × Nat × Nat)) : State × Bool :=
  match ws with
  | [] => (s, true)
  | (w0, _, _) :: _ =>
    let lo := ws.foldl (fun m p => min m p.1) w0
    let hi := ws.foldl (fun m p => max m p.1) w0
    if storeMapped s n i && (windowOf s n i (16 * lo) (16 * (hi + 1 - lo))).isSome then
      (ws.foldl (fun s p => csWrite s n i 3 (p.1 / 32) (p.1 % 32) p.2.1 p.2.2) s, true)
    else (count32 s (Reg.chCsWindowRejectCount n) 1, false)

/-! ### Commands of the core store -/

/-- The task number of a requester: 3 for those the scoreboard does not follow (R156). -/
def userTask : CsUser → Nat
  | .arrays => 0
  | .sparse => 0
  | .vector => 1
  | .fillCopy => 2
  | _ => 3

/-- Whether a core's task of that number has halted. -/
def taskHalted (c : Core) (t : Nat) : Bool :=
  match t with
  | 0 => c.array.any fun a => a.halted.isSome
  | 1 => c.vec.any fun a => a.halted.isSome
  | 2 => c.fill.any fun a => a.halted.isSome
  | _ => false

/-- Whether a core has a task of that number that may run. -/
def taskRuns (c : Core) (t : Nat) : Bool :=
  match t with
  | 0 => (c.array.any fun a => a.halted.isNone)
  | 1 => (c.vec.any fun a => a.halted.isNone)
  | 2 => (c.fill.any fun a => a.halted.isNone)
  | _ => true

/-- The region of a loaded operation's task on a core: taken at load (R150). -/
def loadedRegion (s : State) (n i t : Nat) : Nat × Nat :=
  let op := taskOp (s.core n i) t
  match ((s.chan n).ops.flatMap fun l => if l.op.opId = op then l.grid else []).find? (·.phys == i) with
  | some g => (g.base, g.len)
  | none => taskRegion s n i t

/-- A plain access through the port by the vector task, the fill and copy task, a slot fill, a remote write or
the debug port (R140 to R156). A task's rows are relative to its region (R151); an access outside it raises a
bound fault (R152). An access that the scoreboard holds does not issue. -/
def csAccess (s : State) (n i : Nat) (a : CsAccess) : State :=
  let t := userTask a.user
  let c := s.core n i
  if !accOk a.column a.row a.word a.count || !taskRuns c t then s
  else
    let reg := if t < 3 then loadedRegion s n i t else (0, 512)
    let rows := if a.column then a.count else 1
    let words := if a.column then 1 else a.count
    let row := reg.1 + a.row
    if reg.2 < a.row + rows then boundFault s n i t row a.word
    else if t < 3 && scoreWaits c t a.write row (row + rows - 1) a.word (a.word + words - 1) then scoreHeld s n
    else if !rowPowered s n i row || !rowPowered s n i (row + rows - 1) then s
    else
      let ws := accWords a.column row a.word a.count
      if a.write then
        let full := (ws.zip (a.data.zip a.mask)).map fun p =>
          (p.1.1 * 32 + p.1.2, p.2.1.toNat, p.2.2.toNat)
        if a.user = .remote then (extWrite s n i full).1
        else full.foldl (fun s p => csWrite s n i t (p.1 / 32) (p.1 % 32) p.2.1 p.2.2) s
      else
        let (s, ok) := taskRead s n i t ws
        if ok then { s with out := { s.out with store := ws.flatMap fun p => natWord (csView s n i p.1 p.2) } }
        else s

/-- CORE_STORE_WRITE_BACK (R143): the oldest corrected word that is due is written back. -/
def opCoreStoreWriteBack (n i : Nat) (s : State) : State :=
  let c := s.core n i
  match c.wb with
  | [] => s
  | w :: r => (writeBackWord s w).setCore n i { c with wb := r }

/-- A core has no task loaded (R169, R174). -/
def noTask (c : Core) : Bool :=
  c.array.isNone && c.behind.isNone && c.vec.isNone && c.fill.isNone && c.deck.isNone

/-- The bytes of a range of keys and their errors removed: the range reads as zero with valid check bits. -/
def wipeKeys (s : State) (lo hi : Nat) : State :=
  { s with
    mem := mkeep (fun a => decide (a < lo) || decide (hi ≤ a)) s.mem
    errs := mkeep (fun e => decide (e < 18 * (lo / 16)) || decide (18 * (hi / 16) ≤ e)) s.errs }

/-- CORE_CS_POWER_WRITE (R168 to R170): only while no task is loaded; a quarter that goes down holds no data, in its
rows or in the gather buffer, and one that comes up is wiped. -/
def opCoreCsPowerWrite (n i : Nat) (v : W64) (s : State) : State :=
  if !noTask (s.core n i) || bits v.toNat 63 4 ≠ 0 then s
  else
    let old := fld s (Reg.coreCsPower n i) 3 1
    let new := bits v.toNat 3 1
    let s := setFld s (Reg.coreCsPower n i) 3 1 new
    [1, 2, 3].foldl (fun s q =>
      if bit old (q - 1) != bit new (q - 1) then
        let s := (List.range 8).foldl (fun s k =>
          let r := Reg.coreRowMap n i k
          if flag s r 31 && fld s r 8 0 / 128 == q then wipeKeys s (spareKey n i k 0) (spareKey n i k 512) else s) s
        let c := s.core n i
        let s := s.setCore n i { c with gather := c.gather.filter fun g => g.word / 4096 != q }
        wipeKeys s (storeBase n i + q * 65536) (storeBase n i + (q + 1) * 65536)
      else s) s

/-- A row copied into a spare, each word corrected or left uncorrectable, each counted once (R174, R175). The row copied
stays as it was: whether a corrected word is also written back there is not said (DESIGN CHOICE). -/
def copyRow (s : State) (n src dst : Nat) : State :=
  (List.range 32).foldl (fun s j =>
    let w := src + j
    let s := match decodeWord s w with
      | .clean => s
      | .corrected _ _ => count32 s (Reg.chCsCeCount n) 1
      | .bad => count32 s (Reg.chCsUeCount n) 1
    copyWord s w (dst + j)) s

/-- ROW_MAP_WRITE (R172 to R175, R178): only while no task is loaded; setting valid copies the row first, and a mapping
that was not there before enters the field record (R590). -/
def opRowMapWrite (n i k : Nat) (v : W64) (s : State) : State :=
  if !noTask (s.core n i) || bits v.toNat 63 32 ≠ 0 || bits v.toNat 29 9 ≠ 0 then s
  else
    let r := Reg.coreRowMap n i k
    let row := bits v.toNat 8 0
    let had := flag s r 31
    let s := if bit v.toNat 31 && !had then copyRow s n (csKey s n i (row * 512) / 16) (spareKey n i k 0 / 16) else s
    let s := if bit v.toNat 31 && !(had && fld s r 8 0 == row) then recordField s 1 n (i * 2 ^ 18 + row * 2 ^ 9) else s
    setFld (setFld s r 31 31 (bits v.toNat 31 31)) r 8 0 row

/-- RECV_WINDOW_WRITE (R160, R164): clearing enable discards the transfers that have not yet arrived. -/
def opRecvWindowWrite (n i k : Nat) (v : W64) (s : State) : State :=
  if bits v.toNat 63 32 ≠ 0 || bits v.toNat 30 29 ≠ 0 || bits v.toNat 15 9 ≠ 0 then s
  else
    let r := Reg.coreRecvWindow n i k
    let c := s.core n i
    let gone := c.part.filter (·.1 == k)
    let s := if flag s r 31 && !bit v.toNat 31 then
        (count32 s (Reg.chCsWindowRejectCount n) gone.length).setCore n i
          { c with part := c.part.filter (·.1 != k) }
      else s
    wr s r (BitVec.ofNat 64 (bits v.toNat 31 0))

/-- ARRIVAL_COUNTER_WRITE (R165, R166): the write takes effect first, then the arrivals of the same cycle. -/
def opArrivalCounterWrite (n i k : Nat) (v : W64) (arrivals : Nat) (s : State) : State :=
  if bits v.toNat 63 32 ≠ 0 then s
  else setFld s (Reg.coreArrival n i k) 31 0 ((bits v.toNat 31 0 + arrivals) % 2 ^ 32)

/-- CORE_MAP_WRITE (R218, R669). -/
def opCoreMapWrite (n c : Nat) (v : W64) (s : State) : State :=
  if bits v.toNat 63 10 ≠ 0 then s else setFld s (Reg.chCoreMap n c) 9 0 (bits v.toNat 9 0)

end Sys2Proof.Machine
end

