-- ==== Sys2Proof/Machine/Layout.lean ====
section
/-! DEFINITION. Descriptors and coordinates: reading an operation and its layout descriptors from their bytes
(R183, R203 to R209), the walk of a loop nest (R209 to R213), and the bits an element occupies (R184, R194,
R197). -/

namespace Sys2Proof.Machine

/-! ### Descriptors -/

/-- A 64-bit and a 32-bit little-endian word of a byte string. -/
def le64 (bs : List Byte) (off : Nat) : Nat := leNat ((bs.drop off).take 8)
def le32 (bs : List Byte) (off : Nat) : Nat := leNat ((bs.drop off).take 4)

/-- A level entry (R209). -/
def parseLevel (bs : List Byte) : Level :=
  let w := le32 bs 4
  { bound := le32 bs 0, axis := bits w 7 6, tag := bits w 5 3, visit := bits w 2 1,
    dims := (List.range 8).map fun o => bits (le32 bs (8 + 4 * o)) 31 29,
    steps := (List.range 8).map fun o => signed 24 (bits (le32 bs (8 + 4 * o)) 23 0) }

/-- Reserved bits of a level entry that must be zero. -/
def levelResv (bs : List Byte) : Bool :=
  bits (le32 bs 4) 31 8 == 0 && bits (le32 bs 4) 0 0 == 0 &&
    (List.range 8).all fun o => bits (le32 bs (8 + 4 * o)) 28 24 == 0

/-- An operand table entry (R207). -/
def parseSlot (bs : List Byte) : OpSlot :=
  let w := le64 bs 0
  { en := bit w 63, throw := bits w 61 60, lead := bits w 59 56, desc := bits w 47 0, xform := bits (le64 bs 8) 31 0 }

/-- A layout descriptor (R183). -/
def parseLayout (bs : List Byte) : Layout :=
  let w := le64 bs 0
  let f := le32 bs 8
  { rank := bits w 52 50, bcast := bit w 49, space := bit w 48, base := bits w 47 0,
    padKind := bits f 17 16, fmt := bits f 15 0, padValue := le32 bs 12,
    extents := (List.range 6).map fun d => le32 bs (16 + 4 * d),
    strides := (List.range 6).map fun d => if d = 0 then 0 else signed 32 (le32 bs (0x24 + 4 * d)),
    scaleLink := signed 32 (le32 bs 0x3C) }

/-- The stride of dimension d stands at 0x24 + 4d (R183), d from 1. -/
def layoutResv (bs : List Byte) : Bool :=
  bits (le64 bs 0) 63 53 == 0 && bits (le32 bs 8) 31 18 == 0 &&
    decide (1 ≤ bits (le64 bs 0) 52 50) && decide (bits (le64 bs 0) 52 50 ≤ 6) && bits (le64 bs 0) 5 0 == 0

/-- An operation descriptor (R204 to R209), without its layouts. -/
def parseOp (bs : List Byte) : Op :=
  let a := le64 bs 0
  let b := le64 bs 8
  let c := le64 bs 0x10
  let d := le64 bs 0x18
  let n := bits a 9 7
  { opId := BitVec.ofNat 32 (bits a 63 32), kind := bits a 31 28, mode := bits a 27 25, shape := bits a 24 22,
    w24 := bit a 21, preEn := bit a 20, idxEn := bit a 19, arrive := bit a 18, haltIdx := bit a 17,
    parts := bits a 15 10 + 1, nlevels := n, first := bits b 53 44, gridM := bits b 43 34, gridN := bits b 33 24,
    deadline := bits c 63 32, density := bits c 31 21, share := bits c 20 15,
    seed := BitVec.ofNat 32 (bits d 63 32), indexBase := signed 32 (bits d 31 0),
    zeroPoint := signed 32 (bits (le64 bs 0x20) 63 32),
    kspec := (List.range 8).map fun k => BitVec.ofNat 64 (le64 bs (0x40 + 8 * k)),
    slots := (List.range 8).map fun o => parseSlot (bs.drop (0x80 + 16 * o)),
    levels := ((List.range 6).take n).map fun l => parseLevel (bs.drop (0x100 + 40 * l)),
    layouts := [], scales := [], map := none, map2 := none, rot := [], entry := 0 }

/-- Reserved bits of the header, the operand table and the levels in use (R204, R207, R209). -/
def opResv (bs : List Byte) : Bool :=
  bits (le64 bs 0) 16 16 == 0 && bits (le64 bs 0) 6 0 == 0 &&
  bits (le64 bs 8) 63 54 == 0 && bits (le64 bs 8) 23 0 == 0 &&
  bits (le64 bs 0x10) 14 0 == 0 && bits (le64 bs 0x20) 31 0 == 0 &&
  le64 bs 0x28 == 0 && le64 bs 0x30 == 0 && le64 bs 0x38 == 0 && le64 bs 0x1F0 == 0 && le64 bs 0x1F8 == 0 &&
  ((List.range 8).all fun o =>
    let w := le64 bs (0x80 + 16 * o)
    bits w 62 62 == 0 && bits w 55 48 == 0 && bits (le64 bs (0x88 + 16 * o)) 63 32 == 0) &&
  ((List.range (min 6 (bits (le64 bs 0) 9 7))).all fun l => levelResv (bs.drop (0x100 + 40 * l)))

/-- The operand slot o. -/
def Op.slot (op : Op) (o : Nat) : OpSlot := op.slots.getD o ⟨false, 0, 0, 0, 0⟩
/-- The layout of slot o. -/
def Op.layout (op : Op) (o : Nat) : Option Layout := (op.layouts.getD o none)
/-- The scale layout of slot o. -/
def Op.scale (op : Op) (o : Nat) : Option Layout := (op.scales.getD o none)
/-- A kind-specific word: k counts 64-bit words from 0x040. -/
def Op.kword (op : Op) (k : Nat) : Nat := (op.kspec.getD k 0).toNat

/-- A layout's format word. -/
def Layout.format (l : Layout) : Fmt := Fmt.ofWord l.fmt
/-- Extent of dimension d; a dimension at or above the rank has extent 1 (R194). -/
def Layout.extent (l : Layout) (d : Nat) : Nat := if d < l.rank then l.extents.getD d 0 else 1
/-- Stride of dimension d in bytes; 0 for dimension 0 and at or above the rank. -/
def Layout.strideBytes (l : Layout) (d : Nat) : Int := if 0 < d ∧ d < l.rank then 64 * l.strides.getD d 0 else 0
/-- A tensor without elements (R185). -/
def Layout.empty (l : Layout) : Bool := (List.range l.rank).any fun d => l.extent d == 0

/-! ### The loop nest -/

/-- Levels of an axis, innermost first. -/
def axisLevels (op : Op) (axis : Nat) : List Level := op.levels.filter (·.axis == axis)

/-- The tile counts T_m and T_n and the K steps (R213, R210). -/
def axisCount (op : Op) (axis : Nat) : Nat := (axisLevels op axis).foldl (fun p l => p * l.bound) 1

/-- The index vectors of a nest, outermost level first, in visiting order (R212). -/
def walk : List Level → Nat → List (List Nat)
  | [], _ => [[]]
  | l :: r, par =>
    (List.range l.bound).flatMap fun q =>
      let down := l.visit == 1 || (l.visit == 2 && par % 2 == 1)
      let i := if down then l.bound - 1 - q else q
      (walk r i).map (i :: ·)

/-- A tile of a nest: its M and N levels' indices, outermost first. -/
structure TileIx where
  levels : List (Level × Nat)
  tm     : Nat
  tn     : Nat
deriving DecidableEq, Repr

/-- The mixed-radix index of an axis among a tile's level indices, the outer level most significant (R213). -/
def mixed (ix : List (Level × Nat)) (axis : Nat) : Nat :=
  ix.foldl (fun acc p => if p.1.axis = axis then acc * p.1.bound + p.2 else acc) 0

/-- All tiles of an operation in visiting order (R213, R217). -/
def allTiles (op : Op) : List TileIx :=
  let lv := (op.levels.filter (·.axis != 2)).reverse
  (walk lv 0).map fun ix =>
    let z := lv.zip ix
    ⟨z, mixed z 0, mixed z 1⟩

/-- The block sizes b_m and b_n (R216). -/
def blockM (op : Op) : Nat := cdiv (axisCount op 0) op.gridM
def blockN (op : Op) : Nat := cdiv (axisCount op 1) op.gridN

/-- The tiles of block (i, j), in the order its core visits them (R216, R217). For a compressed operand with
block ranges, the ranges take the place of the N split (R289). The grid columns of kind 0x1 are query heads, which split no
tiles (R402). -/
def coreTiles (op : Op) (i j : Nat) : List TileIx :=
  let bm := blockM op
  let bn := blockN op
  let lo := match op.map with
    | some m => if m.rangeOff = 0 then j * bn else (m.ranges.getD j 0).toNat
    | none => j * bn
  let hi := match op.map with
    | some m => if m.rangeOff = 0 then (j + 1) * bn else (m.ranges.getD (j + 1) 0).toNat
    | none => (j + 1) * bn
  (allTiles op).filter fun t =>
    decide (i * bm ≤ t.tm) && decide (t.tm < (i + 1) * bm) && (op.kind == 1 || (decide (lo ≤ t.tn) && decide (t.tn < hi)))

/-- The tile index of R213. -/
def tileIndex (op : Op) (t : TileIx) : Nat := t.tm * axisCount op 1 + t.tn

/-- The K-level indices of a step, outermost first. -/
def stepIndices : List Level → Nat → List (Level × Nat)
  | [], _ => []
  | l :: r, st =>
    let inner := r.foldl (fun p l => p * l.bound) 1
    (l, if inner = 0 then 0 else st / inner % l.bound) :: stepIndices r (if inner = 0 then 0 else st % inner)

/-- The coordinates that level indices give an operand (R209). -/
def baseCoord (o : Nat) (ix : List (Level × Nat)) : List Int :=
  (List.range 6).map fun d => ix.foldl (fun acc p =>
    if p.1.dims.getD o 7 = d then acc + p.1.steps.getD o 0 * p.2 else acc) 0

/-- The dimension along which an axis runs in an operand: that of the innermost level of the axis that advances
it (R696). -/
def axisDim (op : Op) (axis o : Nat) : Option Nat :=
  ((axisLevels op axis).find? fun l => decide (l.dims.getD o 7 ≤ 5)).map fun l => l.dims.getD o 7

/-- The dimension along which a tile's rows (axis 0), columns (axis 1) or reduction (axis 2) run in an operand: the
axis's own, or, where no level of the axis advances the operand, the one its content of R208 gives it (M rows by K
with K dimension 0, K by N columns, M × N). -/
def axisRun (op : Op) (axis o : Nat) : Option Nat :=
  match axisDim op axis o with
  | some d => some d
  | none => match axis, o with
    | 0, 0 | 0, 2 | 0, 3 | 0, 4 | 1, 1 => some 1
    | 1, 2 | 1, 3 | 1, 4 | 1, 5 | 2, 0 | 2, 1 => some 0
    | _, _ => none

/-- Coordinates moved by x along a dimension, if there is one. -/
def moved (c : List Int) (d : Option Nat) (x : Int) : List Int :=
  match d with
  | none => c
  | some d => c.set d (c.getD d 0 + x)

/-- Coordinates of an operand at a tile, with row, column and reduction offsets from the tile's origin. -/
def coordOf (op : Op) (o : Nat) (t : TileIx) (row col : Nat) (k : Nat) : List Int :=
  let kl := (axisLevels op 2).reverse
  let c := baseCoord o (t.levels ++ stepIndices kl (k / 512))
  let c := moved c (axisRun op 0 o) row
  let c := moved c (axisRun op 1 o) col
  moved c (axisRun op 2 o) ((k % 512 : Nat) : Int)

/-- Whether an operand is advanced by any level (R699). -/
def advanced (op : Op) (o : Nat) : Bool := op.levels.any fun l => decide (l.dims.getD o 7 ≤ 5)

/-- Whether a level moves an operand's coordinates (R209). -/
def moves (o : Nat) (l : Level) : Bool := decide (l.dims.getD o 7 ≤ 5) && l.steps.getD o 0 != 0

/-- The tag that governs the fetches of an operand within a tile (R211): that of the innermost level not tagged array,
where a K-axis level of several iterations moves it; none where its coordinates stay. -/
def stepTag (op : Op) (o : Nat) : Option Nat :=
  if (axisLevels op 2).any fun l => moves o l && decide (1 < l.bound) then (op.levels.find? fun l => l.tag != 0).map (·.tag)
  else none

/-- The tag that governs an operand's fetch from one tile to the next (R211): that of the level at which its coordinates
changed, the outermost of those whose index changed; where only the K-axis steps begin anew, the tag within a tile. None
where the coordinates stay. `steps` is the number of 512-element steps of the core's part. -/
def changeTag (op : Op) (o steps : Nat) (a b : TileIx) : Option Nat :=
  match (a.levels.zip b.levels).find? fun p => p.1.2 != p.2.2 && moves o p.1.1 with
  | some p => some p.1.1.tag
  | none => if 1 < steps then stepTag op o else none

/-- The tag that governs an operand's first fetch: that of the outermost level that moves it (R211), of the innermost
level not tagged array when only K-axis levels do, of the outermost level when none does (R699). -/
def firstTag (op : Op) (o : Nat) : Nat :=
  match (op.levels.filter fun l => l.tag != 0 && moves o l).getLast? with
  | some l => l.tag
  | none => match stepTag op o with
    | some t => t
    | none => (op.levels.getLast?.map (·.tag)).getD 3

/-- The tag that decides whether an operand has a stream (R211, R233, R699): that of its fetches within a tile, else of
the innermost level not tagged array that advances it, else of its first fetch. -/
def governTag (op : Op) (o : Nat) : Nat :=
  match stepTag op o, op.levels.find? fun l => l.tag != 0 && decide (l.dims.getD o 7 ≤ 5) with
  | some t, _ => t
  | none, some l => l.tag
  | none, none => firstTag op o

/-- Whether an operand waits on arrivals at any of its changes (R167, R211). -/
def remoteUse (op : Op) (o : Nat) : Bool :=
  firstTag op o == 5 || stepTag op o == some 5 || op.levels.any fun l => moves o l && l.tag == 5

/-- Whether the loader makes a stream for a read operand (R233). -/
def streamed (op : Op) (o : Nat) : Bool := 2 ≤ governTag op o && governTag op o ≤ 4

/-! ### Tile shapes -/

/-- Rows and columns of a tile (R214); the kinds without a shape of their own take the tile their rules name. -/
def tileRows (op : Op) : Nat :=
  if op.kind = 1 then 64 else if op.kind = 3 then 1
  else match op.shape with | 1 => 128 | 3 => 128 | 4 => 32 | _ => 64
def tileCols (op : Op) : Nat :=
  if op.kind = 3 then 32 else match op.shape with | 2 => 64 | 3 => 64 | _ => 32

/-- The passes of a tile in order: first row and first column (R214). -/
def tilePasses (op : Op) : List (Nat × Nat) :=
  match op.shape with
  | 1 => [(0, 0), (64, 0)]
  | 2 => [(0, 0), (0, 32)]
  | 3 => [(0, 0), (64, 0), (0, 32), (64, 32)]
  | _ => [(0, 0)]

/-- Rows of a pass. -/
def passRows (op : Op) : Nat := if op.shape = 4 then 32 else 64

/-- The reduction length (R208). -/
def redLen (op : Op) : Nat := match op.layout 1 with | some l => l.extent 0 | none => 0

/-- The range of k of part p: first and one past the last (R210). -/
def partRange (op : Op) (p : Nat) : Nat × Nat :=
  let k := redLen op
  let s := cdiv k 512
  let q := cdiv s op.parts
  (min k (min s (p * q) * 512), min k (min s ((p + 1) * q) * 512))

/-! ### Elements in memory -/

/-- Whether coordinates lie inside a tensor (R194). -/
def inside (l : Layout) (x : List Int) : Bool :=
  (List.range 6).all fun d => decide (0 ≤ x.getD d 0) && decide (x.getD d 0 < (l.extent d : Int))

/-- Start of the row of an element, as a byte address or a region offset (R184). -/
def rowStart (l : Layout) (x : List Int) : Nat :=
  ((l.base : Int) + ([1, 2, 3, 4, 5].foldl (fun a d => a + x.getD d 0 * l.strideBytes d) 0)).toNat

/-- Coordinate along dimension 0, element 0 for a broadcast (R183). -/
def inner (l : Layout) (x : List Int) : Nat := if l.bcast then 0 else (x.getD 0 0).toNat

/-- The bits of an element: bit addresses with their lengths, from its most significant plane for a planar
tensor (R61, R63); only the first p planes. -/
def elemBits (l : Layout) (x : List Int) (p : Nat) : List (Nat × Nat) :=
  let w := l.format.width
  let a := rowStart l x
  let e := inner l x
  if l.format.planar then
    (List.range (min p w)).map fun j => (8 * (a + e / 512 * 64 * w + j * 64 + e % 512 / 8) + e % 8, 1)
  else [(8 * a + e * w, w)]

/-- Bits of memory read through a byte reader. -/
def getBits (get : Nat → Byte) (a n : Nat) : Nat :=
  let lo := a / 8
  let len := (a + n + 7) / 8 - lo
  bits (leNat ((List.range len).map fun i => get (lo + i))) (a % 8 + n - 1) (a % 8)

/-- The code of an element, full width; planes not read are zero. -/
def readCode (get : Nat → Byte) (l : Layout) (x : List Int) : Nat :=
  let w := l.format.width
  let p := l.format.read
  if l.format.planar then
    (elemBits l x p).foldl (fun acc b => acc * 2 + getBits get b.1 1) 0 * 2 ^ (w - p)
  else match elemBits l x w with
    | (a, n) :: _ => getBits get a n
    | [] => 0

/-- The words an element's bits lie in. -/
def elemWords (l : Layout) (x : List Int) (p : Nat) : List Nat :=
  (elemBits l x p).flatMap fun b => wordsOf (b.1 / 8) ((b.1 + b.2 + 7) / 8 - b.1 / 8)

/-- The padding value (R194). -/
def padNum (op : Op) (l : Layout) : Num :=
  let f := l.format
  match l.padKind with
  | 0 => Num.zero false
  | 1 => Num.ofInt op.zeroPoint
  | 2 =>
    if f.isInt then Num.ofInt (-(2 ^ (f.width - 1) : Nat))
    else if f.isBit then Num.zero false else .inf true
  | _ => decodeScaled { f with planes := 0, mid := false } 127 l.padValue

/-- Where the scale byte of an element's block stands: block 0 throughout where the scale tensor broadcasts (R183, R186). -/
def scalePlace (l : Layout) (x : List Int) : Nat :=
  rowStart l (x.set 0 0) + (if l.bcast then 0 else (x.getD 0 0).toNat / 32)

/-- The scale byte of an element's block (R186). -/
def scaleAt (get : Nat → Byte) (sl : Option Layout) (x : List Int) : Byte :=
  match sl with
  | none => 127
  | some l => get (scalePlace l x)

/-- The coordinates of the element read at coordinates: under bcast_inner, element 0 of the row (R183). -/
def Layout.blockX (l : Layout) (x : List Int) : List Int := if l.bcast then x.set 0 0 else x

/-- The value of an operand at coordinates, read where it lies. -/
def valueAt (op : Op) (get : Nat → Byte) (l : Layout) (sl : Option Layout) (x : List Int) : Num :=
  if inside l x then decodeScaled l.format (scaleAt get sl (l.blockX x)) (readCode get l x) else padNum op l

/-- The transform word that moves no dimension. -/
def straight : Nat := 0x2C688

/-- A store transform's destination coordinates: y_d = x_perm[d] (R196, R197). -/
def permuted (xform : Nat) (x : List Int) : List Int :=
  (List.range 6).map fun d => x.getD (bits xform (3 * d + 2) (3 * d)) 0

/-- Whether two descriptors are identical in what R191 names: base, space, rank, extents, strides and format. -/
def sameTensor (a b : Layout) : Bool :=
  a.base == b.base && a.space == b.space && a.rank == b.rank && a.fmt == b.fmt
    && a.extents.take a.rank == b.extents.take a.rank && a.strides.take a.rank == b.strides.take a.rank

/-- Byte reader of a core's region: an offset of space 1 (R151). -/
def regionByte (s : State) (n : Nat) (g : GridCore) (off : Nat) : Byte :=
  let a := g.base * 512 + off
  BitVec.ofNat 8 (csView s n g.phys (a / 512) (a / 16 % 32) / 2 ^ (8 * (a % 16)))

/-- Byte reader of an operand as its core sees it. -/
def operandByte (s : State) (n : Nat) (g : GridCore) (l : Layout) : Nat → Byte :=
  if l.space then regionByte s n g else deviceByte s

end Sys2Proof.Machine
end

