-- ==== Sys2Proof/Machine/Checks.lean ====
section
/-! DEFINITION. What the loader verifies: the nine classes of R229 in their order, each with the lowest slot and
then the lowest level at fault, and the grounds that the kinds add (R58, R59, R95, R145, R151, R157, R161, R186 to
R199, R210, R215, R221, R226, R244, R268, R290, R298 to R300, R354 to R366, R391 to R413, R449, R560, R562, R696 to
R699). -/

namespace Sys2Proof.Machine

/-- Where a check fails: operand slot and loop level, 0 when none applies. -/
abbrev At := Nat × Nat

/-- The lowest of failing places: the lowest slot first, then the lowest level (R229). -/
def lowestAt (l : List (Option At)) : Option At :=
  l.foldl (fun b x => match b, x with
    | none, y => y
    | y, none => y
    | some a, some c => if decide (c.1 < a.1) || (c.1 == a.1 && decide (c.2 < a.2)) then some c else some a) none

/-- The first failing place of a list. -/
def firstAt {α : Type} (f : α → Option At) : List α → Option At
  | [] => none
  | x :: r => match f x with
    | some a => some a
    | none => firstAt f r

/-- A place when a condition is broken. -/
def failIf (b : Bool) (o l : Nat) : Option At := if b then some (o, l) else none

/-- Letrix kinds (R205, R206). -/
def letrixKind (k : Nat) : Bool := k == 8 || k == 9 || k == 10 || k == 11 || k == 12
/-- Core-grid kinds. -/
def gridKind (k : Nat) : Bool := k ≤ 4

/-- How a slot is used: it is written, and it is required, optional, or enabled by a bit. -/
inductive Need where
  | required
  | optional
  | bit (b : Bool)
deriving DecidableEq, Repr

/-- The slot tables of the kinds (R208, R299, R356, R361, R365, R394, R560, R697). -/
def slotUse (op : Op) (o : Nat) : Option (Bool × Need) :=
  let k1 := op.kword 1
  match op.kind, o with
  | 0, 0 => some (false, .required) | 0, 1 => some (false, .required) | 0, 2 => some (false, .bit op.preEn)
  | 0, 3 => some (true, .required) | 0, 4 => some (true, .bit op.idxEn) | 0, 5 => some (false, .optional)
  | 0, 6 => some (false, .optional)
  | 2, 0 => some (false, .required) | 2, 2 => some (false, .bit op.preEn) | 2, 3 => some (true, .required)
  | 2, 5 => some (false, .optional)
  | 3, 0 => some (false, .optional) | 3, 1 => some (false, .optional) | 3, 2 => some (false, .optional)
  | 3, 3 => some (true, .required) | 3, 4 => some (true, .optional)
  | 4, 0 => some (false, .required)
  | 8, 0 => some (false, .required) | 8, 1 => some (false, .required) | 8, 2 => some (false, .bit op.preEn)
  | 8, 3 => some (true, .required) | 8, 5 => some (false, .optional)
  | 10, 0 => some (false, .required) | 10, 1 => some (false, .required) | 10, 3 => some (true, .required)
  | 11, 0 => some (false, .required) | 11, 1 => some (false, .required) | 11, 6 => some (false, .required)
  | 11, 7 => some (false, .required)
  | 12, 0 => some (false, .required) | 12, 3 => some (true, .required)
  | 12, 6 => some (!bit (op.kword 0) 63, .required)
  | k, o =>
    if k = 1 || k = 9 then
      match o with
      | 0 => some (false, .required) | 1 => some (false, .required) | 3 => some (true, .required)
      | 4 => some (true, .bit (bit k1 61)) | 5 => some (false, .bit (bit k1 62))
      | _ => none
    else none

/-- Slots in use. -/
def usedSlots (op : Op) : List Nat := (List.range 8).filter fun o => (op.slot o).en
/-- Written slots in use. -/
def writtenSlots (op : Op) : List Nat :=
  (usedSlots op).filter fun o => match slotUse op o with | some (w, _) => w | none => false
/-- Read slots in use. -/
def readSlots (op : Op) : List Nat := (usedSlots op).filter fun o => !(writtenSlots op).contains o
/-- Whether slot o is written. -/
def isWritten (op : Op) (o : Nat) : Bool := (writtenSlots op).contains o

/-- Whether the weight operand is compressed (R285). -/
def compressed (op : Op) : Bool := op.kind == 0 && (op.slot 6).en

/-- Kind-specific words that must be zero (R205, R299, R356, R361, R365, R393, R697). -/
def kspecResv (op : Op) : Bool :=
  let z := fun (k : Nat) => op.kword k == 0
  let rest := fun (k : Nat) => (List.range 8).all fun i => i < k || z i
  let k0 := op.kword 0
  let k1 := op.kword 1
  match op.kind with
  | 0 => rest 0
  | 1 => bits k1 44 32 == 0 && bits (op.kword 2) 31 0 == 0 && bits (op.kword 3) 59 48 == 0 && rest 4
  | 2 => rest 1
  | 3 => true
  | 4 => bits k0 55 0 == 0 && rest 1
  | 8 => rest 0
  | 9 => bits k1 44 32 == 0 && bits (op.kword 2) 31 0 == 0 && bits (op.kword 3) 59 48 == 0 &&
      rest 4
  | 10 => bits k0 61 0 == 0 && rest 1
  | 11 => bits k0 31 0 == 0 && rest 1
  | 12 => bits k0 60 0 == 0 && rest 1
  | _ => true

/-! ### Vector programs (R561, R562) -/

/-- Word k of a kind 0x3 program. -/
def vecWord (op : Op) (k : Nat) : Nat := bits (op.kword (k / 2)) (32 * (k % 2) + 31) (32 * (k % 2))

/-- Fields of a program word. -/
structure VecOp where
  code : Nat
  d    : Nat
  a    : Nat
  b    : Nat
  c    : Nat
  imm  : Nat
deriving DecidableEq, Repr

def vecDecode (w : Nat) : VecOp := ⟨bits w 31 26, bits w 25 23, bits w 22 20, bits w 19 17, bits w 16 14, bits w 13 0⟩

/-- The word of a vector opcode: its fields put in their places (R560). -/
def vecEncode (v : VecOp) : Nat :=
  v.code * 2 ^ 26 + v.d * 2 ^ 23 + v.a * 2 ^ 20 + v.b * 2 ^ 17 + v.c * 2 ^ 14 + v.imm

/-- A vector opcode's fields fit their places. -/
def VecOp.fits (v : VecOp) : Bool :=
  decide (v.code < 64) && decide (v.d < 8) && decide (v.a < 8) && decide (v.b < 8) && decide (v.c < 8) &&
    decide (v.imm < 16384)

/-- What an opcode uses: d, a, b, c, and how many low bits of the immediate; none for a reserved opcode. The
permuted indices of a sort are both read and written in b. -/
def vecUses (code : Nat) : Option (Bool × Bool × Bool × Bool × Nat) :=
  match code with
  | 0x00 => some (false, false, false, false, 0)
  | 0x01 => some (true, false, false, false, 3)
  | 0x02 => some (false, true, false, false, 3)
  | 0x03 => some (true, true, false, false, 0)
  | 0x08 | 0x09 | 0x0A => some (true, true, true, false, 0)
  | 0x0B => some (true, true, true, true, 0)
  | 0x0C | 0x0D => some (true, true, true, false, 0)
  | 0x0E | 0x0F => some (true, true, false, false, 0)
  | 0x10 => some (true, true, true, false, 0)
  | 0x11 => some (true, true, true, false, 3)
  | 0x12 => some (true, true, true, true, 0)
  | 0x13 => some (true, true, true, false, 0)
  | 0x14 | 0x15 | 0x16 | 0x17 | 0x18 | 0x19 | 0x1A | 0x1B | 0x1C | 0x1D | 0x1E | 0x1F =>
    some (true, true, false, false, 0)
  | 0x20 | 0x21 | 0x22 => some (true, true, false, false, 0)
  | 0x23 | 0x24 | 0x25 | 0x26 | 0x27 | 0x28 | 0x29 | 0x2A => some (true, true, true, false, 0)
  | 0x2B => some (true, true, true, false, 3)
  | 0x2C | 0x2D => some (true, true, false, false, 0)
  | 0x30 => some (true, true, false, false, 10)
  | 0x31 => some (true, false, false, false, 0)
  | 0x32 => some (true, true, true, false, 1)
  | _ => none

/-- The words of a program up to and with its first end (R561). -/
def vecProgram (op : Op) : Nat → Nat → List VecOp
  | 0, _ => []
  | k + 1, i =>
    let w := vecDecode (vecWord op i)
    if w.code = 0 then [w] else w :: vecProgram op k (i + 1)

/-- A word's grounds for a descriptor fault (R562). -/
def vecWordBad (w : VecOp) : Bool :=
  match vecUses w.code with
  | none => true
  | some (d, a, b, c, n) =>
    (!d && w.d != 0) || (!a && w.a != 0) || (!b && w.b != 0) || (!c && w.c != 0) || w.imm / 2 ^ n != 0 ||
    ((w.code == 0x11 || w.code == 0x2B) && decide (4 < w.imm)) ||
    (w.code == 0x30 &&
      (let f : Fmt := ⟨bits w.imm 5 4, bit w.imm 6, false, 0, false, bits w.imm 9 7, bits w.imm 3 0⟩
       decide (0xC < f.fmt) || f.rnd == 3 || !f.owidOk))

/-- An ld or st of a slot that it may not name (R562). -/
def vecSlotBad (op : Op) (w : VecOp) : Bool :=
  (w.code == 0x02 && (!(w.imm == 3 || w.imm == 4) || !(op.slot w.imm).en)) ||
    (w.code == 0x01 && !(w.imm ≤ 2 && (op.slot w.imm).en))

/-- Whether a program reads v6 or v7 (R562). -/
def vecReadsCarry (op : Op) : Bool :=
  (vecProgram op 16 0).any fun w =>
    match vecUses w.code with
    | none => false
    | some (_, a, b, c, _) => (a && decide (6 ≤ w.a)) || (b && decide (6 ≤ w.b)) || (c && decide (6 ≤ w.c))

/-! ### Class 1: descriptor faults -/

/-- A lead that its stream rule forbids (R244): 0 on a streamed operand, another value on any other. Letrix kinds
stream their read operands, and a page walk or a command list takes no lead. -/
def badLead (op : Op) (o : Nat) : Bool :=
  if isWritten op o then false
  else if op.kind == 4 then (op.slot o).lead != 0
  else if letrixKind op.kind then decide ((op.slot o).lead < 2)
  else if streamed op o then decide ((op.slot o).lead < 2) else (op.slot o).lead != 0

/-- Descriptor faults of the operation itself (R229 order 1, R244, R361, R365, R393, R395, R562, R697). -/
def badDescriptor (bs : List Byte) (bad : List Nat) (op : Op) : Option At :=
  let kindOk := gridKind op.kind || letrixKind op.kind
  let k0 := op.kword 0
  let k1 := op.kword 1
  let head := !kindOk || decide (5 < op.mode) || decide (4 < op.shape) || op.nlevels == 0 || decide (6 < op.nlevels)
    || !opResv bs || !kspecResv op
    || (letrixKind op.kind && (op.gridM != 0 || op.gridN != 0 || op.shape != 0))
    || (gridKind op.kind && (op.gridM == 0 || op.gridN == 0))
    || (op.idxEn && op.mode != 4 && op.mode != 5)
    || (op.w24 && !compressed op)
    || ((op.kind == 3 || op.kind == 4) && (op.shape != 0 || op.mode != 0))
    || (op.kind == 4 && (op.parts != 1 || bits k0 63 56 == 0 || decide (64 < bits k0 63 56)))
    || ((op.kind == 1 || op.kind == 9) &&
        (bits k1 60 56 == 0 || decide (16 < bits k1 60 56) || bits k1 55 47 % 32 != 0 || decide (bits k1 55 47 < 32)
          || decide (256 < bits k1 55 47) || op.mode != 0 || (op.kind == 9 && bits k1 46 45 != 0)
          || (op.kind == 1 && bits (op.kword 3) 63 62 != 0)))
    || (op.kind == 10 && bits k0 63 62 == 3)
    || (op.kind == 12 && decide (1 < bits k0 62 61))
    || (op.kind == 3 && (vecProgram op 16 0).any vecWordBad)
  let slotBad := fun (o : Nat) =>
    let sl := op.slot o
    let b := match slotUse op o with
      | none => sl.en
      | some (_, .required) => !sl.en
      | some (_, .optional) => false
      | some (_, .bit e) => e != sl.en
    let bitOnly := !sl.en && ((o == 2 && op.preEn) || (o == 4 && op.idxEn))
    failIf (b || bitOnly || sl.throw == 3 || (sl.en && (
      (if isWritten op o then sl.lead != 0 || bits sl.xform 31 18 != 0 else sl.xform != 0)
      || sl.lead == 1 || decide (7 < sl.lead)
      || bad.contains o || badLead op o))) o 0
  let levelBad := fun (l : Nat) =>
    let lv := op.levels.getD l ⟨0, 0, 0, 0, [], []⟩
    lowestAt (failIf (lv.axis == 3 || decide (5 < lv.tag) || lv.visit == 3) 0 l ::
      (List.range 8).map fun (o : Nat) => failIf (lv.dims.getD o 7 == 6) o l)
  let vec := if op.kind = 3 then (vecProgram op 16 0).map fun (w : VecOp) => failIf (vecSlotBad op w) (if w.imm < 8 then w.imm else 0) 0
    else []
  lowestAt (failIf head 0 0 :: (vec ++ (List.range 8).map slotBad ++ (List.range op.levels.length).map levelBad))

/-! ### Class 3: format faults -/

/-- R58 for one format word. -/
def badFormat (weight : Bool) (hamming : Bool) (f : Fmt) : Bool :=
  decide (0xC < f.fmt) || f.rnd == 3 || !f.owidOk
  || (f.planes != 0 && (decide (f.planes < f.minPlanes) || decide (f.width ≤ f.planes)))
  || (!weight && (f.planes != 0 || f.mid))
  || (weight && !f.planar)
  || (f.isBit && !hamming)

/-- The operand pairs of R59. -/
def pairOk (w a : Fmt) : Bool :=
  if w.isBit || a.isBit then w.isBit && a.isBit
  else if w.isInt then a.fmt == 0 || a.fmt == 3 || a.fmt == 4 || a.fmt == 5 || a.fmt == 6 || a.fmt == 0xA
    || a.fmt == 7 || a.fmt == 8
  else w.fmt != 9 && (a.fmt == 0 || a.fmt == 3 || a.fmt == 4 || a.fmt == 5 || a.fmt == 6 || a.fmt == 0xA
    || a.fmt == 7 || a.fmt == 8)

/-- The accumulator of a pair: INT32 for integer weights and integer activations, and in hamming mode (R59). -/
def pairInt (w a : Fmt) : Bool := (w.isInt && (a.fmt == 0 || a.fmt == 3)) || (w.isBit && a.isBit)

/-- Whether an operation's accumulators are INT32. -/
def accInt (op : Op) : Bool :=
  match op.kind, op.layout 0, op.layout 1 with
  | 2, _, _ => pairInt (Fmt.ofWord (bits (op.kword 0) 15 0)) (Fmt.ofWord (bits (op.kword 0) 31 16))
  | 1, _, _ => false
  | _, some a, some w => pairInt w.format a.format
  | _, _, _ => false

/-- Slot o of the weight operand, where the kind has one. -/
def weightSlot (op : Op) : Option Nat := if op.kind = 0 || op.kind = 8 then some 1 else none

/-- The formats a kind asks of its operands. -/
def kindFormat (op : Op) (o : Nat) (f : Fmt) (fw : Nat) : Bool :=
  match op.kind, o with
  | 0, 4 => fw != 9 | 0, 5 => f.fmt != 9 | 0, 6 => fw != 9
  | 2, 5 => f.fmt != 9 | 8, 5 => f.fmt != 9
  | 11, 6 => fw != 9 | 11, 7 => fw != 9 | 12, 6 => fw != 9
  | 10, 1 => fw != 9
  | 4, 0 => false
  | k, 0 => (k == 1 || k == 9) && !(f.fmt == 7 || f.fmt == 8 || f.fmt == 4)
  | k, 1 => (k == 1 || k == 9) && fw != 9
  | k, 3 => (k == 1 || k == 9) && !(f.fmt == 7 || f.fmt == 8 || f.fmt == 4 || f.fmt == 9)
  | k, 4 => (k == 1 || k == 9) && fw != 9
  | k, 5 => (k == 1 || k == 9) && f.fmt != 9
  | _, _ => false

/-- Format faults (R229 order 3). -/
def badFormats (s : State) (n : Nat) (op : Op) : Option At :=
  let isI := accInt op
  let arrays := op.kind == 0 || op.kind == 8
  let hamming := arrays && op.mode == 3
  let one := fun (o : Nat) =>
    match op.layout o with
    | none => none
    | some l =>
      let f := l.format
      let w := weightSlot op == some o
      let arr := arrays && (o == 0 || o == 1)
      failIf (badFormat w hamming f
        || (arr && f.fmt == 9) || kindFormat op o f l.fmt
        || (o == 2 && (op.kind == 0 || op.kind == 8 || op.kind == 2) && isI
            && !(f.isInt || f.isBit || f.fmt == 9))
        || (o == 3 && f.fmt == 9 && (op.kind == 0 || op.kind == 8 || op.kind == 2)
            && ((op.slot 5).en || op.zeroPoint != 0))
        || (o == 0 && op.kind == 0 && !f.planar && f.fmt == 0xC && l.space)) o 0
  let pair := match op.layout 0, op.layout 1 with
    | some a, some w => if arrays then failIf (!pairOk w.format a.format
        || (hamming && !(w.format.isBit && a.format.isBit))) 0 0 else none
    | _, _ => none
  let kvBad := (op.kind == 1 || op.kind == 9) &&
    (bits (op.kword 1) 31 16 &&& (0xFFFF - 0x1F0)) != 0
  let pf := Fmt.ofWord (bits (op.kword 1) 15 0)
  let pBad := (op.kind == 1 && (badFormat false false pf || pf.rnd != 0 || !(pf.fmt == 7 || pf.fmt == 4)))
    || (op.kind == 9 && bits (op.kword 1) 15 0 != 0)
  let ten := op.kind == 10 && (match op.layout 0, op.layout 3 with
    | some a, some b => a.fmt != b.fmt
        || (bits (op.kword 0) 63 62 == 2 && !(b.format.fmt == 9 || b.format.fmt == 7 || b.format.fmt == 8))
    | _, _ => false)
  let codec := op.kind == 12 && (match op.layout (if bit (op.kword 0) 63 then 3 else 0) with
    | some d => !(d.format.width == 4 || d.format.width == 8 || d.format.width == 16)
    | none => false)
  let isect := match op.kind, op.layout 0, op.layout 1 with
    | 11, some a, some b => a.format.isMX || b.format.isMX || a.format.isBit || b.format.isBit
    | _, _, _ => false
  let consumer := op.kind == 2 && (
    let af := bits (op.kword 0) 31 16
    let pf := bits (op.kword 0) 15 0
    let prod := (s.chan n).ops.find? fun l => l.op.kind == 11 && l.op.opId.toNat == bits (op.kword 0) 63 32
    !pairOk (Fmt.ofWord pf) (Fmt.ofWord af) || (match prod with
      | some p => (match p.op.layout 0, p.op.layout 1 with
        | some a, some b => a.fmt != af || b.fmt != pf
        | _, _ => false)
      | none => false))
  lowestAt ((usedSlots op).map one ++ [pair, failIf (kvBad || pBad || ten || codec || isect || consumer) 0 0])

/-! ### Class 4: mode faults (R95, R300) -/

def badMode (op : Op) : Option At :=
  match op.layout 0, op.layout 1 with
  | some a, some w =>
    lowestAt [failIf (((op.kind == 0 || op.kind == 8) && (op.mode == 1 || op.mode == 2 || op.mode == 4 || op.mode == 5)
        && w.format.isInt != (a.format.fmt == 0 || a.format.fmt == 3)) || (op.kind == 2 && op.mode != 0)) 0 0,
      failIf (op.kind == 0 && op.mode != 0 && op.w24) 1 0]
  | _, _ => failIf (op.kind == 2 && op.mode != 0) 0 0

/-! ### Class 5: layout faults -/

/-- Bits a row of a tensor takes, for overlap (R61, R190). -/
def rowBits (l : Layout) : Nat :=
  let n := if l.bcast then 1 else l.extent 0
  if l.format.planar then cdiv n 512 * 512 * l.format.width else n * l.format.width

/-- Row starts over the outer coordinates, as byte offsets from the base. -/
def rowOffsets (l : Layout) : List Int :=
  (List.range (l.rank - 1)).foldl (fun acc i =>
    let d := i + 1
    acc.flatMap fun x => (List.range (l.extent d)).map fun (c : Nat) => x + (c : Int) * l.strideBytes d) [0]

/-- Two rows of a bits and b bits at byte positions x and y share a bit. -/
def rowsMeet (x : Int) (a : Nat) (y : Int) (b : Nat) : Bool :=
  decide (8 * x < 8 * y + b) && decide (8 * y < 8 * x + a)

/-- Neighbours of a rising list of row starts that overlap, each row being b bits long. -/
def neighboursMeet (b : Nat) : List Int → Bool
  | x :: y :: r => rowsMeet x b y b || neighboursMeet b (y :: r)
  | _ => false

/-- A tensor whose own rows overlap (R190): some two neighbours do, in rising order. -/
def selfOverlap (b : Nat) (l : List Int) : Bool := neighboursMeet b (l.mergeSort fun x y => decide (x ≤ y))

/-- Bases to which an operand's addresses resolve: one for device space, one per core for space 1 (R190). -/
def resolvedBases (n : Nat) (grid : List GridCore) (l : Layout) : List Int :=
  if l.space then (grid.map fun g => ((storeBase n g.phys + g.base * 512 + l.base : Nat) : Int))
  else [(l.base : Int)]

/-- A scale tensor with its elements as the bytes that they are: format 0x0000 says nothing of their width (R186). -/
def Layout.asBytes (l : Layout) : Layout := { l with fmt := 3 }

/-- Lowest and one past the highest byte of a tensor's in-bound elements, relative to its base. -/
def span (l : Layout) : Int × Int :=
  let z := (List.range 6).foldl (fun (acc : Int × Int) d =>
    let r : Int := ((l.extent d : Int) - 1) * l.strideBytes d
    (acc.1 + min 0 r, acc.2 + max 0 r)) (0, 0)
  (z.1, z.2 + (cdiv (rowBits l) 8 : Nat))

/-- Two operands that share a bit (R190, R191). -/
def tensorsMeet (n : Nat) (grid : List GridCore) (a b : Layout) : Bool :=
  let ra := rowOffsets a
  let rb := rowOffsets b
  let sa := span a
  let sb := span b
  !a.empty && !b.empty && (resolvedBases n grid a).any fun (p : Int) => (resolvedBases n grid b).any fun (q : Int) =>
    decide (p + sa.1 < q + sb.2) && decide (q + sb.1 < p + sa.2) &&
      ra.any fun (x : Int) => rb.any fun (y : Int) => rowsMeet (p + x) (rowBits a) (q + y) (rowBits b)

/-- First and one past the last address of the range of the map that holds an address (R21, R193). -/
def mapRange (a : Nat) : Option (Nat × Nat) :=
  match place a with
  | .tier0 _ _ => some (0, 0x9000000000)
  | .tier1 _ _ => some (0x10000000000, 0x28000000000)
  | .store _ _ _ => some (0x40000000000, 0x400CC800000)
  | .none => none

/-- Whether an operand of the device's address space runs out of its range (R193). The elements of a compressed operand lie
within its total_bytes (R285, R286). -/
def outOfRange (total : Option Nat) (l : Layout) : Bool :=
  if l.empty || l.space then false
  else
    let sp := match total with | some b => ((0 : Int), (b : Int)) | none => span l
    match mapRange l.base with
    | none => false
    | some (lo, hi) => decide ((l.base : Int) + sp.1 < lo) || decide ((hi : Int) < l.base + sp.2)

/-- Whether an operand of space 1, or its scales, run out of the task's region (R151, R193). -/
def outOfRegion (len : Nat) (l : Layout) : Bool :=
  !l.empty && l.space && (decide ((l.base : Int) + (span l).1 < 0) || decide (((len * 512 : Nat) : Int) < l.base + (span l).2))

/-- The total_bytes of the compressed operand in a slot (R286). -/
def totalOf (op : Op) (o : Nat) : Option Nat :=
  match op.kind, o with
  | 0, 1 => op.map.map (·.total)
  | 11, 0 => op.map.map (·.total)
  | 11, 1 => op.map2.map (·.total)
  | 12, 0 => if bit (op.kword 0) 63 then op.map.map (·.total) else none
  | _, _ => none

/-- The scale descriptor's rule (R186). -/
def badScale (l : Layout) (sc : Option Layout) : Bool :=
  if l.format.isMX then
    match sc with
    | none => true
    | some t => l.scaleLink == 0 || t.rank != l.rank || t.extent 0 != cdiv (l.extent 0) 32 || t.fmt != 0
        || t.padKind != 0 || t.scaleLink != 0
        || (List.range 6).any fun d => d != 0 && t.extent d != l.extent d
  else l.scaleLink != 0

/-- What an operand of a slot covers in memory, as the tensors that R190 and R191 compare: its elements, or the tile storage of
a compressed operand (R285, R286), and its scale bytes. -/
def covered (op : Op) (o : Nat) : List Layout :=
  let data := (op.layout o).map fun l => match totalOf op o with
    | some t => { l with rank := 1, bcast := false, extents := [t], fmt := 3 }
    | none => l
  data.toList ++ ((op.scale o).map Layout.asBytes).toList

/-- A store transform's permutation (R197). -/
def badPerm (l : Layout) (xform : Nat) : Bool :=
  let p := (List.range 6).map fun d => bits xform (3 * d + 2) (3 * d)
  !((List.range 6).all fun d => p.contains d)
  || ((List.range 6).any fun d => decide (l.rank ≤ d) && p.getD d 0 != d)
  || ((List.range 6).all fun d => p.getD d 0 != d)

/-- Whether tiles begin on block boundaries of a block-scaled destination (R199). The rows of a gather or scatter are its tiles:
where they run across dimension 0 of the destination, each begins a block of its own. -/
def badBlocks (op : Op) (o : Nat) (l : Layout) : Bool :=
  l.format.isMX && ((op.levels.any fun lv => decide (1 < lv.bound) &&
    lv.dims.getD o 7 == bits (op.slot o).xform 2 0 && lv.steps.getD o 0 % 32 != 0)
    || (op.kind == 10 && bits (op.slot o).xform 2 0 != 0))

/-- A sparse map's tables (R290): aligned, outside the header, apart, inside the map. -/
def badTables (lines : Nat) (m : SparseMap) (l : Layout) : Bool :=
  let dir := (m.dirOff, 4 * m.groups * m.ksteps)
  let perm := (m.permOff, if m.permOff = 0 then 0 else 4 * m.groups * lines)
  let rng := (m.rangeOff, if m.rangeOff = 0 then 0 else 4 * m.ranges.length)
  let ts := [dir, perm, rng].filter fun t => t.1 != 0
  let apart := fun (x y : Nat × Nat) => decide (x.1 + x.2 ≤ y.1) || decide (y.1 + y.2 ≤ x.1)
  decide (m.dirOff < 64)
  || ts.any (fun t => t.1 % 64 != 0 || decide (t.1 < 64) || decide (4 * l.extent 0 < t.1 + t.2))
  || !(match ts with
      | [a, b, c] => apart a b && apart a c && apart b c
      | [a, b] => apart a b
      | _ => true)

/-- The channel's tier 0 as a whole. -/
def inOwnTier0 (n : Nat) (l : Layout) : Bool :=
  !l.space && (match place l.base with | .tier0 m _ => m == n | _ => false)

/-- Layout faults (R229 order 5 and the kinds' own). -/
def badLayouts (n : Nat) (grid : List GridCore) (op : Op) : Option At :=
  let one := fun (o : Nat) =>
    match op.layout o with
    | none => none
    | some l =>
      let w := isWritten op o
      failIf (badScale l (op.scale o) || decide (2 ^ l.format.width ≤ l.padValue)
        || (l.padKind == 1 && !(l.format.isInt || l.format.isBit))
        || (w && (l.bcast || (List.range 6).any fun d => d != 0 && decide (1 < l.extent d) && l.strideBytes d == 0))
        || (w && (covered op o).any fun y => y.bcast || selfOverlap (rowBits y) (rowOffsets y))
        || outOfRange (totalOf op o) l || (op.scale o).any (fun y => outOfRange none y.asBytes)
        || (w && badPerm l (op.slot o).xform) || (w && badBlocks op o l)) o 0
  let pairs := (writtenSlots op).flatMap fun o => (usedSlots op).filterMap fun p =>
    if p = o then none else match op.layout o, op.layout p with
    | some a, some b => some (o, p, a, b)
    | _, _ => none
  let touch := fun (o p : Nat) => (covered op o).any fun x => (covered op p).any fun y => tensorsMeet n grid x y
  let twice := fun (o : Nat) => failIf (match covered op o with | [x, y] => tensorsMeet n grid x y | _ => false) o 0
  let meet := fun (t : Nat × Nat × Layout × Layout) =>
    let a := t.2.2.1
    let b := t.2.2.2
    failIf (touch t.1 t.2.1 && (isWritten op t.2.1 || !sameTensor a b)) (min t.1 t.2.1) 0
  let mapBad := fun (o lines : Nat) (m : Option SparseMap) => match m, op.layout o with
    | some m, some l => failIf (l.rank != 1 || badTables lines m l) o 0
    | none, some l => failIf (l.rank != 1) o 0
    | _, none => none
  let flat := fun (o : Nat) => match op.layout o with
    | some l => failIf (l.rank != 2) o 0
    | none => none
  let maps := match op.kind with
    | 0 => if compressed op then [mapBad 6 32 op.map, flat 1] else []
    | 11 => [mapBad 6 8 op.map, mapBad 7 32 op.map2, flat 0, flat 1]
    | 12 => if bit (op.kword 0) 63 then [mapBad 6 32 op.map, flat 0] else [mapBad 6 32 none, flat 3]
    | _ => []
  let own :=
    match op.kind with
    | 8 => (match op.layout 1 with | some l => failIf (!inOwnTier0 n l) 1 0 | none => none)
    | 10 =>
      let o := if bits (op.kword 0) 63 62 = 0 then 0 else 3
      (match op.layout o with | some l => failIf (!inOwnTier0 n l) o 0 | none => none)
    | 11 => (match op.layout 0 with | some l => failIf (!inOwnTier0 n l) 0 0 | none => none)
    | 12 =>
      let o := if bit (op.kword 0) 63 then 3 else 0
      let dense := match op.layout o with
        | some l => failIf (!inOwnTier0 n l || !l.format.planar || l.base % 2048 != 0
            || (l.strides.take l.rank).any (fun x => x % 32 != 0)) o 0
        | none => none
      let room := if bit (op.kword 0) 63 then none else match op.layout 0, op.layout 3, op.layout 6 with
        | some d, some c, some m =>
          let turn := bits (op.slot 3).xform 2 0 == 1
          let tiles := cdiv (d.extent (if turn then 0 else 1)) 32 * cdiv (d.extent (if turn then 1 else 0)) 512
          let bytes := cdiv (rowBits c) 8 * (List.range 5).foldl (fun p i => p * c.extent (i + 1)) 1
          failIf (decide (bytes < tiles * (16 + 2048 * d.format.width)) || decide (4 * m.extent 0 < 64 + 4 * tiles)) 3 0
        | _, _, _ => none
      (match dense with | some a => some a | none => room)
    | 4 => (match op.layout 0 with
        | some l => failIf (l.rank != 1 || l.space || l.fmt != 9 || l.extent 0 != 8 * bits (op.kword 0) 63 56
            || !(match place l.base with | .tier0 _ _ => true | .tier1 _ _ => true | _ => false)) 0 0
        | none => none)
    | k => if k = 1 || k = 9 then
        (match op.layout 0, op.layout 3 with
        | some q, some o => lowestAt [failIf (q.extent 0 != bits (op.kword 1) 55 47
            || (bits (op.kword 1) 60 56 != 0 && q.extent 1 % bits (op.kword 1) 60 56 != 0)) 0 0,
            failIf (o.extent 0 != bits (op.kword 1) 55 47) 3 0]
        | _, _ => none)
      else none
  lowestAt ((usedSlots op).map one ++ (writtenSlots op).map twice ++ pairs.map meet ++ maps ++ [own])

/-! ### Class 6: loop faults -/

/-- The work items of an operation of a Letrix kind (R354, R405). -/
def letrixItems (op : Op) : Nat :=
  let ext := fun (o d : Nat) => match op.layout o with | some l => l.extent d | none => 0
  match op.kind with
  | 8 => ext 1 1
  | 9 => ext 1 0 / 8
  | 10 => ext 1 0
  | 11 => cdiv (ext 0 1) 8
  | _ => cdiv (ext (if bit (op.kword 0) 63 then 3 else 0) 1) 32

/-- The nest of R354. -/
def letrixNest (op : Op) : Bool :=
  match op.levels with
  | [l] => l.bound == letrixItems op && l.axis == 1 && l.tag == 3 && l.visit == 0 && l.dims.all (· == 7) && l.steps.all (· == 0)
  | _ => false

/-- R210: K levels are exactly those tagged array and lie innermost; tags never decrease outward; a written
operand advances at no K level. -/
def badNest (op : Op) : List (Option At) :=
  op.levels.zipIdx.flatMap fun (p : Level × Nat) =>
    let inner := op.levels.take p.2
    failIf ((p.1.axis == 2) != (p.1.tag == 0) || (p.1.axis == 2 && inner.any (·.axis != 2))
        || (p.1.tag != 0 && inner.any fun l => l.tag != 0 && decide (p.1.tag < l.tag))) 0 p.2 ::
      (writtenSlots op).map fun (o : Nat) => failIf (p.1.axis == 2 && decide (p.1.dims.getD o 7 ≤ 6)) o p.2

/-- A tile wholly outside the result's extents (R696): a dimension at or above the rank has extent 1 (R194). -/
def tileOutside (op : Op) (l : Layout) (t : TileIx) : Bool :=
  let c := baseCoord 3 t.levels
  let md := axisDim op 0 3
  let nd := axisDim op 1 3
  let range := fun (d : Nat) =>
    let lo := c.getD d 0
    let hi := lo + (if md = some d then (tileRows op : Int) - 1 else 0) + (if nd = some d then (tileCols op : Int) - 1 else 0)
    (lo, hi)
  (List.range 6).any fun y =>
    let r := range (bits (op.slot 3).xform (3 * y + 2) (3 * y))
    decide (r.2 < 0) || decide ((l.extent y : Int) ≤ r.1)

/-- A read transposed for the backward pass (R449). -/
def transposedAct (op : Op) : Bool :=
  op.kind == 0 && (axisDim op 2 0).any (· != 0) && axisDim op 0 0 == some 0

/-- Whether a level's tag does not fit where an operand that it advances lies (R229 order 6). -/
def tagMisfits (l : Layout) (t : Nat) : Bool :=
  (l.space && (t == 2 || t == 3 || t == 4)) || (!l.space && (t == 1 || t == 5)) ||
    (!l.space && (match place l.base with
      | .tier0 _ _ => t == 4
      | .tier1 _ _ => t == 3
      | _ => false))

/-- A slot's loop faults at the levels that advance it; a read operand that no level advances is checked as if the outermost
level did (R221, R229 order 6, R285, R449, R699). -/
def slotLoops (op : Op) (o : Nat) : Option At :=
  match op.layout o with
  | none => none
  | some l =>
    let wr := isWritten op o
    let th := (op.slot o).throw
    let still := !wr && op.levels.all fun lv => lv.dims.getD o 7 == 7
    let levelBad := fun (p : Level × Nat) =>
      let d := p.1.dims.getD o 7
      let st := p.1.steps.getD o 0
      let here := decide (d ≤ 5) || (still && p.2 + 1 == op.levels.length)
      failIf (here && ((p.1.tag != 0 && tagMisfits l p.1.tag) || (!wr && th == 1 && p.1.axis == 1)
          || (!wr && th == 2 && p.1.axis == 0)
          || (!still && o == 1 && compressed op && !((d == 0 && st == 512) || (d == 1 && (st == 32 || st == -32)))))) o p.2
    let whole := failIf ((wr && th != 0)
        || (o == 0 && transposedAct op && (!l.space || governTag op 0 != 1 || l.format.planar
            || !(l.format.width == 8 || l.format.width == 16)))) o 0
    lowestAt (whole :: op.levels.zipIdx.map levelBad)

/-- The nest of kind 0x1 (R402). -/
def attentionNest (op : Op) : Bool :=
  let grp := bits (op.kword 1) 60 56
  let tm := match op.layout 0 with
    | some l => cdiv (l.extent 2) 64 * (if grp = 0 then 0 else l.extent 1 / grp)
    | none => 0
  match op.levels with
  | [l] => l.axis == 0 && l.tag == 2 && l.visit == 0 && l.bound == tm && op.gridN == grp
  | _ => false

/-- The nest of kind 0x4 (R697). -/
def fillNest (op : Op) : Bool :=
  match op.levels with
  | [l] => l.axis == 0 && l.tag == 1 && l.visit == 0 && l.bound == 1 && l.dims.all (· == 7) && l.steps.all (· == 0)
  | _ => false

/-- Loop faults (R229 order 6). The nests that R354 and R697 fix advance no operand: R699 finds no level there to check an
operand by, and a throw is asked of written operands only. -/
def badLoops (op : Op) : Option At :=
  let thrown := (writtenSlots op).map fun o => failIf ((op.slot o).throw != 0) o 0
  let outside := match op.layout 3 with
    | some l => !l.empty && (allTiles op).any (tileOutside op l)
    | none => false
  if letrixKind op.kind then lowestAt (failIf (!letrixNest op) 0 0 :: thrown)
  else if op.kind = 4 then failIf (!fillNest op) 0 0
  else if op.kind = 1 then lowestAt (failIf (!attentionNest op) 0 0 :: (usedSlots op).map (slotLoops op) ++ [failIf outside 3 0])
  else
    let kbad := op.kind == 0 && axisCount op 2 != cdiv (redLen op) 512
    let k3 := if op.kind = 3 then op.levels.zipIdx.map fun (p : Level × Nat) => failIf (p.1.axis == 2) 0 p.2 else []
    lowestAt (badNest op ++ k3 ++ failIf kbad 0 0 :: (usedSlots op).map (slotLoops op) ++ [failIf outside 3 0])

/-! ### Rings, kept operands and part areas -/

/-- Rows of a slot's ring: 4 per slot, and 2 more for block scales (R238). -/
def ringRows (op : Op) (o : Nat) : Nat :=
  if streamed op o && !isWritten op o && (op.slot o).en then
    4 * ((op.slot o).lead + 1) + (match op.layout o with | some l => if l.format.isMX then 2 else 0 | none => 0)
  else 0
/-- Rows of all rings of a core's task. -/
def allRingRows (op : Op) : Nat := (readSlots op).foldl (fun a o => a + ringRows op o) 0

/-- Bytes of the kept operand over the longest part (R214, R215, R298). Compressed weights take their share of total_bytes
by steps: the loader reads no directory (DEDUCED); their block scales, which no rule counts, are added to it (DESIGN CHOICE). -/
def keptBytes (op : Op) : Nat :=
  let k := (List.range op.parts).foldl (fun m p => max m ((partRange op p).2 - (partRange op p).1)) 0
  let steps := cdiv k 512
  let act := match op.layout 0 with
    | some l => 4096 * l.format.width * steps + (if l.format.isMX then 64 * 16 * steps else 0)
    | none => 0
  let wgt := match op.map, op.layout 1 with
    | some m, l => cdiv (m.total * steps) (max 1 m.ksteps) + (if l.any (·.format.isMX) then 512 * steps else 0)
    | none, some l => 2048 * l.format.read * steps + (if l.format.isMX then 32 * 16 * steps else 0)
    | none, none => 0
  match op.shape with
  | 1 => wgt
  | 2 => act
  | 3 => 2 * act + wgt
  | _ => 0

/-- Rows of the part area (R698). -/
def partRows (op : Op) : Nat :=
  if op.kind = 0 && 1 < op.parts then
    let one := op.parts * tileRows op * tileCols op * 4
    cdiv (2 * (if op.mode = 4 || op.mode = 5 then 2 * one else one)) 512
  else 0

/-! ### Class 7: tile faults -/

/-- Distinct tiles of the operation's cores in one iteration of the outermost level tagged shared cache. -/
def shareTiles (op : Op) : List TileIx :=
  let outer := (op.levels.filter fun l => l.tag == 2).getLast?
  let firstOf := fun (ts : List TileIx) =>
    match outer, ts with
    | some l, t :: _ =>
      let v := (t.levels.find? fun p => p.1 == l).map (·.2)
      ts.filter fun u => (u.levels.find? fun p => p.1 == l).map (·.2) == v
    | _, _ => ts
  ((List.range op.gridM).flatMap fun i => (List.range op.gridN).flatMap fun j => firstOf (coreTiles op i j)).eraseDups

/-- The 32-line blocks of a compressed operand that tiles of an operation take. -/
def shareGroups (op : Op) (tiles : List TileIx) : List Nat :=
  (tiles.flatMap fun t =>
    let g := ((coordOf op 1 t 0 0 0).getD 1 0).toNat / 32
    (List.range (cdiv (tileCols op) 32)).map (g + ·)).dedup

/-- The byte ranges of the elements lo to hi - 1 of a tensor's row, as far as they lie inside it (R184, R194): those of the
planes that are read of a planar one, element 0 alone of a broadcast one. -/
def rowRanges (l : Layout) (x : List Int) (lo hi : Int) : List (Nat × Nat) :=
  let w := l.format.width
  let a := (max 0 lo).toNat
  let b := (min hi (l.extent 0)).toNat
  if !inside l (x.set 0 0) || b ≤ a then []
  else
    let at_ := rowStart l x
    let (a, b) := if l.bcast then (0, 1) else (a, b)
    if l.format.planar then
      (List.range (cdiv b 512 - a / 512)).flatMap fun i =>
        let grp := a / 512 + i
        let p := if grp = a / 512 then a % 512 / 8 else 0
        let q := if grp = (b - 1) / 512 then (b - 1) % 512 / 8 + 1 else 64
        (List.range l.format.read).map fun (j : Nat) => (at_ + grp * 64 * w + 64 * j + p, at_ + grp * 64 * w + 64 * j + q)
    else [(at_ + a * w / 8, at_ + cdiv (b * w) 8)]

/-- How many bytes ranges cover together. -/
def coveredBytes (rs : List (Nat × Nat)) : Nat :=
  ((rs.mergeSort fun a b => decide (a.1 ≤ b.1)).foldl (fun (acc : Nat × Nat) r =>
    (acc.1 + (r.2 - max acc.2 r.1), max acc.2 r.2)) (0, 0)).1

/-- The byte ranges that a tile's part of an operand of an array or vector operation touches, its block scales among them. -/
def tileRanges (op : Op) (o : Nat) (t : TileIx) : List (Nat × Nat) :=
  match op.layout o with
  | none => []
  | some l =>
    let useR := op.kind != 3 && (o == 0 || o == 2)
    let useC := op.kind == 3 || o != 0
    let useK := op.kind == 0 && o ≤ 1
    let row := fun (x : List Int) (len : Nat) =>
      let lo := x.getD 0 0
      let hi := lo + (len : Int)
      rowRanges l x lo hi ++ (match l.format.isMX, op.scale o with
        | true, some sl => if hi ≤ 0 then [] else rowRanges sl.asBytes (x.set 0 0) (lo / 32) ((hi - 1) / 32 + 1)
        | _, _ => [])
    if op.kind = 3 then row (baseCoord o t.levels) 32
    else
      let along := if useK && axisRun op 2 o == some 0 then 2 else if useC && axisRun op 1 o == some 0 then 1
        else if useR && axisRun op 0 o == some 0 then 0 else 3
      let rows := if useR && along != 0 then tileRows op else 1
      let cols := if useC && along != 1 then tileCols op else 1
      let ks := if !useK then [0] else if along = 2 then (List.range (cdiv (redLen op) 512)).map (512 * ·) else List.range (redLen op)
      (List.range rows).flatMap fun (r : Nat) => (List.range cols).flatMap fun (c : Nat) => ks.flatMap fun (k : Nat) =>
        row (coordOf op o t r c k) (match along with | 2 => min 512 (redLen op - k) | 1 => tileCols op | 0 => tileRows op | _ => 1)

/-- Bytes of a whole tensor, as often as its outer coordinates are distinct. -/
def wholeBytes (l : Layout) : Nat := cdiv (rowBits l) 8 * (List.range 5).foldl (fun p i => p * l.extent (i + 1)) 1

/-- Distinct bytes that one iteration of the outermost level tagged shared cache touches, over all cores (R226). A compressed
operand counts its tiles at their dense size with headers, or its total_bytes where that is less. What a kind 0x1 operation
reads of its pages shows in no descriptor, and is not counted (DEDUCED). -/
def shareBytes (op : Op) : Nat :=
  let tiles := shareTiles op
  let bytes := fun (o : Nat) => match op.layout o with
    | none => 0
    | some l =>
      if op.kind = 1 then
        if o = 0 then min (wholeBytes l) (op.gridM * op.gridN * cdiv (64 * l.extent 0 * l.format.width) 8) else wholeBytes l
      else match o, op.map with
      | 1, some m => min m.total ((shareGroups op tiles).length * cdiv (redLen op) 512 * (16 + 64 * l.format.width * 32))
      | 6, some m => (shareGroups op tiles).length * (4 * cdiv (redLen op) 512 + (if m.permOff = 0 then 0 else 128))
      | _, _ => coveredBytes (tiles.flatMap (tileRanges op o))
  (readSlots op).foldl (fun acc o => if governTag op o = 2 then acc + bytes o else acc) 0

/-- The rotation entry that names an operation and a slot, read at load (R263). -/
def rotEntry (s : State) (n : Nat) (op : Op) (o : Nat) : Option RotEntry :=
  let base := fld s (Reg.chRotBase n) 47 0
  if base = 0 || governTag op o != 1 then none
  else ((List.range 32).map fun k => (viewRange s (base + 32 * k) 16)).findSome? fun bs =>
    let w := le64 bs 0
    if bit w 31 && bits w 63 32 == op.opId.toNat && bits w 26 24 == o then
      some ⟨o, bits w 23 17, bits w 16 9, bits w 8 0, bits (le64 bs 8) 8 0⟩
    else none

/-- Stream tiles of a shard: the bytes of the one shard that the operand's descriptor describes (R264). -/
def shardTiles (op : Op) (o : Nat) : Nat :=
  match op.layout o with
  | some l => if l.empty then 0 else cdiv ((span l).2 - (span l).1).toNat 2048
  | none => 0

/-- Whether a sparse map disagrees with the operand it describes, of tiles of so many lines, or its block ranges with the
grid (R290). -/
def mapMisfits (op : Op) (lines : Nat) (m : Option SparseMap) (l : Option Layout) : Bool :=
  match m, l with
  | some m, some l =>
    m.groups != cdiv (l.extent 1) lines || m.ksteps != cdiv (l.extent 0) 512
    || (m.rangeOff != 0 && (m.ranges.length != op.gridN + 1 || m.ranges.head? != some 0
        || m.ranges.getLast? != some (m.groups : Int)
        || (List.range op.gridN).any fun i => decide (m.ranges.getD (i + 1) 0 ≤ m.ranges.getD i 0)))
  | _, _ => false

/-- Tile faults (R215, R226, R229 order 7, R268, R290, R300, R357, R362, R562). -/
def badTiles (s : State) (n : Nat) (grid : List GridCore) (op : Op) : Option At :=
  let len := (grid.map (·.len)).foldl min 512
  let grd := gridKind op.kind && op.kind != 4
    && (decide (axisCount op 0 < op.gridM) || (op.kind != 1 && decide (axisCount op 1 < op.gridN)))
  let kept := op.kind == 0 && decide (len * 512 < keptBytes op + 512 * allRingRows op)
  let share := gridKind op.kind && op.kind != 4 && (op.levels.any fun l => l.tag == 2) &&
    decide (op.share * 1048576 < shareBytes op)
  let maps := (match op.kind with
    | 0 => mapMisfits op 32 op.map (op.layout 1)
    | 11 => mapMisfits op 8 op.map (op.layout 0) || mapMisfits op 32 op.map2 (op.layout 1)
    | 12 => bit (op.kword 0) 63 && mapMisfits op 32 op.map (op.layout 0)
    | _ => false)
  let rot := (readSlots op).any fun o => match rotEntry s n op o with
    | none => false
    | some e => e.members != op.gridM || (e.members != 0 && blockN op % e.members != 0)
        || e.shard != shardTiles op o || op.parts != 1 || (op.slot o).throw != 0
  let two := op.kind == 2 && (op.shape != 0 || op.gridN != 1)
  let eight := op.kind == 8 && [0, 3].any fun o => match op.layout o with
    | some l => l.extent 1 == 0 || decide (8 < l.extent 1)
    | none => false
  let ten := op.kind == 10 && (match op.layout (if bits (op.kword 0) 63 62 = 0 then 3 else 0), op.layout 1 with
    | some r, some i => r.extent 1 != i.extent 0
    | _, _ => false)
  let eleven := op.kind == 11 && (match op.layout 1, op.map2 with
    | some l, some m => decide (32 < l.extent 1) || m.groups != 1
    | _, _ => false)
  let three := op.kind == 3 && vecReadsCarry op && decide (1 < op.gridN)
  failIf (grd || kept || share || maps || rot || two || eight || ten || eleven || three) 0 0

/-! ### Class 2, 8 and 9 -/

/-- Resource faults (R229 order 2, R300, R357, R395). -/
def badResources (s : State) (n : Nat) (op : Op) : Option At :=
  let active := fld s (Reg.chCoreCaps n) 37 28
  let shares := ((s.chan n).ops.foldl (fun a l => a + l.op.share) 0) + op.share
  failIf ((gridKind op.kind && decide (active < op.first + op.gridM * op.gridN * op.parts))
    || (letrixKind op.kind && decide (active ≤ op.first)) || decide (48 < shares)
    || (letrixKind op.kind && (fenced s n || (List.range 3).any fun d => (s.die (3 * n + d)).lost))
    || (op.kind == 9 && decide (8192 < bits (op.kword 1) 60 56 * bits (op.kword 1) 55 47 * 2))
    || (op.kind == 8 && (match op.layout 0 with
        | some a => decide (262144 < cdiv (a.extent 1 * a.extent 0 * a.format.width) 8)
        | none => false))
    || (op.kind == 11 && (match op.map2 with | some m => decide (524288 < m.total) | none => false))) 0 0

/-- Whether a region lies in the store, in powered quarters (R151). -/
def regionBad (s : State) (n : Nat) (g : GridCore) : Bool :=
  decide (512 < g.base + g.len) ||
    (List.range 4).any fun q => decide (g.base < (q + 1) * 128) && decide (q * 128 < g.base + g.len)
      && !flag s (Reg.coreCsPower n g.phys) q

/-- Enabled windows that overlap or touch a powered-down quarter (R161). -/
def windowsBad (s : State) (n i : Nat) : Bool :=
  let w := fun (k : Nat) => (fld s (Reg.coreRecvWindow n i k) 8 0, fld s (Reg.coreRecvWindow n i k) 25 16)
  let en := (List.range 8).filter fun k => flag s (Reg.coreRecvWindow n i k) 31
  en.any fun k => (en.any fun j => k != j && decide ((w k).1 < (w j).1 + (w j).2) && decide ((w j).1 < (w k).1 + (w k).2))
    || (List.range 4).any fun q => decide ((w k).1 < (q + 1) * 128) && decide (q * 128 < (w k).1 + (w k).2)
      && !flag s (Reg.coreCsPower n i) q

/-- A command's range (R157, R151). -/
def fillBad (len : Nat) (c : FillCmd) : Bool :=
  c.dst % 16 != 0 || c.len % 16 != 0 || c.len == 0 || decide (len * 512 < c.dst + c.len)
  || (c.copy && (c.src % 16 != 0 || decide (len * 512 < c.src + c.len)))

/-- The rows an operation holds on a core: rings, part area, kept operand, rotation rows and space-1 operands, as
row intervals (R270). `top` is one past the highest row of its rings. -/
def usedRows (op : Op) (g : GridCore) (top : Nat) : List (Nat × Nat) :=
  let rings := allRingRows op
  let part := if g.p = 0 then partRows op else 0
  let kept := cdiv (keptBytes op) 512
  let rot := op.rot.flatMap fun e =>
    [(e.home, e.home + 4 * e.shard), (e.recv, e.recv + 8 * e.shard)]
  let sp := (usedSlots op).filterMap fun o => match op.layout o with
    | some l => if l.space && !l.empty then
        let x := span l
        some (g.base + ((l.base : Int) + x.1).toNat / 512, g.base + cdiv ((l.base : Int) + x.2).toNat 512)
      else none
    | none => none
  (top - rings - part - kept, top) :: (rot ++ sp)

/-- Whether two row intervals meet. -/
def rowsOverlap (a b : Nat × Nat) : Bool := decide (a.1 < b.2) && decide (b.1 < a.2)

/-- The top row for an operation's rings on a core: the region's top when nothing runs there, else the highest
place at which they meet no row of the running operation (R238, R270). -/
def ringTop (op : Op) (g : GridCore) (busy : List (Nat × Nat)) : Option Nat :=
  let need := allRingRows op + (if g.p = 0 then partRows op else 0)
  let tops := (g.base + g.len) :: (busy.map (·.1))
  tops.find? fun t => decide (g.base + need ≤ t) && decide (t ≤ g.base + g.len)
    && busy.all fun b => !rowsOverlap b (t - need, t)

/-- The core of an operation's grid. -/
def gridCore (l : LoadedOp) (log : Nat) : Option GridCore := l.grid.find? (·.log == log)

/-- The loaded operation of a number. -/
def findOp (s : State) (n : Nat) (id : W32) : Option LoadedOp := (s.chan n).ops.find? (·.op.opId == id)

/-- Whether a slot that the operation reads has the descriptor of one that it writes (R191). -/
def rereads (op : Op) (o : Nat) : Bool :=
  !isWritten op o && (writtenSlots op).any fun p => match op.layout o, op.layout p with
    | some a, some b => sameTensor a b
    | _, _ => false

/-- A byte reader of a read slot: where the operation writes the same tensor, each byte as it was before the operation
wrote it (R191). `home` is the device address of the reader's address 0. -/
def sourceByte (s : State) (n : Nat) (op : Op) (o home : Nat) (get : Nat → Byte) : Nat → Byte :=
  if rereads op o then fun a =>
    match (findOp s n op.opId).bind fun l => mfind l.before ((home + a) / 16) with
    | some bs => bs.getD (a % 16) 0
    | none => get a
  else get

/-- A word that a fetch has read, as the operand gives it (R191). -/
def sourceWord (s : State) (n : Nat) (op : Op) (o : Nat) (w : Nat × List Byte) : List Byte :=
  if rereads op o then ((findOp s n op.opId).bind fun l => mfind l.before w.1).getD w.2 else w.2

/-- The byte reader of a slot's operand on a core: memory's, or its region's by the region's offsets (R151, R191). -/
def slotByte (s : State) (n : Nat) (op : Op) (g : GridCore) (o : Nat) (l : Layout) : Nat → Byte :=
  sourceByte s n op o (if l.space then storeBase n g.phys + 512 * g.base else 0) (operandByte s n g l)
/-- Whether a core's array task has done its work in its operation there (R270). -/
def arrayFree (s : State) (n : Nat) (g : GridCore) : Bool :=
  match (s.core n g.phys).array with
  | none => true
  | some a => match findOp s n a.opId with
    | none => true
    | some l => (l.grid.find? (·.phys == g.phys)).any fun h => l.finished.contains h.log

/-- The rows the running operation of a core holds: none once it is complete on that core. -/
def runningRows (s : State) (n : Nat) (g : GridCore) : List (Nat × Nat) :=
  match (s.core n g.phys).array with
  | none => []
  | some a =>
    if arrayFree s n g then [] else
    match findOp s n a.opId with
    | none => []
    | some l => match l.grid.find? (·.phys == g.phys) with
      | none => []
      | some h =>
        let mine := (s.core n g.phys).ring.filter fun r => decide (r.stream < 4096) && r.opId == a.opId
        let low := (mine.map (·.row)).foldl min (h.base + h.len)
        usedRows l.op h (if mine.isEmpty then h.base + h.len else low + allRingRows l.op)

/-- Whether window 7, opened over the part area of a part-0 core at the place it takes with the operation that runs there now,
would overlap another enabled window (R161, R698). -/
def partClash (s : State) (n : Nat) (g : GridCore) (op : Op) : Bool :=
  g.p == 0 && decide (0 < partRows op) &&
    (let top := (ringTop op g (runningRows s n g)).getD (g.base + g.len)
     let hi := top - allRingRows op
     let lo := hi - partRows op
     (List.range 7).any fun k =>
       let first := fld s (Reg.coreRecvWindow n g.phys k) 8 0
       flag s (Reg.coreRecvWindow n g.phys k) 31 && decide (first < hi) &&
         decide (lo < first + fld s (Reg.coreRecvWindow n g.phys k) 25 16))

/-- The q_len of each entry of a decode's length table as memory holds it at load, which the sizes of R409 and R413 are taken
from (DEDUCED: the loader can know them from nowhere else). -/
def lengthRows (s : State) (n : Nat) (op : Op) : List Nat :=
  match op.kind, op.layout 1 with
  | 9, some t =>
    let base := if t.space then storeBase n (physOf s n op.first) + 512 * (taskRegion s n (physOf s n op.first) 0).1 + t.base
      else t.base
    (List.range (t.extent 0 / 8)).map fun i => leNat ((List.range 4).map fun b => deviceByte s (base + 32 * i + 8 + b))
  | _, _ => []

/-- Core store faults (R229 order 8, R268, R357, R410, R413, R698). -/
def badStore (s : State) (n : Nat) (grid : List GridCore) (cmds : List FillCmd) (op : Op) : Option At :=
  let part := grid.any fun g => g.p == 0 && op.kind == 0 && decide (1 < op.parts) &&
    (decide (g.len * 512 < keptBytes op + 512 * (allRingRows op + partRows op)) || flag s (Reg.coreRecvWindow n g.phys 7) 31)
  let rings := grid.any fun g => op.kind != 4 && decide (g.len < allRingRows op)
  let rot := grid.any fun g => (readSlots op).any fun o => match rotEntry s n op o with
    | none => false
    | some e =>
      let top := g.base + g.len - allRingRows op
      decide (e.home < g.base) || decide (e.recv < g.base) || decide (top < e.home + e.shard * 4)
      || decide (top < e.recv + e.shard * 8)
  let reg0 := taskRegion s n (physOf s n op.first) 0
  let m := match op.layout 0 with | some l => l.extent 1 | none => 0
  let eight := op.kind == 8 && decide (reg0.2 * 512 < 2 * 3 * m * 2048)
  let g := bits (op.kword 1) 60 56
  let d := bits (op.kword 1) 55 47
  let qs := lengthRows s n op
  let nine := op.kind == 9 && decide (reg0.2 * 512 < 2 * 3 * min 16 (g * qs.foldl max 0) * (16 * cdiv (8 + 4 * d) 16))
  let parted := op.kind == 9 && bits (op.kword 3) 63 62 != 0 && bits (op.kword 3) 61 60 == 0 &&
    (let size := g * qs.foldl (· + ·) 0 * (16 * cdiv (8 + 4 * d) 16)
     let lo := storeBase n (physOf s n op.first) + 512 * reg0.1
     let x := bits (op.kword 3) 47 0
     let parts := bits (op.kword 3) 63 62
     decide (reg0.2 * 512 < size + parts * size) || decide (x < lo) || decide (lo + reg0.2 * 512 < x + parts * size))
  let far := (usedSlots op).map fun o => failIf (grid.any fun g =>
    (op.layout o).any (outOfRegion g.len) || (op.scale o).any (fun y => outOfRegion g.len y.asBytes)) o 0
  lowestAt (failIf (grid.any (regionBad s n) || grid.any (fun g => windowsBad s n g.phys || partClash s n g op)
    || grid.any (fun g => cmds.any (fillBad g.len)) || part || rings || rot || eight || nine || parted) 0 0 :: far)

/-- Unmapped addresses the loader can prove (R24, R229 order 9, R695): a tensor, its scales, or the export area of kind 0x9
whose base lies in no range. -/
def badUnmapped (op : Op) : Option At :=
  let off := fun (l : Layout) => !l.space && !l.empty && place l.base == .none
  let export_ := op.kind == 9 && bits (op.kword 3) 63 62 != 0 && place (bits (op.kword 3) 47 0) == .none
  lowestAt (failIf export_ 0 0 :: (usedSlots op).map fun o => failIf ((op.layout o).any off || (op.scale o).any off) o 0)

/-- The checks of R229 in order: the class that fails first, with its place. `bad` lists the slots whose layout or
scale descriptor, sparse map or command list is misplaced or unreadable (R700). -/
def loadFault (s : State) (n : Nat) (bs : List Byte) (bad : List Nat) (grid : List GridCore) (cmds : List FillCmd) (op : Op) :
    Option (Nat × At) :=
  let tests : List (Nat × (Unit → Option At)) :=
    [ (1, fun _ => badDescriptor bs bad op),
      (2, fun _ => badResources s n op), (3, fun _ => badFormats s n op), (4, fun _ => badMode op),
      (5, fun _ => badLayouts n grid op), (6, fun _ => badLoops op), (7, fun _ => badTiles s n grid op),
      (8, fun _ => badStore s n grid cmds op), (9, fun _ => badUnmapped op) ]
  tests.findSome? fun t => (t.2 ()).map fun a => (t.1, a)

end Sys2Proof.Machine
end

