-- ==== Sys2Proof/Machine/Plan.lean ====
section
/-! DEFINITION. Streams as the loader plans them: what a stream tile holds, how many tiles a stream has and their
period (R214, R233, R234, R245, R291, R351 to R353), sparse map headers and directories (R276 to R291). -/

namespace Sys2Proof.Machine

/-- Parts' reduction length on a core. -/
def kPart (op : Op) (p : Nat) : Nat := (partRange op p).2 - (partRange op p).1

/-- c_p of the weights as read (R64). -/
def slotsPerK (op : Op) : Nat := match op.layout 1 with | some l => l.format.cycles | none => 1

/-- Reduction elements a slot carries: four dimensions in hamming mode (R98). -/
def dimsPerSlot (op : Op) : Nat := if op.mode = 3 then 4 else 1

/-- n, the slots of a pass (R85, R92, R93, R94). -/
def passSlots (op : Op) (p : Nat) : Nat :=
  if op.w24 then cdiv (kPart op p) 4 * 2 * slotsPerK op
  else cdiv (kPart op p) (dimsPerSlot op) * slotsPerK op

/-- The passes of a tile for which an operand is fetched: all of them, but for the kept operands (R214). -/
def fetchPasses (op : Op) (o : Nat) : List Nat :=
  match op.shape, o with
  | 1, 1 => [0]
  | 2, 0 => [0]
  | 3, 0 => [0, 1] | 3, 1 => [0, 2]
  | _, _ => List.range (tilePasses op).length

/-- The pass whose fetch serves a pass (R214). -/
def servedBy (op : Op) (o pass : Nat) : Nat :=
  match op.shape, o with
  | 1, 1 => 0
  | 2, 0 => 0
  | 3, 0 => pass % 2 | 3, 1 => pass / 2 * 2
  | _, _ => pass

/-! ### Sparse maps -/

/-- A sparse map from its header and its block ranges (R286, R289). -/
def parseMap (base : Nat) (hdr ranges : List Byte) : SparseMap :=
  let n := bits (le32 hdr 0x18) 15 0
  { base := base, groups := le32 hdr 0, ksteps := le32 hdr 4, dirOff := le32 hdr 8, permOff := le32 hdr 0xC,
    rangeOff := le32 hdr 0x10, total := le32 hdr 0x14,
    ranges := if le32 hdr 0x10 = 0 then [] else (List.range n).map fun i => signed 32 (le32 ranges (4 * i)) }

/-- A directory entry: offset in units of 16 bytes, or absent (R287). -/
def dirEntry (get : Nat → Byte) (m : SparseMap) (g s : Nat) : Option Nat :=
  let e := leNat ((List.range 4).map fun i => get (m.base + m.dirOff + 4 * (g * m.ksteps + s) + i))
  if e = 0xFFFFFFFF then none else some e

/-- A permutation entry (R288); line i itself where the map has none. -/
def permEntry (get : Nat → Byte) (m : SparseMap) (i : Nat) : Int :=
  if m.permOff = 0 then (i : Int)
  else signed 32 (leNat ((List.range 4).map fun k => get (m.base + m.permOff + 4 * i + k)))

/-- A tile header (R277). -/
structure TileHdr where
  fmt    : Nat
  form   : Nat
  lines  : Nat
  smode  : Nat
  resv   : Nat
  tscale : Nat
  nnz    : Nat
  len    : Nat
  group  : Nat
  kstep  : Nat
  resv2  : Nat
deriving DecidableEq, Repr

def parseTile (bs : List Byte) : TileHdr :=
  let a := le64 bs 0
  let b := le64 bs 8
  ⟨bits a 63 48, bits a 47 46, bits a 45 44, bits a 43 42, bits a 41 40, bits a 39 32, bits a 31 17, bits a 16 0,
    bits b 63 32, bits b 31 8, bits b 7 0⟩

/-- Stream tiles of a compressed tile (R291). -/
def compTiles (h : TileHdr) : Nat := cdiv (16 + h.len) 2048

/-! ### Plans of array streams -/

/-- The shard a tile column of grid column j belongs to (R264). -/
def shardOf (op : Op) (e : RotEntry) (j tn : Nat) : Nat := (tn - j * blockN op) / max 1 (blockN op / max 1 e.members)

/-- The tiles of a core's work, in the order it visits them (R217); a rotated operation takes its shards in the
rotation's order (R265). -/
def workTiles (op : Op) (g : GridCore) : List TileIx :=
  let ts := coreTiles op g.i g.j
  match op.rot with
  | [] => ts
  | e :: _ => (List.range e.members).flatMap fun d =>
      ts.filter fun t => shardOf op e g.j t.tn == (g.i + e.members - d) % max 1 e.members

/-- Whether an operand is read as one unit over the whole work: the operands of kind 0x3, the length table and
the bias table of kind 0x1. -/
def wholeWork (op : Op) (o : Nat) : Bool := op.kind == 3 || (op.kind == 1 && o != 0)

/-- Steps of 512 elements of a core's part (R210). -/
def kSteps (op : Op) (p : Nat) : Nat := cdiv (kPart op p) 512

/-- The tag that governs an operand's fetch on entering tile q of a core's work; none where its coordinates stay (R211,
R699). -/
def tileTag (op : Op) (g : GridCore) (o q : Nat) : Option Nat :=
  if q = 0 then some (firstTag op o)
  else match (workTiles op g)[q - 1]?, (workTiles op g)[q]? with
    | some a, some b => changeTag op o (kSteps op g.p) a b
    | _, _ => none

/-- The tiles of a core's work at which an operand is fetched: the first, and those whose coordinates differ from the tile
before (R211, R699). -/
def freshTiles (op : Op) (g : GridCore) (o : Nat) : List Nat :=
  (List.range (workTiles op g).length).filter fun q => op.kind == 1 || (tileTag op g o q).isSome

/-- The tile of a core's work whose fetch serves tile q. -/
def freshAt (op : Op) (g : GridCore) (o q : Nat) : Nat :=
  ((freshTiles op g o).filter fun x => decide (x ≤ q)).getLastD 0

/-- The units in which a core's stream delivers an operand, in order: tile of the work and pass (R211, R214, R699). -/
def units (op : Op) (g : GridCore) (o : Nat) : List (Nat × Nat) :=
  if wholeWork op o || (op.kind == 0 && o == 6) then [(0, 0)]
  else
    let ps := if op.kind = 1 then [0] else fetchPasses op o
    (freshTiles op g o).flatMap fun q => ps.map fun x => (q, x)

/-- The unit of a stream that serves a pass of tile q (R211, R214, R699). -/
def unitIx (op : Op) (g : GridCore) (o q ps : Nat) : Nat :=
  ((units op g o).findIdx? (· == (freshAt op g o q, servedBy op o ps))).getD 0

/-- How many times the operand of a vector task has been fetched anew when it works on tile q (R211, R699). -/
def vecFresh (op : Op) (g : GridCore) (o q : Nat) : Nat :=
  ((freshTiles op g o).filter fun x => decide (0 < x) && decide (x ≤ q)).length

/-- Arrivals that a remote operand has asked for on entering step i of tile q of a core's work (R167, R211, R699). -/
def arrivalsAsked (op : Op) (g : GridCore) (o q i : Nat) : Nat :=
  ((List.range (q + 1)).filter fun x => tileTag op g o x == some 5).length
    + (if stepTag op o == some 5 then q * (kSteps op g.p - 1) + i else 0)

/-- The line-block of a compressed weight operand that a pass uses. -/
def passGroup (op : Op) (t : TileIx) (pass : Nat) : Nat :=
  let c := coordOf op 1 t 0 0 0
  ((c.getD 1 0).toNat + ((tilePasses op).getD pass (0, 0)).2) / 32

/-- The entries of the sparse map that a core's work uses, each once, in the order of their use: directory entry i
as 2 i, permutation entry i as 2 i + 1 (R287, R288, R290). They are the content of the slot-6 stream. -/
def mapEntries (op : Op) (g : GridCore) : List Nat :=
  match op.map with
  | none => []
  | some m =>
    let r := partRange op g.p
    ((units op g 1).flatMap fun (f : Nat × Nat) => match (workTiles op g)[f.1]? with
      | none => []
      | some t =>
        let grp := passGroup op t f.2
        ((List.range (cdiv (r.2 - r.1) 512)).map fun (i : Nat) => 2 * (grp * m.ksteps + r.1 / 512 + i)) ++
          (if m.permOff = 0 then [] else (List.range 32).map fun (i : Nat) => 2 * (32 * grp + i) + 1)).eraseDups

/-- Where an entry of the map lies. -/
def mapEntryAddr (m : SparseMap) (e : Nat) : Nat :=
  m.base + (if e % 2 = 0 then m.dirOff else m.permOff) + 4 * (e / 2)

/-- Bits of one element of a stream: a nibble of planes for weights (R245), else the element. -/
def unitWidth (op : Op) (o : Nat) : Nat :=
  match op.layout o with
  | some l => if op.kind = 0 && o = 1 then 4 else l.format.width
  | none => 32

/-- Elements of one unit. -/
def unitCount (op : Op) (g : GridCore) (o : Nat) : Nat :=
  match op.layout o with
  | none => 0
  | some l =>
    if op.kind = 3 then 32 * (freshTiles op g o).length
    else if op.kind = 1 then (match o with
      | 0 => 64 * l.extent 0
      | 1 => l.extent 0
      | _ => l.extent 0 * l.extent 1)
    else match o with
      | 0 => kPart op g.p * passRows op
      | 1 => passSlots op g.p * 32
      | 2 => passRows op * 32
      | 5 => 32
      | 6 => (mapEntries op g).length
      | _ => 0

/-- Elements of one stream tile of 2,048 bytes: whole reduction elements for the activations. -/
def perTile (op : Op) (o : Nat) : Nat :=
  let e := 16384 / max 1 (unitWidth op o)
  if op.kind = 0 && o = 0 then max 1 (e / passRows op) * passRows op else e

/-- Stream tiles of one unit. -/
def perUnit (op : Op) (g : GridCore) (o : Nat) : Nat := cdiv (unitCount op g o) (perTile op o)

/-- The compressed tiles of a pass, in ascending steps: step, offset and header of the present ones (R287). -/
def passComp (op : Op) (get : Nat → Byte) (p : Nat) (t : TileIx) (pass : Nat) : List (Nat × Nat × TileHdr) :=
  match op.map, op.layout 1 with
  | some m, some l =>
    let r := partRange op p
    (List.range (cdiv (r.2 - r.1) 512)).filterMap fun i =>
      let s := r.1 / 512 + i
      (dirEntry get m (passGroup op t pass) s).map fun off =>
        (s, off, parseTile ((List.range 16).map fun b => get (l.base + 16 * off + b)))
  | _, _ => []

/-- Every stream tile of a compressed weight stream: tile of the work, pass, step, offset, header, part. -/
def compPlan (op : Op) (get : Nat → Byte) (g : GridCore) : List (Nat × Nat × Nat × Nat × TileHdr × Nat) :=
  (units op g 1).flatMap fun f =>
    match (workTiles op g)[f.1]? with
    | none => []
    | some t => (passComp op get g.p t f.2).flatMap fun c =>
        (List.range (max 1 (compTiles c.2.2))).map fun i => (f.1, f.2, c.1, c.2.1, c.2.2, i)

/-- The number of stream tiles that are fetched for a core's stream (R233): none for a pair stream, whose tiles come
from its producer. -/
def streamLength (op : Op) (get : Nat → Byte) (g : GridCore) (o : Nat) : Nat :=
  if op.kind = 2 && o = 0 then 0
  else if op.kind = 0 && o = 1 && compressed op then (compPlan op get g).length
  else (units op g o).length * perUnit op g o

/-- Cycles of the first key block of a length table entry of kind 0x1 at full rate (R396): its score and its value
passes, each its slots and the 32 of its preload, with the slots of the widest page format allowed: the page's own format
is not known at load (DESIGN CHOICE). -/
def keyBlockCycles (op : Op) : Nat :=
  let kb := 32 * 2 ^ bits (op.kword 1) 46 45
  let d := bits (op.kword 1) 55 47
  let c := (((List.range 16).filter fun f => bit (bits (op.kword 1) 31 16) f).map fun f => (Fmt.ofWord f).cycles).foldl max 1
  kb / 32 * (d * c + 32) + d / 32 * (kb * c + 32)

/-- Cycles from the issue of a vector instruction to that of the next (R109). The word that ends a program issues nothing
(DEDUCED). -/
def vecIssue (code : Nat) : Nat :=
  match code with
  | 0x00 => 0
  | 0x13 | 0x14 => 8                                       -- division and root
  | 0x15 | 0x16 | 0x17 | 0x18 | 0x19 | 0x1A => 2           -- estimates, exponential and logarithm
  | 0x1B | 0x1C | 0x1D | 0x1E | 0x1F => 4                  -- activation functions
  | 0x20 | 0x21 | 0x22 => 4                                -- lane reductions
  | 0x32 => 16                                             -- sort
  | _ => 1

/-- Bytes of the operand of a unit read whole, in a tensor's own format. -/
def tableBytes (l : Layout) : Nat := cdiv (l.extent 0 * l.extent 1 * l.format.width) 8

/-- The tile period of a stream (R245, R291, R299). For the queries and the bias table of kind 0x1 the rule names no unit;
the model takes the tile of queries, and the table, against the cycles of a key block (DESIGN CHOICE). -/
def streamPeriod (op : Op) (p o : Nat) : Nat :=
  let n := passSlots op p
  let lim := fun (x : Nat) => max 1 (min x 0xFFFFFF)
  let per := fun (bytes cycles : Nat) => if bytes = 0 then 0xFFFFFF else lim (2048 * cycles / bytes)
  match op.layout o with
  | none => 1
  | some l =>
    if op.kind = 2 && o = 0 then 64
    else if op.kind = 3 then per (4 * l.format.width) ((vecProgram op 16 0).foldl (fun a w => a + vecIssue w.code) 0)
    else if op.kind = 1 then (match o with
      | 0 => per (8 * l.extent 0 * l.format.width) (keyBlockCycles op)
      | 1 => per 32 (keyBlockCycles op)
      | _ => per (tableBytes l) (keyBlockCycles op))
    else match o with
      | 1 => if compressed op then 64 else 128
      | 0 => lim (2048 * 8 * slotsPerK op / (passRows op * l.format.width))
      | 2 => per (passRows op * 32 * l.format.width / 8) (n + 32)
      | 5 => per 128 (n + 32)
      | _ => per (4 * kSteps op p + (if (op.map.map (·.permOff)).getD 0 = 0 then 0 else 128)) (n + 32)

/-! ### Elements of a stream -/

/-- The tile and the pass a unit belongs to. -/
def unitAt (op : Op) (g : GridCore) (o u : Nat) : Option (TileIx × Nat) :=
  match (units op g o)[u]? with
  | some (q, ps) => ((workTiles op g)[q]?).map fun t => (t, ps)
  | none => none

/-- The rows of a bias or of another rank-2 table read whole, as coordinates of element i. -/
def tableCoord (l : Layout) (i : Nat) : List Int :=
  let e := max 1 (l.extent 0)
  [((i % e : Nat) : Int), ((i / e : Nat) : Int), 0, 0, 0, 0]

/-- The column of the result a tile's column stands for: through the line permutation for a compressed operand
(R288). -/
def columnOf (op : Op) (get : Nat → Byte) (t : TileIx) (o : Nat) (col : Nat) : List Int → List Int := fun c =>
  match op.map with
  | some m =>
    if m.permOff = 0 then c
    else match axisRun op 1 o with
      | none => c
      | some d =>
        let stored := ((coordOf op 1 t 0 col 0).getD 1 0).toNat
        c.set d (permEntry get m stored)
  | none => c

/-- The coordinates whose element fills place i of a unit: one, or four in a hamming weight slot. -/
def unitCoords (op : Op) (get : Nat → Byte) (g : GridCore) (o : Nat) (t : TileIx) (ps i : Nat) : List (List Int) :=
  let r := partRange op g.p
  let org := (tilePasses op).getD ps (0, 0)
  match op.layout o with
  | none => []
  | some l =>
    if op.kind = 3 then
      let q := (freshTiles op g o).getD (i / 32) 0
      match (workTiles op g)[q]? with
      | some tq => [moved (baseCoord o tq.levels) (some 0) ((i % 32 : Nat) : Int)]
      | none => []
    else if op.kind = 1 then
      if o = 0 then
        let d := max 1 (l.extent 0)
        let blocks := max 1 (cdiv (l.extent 2) 64)
        let grp := bits (op.kword 1) 60 56
        [[((i % d : Nat) : Int), ((t.tm / blocks * grp + g.j : Nat) : Int), ((t.tm % blocks * 64 + i / d : Nat) : Int), 0, 0, 0]]
      else [tableCoord l i]
    else match o with
      | 0 => let rows := passRows op
             [coordOf op 0 t (org.1 + i % rows) org.2 (r.1 + i / rows)]
      | 1 => let sl := i / 32
             let col := org.2 + i % 32
             if op.mode = 3 then
               (List.range 4).filterMap fun x =>
                 let k := r.1 + 4 * sl + x
                 if k < r.2 then some (coordOf op 1 t org.1 col k) else none
             else [coordOf op 1 t org.1 col (r.1 + sl / slotsPerK op)]
      | 2 => [columnOf op get t 2 (org.2 + i % 32) (coordOf op 2 t (org.1 + i / 32) (org.2 + i % 32) 0)]
      | 5 => [columnOf op get t 5 (org.2 + i % 32) (coordOf op 5 t org.1 (org.2 + i % 32) 0)]
      | _ => []

/-- The planes of weight slot sl of an element of width w: bits from the top, four at a time (R64). -/
def planeGroup (w code grp : Nat) : Nat :=
  if 4 * (grp + 1) ≤ w then bits code (w - 4 * grp - 1) (w - 4 * (grp + 1))
  else code * 2 ^ (4 * (grp + 1) - w) % 16

/-- The content of place i of a unit; zero beyond the operand's extents, where the consumer supplies the padding
value (R194). -/
def unitElem (op : Op) (get : Nat → Byte) (g : GridCore) (o : Nat) (t : TileIx) (ps i : Nat) : Nat :=
  match op.layout o with
  | none => 0
  | some l =>
    if op.kind = 0 && o = 6 then 0
    else
      let code := fun (x : List Int) => if inside l x then readCode get l x else 0
      match unitCoords op get g o t ps i with
      | [] => 0
      | [x] =>
        if op.kind = 0 && o = 1 && op.mode != 3 then planeGroup l.format.width (code x) (i / 32 % slotsPerK op)
        else code x
      | xs => (xs.zipIdx.map fun p => code p.1 * 2 ^ p.2).foldl (· + ·) 0

/-- The memory words place i of a unit is read from. -/
def unitWords (op : Op) (get : Nat → Byte) (g : GridCore) (o : Nat) (t : TileIx) (ps i : Nat) : List Nat :=
  match op.layout o with
  | none => []
  | some l =>
    if op.kind = 0 && o = 6 then []
    else (unitCoords op get g o t ps i).flatMap fun x => if inside l x then elemWords l x l.format.read else []

/-- The places of a stream tile within its unit: the unit, the first place and how many. -/
def tilePlaces (op : Op) (g : GridCore) (o tile : Nat) : Nat × Nat × Nat :=
  let per := max 1 (perUnit op g o)
  let first := tile % per * perTile op o
  (tile / per, first, min (perTile op o) (unitCount op g o - first))

/-- The 2,048 bytes of a stream tile of an uncompressed operand (R234). -/
def tileBytes (op : Op) (get : Nat → Byte) (g : GridCore) (o tile : Nat) : List Byte :=
  let pl := tilePlaces op g o tile
  let w := unitWidth op o
  match op.map, unitAt op g o pl.1 with
  | _, none => List.replicate 2048 0
  | m, some (t, ps) =>
    if op.kind = 0 && o = 6 then
      let es := (((mapEntries op g).drop pl.2.1).take pl.2.2).flatMap fun (e : Nat) =>
        (List.range 4).map fun (i : Nat) => get ((m.map fun x => mapEntryAddr x e).getD 0 + i)
      es ++ List.replicate (2048 - es.length) 0
    else
    leBytes 2048 ((List.range pl.2.2).foldl (fun acc i =>
      acc ||| (unitElem op get g o t ps (pl.2.1 + i) % 2 ^ w) <<< (w * i)) 0)

/-- The memory words of a stream tile of an uncompressed operand, each once. -/
def tileWords (op : Op) (get : Nat → Byte) (g : GridCore) (o tile : Nat) : List Nat :=
  let pl := tilePlaces op g o tile
  match unitAt op g o pl.1 with
  | none => []
  | some (t, ps) => if op.kind = 0 && o = 6 then
      (((mapEntries op g).drop pl.2.1).take pl.2.2).map (fun (e : Nat) => (op.map.map fun x => mapEntryAddr x e / 16).getD 0) |>.eraseDups
    else ((List.range pl.2.2).flatMap fun i => unitWords op get g o t ps (pl.2.1 + i)).dedup

/-- Halves of 64 scale bytes that part i of a compressed tile of h stream tiles takes: the tile's 512 block scales, 16
blocks of its 32 columns, in equal shares (R241, R284). The rules do not divide them among the stream tiles (DESIGN
CHOICE). -/
def compHalves (h i : Nat) : Nat × Nat := (8 * i / max 1 h, 8 * (i + 1) / max 1 h)

/-- The coordinates of an element's block in its scale tensor's terms: those of the block's first element (R186). -/
def blockStart (x : List Int) : List Int := x.set 0 (x.getD 0 0 / 32 * 32)

/-- Whether the lines of a pass lie across the blocks of an operand: its reduction runs along dimension 0, where each line has
blocks of its own. -/
def linesApart (op : Op) (o : Nat) : Bool :=
  op.kind == 0 && o ≤ 1 && axisRun op 2 o == some 0 && axisRun op 0 o != some 0 && axisRun op 1 o != some 0

/-- The blocks along the reduction that the elements of a stream tile of a pass's operand lie in, in the order in which they come:
first coordinates along dimension 0. -/
def runBlocks (op : Op) (g : GridCore) (o tile : Nat) : List Int :=
  let pl := tilePlaces op g o tile
  match unitAt op g o pl.1 with
  | none => []
  | some (t, ps) =>
    let org := (tilePasses op).getD ps (0, 0)
    let lanes := if o = 1 then 32 else passRows op
    let c := if o = 1 then slotsPerK op else 1
    let k0 := pl.2.1 / lanes / c
    let k1 := cdiv (cdiv (pl.2.1 + pl.2.2) lanes) c
    ((List.range (k1 - k0)).map fun i =>
      (blockStart (coordOf op o t org.1 org.2 ((partRange op g.p).1 + k0 + i))).getD 0 0).eraseDups

/-- The block scale bytes of a stream tile, as coordinates of their blocks' first elements, in the order in which the tile's
elements come to them (R186, R250, R284): for a pass's operand block by block along the reduction, line by line. A compressed
tile with a scale of its own takes none. -/
def tileScales (op : Op) (get : Nat → Byte) (g : GridCore) (o tile : Nat) : List (List Int) :=
  match op.layout o with
  | none => []
  | some l =>
    if !l.format.isMX then []
    else if op.kind = 0 && o = 1 && compressed op then
      match (compPlan op get g)[tile]? with
      | some (q, ps, st, _, h, i) =>
        if h.smode = 1 then []
        else match (workTiles op g)[q]? with
          | none => []
          | some t =>
            let org := (tilePasses op).getD ps (0, 0)
            let r := compHalves (compTiles h) i
            (List.range (64 * (r.2 - r.1))).map fun y =>
              let z := 64 * r.1 + y
              blockStart (coordOf op 1 t org.1 (org.2 + z % 32) (512 * st + 32 * (z / 32)))
      | none => []
    else
      let pl := tilePlaces op g o tile
      match unitAt op g o pl.1 with
      | none => []
      | some (t, ps) =>
        if linesApart op o then
          let org := (tilePasses op).getD ps (0, 0)
          (runBlocks op g o tile).flatMap fun b => (List.range (if o = 1 then 32 else passRows op)).map fun x =>
            (if o = 1 then coordOf op 1 t org.1 (org.2 + x) 0 else coordOf op o t (org.1 + x) org.2 0).set 0 b
        else ((List.range pl.2.2).flatMap fun i => ((unitCoords op get g o t ps (pl.2.1 + i)).take 1).map blockStart).eraseDups

/-- Where the scale byte of an element at coordinates x stands among those of its stream tile. -/
def scaleIx (op : Op) (get : Nat → Byte) (g : GridCore) (o tile lane : Nat) (x : List Int) : Option Nat :=
  if linesApart op o then
    ((runBlocks op g o tile).findIdx? (· == (blockStart x).getD 0 0)).map fun b => b * (if o = 1 then 32 else passRows op) + lane
  else (tileScales op get g o tile).findIdx? (· == blockStart x)

/-- The tag that governs the fetch of a stream tile (R211): that of its unit's tile, or, beyond the first step, that of
the steps within a tile. -/
def fetchTag (op : Op) (get : Nat → Byte) (g : GridCore) (o tile : Nat) : Nat :=
  let own := fun (q : Nat) => (tileTag op g o q).getD (governTag op o)
  if op.kind = 0 && o = 1 && compressed op then
    match (compPlan op get g)[tile]? with
    | some (q, _, st, _) => if (partRange op g.p).1 / 512 < st then (stepTag op o).getD (own q) else own q
    | none => governTag op o
  else
    let pl := tilePlaces op g o tile
    match (units op g o)[pl.1]? with
    | none => governTag op o
    | some (q, _) =>
      let k := if op.kind != 0 || 2 ≤ o then 0 else if o = 0 then pl.2.1 / passRows op else pl.2.1 / 32 / slotsPerK op * dimsPerSlot op
      if 512 ≤ k then (stepTag op o).getD (own q) else own q

/-! ### The kept operand (R214, R215, R298) -/

/-- Whether a shape keeps an operand in the core store. -/
def keeps (op : Op) (o : Nat) : Bool :=
  op.kind == 0 && ((op.shape == 1 && o == 1) || (op.shape == 2 && o == 0) || (op.shape == 3 && o ≤ 1))

/-- Bytes of the kept activations of a pass: data, then block scales. -/
def keptAct (op : Op) : Nat × Nat :=
  let steps := (List.range op.parts).foldl (fun m p => max m (kSteps op p)) 0
  match op.layout 0 with
  | some l => (4096 * l.format.width * steps, if l.format.isMX then 64 * 16 * steps else 0)
  | none => (0, 0)

/-- The bits that place i of a kept, uncompressed operand takes in the kept area of its pass, and where they begin: the
planes that are read of a weight, and no more (R214). -/
def keptPlaceBits (op : Op) (o i : Nat) : Nat × Nat :=
  let w := unitWidth op o
  if o != 1 then (i * w, w)
  else
    let sl := i / 32
    let c := slotsPerK op
    let rd := (op.layout 1).elim 4 fun l => l.format.read
    let r := if op.mode = 3 then 4 else min 4 (rd - 4 * (sl % c))
    ((if op.mode = 3 then sl * 128 else sl / c * (32 * rd) + sl % c * 128) + i % 32 * r, r)

/-- Places of a kept operand packed as the kept area holds them: the high bits of each, for a plane group holds its planes
from the top (R64). -/
def packKept (op : Op) (o first count : Nat) (bs : List Byte) : List Byte :=
  let w := unitWidth op o
  let p0 := (keptPlaceBits op o first).1
  let last := keptPlaceBits op o (first + count - 1)
  if count = 0 then []
  else leBytes (cdiv (last.1 + last.2 - p0) 8) ((List.range count).foldl (fun acc i =>
    let p := keptPlaceBits op o (first + i)
    acc ||| (takeBits bs (i * w) w / 2 ^ (w - p.2)) <<< (p.1 - p0)) 0)

/-- Where a stream tile of a kept operand stands in the kept area: the offset of its bytes, their number, and the offset
of its block scales. The rules give the area's size alone: activations come first, each pass's data before its scales, then
the weights in the same way; compressed tiles follow each other as delivered, their block scales after them, 512 for each
step (DESIGN CHOICE). -/
def keptSpot (op : Op) (get : Nat → Byte) (g : GridCore) (o tile : Nat) : Nat × Nat × Nat :=
  let act := (keptAct op).1 + (keptAct op).2
  if o = 1 && compressed op then
    let base := if op.shape = 3 then 2 * act else 0
    let total := match op.map with
      | some m => cdiv (m.total * (List.range op.parts).foldl (fun x p => max x (kSteps op p)) 0) (max 1 m.ksteps)
      | none => 0
    match (compPlan op get g)[tile]? with
    | none => (base, 0, base + total)
    | some (q, ps, st, _, h, i) =>
      let before := (passComp op get g.p ((workTiles op g).getD q ⟨[], 0, 0⟩) ps).filter fun c => decide (c.1 < st)
      (base + (before.map fun c => 16 + c.2.2.len).foldl (· + ·) 0 + 2048 * i, min 2048 (16 + h.len - 2048 * i),
        base + total + 512 * (st - (partRange op g.p).1 / 512) + 64 * (compHalves (compTiles h) i).1)
  else
    let pl := tilePlaces op g o tile
    let ps := ((units op g o)[pl.1]?.map (·.2)).getD 0
    let base := if o = 0 then (if op.shape = 3 then ps * act else 0) else if op.shape = 3 then 2 * act else 0
    let data := if o = 0 then (keptAct op).1 else cdiv (keptPlaceBits op 1 (unitCount op g 1)).1 8
    let first := (keptPlaceBits op o pl.2.1).1
    let last := keptPlaceBits op o (pl.2.1 + pl.2.2 - 1)
    let lanes := if o = 1 then 32 else passRows op
    let c := if o = 1 then slotsPerK op else 1
    (base + first / 8, cdiv (last.1 + last.2 - first) 8, base + data + pl.2.1 / lanes / c / 32 * lanes)

/-- The first row of the kept area on a core: below its rings and its part area (R215, R238, R698). -/
def keptRow (op : Op) (g : GridCore) (rings : List Ring) : Nat :=
  let low := ((rings.filter fun r => decide (r.stream < 4096) && r.opId == op.opId).map (·.row)).foldl min (g.base + g.len)
  low - (if g.p = 0 then partRows op else 0) - cdiv (keptBytes op) 512

/-! ### Plans of Letrix streams -/

/-- The blocks of a stack in a byte range of its channel's tier 0 (R355). -/
def stackBlocks (s : State) (stack lo hi : Nat) : List Nat :=
  ((List.range (cdiv (hi - lo / 2048 * 2048) 2048)).map fun i => lo / 2048 + i).filter fun b =>
    stackOf s (b * 2048 % tier0Size) == stack

/-- The addresses a Letrix operand's stream runs over: first byte and one past the last (R188); of a compressed operand,
its tile storage, whatever its stride (R285). -/
def streamSpan (op : Op) (o : Nat) : Nat × Nat :=
  match op.layout o with
  | none => (0, 0)
  | some l =>
    let total := match op.kind, o with
      | 11, 0 => op.map.map (·.total)
      | 11, 1 => op.map2.map (·.total)
      | 12, 0 => if bit (op.kword 0) 63 then op.map.map (·.total) else none
      | _, _ => none
    match total with
    | some x => (l.base, l.base + x)
    | none =>
      let x := span l
      (((l.base : Int) + x.1).toNat, ((l.base : Int) + x.2).toNat)

/-- The internal slot of the stream of an operand's block scales. -/
def scaleSlot (o : Nat) : Nat := 16 + o

/-- The addresses the scale bytes of an operand run over (R186): one byte for each block of a row. -/
def scaleSpan (op : Op) (o : Nat) : Nat × Nat :=
  match op.scale o with
  | none => (0, 0)
  | some l =>
    let z := (List.range 6).foldl (fun (acc : Int × Int) d =>
      let r : Int := if d = 0 then 0 else ((l.extent d : Int) - 1) * l.strideBytes d
      (acc.1 + min 0 r, acc.2 + max 0 r)) (0, 0)
    (((l.base : Int) + z.1).toNat, ((l.base : Int) + z.2 + (l.extent 0 : Nat)).toNat)

/-- Whether two operands of device space lie in the tier 0 of one channel. -/
def sameTier0 (a b : Layout) : Bool :=
  !a.space && !b.space && (match place a.base, place b.base with | .tier0 m _, .tier0 n _ => m == n | _, _ => false)

/-- The streams of a Letrix kind (R353, R355, R371): their slots, and whether each die has one of its own. Slot 9
stands for the walking streams of kind 0x9, and 17 for those of the block scales of a kind 0x8 operation's weights, which a
die's scale ring takes (R349): a die reads them itself where they lie in its channel's tier 0. -/
def letrixStreams (op : Op) : List (Nat × Bool) :=
  ((readSlots op).map fun o =>
    let perDie := match op.kind, o with
      | 8, 1 => true
      | 10, 0 => bits (op.kword 0) 63 62 == 0
      | 11, 0 => true
      | 12, 0 => !bit (op.kword 0) 63
      | _, _ => false
    (o, perDie)) ++ (if op.kind = 9 then [(9, true)] else [])
    ++ (match op.kind, op.layout 1, op.scale 1 with
      | 8, some l, some sl => [(scaleSlot 1, sameTier0 l sl)]
      | _, _, _ => [])

/-! ### Tiles of an intersection (R301, R302) -/

/-- The 2 KiB blocks a tile of the resident operand lies in, from its offset (R301): one block that holds it whole, or,
from a block's start, the next blocks of the same stack; none where that is broken, or where its last block's share of it
runs beyond total_bytes. -/
def residentBlocks (s : State) (l : Layout) (total off len : Nat) : Option (List Nat) :=
  let a := l.base + 16 * off
  if len ≤ 2048 then (if a % 2048 + len ≤ 2048 && decide (16 * off + len ≤ total) then some [a / 2048] else none)
  else if a % 2048 != 0 then none
  else
    let st := stackOf s (a % tier0Size)
    let more := (List.range (cdiv (l.base + total - a) 2048)).map (a / 2048 + ·)
    let mine := (more.filter fun b => stackOf s (b * 2048 % tier0Size) == st).take (cdiv len 2048)
    let last := (mine.getLast?.map (2048 * ·)).getD 0 + (len - 2048 * (cdiv len 2048 - 1))
    if mine.length = cdiv len 2048 && decide (last ≤ l.base + total) then some mine else none

/-- The steps at which the probe has a tile, and the blocks and steps at which both operands have one (R302). -/
def probeSteps (s : State) (op : Op) : List Nat :=
  match op.map2 with
  | some p => (List.range p.ksteps).filter fun st => (dirEntry (deviceByte s) p 0 st).isSome
  | none => []
def isectWork (s : State) (op : Op) : List (Nat × Nat) :=
  match op.map with
  | some a => (List.range a.groups).flatMap fun b => ((probeSteps s op).filter fun st =>
      decide (st < a.ksteps) && (dirEntry (deviceByte s) a b st).isSome).map fun st => (b, st)
  | none => []

/-- The 2 KiB blocks of the resident operand's tile of a block and step. -/
def workBlocks (s : State) (op : Op) (w : Nat × Nat) : List Nat :=
  match op.map, op.layout 0 with
  | some a, some l =>
    match dirEntry (deviceByte s) a w.1 w.2 with
    | some off =>
      let h := parseTile ((List.range 16).map fun i => deviceByte s (l.base + 16 * off + i))
      (residentBlocks s l a.total off (16 + h.len)).getD [(l.base + 16 * off) / 2048]
    | none => []
  | _, _ => []

/-- The stack that holds a tile of the resident operand. -/
def workStack (s : State) (op : Op) (w : Nat × Nat) : Nat :=
  stackOf s ((workBlocks s op w).headD 0 * 2048 % tier0Size)

/-! ### What a Letrix stream reads -/

/-- The words of a list in stream tiles of 2,048 bytes. -/
def wordTiles (ws : List Nat) : List (List Nat) := (List.range (cdiv ws.length 128)).map fun i => (ws.drop (128 * i)).take 128

/-- The stream tiles of an operand of an intersection that reaches the dies through the channel stream engine (R302): the
probe's tiles that are present, the probe's directory, and of the resident operand's directory the entries of the probe's
steps. -/
def isectTiles (s : State) (op : Op) (o : Nat) : List (List Nat) :=
  match op.map, op.map2, op.layout 1 with
  | some a, some p, some l =>
    if o = 1 then
      (probeSteps s op).flatMap fun st =>
        let off := (dirEntry (deviceByte s) p 0 st).getD 0
        let h := parseTile ((List.range 16).map fun i => deviceByte s (l.base + 16 * off + i))
        (List.range (max 1 (compTiles h))).map fun i => wordsOf (l.base + 16 * off + 2048 * i) (min 2048 (16 + h.len - 2048 * i))
    else if o = 7 then wordTiles (wordsOf (p.base + p.dirOff) (4 * p.ksteps))
    else wordTiles (((List.range a.groups).flatMap fun b => (probeSteps s op).map fun st =>
      (a.base + a.dirOff + 4 * (b * a.ksteps + st)) / 16).eraseDups)
  | _, _, _ => []

/-- The blocks of a die that its stream of an operand reads, in ascending order (R302, R351, R355). The reads of a gather
are led by its indices, those of a page walk by the page lists. -/
def dieBlocks (s : State) (op : Op) (o die : Nat) : List Nat :=
  if o = scaleSlot 1 then stackBlocks s die (scaleSpan op 1).1 (scaleSpan op 1).2
  else if op.kind = 10 || 8 ≤ o then []
  else if op.kind = 11 then
    ((isectWork s op).flatMap fun w => if workStack s op w == die then workBlocks s op w else []).eraseDups.mergeSort (· ≤ ·)
  else stackBlocks s die (streamSpan op o).1 (streamSpan op o).2

/-- The stream tiles of a compressed operand that a decode takes, tile by tile of its map: each compressed tile in stream tiles of
its own (R291, R369). -/
def decodeTiles (s : State) (op : Op) : List (List Nat) :=
  match op.map, op.layout 0 with
  | some m, some l => (List.range m.groups).flatMap fun g => (List.range m.ksteps).flatMap fun st =>
      match dirEntry (deviceByte s) m g st with
      | none => []
      | some off =>
        let h := parseTile ((List.range 16).map fun i => deviceByte s (l.base + 16 * off + i))
        (List.range (max 1 (compTiles h))).map fun i => wordsOf (l.base + 16 * off + 2048 * i) (min 2048 (16 + h.len - 2048 * i))
  | _, _ => []

/-- Whether a Letrix operation's stream delivers compressed tiles through the channel stream engine: the probe of an
intersection, the source of a decode. -/
def compStream (op : Op) (o : Nat) : Bool :=
  (op.kind == 11 && o == 1) || (op.kind == 12 && o == 0 && bit (op.kword 0) 63)

/-- The addresses a stream of a Letrix operation runs over, by its slot. -/
def slotSpan (op : Op) (o : Nat) : Nat × Nat := if 16 ≤ o then scaleSpan op (o - 16) else streamSpan op o

/-- Length of a Letrix operation's stream in its tiles (R351): 32 blocks of the die's stack each, or 2,048 bytes. -/
def letrixLength (s : State) (op : Op) (o : Nat) (perDie : Bool) (die : Nat) : Nat :=
  if perDie then cdiv (dieBlocks s op o die).length 32
  else if op.kind = 11 then (isectTiles s op o).length
  else if compStream op o then (decodeTiles s op).length
  else cdiv ((slotSpan op o).2 - (slotSpan op o).1) 2048

/-- floor(65,536 / (B f)) for a stream of num / den bytes a cycle that is its unit's only one (R352). -/
def lonePeriod (num den : Nat) : Nat := if num ≤ 1242 * den then 65536 * den / max 1 num else 65536 / 1242

/-- The stream period of the kinds' units (R245, R291, R352): bytes per cycle at full rate, scaled to the stack's rate for the
streams of a die. The rules leave some rates open (DESIGN CHOICE): a decode's keys and values are taken against the
multiply-accumulates and exponentials of one query row for each query head of the group; the resident operand of an
intersection against tiles of dense size, at 16 line pairs per Letrix cycle; the maps of an intersection, the bias table, and
the tables and rows of a gather or scatter at the stack's rate; preload and store scales of kind 0x8 with P = 1. -/
def letrixPeriod (op : Op) (o : Nat) : Nat :=
  if compStream op o then 64
  else match op.kind, op.layout (if o = scaleSlot 1 then 1 else o) with
  | 8, some l =>
    let m := match op.layout 0 with | some r => max 1 (r.extent 1) | none => 1
    let r := match l.format.cycles with | 1 => 2560 | 2 => 1280 | _ => 640
    let data := r * l.format.read
    let d := data + (if l.format.isMX then r / 4 else 0)
    -- bytes per cycle: data / (8 m); floor(65,536 / (bytes * min(1, 1,242 / D)))
    let per := fun (bits : Nat) =>
      if d ≤ 1242 * 8 * m then 65536 * 8 * m / max 1 bits else 65536 * d / max 1 (bits * 1242)
    if o = 1 then per data
    else if o = scaleSlot 1 then (if (letrixStreams op).contains (o, true) then per (r / 4) else 2048 * 8 * m / max 1 (r / 4))
    else 1
  | 9, l =>
    let d := bits (op.kword 1) 55 47
    let w := if (bits (op.kword 1) 31 16 &&& 0x70) != 0 then 8 else 16
    let walk := lonePeriod (min 8192 (8 * d * w)) (max 1 (bits (op.kword 1) 60 56))
    match o with
    | 0 => 1
    | 1 => 2048 / 32 * walk                                  -- an entry in the cycles of its first Letrix stream tile
    | 9 => walk
    | _ => 2048 * (65536 / 1242) / max 1 (l.elim 1 tableBytes)
  | 10, _ => if o = 1 then 2048 * 940 / (4 * 1200) else 65536 / 1242   -- one index per Letrix cycle (R349)
  | 11, some l => if o = 0 then lonePeriod ((16 + 512 * l.format.width) * 1200) (16 * 940) else 2048 / 1242
  | _, _ => if (letrixStreams op).contains (o, true) then 65536 / 1242 else 2048 / 1242

end Sys2Proof.Machine
end

