-- ==== Sys2Proof/Machine/Loader.lean ====
section
/-! DEFINITION. The loader: taking entries from the work queue, reading descriptors, rejecting, holding and loading
operations; starting, completing and timing them (R150, R203 to R232, R235, R242, R243, R252, R263, R270, R558,
R559, R698, R700). -/

namespace Sys2Proof.Machine

/-! ### The shared cache (R223 to R227) -/

/-- The set of a line: its number modulo the 1,536 sets. -/
def cacheSet (line : Nat) : Nat := line % 1536

/-- A line put in front of the channel's lines if the operation may take a place for it (R225). -/
def cacheAlloc (c : Chan) (id : W32) (line : Nat) : Chan :=
  let share := ((c.ops.find? (·.op.opId == id)).map (·.op.share)).getD 0 * 512
  let own := (c.cache.filter (·.owner == id)).length
  let set := c.cache.filter fun l => cacheSet l.addr == cacheSet line
  let drop := fun (l : Line) => c.cache.filter (·.addr != l.addr)
  let new : Line := ⟨line, id⟩
  if share = 0 then c
  else if share ≤ own then
    match (set.filter (·.owner == id)).getLast? with
    | some l => { c with cache := new :: drop l }
    | none => c
  else if set.length < 16 then { c with cache := new :: c.cache }
  else match (set.filter fun l => !c.ops.any fun o => o.op.opId == l.owner).getLast? with
    | some l => { c with cache := new :: drop l }
    | none => c

/-- A line read through a channel's shared cache (R223, R227): a hit moves it to the front, a miss may allocate. -/
def cacheRead (s : State) (m : Nat) (id : W32) (alloc : Bool) (line : Nat) : State :=
  let c := s.chan m
  match c.cache.find? (·.addr == line) with
  | some l =>
    let s := s.setChan m { c with cache := l :: c.cache.filter (·.addr != line) }
    count64 s (Reg.chScHitCount m) 1
  | none =>
    let s := if alloc then s.setChan m (cacheAlloc c id line) else s
    count64 s (Reg.chScMissCount m) 1

/-- The channel whose shared cache serves a word, with its line number. -/
def lineOf (w : Nat) : Option (Nat × Nat) :=
  match place (16 * w) with
  | .tier0 m _ => some (m, 16 * w / 2048)
  | .tier1 m _ => some (m, 16 * w / 2048)
  | _ => none

/-- A line invalidated. -/
def dropLine (s : State) (m line : Nat) : State :=
  s.setChan m { s.chan m with cache := (s.chan m).cache.filter (·.addr != line) }

/-- The memory words whose copies in a channel's cache hold an error (R318). -/
def cachedBad (s : State) (m : Nat) : List Nat :=
  (((s.errs.map fun e => e.1 / 18).filter (cachedWord 0 ≤ ·)).map (· - cachedWord 0)).eraseDups.filter fun w =>
    (lineOf w).map (·.1) == some m

/-- The copies of words of a line decoded as they are read (R318, R580): a corrected one is written back, and a line with an
uncorrectable one is invalidated, so that its words are read again from memory. A copy that the decoder takes for
corrected is delivered as memory holds it (DESIGN CHOICE: three struck symbols may make it another word). -/
def decodeLine (s : State) (m line : Nat) (ws : List Nat) : State :=
  let hit := (cachedBad s m).filter fun w => w / 128 == line && ws.contains w
  if hit.any fun w => decodeWord s (cachedWord w) == .bad then dropLine s m line
  else hit.foldl (fun s w => freshCached s w 1) s

/-- The lines of a list of words, each once, read through their channels' caches; the operation's share lies in its
own channel. The words of a line that misses cross the port of their die. -/
def cacheReads (s : State) (n : Nat) (id : W32) (alloc : Bool) (ws : List Nat) : State :=
  ((ws.filterMap lineOf).dedup).foldl (fun s l =>
    let s := decodeLine s l.1 l.2 ws
    let s := if (s.chan l.1).cache.any (·.addr == l.2) then s
      else freshCached (portBytes s true (2048 * l.2) (16 * (ws.filter fun w => lineOf w == some l).length)) (128 * l.2) 128
    cacheRead s l.1 id (alloc && l.1 == n) l.2) s

/-- The lines of a store allocated within the storing operation's share (R224). A store to a line already cached is no use
for the order in which lines are replaced (R225 does not say; DESIGN CHOICE). -/
def cacheStore (s : State) (n : Nat) (id : W32) (ws : List Nat) : State :=
  ((ws.filterMap lineOf).dedup).foldl (fun s l =>
    if l.1 != n || (s.chan n).cache.any (·.addr == l.2) then s
    else (freshCached s (128 * l.2) 128).setChan n (cacheAlloc (s.chan n) id l.2)) s

/-! ### Reading an entry -/

/-- Whether an address lies in tier 0 or tier 1. -/
def inTiers (a : Nat) : Bool := match place a with | .tier0 _ _ => true | .tier1 _ _ => true | _ => false
/-- Whether an address lies in the tier 0 or tier 1 of a channel (R203). -/
def inOwnTiers (n a : Nat) : Bool :=
  match place a with | .tier0 m _ => m == n | .tier1 m _ => m == n | _ => false

/-- A read of the loader: it never halts (R700). -/
def loaderRead (s : State) (a n : Nat) : State × Option (List Byte) :=
  match readRange s a n with
  | (s, .ok bs) => (s, some bs)
  | (s, .error _) => (s, none)

/-- One layout descriptor with its scale descriptor: none where it is misplaced or unreadable. -/
def readLayout (s : State) (sl : OpSlot) : State × Option (Layout × Option Layout) :=
  if sl.desc % 64 != 0 || !inTiers sl.desc then (s, none)
  else match loaderRead s sl.desc 64 with
    | (s, none) => (s, none)
    | (s, some bs) =>
      if !layoutResv bs then (s, none)
      else
        let l := parseLayout bs
        if l.format.isMX && l.scaleLink != 0 then
          let a := (sl.desc : Int) + 64 * l.scaleLink
          if a < 0 || !inTiers a.toNat then (s, none)
          else match loaderRead s a.toNat 64 with
            | (s, none) => (s, none)
            | (s, some cs) => if layoutResv cs then (s, some (l, some (parseLayout cs))) else (s, none)
        else (s, some (l, none))

/-- The layouts of the enabled slots in slot order, and the slots at fault. -/
def readLayouts : State → List OpSlot → Nat → State × List (Option Layout) × List (Option Layout) × List Nat
  | s, [], _ => (s, [], [], [])
  | s, sl :: r, o =>
    if sl.en then
      let (s, x) := readLayout s sl
      let (s, ls, ss, bad) := readLayouts s r (o + 1)
      match x with
      | some (l, sc) => (s, some l :: ls, sc :: ss, bad)
      | none => (s, none :: ls, none :: ss, o :: bad)
    else
      let (s, ls, ss, bad) := readLayouts s r (o + 1)
      (s, none :: ls, none :: ss, bad)

/-- A sparse map's header and block ranges (R290): none where unreadable; reserved words of the header must be
zero. -/
def readMap (s : State) (n first : Nat) (l : Layout) : State × Option SparseMap × Bool :=
  let base := if l.space then storeBase n (physOf s n first) + 512 * (taskRegion s n (physOf s n first) 0).1 + l.base
    else l.base
  if !l.space && !inTiers base then (s, none, true)
  else match loaderRead s base 64 with
    | (s, none) => (s, none, false)
    | (s, some h) =>
      let ok := bits (le32 h 0x18) 31 16 == 0 && (List.range 9).all fun k => le32 h (0x1C + 4 * k) == 0
      let ro := le32 h 0x10
      let nr := bits (le32 h 0x18) 15 0
      if !ok then (s, none, false)
      else if ro = 0 || decide (4 * l.extent 0 < ro + 4 * nr) then (s, some (parseMap base h (List.replicate (4 * nr) 0)), true)
      else match loaderRead s (base + ro) (4 * nr) with
        | (s, none) => (s, none, false)
        | (s, some rs) => (s, some (parseMap base h rs), true)

/-- A command of a kind 0x4 list (R697); none for a reserved op or a nonzero reserved bit. -/
def parseFill (bs : List Byte) : Option FillCmd :=
  let a := le64 bs 0
  let b := le64 bs 8
  if bits a 59 32 != 0 || !(bits a 63 60 == 1 || bits a 63 60 == 2) then none
  else some { copy := bits a 63 60 == 2, dst := bits a 31 0, len := bits b 63 32, src := bits b 31 0,
              pattern := BitVec.ofNat 128 (leNat ((bs.drop 16).take 16)) }

/-- The command list of kind 0x4, read at load. -/
def readFills (s : State) (op : Op) : State × Option (List FillCmd) :=
  match op.layout 0 with
  | some l =>
    let n := bits (op.kword 0) 63 56
    if l.space || !inTiers l.base || n = 0 || decide (64 < n) then (s, some [])
    else match loaderRead s l.base (32 * n) with
      | (s, none) => (s, none)
      | (s, some bs) => (s, ((List.range n).map fun i => parseFill (bs.drop (32 * i))).mapM id)
  | none => (s, some [])

/-- The descriptors that an entry of the work queue names, read at entry i after the head (R252, R558, R700), and the words
that they lie in. -/
def fetchEntry (s : State) (n i : Nat) : State × Entry × List Nat :=
  let at_ := (fld s (Reg.chWqHead n) 11 0 + i) % 4096
  match loaderRead s (fld s (Reg.chWqBase n) 47 0 + 8 * at_) 8 with
  | (s, none) => (s, .bad 0, [])
  | (s, some e) =>
    let w := le64 e 0
    let a := bits w 47 0
    if !inOwnTiers n a then (s, .bad 0, [])
    else match loaderRead s a 64 with
      | (s, none) => (s, .bad 0, [])
      | (s, some hd) =>
        let id := BitVec.ofNat 32 (bits (le64 hd 0) 63 32)
        if bits w 62 48 != 0 || a % 64 != 0 then (s, .bad id, wordsOf a 64)
        else match loaderRead s a 512 with
          | (s, none) => (s, .bad id, wordsOf a 64)
          | (s, some bs) =>
            let op := parseOp bs
            let (s, ls, ss, bad) := readLayouts s op.slots 0
            let op := { op with layouts := ls, scales := ss, entry := w }
            -- an operation with a reduction length of zero is run as one part (R124)
            let op := if op.kind = 0 && redLen op = 0 then { op with parts := 1 } else op
            let named := (usedSlots op).flatMap fun o => match op.layout o with
              | none => []
              | some l => wordsOf (op.slot o).desc 64 ++
                  (if (op.scale o).isSome then wordsOf (((op.slot o).desc : Int) + 64 * l.scaleLink).toNat 64 else [])
            (s, .op (bit w 63) bs bad op, wordsOf a 512 ++ named)

/-- Entries fetched from the head on, with the words they lie in. -/
def fetchEntries (n : Nat) : Nat → Nat → State → State × List Entry × List Nat
  | 0, _, s => (s, [], [])
  | k + 1, i, s =>
    let r := fetchEntry s n i
    let q := fetchEntries n k (i + 1) r.1
    (q.1, r.2.1 :: q.2.1, r.2.2 ++ q.2.2)

/-- A burst: where no entry fetched ahead is left, up to 16 entries of the work queue, their descriptors read as one
request to the shared cache (R252). -/
def fetchBurst (s : State) (n : Nat) : State :=
  let wait := (fld s (Reg.chWqTail n) 11 0 + 4096 - fld s (Reg.chWqHead n) 11 0) % 4096
  if !(s.chan n).burst.isEmpty || wait = 0 then s
  else
    let r := fetchEntries n (min 16 wait) 0 s
    let s := cacheReads r.1 n 0 false r.2.2
    s.setChan n { s.chan n with burst := r.2.1 }

/-- What the loader reads for an operation besides its descriptors: sparse maps, a command list, rotation entries (R157,
R263, R290). -/
def readTables (s : State) (n : Nat) (bad : List Nat) (op : Op) : State × List Nat × Op × List FillCmd :=
  let mapOf := fun (s : State) (o : Nat) => match op.layout o with
    | some l => readMap s n op.first l
    | none => (s, none, true)
  let six := (op.kind == 0 || op.kind == 11 || (op.kind == 12 && bit (op.kword 0) 63)) && (op.slot 6).en
  let (s, m1, ok1) := if six then mapOf s 6 else (s, none, true)
  let (s, m2, ok2) := if op.kind = 11 then mapOf s 7 else (s, none, true)
  let (s, fc) := if op.kind = 4 then readFills s op else (s, some [])
  let bad := bad ++ (if ok1 then [] else [6]) ++ (if ok2 then [] else [7]) ++ (match fc with | none => [0] | some _ => [])
  let rot := if op.kind ≤ 3 then (readSlots op).filterMap fun o => rotEntry s n op o else []
  (s, bad, { op with map := m1, map2 := m2, rot := rot }, fc.getD [])

/-! ### Grids and rings -/

/-- The task number of a kind: 0 array, 1 vector, 2 fill and copy. -/
def kindTask (op : Op) : Nat := if op.kind = 3 then 1 else if op.kind = 4 then 2 else 0

/-- The cores of an operation with the regions in force (R150, R217); for a Letrix kind the combining core. -/
def gridOf (s : State) (n : Nat) (op : Op) : List GridCore :=
  let mk := fun (log i j p : Nat) =>
    let phys := physOf s n log
    let r := taskRegion s n phys (kindTask op)
    (⟨log, phys, i, j, p, r.1, r.2⟩ : GridCore)
  if letrixKind op.kind then [mk op.first 0 0 0]
  else if 768 < op.gridM * op.gridN * op.parts then []
  else (List.range op.gridM).flatMap fun i => (List.range op.gridN).flatMap fun j =>
    (List.range op.parts).map fun p => mk (op.first + (i * op.gridN + j) * op.parts + p) i j p

/-- Streamed slots. -/
def streamSlots (op : Op) : List Nat :=
  if letrixKind op.kind || op.kind = 4 then [] else (readSlots op).filter fun o => streamed op o

/-- The base rows of an operation's rings, slot by slot downward from a top row. -/
def ringBases (op : Op) : List Nat → Nat → List (Nat × Nat)
  | [], _ => []
  | o :: r, top => (o, top - ringRows op o) :: ringBases op r (top - ringRows op o)

/-! ### Holding -/

/-- The physical cores that a logical core's loaded operations stand on (R218), then the one that the map names. -/
def coresOf (s : State) (n log : Nat) : List Nat :=
  ((s.chan n).ops.filterMap fun l => (gridCore l log).map (·.phys)) ++ [physOf s n log]

/-- Whether a task's operation has put it on a physical core for a logical one. -/
def standsOn (s : State) (n log i : Nat) (id : Option W32) : Bool :=
  id.any fun x => (findOp s n x).any fun l => l.grid.any fun g => g.log == log && g.phys == i

/-- The physical core of a logical core's array task, vector task, fill and copy task (R218). -/
def arrayCore (s : State) (n log : Nat) : Nat :=
  ((coresOf s n log).find? fun i => standsOn s n log i ((s.core n i).array.map (·.opId))).getD (physOf s n log)
def vecCore (s : State) (n log : Nat) : Nat :=
  ((coresOf s n log).find? fun i => standsOn s n log i ((s.core n i).vec.map (·.opId))).getD (physOf s n log)
def fillCore (s : State) (n log : Nat) : Nat :=
  ((coresOf s n log).find? fun i => standsOn s n log i ((s.core n i).fill.map (·.opId))).getD (physOf s n log)

/-- The loaded operation replaced. -/
def putOp (s : State) (n : Nat) (id : W32) (l : LoadedOp) : State :=
  s.setChan n { s.chan n with ops := (s.chan n).ops.map fun x => if x.op.opId = id then l else x }

/-- The sets of cores that share a stream of slot o (R221): each core by itself, or the cores of a grid row or
column that run the same part. -/
def streamSets (op : Op) (o : Nat) (grid : List GridCore) : List (List GridCore) :=
  match (op.slot o).throw with
  | 1 => (List.range op.gridM).flatMap fun i => (List.range op.parts).map fun p => grid.filter fun g => g.i == i && g.p == p
  | 2 => (List.range op.gridN).flatMap fun j => (List.range op.parts).map fun p => grid.filter fun g => g.j == j && g.p == p
  | _ => grid.map fun g => [g]

/-- The cores of a grid that have nothing to do: a result without elements, or an empty block (R185, R216). -/
def idleCore (op : Op) (g : GridCore) : Bool :=
  gridKind op.kind && op.kind != 4 && ((op.layout 3).any Layout.empty || (workTiles op g).isEmpty)

/-- The cores of a grid that work, and hold the operation's tasks, streams and rings. -/
def busyCores (op : Op) (grid : List GridCore) : List GridCore := grid.filter fun g => !idleCore op g

/-- The stream contexts an operation needs (R235, R353). -/
def contextsNeeded (op : Op) (grid : List GridCore) : Nat :=
  if letrixKind op.kind then (letrixStreams op).foldl (fun a x => a + (if x.2 then 3 else 1)) 0
  else (streamSlots op).foldl (fun a o => a + ((streamSets op o (busyCores op grid)).filter fun x => !x.isEmpty).length) 0

/-- Free contexts in number order. -/
def freeContexts (s : State) (n : Nat) : List Nat := (List.range 4096).filter fun i => !(s.stream n i).used

/-- The local numbers that the streams of a Letrix die take (R353). -/
def dieContexts (s : State) (n d : Nat) : List Nat :=
  ((List.range 4096).filter fun k => (s.stream n k).used && (s.stream n k).letrix && (s.stream n k).die == d).map fun k =>
    (s.stream n k).loc

/-- Whether a Letrix die's 64 stream contexts do not hold the streams that an operation would start on it (R349). -/
def diesFull (s : State) (n : Nat) (op : Op) : Bool :=
  letrixKind op.kind && (List.range 3).any fun d =>
    decide (64 < (dieContexts s n d).length + ((letrixStreams op).filter (·.2)).length)

/-- Why an operation is held at the loader: for contexts or rings (true), or otherwise (false) (R235, R243, R270,
R300, R558). -/
def holdReason (s : State) (n : Nat) (wait : Bool) (op : Op) (grid : List GridCore) : Option Bool :=
  let rings := (streamSlots op).length + op.rot.length
  if wait && !(s.chan n).ops.isEmpty then some false
  else if decide ((freeContexts s n).length < contextsNeeded op grid) || diesFull s n op
      || (!letrixKind op.kind && (busyCores op grid).any fun g => decide (8 < (s.core n g.phys).ring.length + rings)) then some true
  else if op.kind = 2 && (findOp s n (BitVec.ofNat 32 (bits (op.kword 0) 63 32))).isNone then some true
  else if letrixKind op.kind then none
  else if (busyCores op grid).any fun g =>
      let c := s.core n g.phys
      match kindTask op with
      | 1 => c.vec.isSome
      | 2 => c.fill.isSome
      | _ => if arrayFree s n g then c.deck.isSome else match c.array with
        | none => false
        | some a => c.deck.isSome || (match (findOp s n a.opId).bind fun l => gridCore l g.log with
            | some h => h.base != g.base || h.len != g.len
            | none => true) || (ringTop op g (runningRows s n g)).isNone
    then some false
  else none

/-! ### Loading -/

/-- The fetches of a starting stream pended: tiles 0 to L - 1, tile j due at the start plus j periods (R242,
R247). -/
def startPend (s : State) (n : Nat) (x : Stream) : Stream :=
  { x with pend := (List.range (min x.lead x.length)).map fun j => ⟨j, cycleNow s n + j * x.period⟩,
           next := min x.lead x.length }

/-- A stream created in the lowest free context. -/
def makeStream (s : State) (n : Nat) (x : Stream) : State × Nat :=
  match freeContexts s n with
  | [] => (s, 4095)
  | k :: _ => (s.setStream n k x, k)

/-- The streams of one slot of a core-grid operation, with their rings (R221, R233, R238). -/
def makeStreams (s : State) (n : Nat) (op : Op) (grid : List GridCore) (tops : List (Nat × Nat)) (deckOn : List Nat)
    (o : Nat) : State :=
  (streamSets op o grid).foldl (fun s set =>
    match set with
    | [] => s
    | g :: _ =>
      let rings := set.map fun h =>
        let top := (mfind tops h.log).getD 0
        (h.log, ((ringBases op (streamSlots op) top).find? (·.1 == o)).map (·.2) |>.getD 0)
      let deck := set.any fun h => deckOn.contains h.log
      let x : Stream := { Stream.free with
        used := true, opId := op.opId, slot := o, cores := set.map (·.log), lead := (op.slot o).lead,
        period := streamPeriod op g.p o, length := streamLength op (deviceByte s) g o, deck := deck,
        asked := set.map fun h => (h.log, 0), rings := rings
        ends := set.map fun h => (h.log, streamLength op (deviceByte s) h o) }
      let x := if deck then startPend s n x else x
      let (s, k) := makeStream s n x
      set.foldl (fun s h =>
        let c := s.core n h.phys
        s.setCore n h.phys { c with ring := c.ring ++ [⟨k, (mfind rings h.log).getD 0, op.opId⟩] }) s) s

/-- A stream of the Letrix units started (R242, R351): its unit asks for its first tile at once, which pends tile L. -/
def startLetrix (s : State) (n : Nat) (op : Op) (x : Stream) : Stream :=
  let y := startPend s n x
  if y.length = 0 then y
  else
    let more : List Pend := if y.lead < y.length then [⟨y.lead, cycleNow s n + y.lead * y.period⟩] else []
    { y with asked := [(op.first, 1)], wait := some ⟨0, cycleNow s n, inService s n⟩, pend := y.pend ++ more,
             next := min (y.lead + 1) y.length }

/-- A Letrix operation's streams, started at once: one of the channel, or one for each die (R353, R355). -/
def makeLetrixStreams (s : State) (n : Nat) (op : Op) : State :=
  (letrixStreams op).foldl (fun s x =>
    let o := x.1
    let base : Stream := { Stream.free with
      used := true, opId := op.opId, slot := o, letrix := true, lead := (op.slot (o % 16)).lead, cores := [op.first],
      period := max 1 (min 0xFFFFFF (letrixPeriod op o)) }
    if x.2 then
      (List.range 3).foldl (fun s d =>
        let loc := ((List.range 64).find? fun j => !(dieContexts s n d).contains j).getD 0
        let y := { base with die := d, loc := loc, length := letrixLength s op o true d }
        (makeStream s n (startLetrix s n op y)).1) s
    else
      let y := { base with letrix := false, length := letrixLength s op o false 0 }
      (makeStream s n (startLetrix s n op y)).1) s

/-- The work a Letrix operation starts with. -/
def LxWork.init (exported : W32) (entry : Nat := 0) : LxWork :=
  { next := [0, 0, 0], sums := [], states := [], held := [], done := 0, arrived := 0, entries := [], walking := 0, page := 0,
    tokens := 0, pages := [], rows := [], exported := exported, blocks := [], window := [[], [], []],
    groups := [[], [], []], offset := 0, stopAt := none, halted := none, queries := [], merged := 0,
    entry := entry }

/-- The remote operands of an operation on a core, with their windows' counters now (R167, R211). -/
def remoteOf (s : State) (n : Nat) (op : Op) (g : GridCore) : List (Nat × W32 × Nat) :=
  (readSlots op).filterMap fun o =>
    if !remoteUse op o then none
    else match op.layout o with
      | none => none
      | some l =>
        let off := g.base * 512 + l.base
        let k := (windowOf s n g.phys off 1).getD 0
        some (o, BitVec.ofNat 32 (fld s (Reg.coreArrival n g.phys (fld s (Reg.coreRecvWindow n g.phys k) 28 26)) 31 0), 0)

/-- A new array task (R80). -/
def ArrayTask.init (op : W32) (g : GridCore) (rem : List (Nat × W32 × Nat)) : ArrayTask :=
  ⟨op, g.i, g.j, g.p, 0, 0, 0, none, none, [], rem, [], [], [], 0, none, none, none, none⟩
/-- A new vector task. -/
def VecTask.init (op : W32) (g : GridCore) (rem : List (Nat × W32 × Nat)) : VecTask :=
  ⟨op, g.i, g.j, 0, 0, rem, List.replicate 8 (List.replicate 32 0), none, none⟩

/-- Window 7 opened over the part area of a part-0 core (R698). -/
def openPart (s : State) (n : Nat) (op : Op) (g : GridCore) (top : Nat) : State :=
  let rows := partRows op
  wr s (Reg.coreRecvWindow n g.phys 7)
    (BitVec.ofNat 64 (2 ^ 31 + 7 * 2 ^ 26 + rows * 2 ^ 16 + (top - allRingRows op - rows)))

/-- The export window's arrival counter at load (R413). -/
def exportCounter (s : State) (op : Op) : W32 :=
  match place (bits (op.kword 3) 47 0) with
  | .store n i off => match windowOf s n i off 1 with
    | some k => BitVec.ofNat 32 (fld s (Reg.coreArrival n i (fld s (Reg.coreRecvWindow n i k) 28 26)) 31 0)
    | none => 0
  | _ => 0

/-- M and N of a kind 0x8 operation. -/
def mvRows (op : Op) : Nat := match op.layout 0 with | some l => l.extent 1 | none => 0
def mvCols (op : Op) : Nat := match op.layout 1 with | some l => l.extent 1 | none => 0

/-- Bytes of a combine or merge entry at the top of the combining core's array task region, for the most rows that a work item of
the operation has (R357, R360, R409, R410). -/
def entryBytes (s : State) (n : Nat) (op : Op) : Nat :=
  match op.kind with
  | 8 => 3 * mvRows op * 2048
  | 9 => 3 * min 16 (bits (op.kword 1) 60 56 * (lengthRows s n op).foldl max 0) * (16 * cdiv (8 + 4 * bits (op.kword 1) 55 47) 16)
  | _ => 0

/-- A layout whose offsets in a region have become device addresses. -/
def Layout.placedAt (base : Nat) (l : Layout) : Layout := if l.space then { l with space := false, base := base + l.base } else l

/-- A Letrix operation with its space-1 operands at the device addresses of the combining core's region (R23, R151, R355): its
units lie outside every core and reach them there. -/
def devicePlaced (n : Nat) (op : Op) (grid : List GridCore) : Op :=
  match letrixKind op.kind, grid with
  | true, g :: _ =>
    let b := storeBase n g.phys + g.base * 512
    { op with layouts := op.layouts.map fun l => l.map (Layout.placedAt b)
              scales := op.scales.map fun l => l.map (Layout.placedAt b) }
  | _, _ => op

/-- An operation loaded: its cores assigned, its streams and rings made, its part areas opened. -/
def loadOp (s : State) (n : Nat) (op : Op) (grid : List GridCore) (cmds : List FillCmd) : State :=
  let idle := grid.filter (idleCore op)
  let busy := busyCores op grid
  let deckOn := if kindTask op = 0 && !letrixKind op.kind then
      (busy.filter fun g => (s.core n g.phys).array.isSome).map (·.log) else []
  let tops := busy.map fun g => (g.log, (ringTop op g (if kindTask op = 0 then runningRows s n g else [])).getD (g.base + g.len))
  let c7 := (busy.filter (·.p == 0)).map fun g => (g.log, BitVec.ofNat 32 (fld s (Reg.coreArrival n g.phys 7) 31 0))
  let lo : LoadedOp :=
    { op := op, grid := grid, deck := deckOn,
      started := if letrixKind op.kind then [op.first] else [],
      finished := idle.map (·.log), missed := false,
      counter7 := c7, cmds := cmds, lx := LxWork.init (exportCounter s op) (entryBytes s n op), stopped := false, before := [] }
  let s := s.setChan n { s.chan n with ops := (s.chan n).ops ++ [lo] }
  let s :=
    if letrixKind op.kind then makeLetrixStreams s n op
    else (streamSlots op).foldl (fun s o => makeStreams s n op busy tops deckOn o) s
  -- the combining core takes the operation's seed at the load (R73)
  let s := if letrixKind op.kind then grid.foldl (fun s g =>
      s.setCore n g.phys { s.core n g.phys with seed := op.seed, draws := 0 }) s
    else busy.foldl (fun s g =>
    let c := { s.core n g.phys with gated := false }
    let c := match kindTask op with
      | 1 => { c with vec := some (VecTask.init op.opId g (remoteOf s n op g)) }
      | 2 => { c with fill := some ⟨op.opId, 0, none⟩ }
      | _ => if deckOn.contains g.log then { c with deck := some op.opId }
             else { c with array := some (ArrayTask.init op.opId g (remoteOf s n op g)) }
    let c := { c with ring := c.ring ++ op.rot.map (fun e => ⟨4096 + e.slot, e.recv, op.opId⟩)
                      rot := c.rot ++ op.rot.map (fun e => ⟨op.opId, e.slot, 0, none, 0, none⟩) }
    let s := s.setCore n g.phys c
    if g.p = 0 && decide (0 < partRows op) then openPart s n op g ((mfind tops g.log).getD 0) else s) s
  s

/-- The head of the work queue moved on. -/
def takeEntry (s : State) (n : Nat) : State :=
  let s := setFld s (Reg.chWqHead n) 11 0 ((fld s (Reg.chWqHead n) 11 0 + 1) % 4096)
  s.setChan n { s.chan n with heldFor := none, burst := (s.chan n).burst.drop 1 }

/-- A rejection (R230, R231): nothing starts; it is counted, recorded and posted. -/
def reject (s : State) (n : Nat) (id : W32) (cls : Nat) (a : At) : State :=
  let s := count32 s (Reg.chLoadRejectCount n) 1
  let s := recordOnce s (Reg.chLoadFault n) (cls * 2 ^ 54 + (a.1 % 8) * 2 ^ 51 + (a.2 % 8) * 2 ^ 48 + id.toNat)
  let s := if cls = 3 then setFlag s (Reg.chFmtStatus n) 4 true else s
  takeEntry (post s n 0x04 id [(4, cls)]) n

/-- Whether a load command is the one for an operation: its kind, and for kinds 0xA and 0xC the work selected. -/
def selects (kind : Nat) (sel : Option Nat) (op : Op) : Bool :=
  let known := gridKind op.kind || letrixKind op.kind
  let own := match op.kind with
    | 10 => some (bits (op.kword 0) 63 62)
    | 12 => some (b2n (bit (op.kword 0) 63))
    | _ => none
  !known || (op.kind = 10 && own == some 3) || (op.kind == kind && (sel.isNone || own == sel))

/-- The loader takes the next entry of a channel (R229, R230, R235, R252, R558, R700) as the command of a kind:
an entry of another kind leaves the state as it is, and so does one in a module that is not yet awake (R604). `held` is the number of cycles the entry has been held. -/
def loadNext (n : Nat) (sel : Op → Bool) (held : Nat) (s : State) : State :=
  let b := fetchBurst s n
  if isDormant s then s else match (b.chan n).burst with
  | [] => s
  | .bad id :: _ => reject b n id 1 (0, 0)
  | .op wait bs bad op :: _ =>
    if !sel op then s
    else
      let (s', bad, op, cmds) := readTables b n bad op
      let grid := gridOf s' n op
      match loadFault s' n bs bad grid cmds op with
      | some (cls, a) => reject s' n op.opId cls a
      | none =>
        match holdReason s' n wait op grid with
        | some r => b.setChan n { b.chan n with heldFor := some (r || (b.chan n).heldFor == some true) }
        | none =>
          let s := if (s.chan n).heldFor = some true then count64 s' (Reg.chStreamCtxWaitCycles n) held else s'
          takeEntry (loadOp s n (devicePlaced n op grid) grid cmds) n

def opProduct (n : Nat) : State → State := loadNext n (selects 0 none) 0
def opPrefillAttention (n : Nat) : State → State := loadNext n (selects 1 none) 0
def opSparseBySparse (n : Nat) : State → State := loadNext n (selects 2 none) 0
def opVectorOperation (n : Nat) : State → State := loadNext n (selects 3 none) 0
def opFillAndCopy (n : Nat) : State → State := loadNext n (selects 4 none) 0
def opMatrixVector (n : Nat) : State → State := loadNext n (selects 8 none) 0
def opDecodeAttention (n : Nat) : State → State := loadNext n (selects 9 none) 0
def opGather (n : Nat) : State → State := loadNext n (selects 10 (some 0)) 0
def opScatter (n : Nat) : State → State := loadNext n (selects 10 (some 1)) 0
def opScatterAdd (n : Nat) : State → State := loadNext n (selects 10 (some 2)) 0
def opIndexIntersection (n : Nat) : State → State := loadNext n (selects 11 none) 0
def opEncode (n : Nat) : State → State := loadNext n (selects 12 (some 0)) 0
def opDecode (n : Nat) : State → State := loadNext n (selects 12 (some 1)) 0

/-- OPERATION_HELD_LOAD (R235, R243, R270): the held entry loads, the cycles it was held for contexts or rings
counted. -/
def opOperationHeldLoad (n held : Nat) (s : State) : State :=
  if (s.chan n).heldFor.isNone then s else loadNext n (fun _ => true) held s

/-- WORK_QUEUE_TAIL_WRITE (R559, R664). A write of CH_WQ_TAIL; one that would make the queue appear empty while
entries are pending is ignored and sets overrun. Entries that wait start a wake (R604). -/
def opWorkQueueTailWrite (n : Nat) (v : W64) (s : State) : State :=
  if bits v.toNat 63 12 ≠ 0 then s
  else
    let head := fld s (Reg.chWqHead n) 11 0
    let tail := fld s (Reg.chWqTail n) 11 0
    if bits v.toNat 11 0 = head && head ≠ tail then setFlag s (Reg.chWqBase n) 63 true
    else
      let s := setFld s (Reg.chWqTail n) 11 0 (bits v.toNat 11 0)
      if bits v.toNat 11 0 = head then s else startWake s

/-! ### Start, completion, deadline -/

/-- The first cycle of an operation noted for its deadline: its streams start on a core (R242). -/
def startStreams (s : State) (n : Nat) (id : W32) (log : Nat) : State :=
  (List.range 4096).foldl (fun s k =>
    let x := s.stream n k
    if x.used && x.opId == id && !x.deck && x.cores.contains log && x.next == 0 && x.pend.isEmpty then
      s.setStream n k (startPend s n x)
    else s) s

/-- Whether an array task of a physical core has started its last pass: those still to be written drain behind the next one
(R272). For attention it is the last value pass of the last tile. -/
def passesFed (s : State) (n phys : Nat) (a : ArrayTask) : Bool :=
  match (findOp s n a.opId).bind fun l => (l.grid.find? (·.phys == phys)).map fun h => (l, h) with
  | none => true
  | some (l, h) =>
    let tiles := (workTiles l.op h).length
    l.finished.contains h.log || (a.cur.isNone && decide (tiles ≤ a.seq)) ||
      (l.op.kind == 1 && a.seq + 1 == tiles && a.attn.any fun x => x.phase == 2 && decide (bits (l.op.kword 1) 55 47 / 32 ≤ a.pass))

/-- Whether the next operation may take the array task's place. -/
def passesDone (s : State) (n : Nat) (g : GridCore) (a : ArrayTask) : Bool :=
  passesFed s n g.phys a && a.halted.isNone

/-- The earlier array task of a core, where it has results to write when the next one takes its place (R272). -/
def leftBehind (s : State) (n : Nat) (g : GridCore) : Option (ArrayTask × W32 × Nat) :=
  let c := s.core n g.phys
  c.array.bind fun a => match (findOp s n a.opId).bind fun l => (l.grid.find? (·.phys == g.phys)).map fun h => (l, h) with
    | none => none
    | some (l, h) => if l.finished.contains h.log then none else some (a, c.seed, c.draws)

/-- The streams of an operation on a core are no longer those of one on deck (R243, R271). -/
def offDeck (s : State) (n : Nat) (id : W32) (log : Nat) : State :=
  (List.range 4096).foldl (fun s k =>
    let x := s.stream n k
    if x.used && x.deck && x.opId == id && x.cores.contains log then s.setStream n k { x with deck := false } else s) s

/-- OPERATION_START (R87, R219, R242, R272): a loaded operation starts on a core. An operation on deck becomes
the core's array task once the earlier one has started its last pass; what that one has still to write follows behind. -/
def opOperationStart (n log : Nat) (s : State) : State :=
  let ready := (s.chan n).ops.find? fun l =>
    (match gridCore l log with
      | none => false
      | some g =>
        let c := s.core n g.phys
        !l.started.contains log && !l.finished.contains log && !l.stopped &&
        (match kindTask l.op with
          | 1 => (c.vec.map (·.opId)) == some l.op.opId
          | 2 => (c.fill.map (·.opId)) == some l.op.opId
          | _ => (c.array.map (·.opId)) == some l.op.opId
              || (c.deck == some l.op.opId && c.behind.isNone && c.array.all (passesDone s n g))))
  match ready with
  | none => s
  | some l =>
    match gridCore l log with
    | none => s
    | some g =>
      let c := s.core n g.phys
      let c := if c.deck = some l.op.opId then
          { c with deck := none, array := some (ArrayTask.init l.op.opId g (remoteOf s n l.op g)), behind := leftBehind s n g }
        else c
      let s := s.setCore n g.phys { c with seed := l.op.seed, draws := 0 }
      let l' := { l with started := l.started ++ [log], deck := l.deck.filter (· != log) }
      startStreams (offDeck (putOp s n l.op.opId l') n l.op.opId log) n l.op.opId log

/-- What a core held for an operation released: tasks, rings, rotated operands (R219, R258). -/
def releaseCore (s : State) (n : Nat) (id : W32) (phys : Nat) : State :=
  let c := s.core n phys
  let other := fun (x : Option W32) => x != some id
  s.setCore n phys { c with
    ring := c.ring.filter (·.opId != id)
    array := if other (c.array.map (·.opId)) then c.array else none
    behind := if other (c.behind.map (·.1.opId)) then c.behind else none
    vec := if other (c.vec.map (·.opId)) then c.vec else none
    fill := if other (c.fill.map (·.opId)) then c.fill else none
    deck := if other c.deck then c.deck else none
    rot := c.rot.filter (·.opId != id) }

/-- The streams of an operation freed. -/
def freeStreams (s : State) (n : Nat) (id : W32) : State :=
  { s with streams := s.streams.filter fun e => !(e.1 / 4096 == n && e.2.opId == id) }

/-- The cores a core-grid operation runs on, released when it ends: gather entries flushed (R147), window 7 closed where the
core has not closed it on finishing (R698). -/
def endOnCore (s : State) (n : Nat) (l : LoadedOp) (g : GridCore) : State :=
  let s := flushTask s n g.phys (kindTask l.op)
  let s := if g.p = 0 && decide (0 < partRows l.op) && !l.finished.contains g.log then
      setFlag s (Reg.coreRecvWindow n g.phys 7) 31 false else s
  let mine := kindTask l.op != 0 || ((s.core n g.phys).array.map (·.opId)) == some l.op.opId
  let s := if mine then scoreLeave s n g.phys (kindTask l.op) else s
  releaseCore s n l.op.opId g.phys

/-- An operation is complete when every core's results, indices and combines are written, or the combining core
has written its result (R219). -/
def opDone (l : LoadedOp) : Bool :=
  if letrixKind l.op.kind then l.finished.contains l.op.first
  else l.grid.all fun g => l.finished.contains g.log

/-- The operation of a core's task of that number. -/
def taskOf (c : Core) (t : Nat) : Option W32 :=
  match t with
  | 0 => c.array.map (·.opId)
  | 1 => c.vec.map (·.opId)
  | 2 => c.fill.map (·.opId)
  | _ => none

/-- The completion of an operation (R147, R148, R219, R565): its gather entries are flushed, it leaves its cores and the
loader, and the event is posted. A flush that meets an unreadable word halts its task: the operation then waits for the
recovery of R580. -/
def completeOp (n : Nat) (id : W32) (s : State) : State :=
  match findOp s n id with
  | none => s
  | some l =>
    let t := if letrixKind l.op.kind then 3 else kindTask l.op
    let lost := l.grid.any fun g => flushLoses s n g.phys t
    let halted := l.grid.any fun g => taskOf (s.core n g.phys) t == some id && taskHalted (s.core n g.phys) t
    if !opDone l || l.stopped || halted then s
    else
      let s := l.grid.foldl (fun s g => flushTask s n g.phys t) s
      if lost then putOp s n id { l with finished := [] }
      else
      let s := if t = 3 then s else l.grid.foldl (fun s g => endOnCore s n l g) s
      let s := freeStreams s n id
      let s := s.setChan n { s.chan n with ops := (s.chan n).ops.filter (·.op.opId != id) }
      post s n 0x01 id []

/-- OPERATION_DEADLINE_MISS (R220): done_deadline cycles after its first core started, an operation that has not
completed is counted once and posted, in service mode with recovery clear. It runs on. -/
def opOperationDeadlineMiss (n : Nat) (id : W32) (s : State) : State :=
  match findOp s n id with
  | none => s
  | some l =>
    if l.op.deadline = 0 || l.missed || l.started.isEmpty || !inService s n then s
    else
      let s := putOp s n id { l with missed := true }
      post (count32 s (Reg.chOpDeadlineMissCount n) 1) n 0x02 id []

end Sys2Proof.Machine
end

