-- ==== Sys2Proof/Machine/Streams.lean ====
section
/-! DEFINITION. The stream engine: requests, issue, completion, the shared cache, halts and resumes, cancellation,
the short pass and the rotation (R33 to R38, R221 to R227, R233 to R275, R310). -/

namespace Sys2Proof.Machine

/-! ### Lateness and halts -/

/-- The stream on a core for a slot of its array task. -/
def streamOn (s : State) (n log : Nat) (id : W32) (o : Nat) : Option Nat :=
  (List.range 4096).find? fun k =>
    let x := s.stream n k
    x.used && x.opId == id && x.slot == o && x.cores.contains log && !x.letrix

/-- How many tiles a core has requested of a stream. -/
def askedOf (x : Stream) (log : Nat) : Nat := (mfind x.asked log).getD 0

/-- Lateness that belongs to no stream tile (R36), by the mode that was in force when its wait began (R37). The tile named is
the next that the core will request of the stream: R36's "next stream tile that this stream delivers to the core" may also be
read as the next to be filled (DESIGN CHOICE). -/
def lateNoStreamAs (s : State) (n : Nat) (svc : Bool) (log : Nat) (id : W32) (cycles : Nat) (cause : StallCause) : State :=
  match (List.range 8).findSome? fun o => streamOn s n log id o with
  | some k => lateAs s n svc id k (askedOf (s.stream n k) log) cycles cause
  | none => lateAs s n svc id 0 0xFFFFFFFF cycles cause

/-- The same in the present mode. -/
def lateNoStream (s : State) (n log : Nat) (id : W32) (cycles : Nat) (cause : StallCause) : State :=
  lateNoStreamAs s n (inService s n) log id cycles cause

/-- A halt recorded, counted and posted (R255). -/
def noteHalt (s : State) (n : Nat) (id : W32) (k tile cause : Nat) : State :=
  let s := recordOnce s (Reg.chStreamHalt n) (cause * 2 ^ 59 + k * 2 ^ 47 + tile % 2 ^ 32)
  let s := count32 s (Reg.chStreamHaltCount n) 1
  post s n 0x05 id [(4, cause), (12, k), (32, tile)]

/-- A stream halted at a tile (R38, R253, R255): the fetch is marked, the first cause kept, recorded, counted, posted. A halt
at a tile that is full already, or that no consumer requests, is timed until the stream resumes. -/
def haltStream (s : State) (n k tile cause : Nat) (frame : Option Nat) : State :=
  let x := s.stream n k
  let y := { x with marked := if x.marked.contains tile then x.marked else x.marked ++ [tile],
                    inflight := x.inflight.filter (· != tile),
                    exempt := if x.halt.isNone then tile :: x.exempt.filter (· != tile)
                      else match x.exempt with | t :: r => min t tile :: r | [] => [tile] }
  if x.halt.isSome then s.setStream n k y
  else
    let since := if tile < x.full || x.length ≤ tile then some (cycleNow s n) else none
    noteHalt (s.setStream n k { y with halt := some cause, frame := frame, stuck := since }) n x.opId k tile cause

/-- A stream halted by a stopped access: a page fault is recorded as well, a core store fault posted (R144, R162, R181,
R338, R340). -/
def haltStop (s : State) (n k tile : Nat) (origin issuer : Nat) (e : Stop) : State :=
  match e with
  | .page m off w =>
    haltStream (pageFault s n (s.stream n k).opId origin issuer m off w) n k tile 1 (some (m * 2 ^ 23 + off / 32768))
  | e => haltStream (stopEvent s (s.stream n k).opId e) n k tile e.cause none

/-- Other stream tiles of a compressed tile that faults: they are fetched again with it, for a resumed compressed tile is
fetched whole (R311). -/
def markParts (s : State) (n k : Nat) (tiles : List Nat) : State :=
  let x := s.stream n k
  let here := tiles.filter fun t => (x.filled.contains t || x.inflight.contains t) && !x.marked.contains t
  s.setStream n k { x with marked := x.marked ++ here,
                           filled := x.filled.filter fun t => !here.contains t,
                           inflight := x.inflight.filter fun t => !here.contains t }

/-- A structure fault (R310, R313, R314): recorded with its code, slot and position, and the stream halts. -/
def structFault (s : State) (n k tile code slot pos : Nat) : State :=
  let x := s.stream n k
  let s := setFlag s (Reg.chSparseStatus n) 2 true
  let s := if flag s (Reg.chSparseFault n) 63 then s
    else
      let s := wr s (Reg.chSparseFault n)
        (BitVec.ofNat 64 (2 ^ 63 + code * 2 ^ 59 + slot * 2 ^ 56 + x.opId.toNat))
      wr s (Reg.chSparseFaultPos n) (BitVec.ofNat 64 (pos % 2 ^ 32))
  let s := count32 s (Reg.chSparseStructCount n) 1
  haltStream s n k tile 5 none

/-! ### Compressed tiles (R276 to R283, R310) -/

/-- Ones of a byte string. -/
def popBytes (bs : List Byte) : Nat := bs.foldl (fun a b => a + popcount b.toNat) 0

/-- The payload length that R278 asks, for a bitmap tile with `nnz` values the two lengths it may have. -/
def payloadOk (w lines : Nat) (h : TileHdr) : Bool :=
  match h.form with
  | 0 => h.len == 64 * w * lines
  | 1 => h.len == 64 * lines + cdiv (h.nnz * w) 8 || (h.nnz == 0 && h.len == 0)
  | _ => h.len == 32 * (64 + 32 * w)

/-- A bit of a payload's bitmaps set for a k or a line beyond the operand's extents (R310 code 0x6): line l's
element e, for lines of the tile. -/
def bitBeyond (pay : List Byte) (lines stride : Nat) (kext lext : Nat) : Bool :=
  (List.range lines).any fun l => (List.range 512).any fun e =>
    bit ((pay.getD (stride * l + e / 8) 0).toNat) (e % 8) && (decide (kext ≤ e) || decide (lext ≤ l))

/-- The first check of R310 that a compressed tile fails: its code, or none; the format fault of R78 has code 0. A bitmap
tile of a header alone counts as absent under either engine (R282, R292). `placed` says whether a tile that is not stored
in one piece lies where R301 asks. -/
def tileFault (get : Nat → Byte) (l : Layout) (total g s lines : Nat) (w24 anyForm : Bool) (placed : Option Bool) (off : Nat) :
    Option Nat :=
  let f := l.format
  let w := f.width
  let h := parseTile ((List.range 16).map fun i => get (l.base + 16 * off + i))
  if total ≤ 16 * off then some 8
  else if h.form == 3 || decide (1 < h.lines) || decide (1 < h.smode) || h.resv != 0 || h.resv2 != 0
      || bits h.fmt 15 7 != 0 || (h.smode == 0 && h.tscale != 0) || (h.smode == 1 && !f.isMX) then some 2
  else if bits h.fmt 3 0 != f.fmt || bits h.fmt 6 4 != f.owid then some 0
  else if (h.lines == 0) != (lines == 32) || (!anyForm && (h.form == 2) != w24 && !(h.form == 1 && h.nnz == 0 && h.len == 0)) || (h.form == 2 && lines != 32) then some 7
  else if h.group != g || h.kstep != s then some 1
  else if !payloadOk w lines h then some 3
  else if !placed.getD (decide (16 * off + 16 + h.len ≤ total)) then some 8
  else
    let pay := (List.range h.len).map fun i => get (l.base + 16 * off + 16 + i)
    let kext := min 512 (l.extent 0 - 512 * s)
    let lext := min lines (l.extent 1 - lines * g)
    match h.form with
    | 1 =>
      if h.len = 0 then none
      else if popBytes (pay.take (64 * lines)) != h.nnz then some 4
      else if bitBeyond pay lines 64 kext lext then some 6 else none
    | 2 =>
      let masks := (List.range 32).flatMap fun i => (pay.drop (i * (64 + 32 * w))).take 64
      if masks.any (fun b => decide (2 < popcount (bits b.toNat 3 0)) || decide (2 < popcount (bits b.toNat 7 4)))
          || popBytes masks != h.nnz then some 5
      else if bitBeyond pay 32 (64 + 32 * w) kext lext then some 6 else none
    | _ => none

/-- The words a compressed tile's header and payload lie in. -/
def compWords (l : Layout) (off : Nat) (h : TileHdr) (part : Nat) : List Nat :=
  wordsOf (l.base + 16 * off + 2048 * part) (min 2048 (16 + h.len - 2048 * part))

/-! ### Requests and fetches -/

/-- A core's request of tile i of a stream (R33, R34, R239, R247): it is counted; the fetch of tile i + L is pended with its
deadline, whether or not the stream has halted; and a tile whose slot is not full makes the core wait. -/
def askTile (s : State) (n log i : Nat) (x : Stream) : Stream :=
  let now := cycleNow s n
  let j := i + x.lead
  let d := now + x.lead * x.period
  let x := { x with asked := x.asked.map fun p => if p.1 = log then (p.1, i + 1) else p,
                    wait := if x.full ≤ i then x.wait.or (some ⟨i, now, inService s n⟩) else x.wait }
  if x.length ≤ j then x
  else if j < x.next then
    { x with pend := x.pend.map fun p => if p.tile = j && d < p.deadline then { p with deadline := d } else p }
  else { x with pend := x.pend ++ [⟨j, d⟩], next := j + 1 }

/-- Whether the consumer of a stream on a core has moved past a tile, so that it may ask for the next (R240): the array task
has taken it from its slot, the length table's entries in it have arrived, or the vector task works beyond it. -/
def movedPast (l : LoadedOp) (g : GridCore) (c : Core) (o tile : Nat) : Bool :=
  if kindTask l.op = 1 then c.vec.any fun v => decide ((tile + 1) * perTile l.op o ≤ 32 * vecFresh l.op g o v.seq)
  else if l.op.kind = 1 && o = 1 then decide (64 * (tile + 1) ≤ l.lx.arrived)
  else c.array.any fun a => (mfind a.kept (8 * tile + o)).isSome

/-- A stream of a core's array or vector task for a slot, with the operation and the core (R218). -/
def askedStream (s : State) (n log o : Nat) : Option (Nat × LoadedOp × GridCore) :=
  let ids := [(s.core n (arrayCore s n log)).array.map (·.opId), (s.core n (vecCore s n log)).vec.map (·.opId)].filterMap id
  ids.findSome? fun i => (streamOn s n log i o).bind fun k => (findOp s n i).bind fun l =>
    if !l.started.contains log || l.stopped then none else (gridCore l log).map fun g => (k, l, g)

/-- Whether a pended fetch is ready: every core of the set has released the slot (R222, R247). A core whose block holds fewer
tiles (R216) has released every slot once it has requested its last tile: R222 does not speak of it (DESIGN CHOICE). -/
def pendReady (x : Stream) (p : Pend) : Bool :=
  x.halt.isNone && (decide (p.tile < x.lead) || x.asked.isEmpty ||
    x.asked.all fun a => decide (p.tile < a.2 + x.lead) || ((mfind x.ends a.1).any fun e => decide (e ≤ a.2)))

/-- The ready fetch with the least deadline; ties by stream number after the last one granted (R248). -/
def nextFetch (s : State) (n : Nat) : Option (Nat × Nat) :=
  let last := (s.chan n).last
  let all := (List.range 4096).flatMap fun i =>
    let k := (last + 1 + i) % 4096
    let x := s.stream n k
    if x.used then (x.pend.filter (pendReady x)).map fun p => (k, p.tile, p.deadline) else []
  let best := all.foldl (fun acc p => match acc with
    | none => some p
    | some (q : Nat × Nat × Nat) => if p.2.2 < q.2.2 then some p else acc) none
  best.map fun p => (p.1, p.2.1)

/-- The grid core a stream's tiles are built for. -/
def streamCore (l : LoadedOp) (x : Stream) : Option GridCore := x.cores.head?.bind fun c => gridCore l c

/-- The memory words of a stream tile, in the order they are read. -/
def fetchWords (get : Nat → Byte) (op : Op) (g : GridCore) (x : Stream) (tile : Nat) : List Nat :=
  if op.kind = 0 && x.slot = 1 && compressed op then
    match (compPlan op get g)[tile]?, op.layout 1 with
    | some (_, _, _, off, h, i), some l => compWords l off h i
    | _, _ => []
  else tileWords op get g x.slot tile

/-- The words of a stream tile of a Letrix operation (R302, R351): 32 blocks of the die's own stack, or 2,048 bytes that
come through the channel stream engine. The block scales of what kind 0x8 takes through it come with the first tile: the rules
name no stream for them (DESIGN CHOICE). -/
def letrixWords (s : State) (l : LoadedOp) (x : Stream) (tile : Nat) : List Nat :=
  if x.letrix then (((dieBlocks s l.op x.slot x.die).drop (32 * tile)).take 32).flatMap fun b => wordsOf (b * 2048) 2048
  else match (if 16 ≤ x.slot then l.op.scale (x.slot - 16) else l.op.layout x.slot) with
  | none => []
  | some _ =>
    if l.op.kind = 11 then (isectTiles s l.op x.slot).getD tile []
    else if compStream l.op x.slot then (decodeTiles s l.op).getD tile []
    else
      let r := slotSpan l.op x.slot
      wordsOf (r.1 + 2048 * tile) (min 2048 (r.2 - r.1 - 2048 * tile)) ++
        (if l.op.kind = 8 && tile = 0 && x.slot < 16 && (l.op.scale x.slot).isSome then
          wordsOf (scaleSpan l.op x.slot).1 ((scaleSpan l.op x.slot).2 - (scaleSpan l.op x.slot).1) else [])

/-- The stream tiles of the compressed tile that a stream tile of the weights belongs to (R291). -/
def partsOf (op : Op) (get : Nat → Byte) (g : GridCore) (tile : Nat) : List Nat :=
  let plan := compPlan op get g
  match plan[tile]? with
  | some (q, ps, st, _) => (List.range plan.length).filter fun t => match plan[t]? with
    | some (q', ps', st', _) => q' == q && ps' == ps && st' == st
    | none => false
  | none => [tile]

/-- Whether a stream tile of compressed weights has a directory offset at or beyond the operand's bytes: the first check of
R310, made before anything is read there. -/
def badOffset (op : Op) (get : Nat → Byte) (g : GridCore) (x : Stream) (tile : Nat) : Bool :=
  op.kind == 0 && x.slot == 1 && compressed op && (match (compPlan op get g)[tile]?, op.map with
    | some (_, _, _, off, _), some m => decide (m.total ≤ 16 * off)
    | _, _ => false)

/-- The memory words that a stream's tile is read from (R234, R351), with what memory holds. -/
def streamWords (s : State) (get : Nat → Byte) (l : LoadedOp) (x : Stream) (tile : Nat) : List Nat :=
  if letrixKind l.op.kind then letrixWords s l x tile
  else match streamCore l x with
    | some g => if badOffset l.op get g x tile then [] else fetchWords get l.op g x tile
    | none => []

/-- The words that the fetches in flight of a stream read. -/
def flightWords (s : State) (e : Nat × Stream) : List Nat :=
  match findOp s (e.1 / 4096) e.2.opId with
  | none => []
  | some l => if !e.2.used then [] else e.2.inflight.flatMap fun tile => streamWords s (heldByte s) l e.2 tile

/-- Whether a fetch in flight reads a frame of a channel's tier 0 (R339). -/
def flightInFrame (s : State) (n f : Nat) : Bool :=
  s.streams.any fun e => (flightWords s e).any fun w => match servedFrame s (16 * w) with
    | some (m, h) => h == f && (m == n || (mirrored s n (32768 * f) && m == partner n))
    | none => false

/-- The first access of a list that stops, by residency, fence and the map (R338). -/
def firstStop (s : State) (ws : List Nat) : Option Stop :=
  ws.findSome? fun w => match resolve s (16 * w) false with | .error e => some e | .ok _ => none

/-- The number a Letrix stream or another stream has in the issuer field (R340, R353). -/
def issuerOf (x : Stream) (k : Nat) : Nat × Nat := if x.letrix then (2, x.die * 256 + x.loc) else (0, k)

/-- A fetch issued (R227, R248, R338): it reads through the shared cache, and an access that may not be made halts
its stream. CH_STREAM_FETCH_COUNT counts it as it is issued, and once more when it is issued again after a resume: R274 says
only "stream tiles fetched" (DESIGN CHOICE). -/
def issueFetch (s : State) (n k tile : Nat) : State :=
  let x := s.stream n k
  let s := s.setStream n k { x with pend := x.pend.filter (·.tile != tile), inflight := x.inflight ++ [tile] }
  let s := s.setChan n { s.chan n with last := k }
  let s := count64 s (Reg.chStreamFetchCount n) 1
  match findOp s n x.opId with
  | none => s
  | some l =>
    let ws := streamWords s (deviceByte s) l x tile
    let alloc := !letrixKind l.op.kind && (match streamCore l x with
      | some g => fetchTag l.op (deviceByte s) g x.slot tile == 2
      | none => false)
    match firstStop s ws with
    | some e => let iss := issuerOf x k; haltStop s n k tile iss.1 iss.2 e
    | none => if x.letrix then s else cacheReads s n x.opId alloc ws

/-- Where a stream tile stands in its operation's loop order (R271): tile of the work, pass, first reduction element, slot. -/
def tileOrder (op : Op) (get : Nat → Byte) (g : GridCore) (o tile : Nat) : Nat :=
  let key := fun (q ps k : Nat) => ((q * 4 + ps) * 2 ^ 32 + k) * 8 + o
  if op.kind = 0 && o = 1 && compressed op then
    match (compPlan op get g)[tile]? with
    | some (q, ps, st, _) => key q ps (512 * st)
    | none => key 0 0 0
  else
    let pl := tilePlaces op g o tile
    let u := ((units op g o)[pl.1]?).getD (0, 0)
    key u.1 u.2 (if op.kind != 0 || 2 ≤ o then 0 else if o = 0 then pl.2.1 / passRows op else pl.2.1 / 32 / slotsPerK op)

/-- The warm fetch that a stream of an operation on deck waits for: its tile, where its operand's governing tag is shared cache
and the operation's share is not full, with its place in load order and loop order (R271). -/
def warmNext (s : State) (n k : Nat) : Option (Nat × LoadedOp × GridCore × Nat) :=
  let x := s.stream n k
  let tile := x.lead + x.warm
  if !x.used || !x.deck || x.halt.isSome || !x.pend.isEmpty || x.length ≤ tile then none
  else (findOp s n x.opId).bind fun l => (streamCore l x).bind fun g =>
    if governTag l.op x.slot == 2 && decide (((s.chan n).cache.filter (·.owner == x.opId)).length < l.op.share * 512) then
      some (((s.chan n).ops.findIdx? (·.op.opId == x.opId)).getD 0 * 2 ^ 64 + tileOrder l.op (deviceByte s) g x.slot tile, l, g, tile)
    else none

/-- The oldest warm fetch of a channel (R248, R271). -/
def warmOldest (s : State) (n : Nat) : Option (Nat × Nat × LoadedOp × GridCore × Nat) :=
  ((List.range 4096).filterMap fun k => (warmNext s n k).map fun w => (k, w)).foldl (fun b w => match b with
    | none => some w
    | some v => if w.2.1 < v.2.1 then some w else b) none

/-- A warm fetch of an operation on deck (R271): lines allocated within its share; no slot is filled. An access that may not
be made halts the stream (R338), and the warm fetch is made again after a resume. -/
def warmFetch (s : State) (n : Nat) : State :=
  match warmOldest s n with
  | none => s
  | some (k, _, l, g, tile) =>
    let x := s.stream n k
    let ws := fetchWords (deviceByte s) l.op g x tile
    match firstStop s ws with
    | some e =>
      let s := haltStop s n k tile 0 k e
      let y := s.stream n k
      s.setStream n k { y with marked := y.marked.filter (· != tile), exempt := y.exempt.filter (· != tile) }
    | none =>
      let s := count64 (s.setStream n k { x with warm := x.warm + 1 }) (Reg.chStreamWarmCount n) 1
      cacheReads s n x.opId true ws

/-- FETCH_ISSUE (R235, R248, R271): up to two ready fetches with the least deadlines, then warm fetches. -/
def opFetchIssue (n : Nat) (s : State) : State :=
  match nextFetch s n with
  | none => warmFetch (warmFetch s n) n
  | some (k, t) =>
    let s := issueFetch s n k t
    match nextFetch s n with
    | none => warmFetch s n
    | some (k, t) => issueFetch s n k t

/-- Halves of 64 scale bytes that a stream tile takes over the short pass (R241, R250, R284). -/
def scaleHalves (op : Op) (get : Nat → Byte) (g : GridCore) (o tile : Nat) : Nat := cdiv (tileScales op get g o tile).length 64

/-- Whether a tile's scale bytes have all arrived. -/
def scalesHere (op : Op) (get : Nat → Byte) (g : GridCore) (x : Stream) (tile : Nat) : Bool :=
  (List.range (min 8 (scaleHalves op get g x.slot tile))).all fun h => x.scaled.contains (8 * tile + h)

/-- Full tiles counted on from the present mark (R241). -/
def fillUp (op : Op) (get : Nat → Byte) (g : GridCore) : Nat → Stream → Stream
  | 0, x => x
  | k + 1, x =>
    if x.filled.contains x.full && scalesHere op get g x x.full then
      fillUp op get g k { x with
        filled := x.filled.filter (· != x.full)
        scaled := x.scaled.filter fun y => decide (8 * x.full + 7 < y)
        full := x.full + 1 }
    else x

/-- The wait of a consumer ends when the tile it asked for is full (R34, R36 to R38, R256): at the tile at which its stream
halted the wait is counted in CH_STALL_FAULT; at any other it is lateness, by the mode in force at the request. -/
def endWait (s : State) (n k lateBy : Nat) (cause : StallCause) : State :=
  let x := s.stream n k
  let y := { x with exempt := x.exempt.filter fun t => decide (x.full ≤ t) }
  match x.wait with
  | none => s.setStream n k y
  | some w =>
    if x.full ≤ w.tile then s.setStream n k y
    else
      let s := s.setStream n k { y with wait := none }
      if x.exempt.contains w.tile then count64 s (Reg.chStallFault n) lateBy
      else lateAs s n w.svc x.opId k w.tile lateBy cause

/-- A stream tile written into its slot on every core of its set: tile j into slot j mod (L + 1), 4 rows (R238,
R239). -/
def fillSlot (s : State) (n : Nat) (l : LoadedOp) (x : Stream) (tile : Nat) (bs : List Byte) : State :=
  x.rings.foldl (fun s r =>
    match gridCore l r.1 with
    | none => s
    | some g =>
      let row := r.2 + 4 * (tile % (x.lead + 1))
      (List.range 128).foldl (fun s w =>
        csWrite s n g.phys 3 (row + w / 32) (w % 32) (wordNat ((bs.drop (16 * w)).take 16)) (2 ^ 128 - 1)) s) s

/-- The checks on the first stream tile of a compressed tile, and on the arrival of a tile of the sparse map's entries
(R310): a fault's code with the position it is recorded at. A fault 0x8 halts the stream of the directory entry; the
compressed tile itself then waits for the entry to be mended. -/
def arrivalFault (get : Nat → Byte) (op : Op) (g : GridCore) (x : Stream) (tile : Nat) : Option (Nat × Nat) :=
  match op.map, op.layout 1 with
  | some m, some l =>
    if x.slot = 1 && compressed op then
      match (compPlan op get g)[tile]? with
      | some (q, ps, st, off, _, 0) =>
        match (workTiles op g)[q]? with
        | some t =>
          let grp := passGroup op t ps
          (tileFault get l m.total grp st 32 op.w24 false none off).map fun c => (c, grp * m.ksteps + st)
        | none => none
      | _ => none
    else if x.slot = 6 then
      let pl := tilePlaces op g 6 tile
      (((mapEntries op g).drop pl.2.1).take pl.2.2).findSome? fun (e : Nat) =>
        let i := e / 2
        if e % 2 = 1 then
          let v := permEntry get m i
          if decide (v < 0) || decide ((l.extent 1 : Int) ≤ v) then some (9, i) else none
        else match dirEntry get m (i / m.ksteps) (i % m.ksteps) with
          | none => none
          | some off =>
            if tileFault get l m.total (i / m.ksteps) (i % m.ksteps) 32 op.w24 false none off = some 8 then some (8, i)
            else none
    else none
  | _, _ => none

/-! ### The units of a Letrix operation as consumers (R237, R351) -/

/-- Chunks of 512 columns (R359). -/
def mvChunks (op : Op) : Nat := cdiv (mvCols op) 512
/-- Columns of a chunk. -/
def chunkCols (op : Op) (h : Nat) : Nat := min 512 (mvCols op - 512 * h)

/-- One past the last byte of a chunk's columns, and of the chunks before it: with a negative stride those lie higher (R188). -/
def chunkStop (op : Op) (h : Nat) : Nat :=
  match op.layout 1 with
  | some lw =>
    let stop := fun (c : Nat) => rowStart lw [0, (c : Int), 0, 0, 0, 0] + cdiv (rowBits lw) 8
    max (stop 0) (stop (512 * h + chunkCols op h - 1))
  | none => 0

/-- One past the last byte of the block scales of those columns. -/
def chunkScaleStop (op : Op) (h : Nat) : Nat :=
  match op.scale 1 with
  | some sl =>
    let stop := fun (c : Nat) => rowStart sl [0, (c : Int), 0, 0, 0, 0] + sl.extent 0
    max (stop 0) (stop (512 * h + chunkCols op h - 1))
  | none => 0

/-- Weight stream tiles a die needs for a chunk: those up to the last block it holds of the chunk's columns. -/
def chunkTiles (s : State) (op : Op) (d h : Nat) : Nat :=
  cdiv ((dieBlocks s op 1 d).filter fun b => decide (b * 2048 < chunkStop op h)).length 32

/-- The same of the stream of the weights' block scales. -/
def chunkScaleTiles (s : State) (op : Op) (d h : Nat) : Nat :=
  cdiv ((dieBlocks s op (scaleSlot 1) d).filter fun b => decide (b * 2048 < chunkScaleStop op h)).length 32

/-- Tiles of a stream that its unit can have moved past, from what it has worked on. A unit that keeps an operand whole
moves past every tile as it comes. -/
def unitPast (s : State) (l : LoadedOp) (x : Stream) : Nat :=
  let op := l.op
  let least := l.lx.next.foldl min (l.lx.next.headD 0)
  match op.kind, x.slot with
  | 8, 1 =>
    if mvChunks op ≤ l.lx.done + 2 then x.length
    else ((dieBlocks s op 1 x.die).filter fun b => decide (b * 2048 + 2048 ≤ chunkStop op (l.lx.done + 1))).length / 32
  | 8, 17 =>
    if mvChunks op ≤ l.lx.done + 2 || !x.letrix then x.length
    else ((dieBlocks s op (scaleSlot 1) x.die).filter fun b =>
      decide (b * 2048 + 2048 ≤ chunkScaleStop op (l.lx.done + 1))).length / 32
  | 9, 1 => l.lx.arrived / 64
  | 10, 1 => least / 512
  | 10, 0 => match op.layout 0 with
    | some y => (rowStart y [0, (least : Int), 0, 0, 0, 0] - (streamSpan op 0).1) / 2048
    | none => x.length
  | 11, 0 =>
    match ((isectWork s op).filter fun w => !l.lx.blocks.contains w && workStack s op w == x.die).head? with
    | some w => ((dieBlocks s op 0 x.die).filter fun b => decide (b < (workBlocks s op w).headD 0)).length / 32
    | none => x.length
  | _, _ => x.length

/-- A Letrix unit asks for the tiles it needs next, in order (R33, R237, R239): each once the one before is full and it has
moved past it. -/
def unitAsks (s : State) (n : Nat) (l : LoadedOp) (k : Nat) : State :=
  let x := s.stream n k
  let log := x.cores.headD 0
  let i := askedOf x log
  let upto := min x.length (min x.full (unitPast s l x) + 1)
  s.setStream n k ((List.range (upto - i)).foldl (fun x j => askTile s n log (i + j) x) x)

/-- The units of an operation ask on, after its work has moved (R237). -/
def unitsAsk (s : State) (n : Nat) (id : W32) : State :=
  match findOp s n id with
  | none => s
  | some l => (s.streams.filter fun e => e.1 / 4096 == n && e.2.opId == id && e.2.used).foldl
      (fun s e => unitAsks s n l (e.1 % 4096)) s

/-- Slots whose stream tiles go down the ports of all three dies (R302, R356, R361, R373): activations, indices, the probe. -/
def sentDown (op : Op) (o : Nat) : Bool :=
  match op.kind with
  | 8 => o == 0 || o == scaleSlot 1
  | 10 => o == 1
  | 11 => o == 1
  | _ => false

/-- A tile of a Letrix operation's stream arrives in its buffer (R237, R241, R351). -/
def letrixArrive (s : State) (n k tile lateBy : Nat) (cause : StallCause) (l : LoadedOp) : State :=
  let x := s.stream n k
  let x := { x with filled := x.filled ++ [tile] }
  let x := (List.range 16).foldl (fun (x : Stream) _ =>
    if x.filled.contains x.full then { x with filled := x.filled.filter (· != x.full), full := x.full + 1 } else x) x
  unitAsks (endWait (s.setStream n k x) n k lateBy cause) n l k

/-- The bytes of a stream tile of a core's stream (R234, R291). -/
def streamBytes (get : Nat → Byte) (l : LoadedOp) (g : GridCore) (x : Stream) (tile : Nat) : List Byte :=
  if l.op.kind = 0 && x.slot = 1 && compressed l.op then
    match (compPlan l.op get g)[tile]?, l.op.layout 1 with
    | some (_, _, _, off, h, i), some lay =>
      let len := min 2048 (16 + h.len - 2048 * i)
      (List.range 2048).map fun b => if b < len then get (lay.base + 16 * off + 2048 * i + b) else 0
    | _, _ => []
  else tileBytes l.op get g x.slot tile

/-- FETCH_COMPLETE (R34, R36, R237, R241, R253, R310, R311, R339, R346): a fill ends, with the cycles that a tile it makes
full is late and why. A fetch that its frame's presence let pass at its issue completes though the frame is absent since. -/
def opFetchComplete (n k tile lateBy : Nat) (cause : StallCause) (upsets : List Upset) (s : State) : State :=
  let s := strike s upsets
  let x := s.stream n k
  if !x.used || !x.inflight.contains tile then s
  else match findOp s n x.opId with
    | none => s
    | some l =>
      let landed := { x with inflight := x.inflight.filter (· != tile) }
      if letrixKind l.op.kind then
        match readHeld s (letrixWords s l x tile) with
        | (s, .error e) => let iss := issuerOf x k; haltStop s n k tile iss.1 iss.2 e
        | (s, .ok ws) =>
          let s := if sentDown l.op x.slot then (List.range 3).foldl (fun s d => portDown s (dieNo n d) (16 * ws.length)) s else s
          let held := ws.foldl (fun h w => minsert h w.1 (sourceWord s n l.op x.slot w)) x.held
          letrixArrive (s.setStream n k { landed with held := held }) n k tile lateBy cause l
      else match streamCore l x with
        | none => s
        | some g =>
          match readHeld s (streamWords s (heldByte s) l x tile) with
          | (s, .error e) => let iss := issuerOf x k; haltStop s n k tile iss.1 iss.2 e
          | (s, .ok _) =>
            let whole := fun (s : State) =>
              if x.slot = 1 && compressed l.op then markParts s n k (partsOf l.op (heldByte s) g tile) else s
            match arrivalFault (heldByte s) l.op g x tile with
            | some (8, pos) => if x.slot = 6 then structFault s n k tile 8 6 pos else s
            | some (0, _) => whole (haltStream (setFlag s (Reg.chFmtStatus n) 4 true) n k tile 4 none)
            | some (c, pos) => whole (structFault s n k tile c x.slot pos)
            | none =>
              let s := fillSlot s n l x tile (streamBytes (sourceByte s n l.op x.slot 0 (heldByte s)) l g x tile)
              let s := s.setStream n k (fillUp l.op (heldByte s) g 16 { landed with filled := x.filled ++ [tile] })
              endWait s n k lateBy cause

/-! ### Resume and cancel -/

/-- A halted stream continues (R256): its marked fetches are issued again in tile order; those that its consumers have asked
for since wait with the deadlines of their requests. The time for which it was halted at a tile that no wait measures goes
to CH_STALL_FAULT (R38). -/
def resumeStream (s : State) (n k : Nat) : State :=
  let x := s.stream n k
  if x.halt.isNone then s
  else
    let ms := x.marked.mergeSort (· ≤ ·)
    let j0 := ms.headD 0
    let again := ms.map fun j => (⟨j, cycleNow s n + (j - j0) * x.period⟩ : Pend)
    let s := match x.stuck with
      | some t => count64 s (Reg.chStallFault n) (cycleNow s n - t)
      | none => s
    s.setStream n k { x with halt := none, frame := none, stuck := none, marked := [], pend := again ++ x.pend }

/-- STREAM_RESUME (R256, R311, R415): a write of CH_STREAM_RESUME. -/
def opStreamResume (n : Nat) (v : W64) (s : State) : State :=
  if bits v.toNat 63 32 ≠ 0 || bits v.toNat 30 12 ≠ 0 then s
  else
    let k := bits v.toNat 11 0
    let s := setFld s (Reg.chStreamResume n) 11 0 k
    if bit v.toNat 31 then resumeStream s n k else s

/-- The rings of an operation on a core released (R243, R258, R273). -/
def dropRings (s : State) (n : Nat) (id : W32) (i : Nat) : State :=
  s.setCore n i { s.core n i with ring := (s.core n i).ring.filter (·.opId != id) }

/-- A cancel asked for (R105, R258 to R262, R273, R414, R416): a write of CH_STREAM_CANCEL. With go set, the streams of
the named operation stop and their reads in flight are dropped and counted, without recording a halt. -/
def askCancel (n : Nat) (v : W64) (s : State) : State :=
  if bits v.toNat 61 32 ≠ 0 then s
  else
    let id := BitVec.ofNat 32 (bits v.toNat 31 0)
    let s := setFld s (Reg.chStreamCancel n) 31 0 id.toNat
    if !bit v.toNat 63 then s
    else match findOp s n id with
      | none => setFlag s (Reg.chStreamCancel n) 62 true
      | some l =>
        if opDone l then setFlag s (Reg.chStreamCancel n) 62 true
        else
          let s := setFlag (setFlag s (Reg.chStreamCancel n) 62 false) (Reg.chStreamCancel n) 63 true
          let drops := (s.streams.filter fun e => e.1 / 4096 == n && e.2.opId == id).foldl
            (fun a e => a + e.2.inflight.length) 0
          let s := count32 s (Reg.chCancelDropCount n) drops
          let s := freeStreams s n id
          let s := l.grid.foldl (fun s g => dropRings s n id g.phys) s
          -- a stop on full merge entries that a cancel ends is counted up to it (R409)
          let s := match l.lx.stopAt with
            | some c => (List.range 3).foldl (fun s d => count64 s (Reg.lxAttnWaitCycles (dieNo n d)) (cycleNow s n - c)) s
            | none => s
          let s := putOp s n id { l with stopped := true }
          s.setChan n { s.chan n with cancel := some id }

/-- A core leaves a cancelled operation: uncommitted passes are discarded (R105, R262); results of committed passes
stay written (R258). -/
def dropOnCore (s : State) (n : Nat) (l : LoadedOp) (g : GridCore) : State := endOnCore s n l g

/-- CANCEL_COMPLETE (R258): the cancel ends; the event is posted and go clears. -/
def opCancelComplete (n : Nat) (s : State) : State :=
  match (s.chan n).cancel with
  | none => s
  | some id =>
    match findOp s n id with
    | none => s
    | some l =>
      let s := if letrixKind l.op.kind then s else l.grid.foldl (fun s g => dropOnCore s n l g) s
      let c := s.chan n
      let s := s.setChan n { c with cancel := none, ops := c.ops.filter (·.op.opId != id) }
      let s := count32 s (Reg.chCancelCount n) 1
      let s := setFlag s (Reg.chStreamCancel n) 63 false
      post s n 0x06 id []

/-! ### The short pass (R250, R251) -/

/-- Where up to 64 scale bytes of a stream tile stand, as device addresses; none for those of padding (R68, R250). Under
bcast_inner they are those of element 0's block (R183); a scale tensor of space 1 lies in the core's region (R186). -/
def scaleAddrs (s : State) (n : Nat) (l : LoadedOp) (g : GridCore) (x : Stream) (tile half : Nat) (sl : Layout) : List (Option Nat) :=
  let base := if sl.space then storeBase n g.phys + g.base * 512 else 0
  (((tileScales l.op (deviceByte s) g x.slot tile).drop (64 * half)).take 64).map fun c =>
    (l.op.layout x.slot).bind fun y =>
      let b := y.blockX c
      if (y.extent 0 : Int) ≤ b.getD 0 0 || !inside y (b.set 0 (max 0 (b.getD 0 0))) || b.getD 0 0 < 0 then none
      else some (base + scalePlace sl b)

/-- 16 FP32 store scales of a stream tile of slot 5 taken by a core's array task (R68, R117). -/
def takeScales (s : State) (n : Nat) (l : LoadedOp) (g : GridCore) (tile half : Nat) : State :=
  match l.op.layout 5, unitAt l.op g 5 (tilePlaces l.op g 5 tile).1 with
  | some y, some (t, ps) =>
    let vals := (List.range 16).map fun i => BitVec.ofNat 32 (unitElem l.op (slotByte s n l.op g 5 y) g 5 t ps (16 * half + i))
    let lo := 32 * tile + 16 * half
    let put := fun (sc : List W32) => (List.range (max sc.length (lo + 16))).map fun i =>
      if lo ≤ i && i < lo + 16 then vals.getD (i - lo) 0 else sc.getD i 0
    let c := s.core n g.phys
    s.setCore n g.phys { c with array := c.array.map fun (a : ArrayTask) => { a with scales := put a.scales } }
  | _, _ => s

/-- The scale bytes of half a stream tile written beside its slot on every core of its set (R238). The two rows of a ring
hold two halves of each slot; further halves, which a short compressed tile has, stay with the stream (DESIGN CHOICE). -/
def fillScales (s : State) (n k : Nat) (l : LoadedOp) (x : Stream) (tile half : Nat) (bs : List Byte) : State :=
  if 2 ≤ half then
    let y := s.stream n k
    s.setStream n k { y with held := minsert y.held (8 * tile + half) bs }
  else x.rings.foldl (fun s r =>
    match gridCore l r.1 with
    | none => s
    | some h =>
      let off := (r.2 + 4 * (x.lead + 1)) * 512 + (tile % (x.lead + 1)) * 128 + 64 * half
      (byteWrites off bs).foldl (fun s w => csWrite s n h.phys 3 (w.1 / 32) (w.1 % 32) w.2.1 w.2.2) s) s

/-- SCALE (R34, R68, R223, R241, R250, R284): up to 64 bytes of scales of one stream tile reach a core: the E8M0 bytes of a
block-scaled tile, read through the shared cache, or 16 FP32 store scales; with the cycles that a tile it makes full is late
and why. -/
def opScale (n log k tile half lateBy : Nat) (cause : StallCause) (s : State) : State :=
  let x := s.stream n k
  if !x.used || !x.cores.contains log || x.length ≤ tile || x.marked.contains tile then s
  else match (findOp s n x.opId).bind fun l => (gridCore l log).map fun g => (l, g) with
    | none => s
    | some (l, g) =>
      let s := count64 s (Reg.chSpMsgCount n) 1
      if x.slot = 5 then (if half < 2 then takeScales s n l g tile half else s)
      else
        match l.op.scale x.slot with
        | none => s
        | some sl =>
          let ok := scaleAddrs s n l g x tile half sl
          let ws := ((ok.filterMap id).map (· / 16)).dedup
          match readWordsOn true s ws with
          | (s, .error e) => let iss := issuerOf x k; haltStop s n k tile iss.1 iss.2 e
          | (s, .ok _) =>
            let s := cacheReads s n x.opId (fetchTag l.op (deviceByte s) g x.slot tile == 2) ws
            let bs : List Byte := ok.map fun a => match a with | some a => deviceByte s a | none => 127
            let s := fillScales s n k l x tile half bs
            let y := s.stream n k
            endWait (s.setStream n k (fillUp l.op (deviceByte s) g 16 { y with scaled := y.scaled ++ [8 * tile + half] }))
              n k lateBy cause

/-- PAGE_LIST (R250): up to 16 page numbers pass between the engine and a consumer that walks or writes pages; its receiver,
a core or the stream engine, holds them. -/
def opPageList (n : Nat) (to_ : Option Nat) (pages : List W32) (s : State) : State :=
  if pages.length = 0 || 16 < pages.length then s
  else
    let s := count64 s (Reg.chSpMsgCount n) 1
    match to_ with
    | none => s.setChan n { s.chan n with pages := pages }
    | some log => s.setCore n (arrayCore s n log) { s.core n (arrayCore s n log) with pages := pages }

/-- COUNTER (R250): a core's increments are added to channel counters, numbered by their place in the counter
registers of the channel. -/
def opCounter (n : Nat) (pairs : List (Nat × W32)) (s : State) : State :=
  if pairs.length = 0 || 8 < pairs.length then s
  else
    let s := count64 s (Reg.chSpMsgCount n) 1
    pairs.foldl (fun s p =>
      let a := chBlock n + 0x7000 + 8 * p.1
      match regRow a with
      | some r => match r.fields with
        | [f] => if f.acc == .rc then
            (if f.hi = 31 then count32 s ⟨a, 0⟩ p.2.toNat else count64 s ⟨a, 0⟩ p.2.toNat) else s
        | fs => if fs.any fun f => f.acc == .rc && f.hi == 31 then count32 s ⟨a, 0⟩ p.2.toNat else s
      | none => s) s

/-- ARRIVAL_NOTICE (R163, R250): a transfer is counted at a window. -/
def opArrivalNotice (n log k : Nat) (s : State) : State :=
  let i := physOf s n log
  let s := count64 s (Reg.chSpMsgCount n) 1
  if flag s (Reg.coreRecvWindow n i k) 31 then arriveAt s n i k else s

/-- CANCEL_NOTICE (R262): a core ends its consumption of a cancelled operation. -/
def opCancelNotice (n log : Nat) (id : W32) (s : State) : State :=
  let s := count64 s (Reg.chSpMsgCount n) 1
  match findOp s n id with
  | none => s
  | some l => if !l.stopped then s else match gridCore l log with
    | none => s
    | some g => dropOnCore s n l g

/-! ### The rotation (R263 to R269) -/

/-- The rotated operand of an operation's slot on a member. -/
def rotOf (s : State) (n : Nat) (id : W32) (g : GridCore) (o : Nat) : Rot :=
  ((s.core n g.phys).rot.find? fun r => r.opId == id && r.slot == o).getD ⟨id, o, 0, none, 0, none⟩

/-- Stream tiles that a member has received of a rotated slot. -/
def rotCount (s : State) (n : Nat) (id : W32) (g : GridCore) (o : Nat) : Nat := (rotOf s n id g o).got

/-- A rotated operand's state on a member replaced. -/
def putRot (s : State) (n : Nat) (g : GridCore) (x : Rot) : State :=
  let c := s.core n g.phys
  s.setCore n g.phys { c with rot := c.rot.map fun r => if r.opId = x.opId && r.slot = x.slot then x else r }

/-- The rotation that a core forwards at a slot: the operation, its entry, the core, and the next member. A member that has
finished its own work forwards what is still due (R266). -/
def rotFound (s : State) (n log o : Nat) : Option (LoadedOp × RotEntry × GridCore × GridCore) :=
  let found := (s.chan n).ops.findSome? fun l =>
    if l.stopped || !l.started.contains log then none
    else (l.op.rot.find? (·.slot == o)).bind fun e => (gridCore l log).map fun g => (l, e, g)
  found.bind fun (f : LoadedOp × RotEntry × GridCore) =>
    (f.1.grid.find? fun h => h.j == f.2.2.j && h.i == (f.2.2.i + 1) % max 1 f.2.1.members).map fun h => (f.1, f.2.1, f.2.2, h)

/-- Shards that a member has used up: its array task has moved past their tiles (R265). -/
def shardsUsed (s : State) (n : Nat) (l : LoadedOp) (e : RotEntry) (h : GridCore) : Option Nat :=
  if l.finished.contains h.log then some e.members
  else (s.core n h.phys).array.bind fun a =>
    if a.opId = l.op.opId && l.started.contains h.log then some (a.seq / max 1 (blockM l.op * (blockN l.op / max 1 e.members)))
    else none

/-- Whether the next tile may be forwarded (R264 to R266, R269): the core holds it and has not halted, and the next member
has released the slot: it has started on the shard before, and has both used and passed on what the slot held. -/
def rotReady (s : State) (n o : Nat) (l : LoadedOp) (e : RotEntry) (g h : GridCore) : Bool :=
  let id := l.op.opId
  let t := rotCount s n id h o
  let d := t / max 1 e.shard
  let within := t % max 1 e.shard
  let nextHop := match l.grid.find? fun q => q.j == g.j && q.i == (g.i + 2) % max 1 e.members with
    | some q => rotCount s n id q o
    | none => 0
  let free := (shardsUsed s n l e h).any fun u => decide (d ≤ u) && (decide (d < 2) || decide (d * e.shard ≤ nextHop))
  let have_ := d = 0 || (d - 1) * e.shard + within < rotCount s n id g o
  !(e.members ≤ d + 1) && free && have_ && (rotOf s n id g o).halt.isNone

/-- Where the next tile stands on the core, and where it goes on the next member: rows (R266). -/
def rotRows (e : RotEntry) (t : Nat) : Nat × Nat :=
  let d := t / max 1 e.shard
  let within := t % max 1 e.shard
  (if d = 0 then e.home + 4 * within else e.recv + 4 * e.shard * ((d - 1) % 2) + 4 * within,
    e.recv + 4 * e.shard * (d % 2) + 4 * within)

/-- A rotation halted at a tile by an access to the sender's core store (R181, R253 to R255): it is no stream of the
channel's, so stream 0 is recorded (DESIGN CHOICE). -/
def haltRot (s : State) (n : Nat) (g : GridCore) (id : W32) (o tile : Nat) (e : Stop) : State :=
  let s := putRot s n g { rotOf s n id g o with halt := some e.cause }
  noteHalt (stopEvent s id e) n id 0 tile e.cause

/-- The consumer's request of its next tile of a rotated operand, in order (R239, R265, R267): its home shard stands in its
core store, and after it come the tiles it receives. One that has not been received makes the core wait (R34, R37). -/
def askRot (s : State) (n log o : Nat) : State :=
  let found := (s.chan n).ops.findSome? fun l =>
    if l.stopped || !l.started.contains log || l.finished.contains log then none
    else (l.op.rot.find? (·.slot == o)).bind fun e => (gridCore l log).map fun g => (l, e, g)
  match found with
  | none => s
  | some (l, e, g) =>
    let r := rotOf s n l.op.opId g o
    let here := fun (i : Nat) => decide (i < e.shard + r.got)
    if e.members * e.shard ≤ r.asked || !(r.asked = 0 || here (r.asked - 1)) then s
    else putRot s n g { r with
      asked := r.asked + 1
      wait := if here r.asked then r.wait else r.wait.or (some ⟨r.asked - e.shard, cycleNow s n, inService s n⟩) }

/-- TILE_REQUEST (R33, R34, R239, R240, R247, R265, R267): a core requests its next tile of a slot, in order: once the one
before is full and the consumer has moved past it. -/
def opTileRequest (n log o : Nat) (s : State) : State :=
  match askedStream s n log o with
  | none => askRot s n log o
  | some (k, l, g) =>
    let x := s.stream n k
    let i := askedOf x log
    if x.length ≤ i || x.full < i || !(i = 0 || movedPast l g (s.core n g.phys) o (i - 1)) then s
    else s.setStream n k (askTile s n log i x)

/-- ROTATION_FORWARD (R37, R181, R254, R264 to R267): a member forwards the next stream tile to its successor, with the cycles
for which the successor has waited for it and why; it is late by the mode in force at the successor's request. -/
def opRotationForward (n log o lateBy : Nat) (cause : StallCause) (s : State) : State :=
  match rotFound s n log o with
  | none => s
  | some (l, e, g, h) =>
    if !rotReady s n o l e g h then s
    else
      let id := l.op.opId
      let t := rotCount s n id h o
      let rows := rotRows e t
      let src := (List.range 128).map fun w => (rows.1 + w / 32, w % 32)
      match outsideRegion g.base g.len src with
      | some p => haltRot s n g id o t (.bound n g.phys p.1 p.2)
      | none => match csRead s n g.phys src with
        | (s, some p) => haltRot s n g id o t (.word n g.phys p.1 p.2)
        | (s, none) =>
          let s := (List.range 128).foldl (fun s w =>
            csWrite s n h.phys 3 (rows.2 + w / 32) (w % 32) (csView s n g.phys (rows.1 + w / 32) (w % 32)) (2 ^ 128 - 1)) s
          let r := rotOf s n id h o
          let s := count64 (putRot s n h { r with got := t + 1, wait := none }) (Reg.chRotHopCount n) 1
          match r.wait with
          | none => s
          | some w => lateNoStreamAs s n w.svc h.log id lateBy cause

end Sys2Proof.Machine
end

