-- ==== Sys2Proof/Machine/StorePath.lean ====
section
/-! DEFINITION. The store path: store conversion, placement and writing of results (R68 to R76, R116, R146, R162,
R163, R192 to R202, R224, R338). -/

namespace Sys2Proof.Machine

/-- A result on its way to a written operand: source coordinates and value. -/
structure Res where
  x   : List Int
  val : Num
deriving DecidableEq, Repr

/-- What a conversion leaves: bit writes of the elements as bit address, number and value, and those of the block scales, which
count in their own tensor's space (R186); the flags; the draws taken. -/
structure Conv where
  bits   : List (Nat × Nat × Nat)
  scales : List (Nat × Nat × Nat)
  raised : Raised
  draws  : Nat
deriving DecidableEq, Repr

/-- Bit writes of an element's code at coordinates, plane by plane or packed. -/
def codeBits (l : Layout) (x : List Int) (code : Nat) : List (Nat × Nat × Nat) :=
  let w := l.format.width
  if l.format.planar then
    ((elemBits l x w).zipIdx.map fun p => (p.1.1, 1, bits code (w - 1 - p.2) (w - 1 - p.2)))
  else (elemBits l x w).map fun b => (b.1, b.2, code)

/-- The block an element of a block-scaled destination belongs to: its coordinates with dimension 0 in blocks. -/
def blockOf (x : List Int) : List Int := x.set 0 (x.getD 0 0 / 32)

/-- Store conversion of results in the order the store path converts them, into a layout (R68 to R73, R199, R201).
`raw` stores 32-bit words as they are (R97, R116). The draws start at the core's next one. Where the results at hand cover a
block in part, as the columns of a line permutation (R288) may, its scale is formed from them alone and written: R199 does not
speak of it (DESIGN CHOICE). -/
def convert (f : Fmt) (l : Layout) (sl : Option Layout) (xform : Nat) (z : Int) (raw : Bool) (seed : W32) (log draw0 : Nat)
    (rs : List Res) : Conv :=
  let takes := f.rnd == 2 && !raw
  let placed := rs.zipIdx.map fun p =>
    (permuted xform p.1.x, p.1.val, f.rounding (if takes then (Config.draw seed log (draw0 + p.2)).toNat else 0))
  let live := placed.filter fun p => inside l p.1
  let n := if takes then rs.length else 0
  if raw then
    ⟨live.flatMap fun p => codeBits l p.1 (match p.2.1 with | .fin s m _ => unsigned 32 (if s then -(m : Int) else m) | _ => 0),
      [], {}, n⟩
  else if f.isMX then
    let keys := (live.map fun p => blockOf p.1).dedup
    let out := keys.map fun k =>
      let es := live.filter fun p => blockOf p.1 == k
      let r := storeBlock f (es.map fun p => (p.2.1, p.2.2))
      let sb := match sl with
        | some t => [(8 * (rowStart t (k.set 0 0) + (k.getD 0 0).toNat), 8, r.1.toNat)]
        | none => []
      ((es.zip r.2.1).flatMap fun q => codeBits l q.1.1 q.2, sb, r.2.2)
    ⟨out.flatMap (·.1), out.flatMap (·.2.1), (out.map (·.2.2)).foldl Raised.join {}, n⟩
  else
    let out := live.map fun p =>
      let r := storeElem f p.2.2 (if f.isInt then z else 0) p.2.1
      (codeBits l p.1 r.1, r.2)
    ⟨out.flatMap (·.1), [], (out.map (·.2)).foldl Raised.join {}, n⟩

/-- Flags and saturations noted (R74, R75). -/
def noteRaised (s : State) (n : Nat) (r : Raised) : State :=
  let st := Reg.chFmtStatus n
  let s := if decide (0 < r.sat) then setFlag (count32 s (Reg.chFmtSatCount n) r.sat) st 0 true else s
  let s := if r.nanLost then setFlag s st 1 true else s
  let s := if r.overflow then setFlag s st 2 true else s
  let s := if r.scaleNan then setFlag s st 3 true else s
  if r.fault then setFlag s st 4 true else s

/-- The core that holds a word of a core store window. -/
def storeOf (w : Nat) : Option (Nat × Nat × Nat) :=
  match place (16 * w) with | .store n i off => some (n, i, off / 16) | _ => none

/-- The word writes of a written operand on a core: a region's words by their device addresses (R151). -/
def operandWrites (n : Nat) (g : GridCore) (l : Layout) (bs : List (Nat × Nat × Nat)) : List (Nat × Nat × Nat) :=
  let base := if l.space then 8 * (storeBase n g.phys + g.base * 512) else 0
  gatherBits (bs.map fun b => (b.1 + base, b.2.1, b.2.2))

/-- Why a store word may not be written from a core (R23, R162): its store is not mapped, or the words do not lie wholly
inside one enabled window. -/
def storeStop (s : State) (n : Nat) (g : GridCore) (ws : List (Nat × Nat × Nat)) : Option Stop :=
  ws.findSome? fun w => match storeOf w.1 with
    | some (m, i, o) => if storeMapped s m i && rowPowered s m i (o / 32) then none
        else if m == n && i == g.phys then none else some .unmapped
    | none => none

/-- Word writes by the store path of a core's task (R23, R162, R224, R319, R338): its own store directly, another core's
store through a window, memory through the tiers. What a Letrix unit writes, from outside every core,
allocates no line of the shared cache (R223). The first stop is answered before anything is written when it is
a page, a fence or a hole of the map. -/
def storeWords (s : State) (n : Nat) (g : GridCore) (t : Nat) (id : W32) (ws : List (Nat × Nat × Nat)) :
    State × Option Stop :=
  let dram := ws.filter fun w => (storeOf w.1).isNone
  let stops := dram.findSome? fun w => match resolve s (16 * w.1) true with | .error e => some e | .ok _ => none
  match stops.or (storeStop s n g ws) with
  | some e => (s, some e)
  | none =>
    let mine := ws.filter fun w => match storeOf w.1 with | some (m, i, _) => m == n && i == g.phys | none => false
    let other := ws.filterMap fun w => match storeOf w.1 with
      | some (m, i, o) => if m == n && i == g.phys then none else some ((m, i), o, w.2.1, w.2.2)
      | none => none
    let s := mine.foldl (fun (s : State) (w : Nat × Nat × Nat) => match storeOf w.1 with
      | some (_, _, o) => csWrite s n g.phys t (o / 32) (o % 32) w.2.1 w.2.2
      | none => s) s
    let out : State × Option Stop := match other.head? with
      | none => (s, none)
      | some ((m, i), o, _, _) =>
        let fault := some (Stop.window m i (o / 32) (o % 32))
        if other.any fun w => w.1 != (m, i) then (count32 s (Reg.chCsWindowRejectCount m) 1, fault)
        else match extWrite s m i (other.map (·.2)) with
          | (s, true) => (s, none)
          | (s, false) => (s, fault)
    let r := writeWords out.1 dram
    let s := if g.phys < 800 then cacheStore r.1 n id (dram.map Prod.fst) else r.1
    match r.2 with
    | .error e => (s, some e)
    | .ok _ => (s, out.2)

/-- The halt that a stopped store leaves with its task. -/
def Stop.halt : Stop → TaskHalt
  | .page m off _ => .page (m * 2 ^ 23 + off / 32768)
  | .window _ _ _ _ => .window
  | .bound _ _ _ _ => .bound
  | .bad a => .merge a
  | _ => .store

/-- A task halted by its own store (R24, R144, R152, R162, R319, R338, R695): a page fault of the store path, a core store
fault, a hole of the address map, or an uncorrectable merge. The unmapped-address fault is raised with cause 0x2; a store
belongs to no stream, so stream 0 and tile 0xFFFFFFFF are recorded (DESIGN CHOICE). -/
def haltStore (s : State) (n : Nat) (g : GridCore) (t : Nat) (id : W32) (e : Stop) : State :=
  match e with
  | .page m off _ => haltTask (pageFault s n id 1 g.log m off true) n g.phys t e.halt
  | .unmapped => haltTask (noteHalt s n id 0 0xFFFFFFFF e.cause) n g.phys t e.halt
  | _ => haltTask (stopEvent s id e) n g.phys t e.halt

/-- A word write of a region operand that lies outside the task's region (R152). -/
def regionStop (n : Nat) (g : GridCore) (l : Layout) (ws : List (Nat × Nat × Nat)) : Option Stop :=
  if !l.space then none
  else (outsideRegion g.base g.len (ws.map fun w => ((w.1 - storeBase n g.phys / 16) / 32, w.1 % 32))).map fun p =>
    .bound n g.phys p.1 p.2

/-- The words that a write is about to change in a tensor that the operation also reads, kept as they stand (R191). -/
def keepBefore (s : State) (n : Nat) (op : Op) (ws : List (Nat × Nat × Nat)) : State :=
  match (usedSlots op).any (rereads op), findOp s n op.opId with
  | true, some l =>
    let kept := ws.foldl (fun (h : List (Nat × List Byte)) w =>
      if (mfind h w.1).isSome then h else minsert h w.1 ((List.range 16).map fun b => deviceByte s (16 * w.1 + b))) l.before
    putOp s n op.opId { l with before := kept }
  | _, _ => s

/-- Results stored into an operand by a core's task: converted, written, flags noted, draws taken. The word writes
are answered with why they stopped, if they did. -/
def storeResults (s : State) (n : Nat) (g : GridCore) (t : Nat) (op : Op) (o : Nat) (raw : Bool) (rs : List Res) :
    State × List (Nat × Nat × Nat) × Option Stop :=
  match op.layout o with
  | none => (s, [], none)
  | some l =>
    let c := s.core n g.phys
    let cv := convert l.format l (op.scale o) (op.slot o).xform op.zeroPoint raw c.seed g.log c.draws rs
    let data := operandWrites n g l cv.bits
    let sc := match op.scale o with | some y => operandWrites n g y cv.scales | none => []
    let ws := data ++ sc
    match (match (regionStop n g l data).or ((op.scale o).bind fun y => regionStop n g y sc) with | some e => (s, some e) | none => storeWords (keepBefore s n op ws) n g t op.opId ws) with
    | (s, some e) => (haltStore s n g t op.opId e, ws, some e)
    | (s, none) =>
      let s := noteRaised s n cv.raised
      let c := s.core n g.phys
      (s.setCore n g.phys { c with draws := c.draws + cv.draws }, ws, none)

/-- The lowest address of word writes. -/
def lowest (ws : List (Nat × Nat × Nat)) : Option Nat :=
  ws.foldl (fun m w => match m with | none => some (16 * w.1) | some a => some (min a (16 * w.1))) none

/-- The arrival of a stored transfer (R163): at the window that holds its lowest written address. A store by the core's
own store path counts only where its operation marks it. -/
def arriveStore (s : State) (n phys : Nat) (marked : Bool) (a : Option Nat) : State :=
  match a.map place with
  | some (.store m i off) =>
    if m == n && i == phys && !marked then s
    else match windowOf s m i off 1 with
      | some k => arriveAt s m i k
      | none => s
  | _ => s

/-- The lower of two addresses, where there are any. -/
def lower : Option Nat → Option Nat → Option Nat
  | none, b => b
  | some a, none => some a
  | some a, some b => some (min a b)

/-- One part of a transfer stored by several stores (R163, R164): `before` is the lowest address stored until now, `now`
the lowest with this part. The transfer is under way in its window until its last part, with which it arrives unless
the window has been closed in between. -/
def partStored (s : State) (n phys src : Nat) (marked : Bool) (before now : Option Nat) (last : Bool) : State :=
  match now.map place with
  | some (.store m i off) =>
    if m == n && i == phys && !marked then s
    else match before, windowOf s m i off 1 with
      | _, none => s
      | none, some k => if last then arriveAt s m i k else underWay s m i k src
      | some _, some k => if last then endTransfer s m i k src else s
  | _ => s

end Sys2Proof.Machine
end

