-- ==== Sys2Proof/Machine/Arrays.lean ====
section
/-! DEFINITION. The matrix arrays: operands at the edge, passes, checksums, commit and the cancellation monitor, and
the combine of split reductions (R82 to R108, R112 to R134, R276 to R298, R698). -/

namespace Sys2Proof.Machine

/-! ### Operands at the edge -/

/-- Whether an operand comes through a stream on its core. -/
def hasStream (op : Op) (o : Nat) : Bool := (op.slot o).en && streamed op o && !op.rot.any (·.slot == o)

/-- The tile of the work and the pass that first use a stream tile. -/
def tileUse (op : Op) (get : Nat → Byte) (g : GridCore) (o tile : Nat) : Nat × Nat :=
  if op.kind = 0 && o = 1 && compressed op then
    match (compPlan op get g)[tile]? with
    | some (q, ps, _) => (q, ps)
    | none => (0, 0)
  else ((units op g o)[(tilePlaces op g o tile).1]?).getD (0, 0)

/-- A kept operand's stream tile written into the array task's region (R214): its bytes and its block scales. It is written as
the consumer takes it: the next tile's fetches run ahead while the passes of this one still read what it keeps (DEDUCED). -/
def keepTile (s : State) (n : Nat) (op : Op) (g : GridCore) (o tile : Nat) (bs sc : List Byte) : State :=
  if !keeps op o then s
  else
    let spot := keptSpot op (deviceByte s) g o tile
    let row := keptRow op g (s.core n g.phys).ring
    let put := fun (s : State) (off : Nat) (bs : List Byte) => (byteWrites (512 * row + off) bs).foldl
      (fun s w => csWrite s n g.phys 3 (w.1 / 32) (w.1 % 32) w.2.1 w.2.2) s
    let pl := tilePlaces op g o tile
    let data := if o = 1 && compressed op then bs.take spot.2.1 else packKept op o pl.2.1 pl.2.2 bs
    put (put s spot.1 data) spot.2.2 (sc.take (tileScales op (deviceByte s) g o tile).length)

/-- The words of a stream's slot on a core, and of its scale bytes (R238). -/
def slotWords (x : Stream) (base tile : Nat) (mx : Bool) : List (Nat × Nat) :=
  let row := base + 4 * (tile % (x.lead + 1))
  ((List.range 128).map fun w => (row + w / 32, w % 32)) ++
    (if mx then (wordsOf ((base + 4 * (x.lead + 1)) * 512 + tile % (x.lead + 1) * 128) 128).map fun w => (w / 32, w % 32) else [])

/-- The stream tiles that the array task asked for last, once they are full and its work has come to them: each is read from
its slot and held (R34, R239, R240). -/
def takeTiles (s : State) (n : Nat) (l : LoadedOp) (g : GridCore) : State :=
  (streamSlots l.op).foldl (fun s o =>
    match streamOn s n g.log l.op.opId o, (s.core n g.phys).array with
    | some k, some a =>
      let x := s.stream n k
      let tile := askedOf x g.log - 1
      let use := tileUse l.op (deviceByte s) g o tile
      if askedOf x g.log = 0 || x.full ≤ tile || a.halted.isSome || (mfind a.kept (8 * tile + o)).isSome
          || decide (a.seq < use.1) || (a.seq == use.1 && decide (a.pass < use.2)) then s
      else
        let base := (mfind x.rings g.log).getD 0
        let mx := (l.op.layout o).any (·.format.isMX)
        match taskRead s n g.phys 0 (slotWords x base tile mx) with
        | (s, false) => s
        | (s, true) =>
          let bs := csBytes s n g.phys (512 * (base + 4 * (tile % (x.lead + 1)))) 2048
          let more := (List.range 6).flatMap fun h => (mfind x.held (8 * tile + h + 2)).getD []
          let sc := if mx then csBytes s n g.phys ((base + 4 * (x.lead + 1)) * 512 + tile % (x.lead + 1) * 128) 128 ++ more else []
          let s := keepTile s n l.op g o tile bs sc
          let c := s.core n g.phys
          s.setCore n g.phys { c with array := some { a with
            kept := minsert a.kept (8 * tile + o) bs, scbytes := if mx then minsert a.scbytes (8 * tile + o) sc else a.scbytes } }
    | _, _ => s) s

/-- Place i of a unit, as the held stream tiles give it. -/
def keptPlace (a : ArrayTask) (op : Op) (g : GridCore) (o u i : Nat) : Nat :=
  let e := max 1 (perTile op o)
  let tile := u * perUnit op g o + i / e
  match mfind a.kept (8 * tile + o) with
  | some bs => takeBits bs (i % e * unitWidth op o) (unitWidth op o)
  | none => 0

/-- How many places of a unit are held. -/
def keptPlaces (a : ArrayTask) (op : Op) (g : GridCore) (o u : Nat) : Nat :=
  let per := perUnit op g o
  let got := ((List.range per).takeWhile fun i => (mfind a.kept (8 * (u * per + i) + o)).isSome).length
  min (got * perTile op o) (unitCount op g o)

/-- Whether a pass reads an operand that an earlier pass of its tile keeps (R214). -/
def fromKept (op : Op) (o ps : Nat) : Bool := keeps op o && servedBy op o ps != ps

/-- Place i of a unit as a pass reads it: from the stream tiles held, or, where an earlier pass keeps the operand, from the
array task's region (R214). -/
def unitPlace (s : State) (n : Nat) (op : Op) (g : GridCore) (a : ArrayTask) (o ps u i : Nat) : Nat :=
  if !fromKept op o ps then keptPlace a op g o u i
  else
    let e := max 1 (perTile op o)
    let w := unitWidth op o
    let p := keptPlaceBits op o i
    let b := p.1 - (keptPlaceBits op o (i / e * e)).1
    let at_ := 512 * keptRow op g (s.core n g.phys).ring + (keptSpot op (deviceByte s) g o (u * perUnit op g o + i / e)).1
    takeBits (csBytes s n g.phys (at_ + b / 8) 3) (b % 8) p.2 * 2 ^ (w - p.2)

/-- The block scale of a streamed, uncompressed operand for a line of a pass at a reduction index counted from the part's
first, at its coordinates (R186, R238, R250), as its tile brought it, or as it is kept. -/
def heldScale (s : State) (n : Nat) (op : Op) (g : GridCore) (a : ArrayTask) (o ps u dk lane : Nat) (x : List Int) : Option Byte :=
  let lanes := if o = 1 then 32 else passRows op
  let c := if o = 1 then slotsPerK op else 1
  let place := if o = 2 then lane else dk * c * lanes + lane
  let tile := u * perUnit op g o + place / max 1 (perTile op o)
  (scaleIx op (deviceByte s) g o tile lane x).bind fun ix =>
    if fromKept op o ps then
      (csBytes s n g.phys (512 * keptRow op g (s.core n g.phys).ring + (keptSpot op (deviceByte s) g o tile).2.2 + ix) 1).head?
    else (mfind a.scbytes (8 * tile + o)).bind (·[ix]?)

/-- The byte reader of a core's sparse map: of its entries that a stream brings, the bytes that the core's array task has taken
from its slots (R240, R290); elsewhere memory. -/
def mapByte (s : State) (n : Nat) (op : Op) (g : GridCore) (x : Nat) : Byte :=
  match op.map with
  | some m =>
    if !hasStream op 6 || x < m.base then deviceByte s x
    else
      let held := fun (b : ArrayTask) => if b.opId = op.opId then
          ((mapEntries op g).findIdx? fun e => decide (mapEntryAddr m e ≤ x) && decide (x < mapEntryAddr m e + 4)).bind fun i =>
            (mfind b.kept (8 * (i / 512) + 6)).bind fun bs => bs[4 * (i % 512) + (x - x / 4 * 4)]?
        else none
      let c := s.core n g.phys
      (((c.array.bind held).orElse fun _ => c.behind.bind fun b => held b.1)).getD (deviceByte s x)
  | none => deviceByte s x

/-- A rotated operand's bytes (R264 to R266): the home shard, or the rotation slot of the shard's hop; the layout
describes one shard at the home row. -/
def rotShift (op : Op) (g : GridCore) (o : Nat) (t : TileIx) : Option (Int × Nat) :=
  (op.rot.find? (·.slot == o)).map fun e =>
    let sh := shardOf op e g.j t.tn
    let d := (g.i + e.members - sh) % max 1 e.members
    let shift : Int := if d = 0 then 0 else 512 * (((e.recv + 4 * e.shard * ((d - 1) % 2) : Nat) : Int) - e.home)
    (shift, sh * (blockN op / max 1 e.members) + g.j * blockN op)

/-- The byte reader of an operand for a tile. -/
def tileByte (s : State) (n : Nat) (op : Op) (g : GridCore) (o : Nat) (l : Layout) (t : TileIx) : Nat → Byte :=
  match rotShift op g o t with
  | some (sh, _) => fun a => regionByte s n g (((a : Int) + sh).toNat)
  | none => slotByte s n op g o l

/-- Coordinates of an operand of a tile; a rotated operand's columns count from its shard's first. -/
def tileCoord (op : Op) (g : GridCore) (o : Nat) (t : TileIx) (row col k : Nat) : List Int :=
  match rotShift op g o t with
  | some (_, first) => coordOf op o { t with levels := t.levels.map fun p => p } row col k |> fun c =>
      match axisRun op 1 o with
      | some d => c.set d (c.getD d 0 - (first : Int) * ((axisLevels op 1).head?.map fun l => l.steps.getD o 0).getD 0)
      | none => c
  | none => coordOf op o t row col k

/-- A scale byte of a block at coordinates; under bcast_inner that of element 0's block (R183). -/
def scaleOf (s : State) (n : Nat) (op : Op) (g : GridCore) (o : Nat) (x : List Int) : Byte :=
  match op.scale o with
  | some sl => scaleAt (operandByte s n g sl) (some sl) ((op.layout o).elim x fun l => l.blockX x)
  | none => 127

/-- The block scale of an element of a pass: what its stream brought, else what memory or the region holds (R186, R238). -/
def passScale (s : State) (n : Nat) (op : Op) (g : GridCore) (a : ArrayTask) (o ps u dk lane : Nat) (x : List Int) : Byte :=
  if hasStream op o && (op.layout o).any (·.format.isMX) then
    (heldScale s n op g a o ps u dk lane (((op.layout o).elim x fun l => l.blockX x))).getD 127
  else scaleOf s n op g o x

/-- Activation value of a row of a pass at reduction index k. -/
def actValue (s : State) (n : Nat) (op : Op) (g : GridCore) (a : ArrayTask) (t : TileIx) (ps u r k : Nat) : Num :=
  match op.layout 0 with
  | none => .nan
  | some l =>
    let org := (tilePasses op).getD ps (0, 0)
    let x := tileCoord op g 0 t (org.1 + r) org.2 k
    if !inside l x then padNum op l
    else
      let dk := k - (partRange op g.p).1
      let code := if hasStream op 0 then unitPlace s n op g a 0 ps u (dk * passRows op + r)
        else readCode (tileByte s n op g 0 l t) l x
      decodeScaled l.format (passScale s n op g a 0 ps u dk r x) code

/-- The code of a weight from its held nibbles (R64): plane groups from the top. -/
def nibbleCode (w c : Nat) (nib : Nat → Nat) : Nat :=
  let v := (List.range c).foldl (fun acc q => acc * 16 + nib q) 0
  if w ≤ 4 * c then v / 2 ^ (4 * c - w) else v * 2 ^ (w - 4 * c)

/-- Weight value of a column of a pass at reduction index k, of an uncompressed operand. -/
def weightValue (s : State) (n : Nat) (op : Op) (g : GridCore) (a : ArrayTask) (t : TileIx) (ps u c k : Nat) : Num :=
  match op.layout 1 with
  | none => .nan
  | some l =>
    let org := (tilePasses op).getD ps (0, 0)
    let x := tileCoord op g 1 t org.1 (org.2 + c) k
    if !inside l x then padNum op l
    else
      let dk := k - (partRange op g.p).1
      let code :=
        if hasStream op 1 then
          if op.mode = 3 then bits (unitPlace s n op g a 1 ps u (dk / 4 * 32 + c)) (dk % 4) (dk % 4)
          else nibbleCode l.format.width (slotsPerK op) fun q => unitPlace s n op g a 1 ps u ((dk * slotsPerK op + q) * 32 + c)
        else readCode (tileByte s n op g 1 l t) l x
      decodeScaled l.format (passScale s n op g a 1 ps u dk c x) code

/-! ### Compressed weights (R277 to R283, R292) -/

/-- The stream tiles of the compressed tile of a step that serves a pass. -/
def compParts (s : State) (n : Nat) (op : Op) (g : GridCore) (q ps st : Nat) : List Nat :=
  ((compPlan op (mapByte s n op g) g).zipIdx.filter fun p =>
    p.1.1 == freshAt op g 1 q && p.1.2.1 == servedBy op 1 ps && p.1.2.2.1 == st).map (·.2)

/-- Where the compressed tile of a step that serves a pass begins, counted as its operand counts, and its header. -/
def compPlace (s : State) (n : Nat) (op : Op) (g : GridCore) (q ps st : Nat) : Option (Nat × TileHdr) :=
  match op.map, op.layout 1, (workTiles op g)[q]? with
  | some m, some l, some t => (dirEntry (mapByte s n op g) m (passGroup op t ps) st).map fun off =>
      (l.base + 16 * off, parseTile ((List.range 16).map fun b => operandByte s n g l (l.base + 16 * off + b)))
  | _, _, _ => none

/-- The compressed tile of a step of weights that stand in the core's region and come through no stream. -/
def compRegion (s : State) (n : Nat) (op : Op) (g : GridCore) (q ps st : Nat) : Option (List Byte) :=
  (op.layout 1).bind fun l => (compPlace s n op g q ps st).map fun p =>
    (List.range (16 + p.2.len)).map fun i => operandByte s n g l (p.1 + i)

/-- The bytes of the compressed tile of a step, once all its stream tiles are held, or from where an earlier pass keeps them
(R214, R298): header and payload. -/
def compBytes (s : State) (n : Nat) (op : Op) (g : GridCore) (a : ArrayTask) (q ps st : Nat) : Option (List Byte) :=
  let tiles := compParts s n op g q ps st
  if !hasStream op 1 then compRegion s n op g q ps st
  else if fromKept op 1 ps then
    if tiles.isEmpty then none
    else
      let at_ := 512 * keptRow op g (s.core n g.phys).ring
      some (tiles.flatMap fun x =>
        let spot := keptSpot op (mapByte s n op g) g 1 x
        csBytes s n g.phys (at_ + spot.1) spot.2.1)
  else
    let parts := tiles.map fun x => mfind a.kept (8 * x + 1)
    if tiles.isEmpty || parts.any Option.isNone then none else some (parts.flatMap fun b => b.getD [])

/-- Whether a step has a tile in the directory. -/
def compPresent (s : State) (n : Nat) (op : Op) (g : GridCore) (t : TileIx) (ps st : Nat) : Bool :=
  match op.map with
  | some m => (dirEntry (mapByte s n op g) m (passGroup op t ps) st).isSome
  | none => false

/-- The block scale of a line of a compressed tile at a reduction element, as the tile's stream brought it, or as it is kept
(R240, R284). -/
def compScale (s : State) (n : Nat) (op : Op) (g : GridCore) (a : ArrayTask) (q ps k c : Nat) : Byte :=
  let st := k / 512
  let tiles := compParts s n op g q ps st
  let z := k % 512 / 32 * 32 + c
  let at_ := fun (x : Nat × Nat) =>
    let r := compHalves tiles.length x.2
    if z < 64 * r.1 || 64 * r.2 ≤ z then none
    else if fromKept op 1 ps then
      (csBytes s n g.phys (512 * keptRow op g (s.core n g.phys).ring + (keptSpot op (mapByte s n op g) g 1 x.1).2.2 + (z - 64 * r.1)) 1).head?
    else (mfind a.scbytes (8 * x.1 + 1)).bind (·[z - 64 * r.1]?)
  if hasStream op 1 then (tiles.zipIdx.findSome? at_).getD 127
  else match (workTiles op g)[q]? with
    | some t => let org := (tilePasses op).getD ps (0, 0); scaleOf s n op g 1 (coordOf op 1 t org.1 (org.2 + c) k)
    | none => 127

/-- Where a tile is treated (R292). -/
inductive Engine where
  | none | arrays | sparse
deriving DecidableEq, Repr

def engineOf (op : Op) (h : TileHdr) : Engine :=
  match h.form with
  | 1 => if h.nnz = 0 && h.len = 0 then .none
         else if h.nnz = 0 then .sparse
         else if 16 * op.density ≤ h.nnz then .arrays else .sparse
  | _ => .arrays

/-- A weight of a compressed tile, line c, element e: none where it makes no addition (R113, R279, R280, R283,
R296). -/
def compValue (op : Op) (l : Layout) (scale : Byte) (bs : List Byte) (c e : Nat) : Option Num :=
  let h := parseTile bs
  let pay := bs.drop 16
  let f := l.format
  let w := f.width
  let dec := fun (code : Nat) => decodeScaled f (if h.smode = 1 then BitVec.ofNat 8 h.tscale else scale) code
  match h.form with
  | 0 => some (dec (planarCode w (pay.drop (64 * w * c)) e))
  | 1 =>
    if bit ((pay.getD (64 * c + e / 8) 0).toNat) (e % 8) then
      let before := popBytes (pay.take (64 * c + e / 8)) + popcount (bits (pay.getD (64 * c + e / 8) 0).toNat (e % 8) 0) - 1
      some (dec (takeBits (pay.drop 2048) (before * w) w))
    else if engineOf op h = .sparse then none else some (Num.zero false)
  | _ =>
    let line := pay.drop (c * (64 + 32 * w))
    let m := bits (line.getD (e / 8) 0).toNat (4 * (e / 4 % 2) + 3) (4 * (e / 4 % 2))
    if bit m (e % 4) then
      let low := popcount (m % 2 ^ (e % 4))
      let el := e / 4 * 2 + low
      let vs := line.drop 64
      some (dec ((List.range w).foldl (fun acc j => acc * 2 + b2n (bit ((vs.getD (32 * j + el / 8) 0).toNat) (el % 8))) 0))
    else none

/-! ### Cells -/

/-- A cell that starts from an accumulator value. -/
def Cell.start (isInt : Bool) (v : W32) : Cell := ⟨v, Num.expo (accNum isInt v), 0xFFFFFFFF⟩

/-- The greater of two exponents. -/
def maxExpo (a b : Option Int) : Option Int :=
  match a, b with
  | none, e => e
  | some x, none => some x
  | some x, some y => some (max x y)

/-- One addition to a cell (R84, R112, R118). -/
def Cell.addTerm (isInt : Bool) (c : Cell) (t : Num) : Cell :=
  let v := accAdd isInt c.acc t
  { c with acc := v, ex := maxExpo c.ex (Num.expo (accNum isInt v)) }

/-- One term of min or max mode (R96, R97). -/
def Cell.pickTerm (isInt isMax : Bool) (c : Cell) (t : Num) (k : W32) : Cell :=
  let v := if isInt then t else f32 (toF32 t)
  let held := accNum isInt c.acc
  let take := if isMax then Num.lt held v else Num.lt v held
  if take then { c with acc := if isInt then BitVec.ofNat 32 (match v with | .fin s m e => unsigned 32 (if s then -((m * 2 ^ e.toNat : Nat) : Int) else (m * 2 ^ e.toNat : Nat)) | _ => 0) else toF32 v, idx := k }
  else c

/-- The value of R88 that a mode starts from. -/
def defaultAcc (isInt : Bool) (mode : Nat) : W32 :=
  match mode with
  | 4 => if isInt then 0x7FFFFFFF else posInf32
  | 5 => if isInt then 0x80000000 else negInf32
  | _ => 0

/-- Exact sum of numbers. -/
def exactSum (xs : List Num) : Num := xs.foldl Num.add (Num.zero false)

/-- A pass with its preload (R84, R88, R100): preload values row by row. The exact sum that enters a 32-bit checksum
accumulator of a floating pass is rounded to it once, at the start of the pass: R100 names no rounding there (DESIGN
CHOICE). -/
def Pass.start (seq ps rows : Nat) (isInt : Bool) (pre : List W32) : Pass :=
  let cells := pre.map (Cell.start isInt)
  let num := fun (v : W32) => accNum isInt v
  let word := fun (x : Num) => if isInt then accAdd true 0 x else toF32 x
  let chk := fun (xs : List W32) => Cell.start isInt (word (exactSum (xs.map num)))
  { seq := seq, pass := ps, isInt := isInt, rows := rows, cells := cells,
    rowChk := (List.range (rows / 32)).flatMap fun a => (List.range 32).map fun c =>
      chk ((List.range 32).map fun r => pre.getD ((32 * a + r) * 32 + c) 0),
    colChk := (List.range rows).map fun r => chk ((List.range 32).map fun c => pre.getD (r * 32 + c) 0) }

/-- One term of a mode fed to a cell (R94 to R99). -/
def Cell.step (isInt : Bool) (mode : Nat) (kIdx : W32) (c : Cell) (a w : Num) : Cell :=
  match mode with
  | 0 => c.addTerm isInt (Num.mul a w)
  | 1 => c.addTerm isInt (Num.abs (Num.add a (Num.neg w)))
  | 2 => let d := Num.add a (Num.neg w); c.addTerm isInt (Num.mul d d)
  | 3 => c.addTerm isInt (if Num.eqv a w then Num.zero false else Num.ofInt 1)
  | 4 => c.pickTerm isInt false (Num.add a w) kIdx
  | _ => c.pickTerm isInt true (Num.add a w) kIdx

/-- One reduction element fed to a pass (R94 to R100, R294, R297): activations by row, weights by column, none where
a column makes no addition. In 2:4 execution the columns of one slot may name different positions; how the checksum
column then forms and orders its products is not stated, and the model makes one addition for each reduction element,
over the columns that name it (DESIGN CHOICE). -/
def Pass.feed (mode : Nat) (kIdx : W32) (acts : List Num) (wgts : List (Option Num)) (p : Pass) : Pass :=
  let cells := p.cells.zipIdx.map fun q =>
    match wgts.getD (q.2 % 32) none with
    | some w => q.1.step p.isInt mode kIdx (acts.getD (q.2 / 32) .nan) w
    | none => q.1
  if mode != 0 then { p with cells := cells }
  else
    let wsum := exactSum (wgts.filterMap id)
    let any := wgts.any Option.isSome
    { p with
      cells := cells
      rowChk := p.rowChk.zipIdx.map fun q =>
        match wgts.getD (q.2 % 32) none with
        | some w => q.1.addTerm p.isInt (Num.mul (exactSum ((acts.drop (32 * (q.2 / 32))).take 32)) w)
        | none => q.1
      colChk := p.colChk.zipIdx.map fun q =>
        if any then q.1.addTerm p.isInt (Num.mul (acts.getD q.2 .nan) wsum) else q.1 }

/-! ### Feeding a pass -/

/-- Whether an operand carries the 32-bit words of INT32 accumulators unconverted (R116). -/
def rawWords (op : Op) (l : Layout) : Bool := accInt op && l.format.fmt == 9

/-- The value of a word of an operand, as INT32 where it is one (R116, R194). -/
def wordValue (op : Op) (l : Layout) (pad : Bool) (scale : Byte) (code : Nat) : Num :=
  if rawWords op l then
    if !pad then Num.ofInt (signed 32 code)
    else match l.padKind with
      | 2 => Num.ofInt (-2147483648)
      | 3 => Num.ofInt (signed 32 l.padValue)
      | _ => padNum op l
  else if pad then padNum op l else decodeScaled l.format scale code

/-- A preload value as it enters an accumulator, and what its load raises (R67, R74, R115). -/
def preloadElem (s : State) (n : Nat) (op : Op) (g : GridCore) (a : ArrayTask) (t : TileIx) (l : Layout) (ps i : Nat) :
    W32 × Raised :=
  let isI := accInt op
  let org := (tilePasses op).getD ps (0, 0)
  let x := columnOf op (mapByte s n op g) t 2 (org.2 + i % 32) (coordOf op 2 t (org.1 + i / 32) (org.2 + i % 32) 0)
  let pad := !inside l x
  let u := unitIx op g 2 a.seq ps
  let code := if hasStream op 2 then keptPlace a op g 2 u i else readCode (slotByte s n op g 2 l) l x
  let sc := passScale s n op g a 2 ps u 0 i x
  let v := wordValue op l pad sc code
  (if isI then accAdd true 0 v else toF32 v,
    if pad || isI then {} else { overflow := loadOverflows v, scaleNan := l.format.isMX && sc == 0xFF })

/-- The preload values of a pass, row by row, with what their load raises (R88, R115, R121); none until its stream tiles
are held. -/
def preloadElems (s : State) (n : Nat) (op : Op) (g : GridCore) (a : ArrayTask) (t : TileIx) (ps : Nat) :
    Option (List (W32 × Raised)) :=
  let rows := passRows op
  if !op.preEn || g.p != 0 then some (List.replicate (rows * 32) (defaultAcc (accInt op) op.mode, {}))
  else match op.layout 2 with
    | none => none
    | some l =>
      if hasStream op 2 && keptPlaces a op g 2 (unitIx op g 2 a.seq ps) < unitCount op g 2 then none
      else some ((List.range (rows * 32)).map (preloadElem s n op g a t l ps))

/-- The preload values of a pass, and the flags that its load raises. -/
def preloadOf (s : State) (n : Nat) (op : Op) (g : GridCore) (a : ArrayTask) (t : TileIx) (ps : Nat) : Option (List W32) :=
  (preloadElems s n op g a t ps).map fun es => es.map Prod.fst
def preloadRaised (s : State) (n : Nat) (op : Op) (g : GridCore) (a : ArrayTask) (t : TileIx) (ps : Nat) : Raised :=
  ((preloadElems s n op g a t ps).getD []).foldl (fun r e => r.join e.2) {}

/-- Whether the arrivals that the remote operands wait for on entering a step of a tile have been taken (R167, R211). -/
def remoteAt (op : Op) (g : GridCore) (rem : List (Nat × W32 × Nat)) (q i : Nat) : Bool :=
  rem.all fun r => decide (arrivalsAsked op g r.1 q i ≤ r.2.2)

/-- Whether those of a tile's first step have been taken. -/
def remoteReady (op : Op) (g : GridCore) (rem : List (Nat × W32 × Nat)) (q : Nat) : Bool := remoteAt op g rem q 0

/-- Whether a member holds the shard of a tile of a rotated operand: its home shard, or one received whole (R265, R266). -/
def shardHere (s : State) (n : Nat) (op : Op) (g : GridCore) (t : TileIx) : Bool :=
  op.rot.all fun e =>
    let d := (g.i + e.members - shardOf op e g.j t.tn) % max 1 e.members
    decide (d * e.shard ≤ rotCount s n op.opId g e.slot)

/-- How far, in reduction elements from the part's first, the operands of the pass at hand are held: its stream tiles, the map's
entries, the shard of a rotated operand, the arrivals of the remote ones. -/
def heldTo (s : State) (n : Nat) (op : Op) (g : GridCore) (a : ArrayTask) (t : TileIx) (ps : Nat) : Nat :=
  let k := kPart op g.p
  let act := if hasStream op 0 && !fromKept op 0 ps then keptPlaces a op g 0 (unitIx op g 0 a.seq ps) / passRows op else k
  let wgt :=
    if fromKept op 1 ps then k
    else if compressed op then
      let lo := (partRange op g.p).1 / 512
      let steps := ((List.range (cdiv k 512)).takeWhile fun i =>
        !compPresent s n op g t ps (lo + i) || (compBytes s n op g a a.seq ps (lo + i)).isSome).length
      min k (512 * steps)
    else if hasStream op 1 then keptPlaces a op g 1 (unitIx op g 1 a.seq ps) / 32 / slotsPerK op * dimsPerSlot op
    else k
  let map := if !compressed op || !hasStream op 6 then k
    else
      let grp := passGroup op t ps
      let mine := (mapEntries op g).zipIdx.filter fun e =>
        if e.1 % 2 = 0 then e.1 / 2 / max 1 ((op.map.map (·.ksteps)).getD 1) == grp else e.1 / 2 / 32 == grp
      if mine.all fun e => decide (e.2 < keptPlaces a op g 6 0) then k else 0
  let steps := ((List.range (kSteps op g.p)).takeWhile fun i => remoteAt op g a.remote a.seq i).length
  if shardHere s n op g t then min (min k (512 * steps)) (min map (min act wgt)) else 0

/-- The sparse tile counters of the steps a feed enters (R292, R315). -/
def countSteps (s : State) (n : Nat) (op : Op) (g : GridCore) (a : ArrayTask) (t : TileIx) (ps k0 k1 : Nat) : State :=
  if !compressed op then s
  else
    let lo := (partRange op g.p).1 / 512
    (List.range (cdiv k1 512 - cdiv k0 512)).foldl (fun s i =>
      let st := lo + cdiv k0 512 + i
      if !compPresent s n op g t ps st then count64 s (Reg.chSparseSkipTileCount n) 1
      else match compBytes s n op g a a.seq ps st with
        | none => s
        | some bs => match engineOf op (parseTile bs) with
          | .none => count64 s (Reg.chSparseSkipTileCount n) 1
          | .arrays => count64 s (Reg.chSparseArrayTileCount n) 1
          | .sparse => count64 s (Reg.chSparseSuTileCount n) 1) s

/-- The weights of a reduction element, column by column. -/
def weightRow (s : State) (n : Nat) (op : Op) (g : GridCore) (a : ArrayTask) (t : TileIx) (ps k : Nat) : List (Option Num) :=
  if compressed op then
    match op.layout 1 with
    | none => []
    | some l =>
      let st := k / 512
      if !compPresent s n op g t ps st then List.replicate 32 none
      else match compBytes s n op g a a.seq ps st with
        | none => List.replicate 32 none
        | some bs =>
          if engineOf op (parseTile bs) = .none then List.replicate 32 none
          else
            (List.range 32).map fun c =>
              compValue op l (compScale s n op g a a.seq ps k c) bs c (k % 512)
  else
    let u := unitIx op g 1 a.seq ps
    (List.range 32).map fun c => some (weightValue s n op g a t ps u c k)

/-- A scale byte 0xFF among those of a compressed tile's lines at a reduction element (R74, R284): the tile's own scale, or
the block scales of its columns. -/
def compScaleNan (s : State) (n : Nat) (op : Op) (g : GridCore) (a : ArrayTask) (t : TileIx) (ps k : Nat) : Bool :=
  match op.layout 1, compBytes s n op g a a.seq ps (k / 512) with
  | some l, some bs =>
    let h := parseTile bs
    let org := (tilePasses op).getD ps (0, 0)
    l.format.isMX && engineOf op h != .none && (if h.smode = 1 then h.tscale == 0xFF
      else (List.range 32).any fun c =>
        let x := coordOf op 1 t org.1 (org.2 + c) k
        inside l x && compScale s n op g a a.seq ps k c == 0xFF)
  | _, _ => false

/-- A scale byte 0xFF among the operands of a reduction element (R74). -/
def scaleNanAt (s : State) (n : Nat) (op : Op) (g : GridCore) (a : ArrayTask) (t : TileIx) (ps k : Nat) : Bool :=
  let org := (tilePasses op).getD ps (0, 0)
  let dk := k - (partRange op g.p).1
  let bad := fun (o lane : Nat) (x : List Int) => match op.layout o with
    | some l => l.format.isMX && inside l x && passScale s n op g a o ps (unitIx op g o a.seq ps) dk lane x == 0xFF
    | none => false
  (List.range (passRows op)).any (fun r => bad 0 r (tileCoord op g 0 t (org.1 + r) org.2 k))
    || (if compressed op then compScaleNan s n op g a t ps k
        else (List.range 32).any fun c => bad 1 c (tileCoord op g 1 t org.1 (org.2 + c) k))

/-- Reduction elements k0 to k1 - 1, counted from the part's first, fed to a pass in ascending order (R118). -/
def feedRange (s : State) (n : Nat) (op : Op) (g : GridCore) (a : ArrayTask) (t : TileIx) (k0 k1 : Nat) (p : Pass) : Pass :=
  let lo := (partRange op g.p).1
  let u := unitIx op g 0 a.seq p.pass
  (List.range (k1 - k0)).foldl (fun p i =>
    let k := lo + k0 + i
    let acts := (List.range p.rows).map fun r => actValue s n op g a t p.pass u r k
    p.feed op.mode (BitVec.ofNat 32 (unsigned 32 ((k : Int) + op.indexBase))) acts (weightRow s n op g a t p.pass k)) p

/-- The region words, counted from the region's first, that an element of an operand without a stream is read from: its
own and that of its block's scale (R140, R144). -/
def elemReads (op : Op) (g : GridCore) (t : TileIx) (o : Nat) (l : Layout) (x : List Int) : List Nat :=
  if !inside l x then []
  else
    let sh : Int := ((rotShift op g o t).map (·.1)).getD 0
    (elemWords l x l.format.read).map (fun (w : Nat) => ((w : Int) + sh / 16).toNat) ++
      (match l.format.isMX, op.scale o with
      | true, some sl =>
        let y := l.blockX x
        if sl.space then [scalePlace sl y / 16] else []
      | _, _ => [])

/-- The core store words, as row and word, that the operands without a stream are read from for reduction elements
k0 to k1 - 1 of a pass, each once. -/
def feedWords (s : State) (n : Nat) (op : Op) (g : GridCore) (t : TileIx) (q ps k0 k1 : Nat) : List (Nat × Nat) :=
  let lo := (partRange op g.p).1
  let org := (tilePasses op).getD ps (0, 0)
  let ks := (List.range (k1 - k0)).map fun (i : Nat) => lo + k0 + i
  let of := fun (o lines : Nat) (coord : Nat → Nat → List Int) => match op.layout o with
    | some l => if !l.space || hasStream op o then []
        else (List.range lines).flatMap fun (r : Nat) => (ks.flatMap fun (k : Nat) => elemReads op g t o l (coord r k)).eraseDups
    | none => []
  -- compressed weights without a stream: their tiles of the steps at hand, and their block scales in the region
  let comp := match op.layout 1 with
    | some l => if !l.space || hasStream op 1 then []
        else ((List.range (cdiv k1 512 - k0 / 512)).flatMap fun i => match compPlace s n op g q ps (lo / 512 + k0 / 512 + i) with
          | some p => wordsOf p.1 (16 + p.2.len)
          | none => []) ++ (match op.scale 1 with
            | some sl => if sl.space then (ks.flatMap fun (k : Nat) => (List.range 32).map fun (c : Nat) =>
                scalePlace sl (coordOf op 1 t org.1 (org.2 + c) k) / 16).eraseDups else []
            | none => [])
    | none => []
  let ws := of 0 (passRows op) (fun r k => tileCoord op g 0 t (org.1 + r) org.2 k) ++
    (if compressed op then comp else of 1 32 fun c k => tileCoord op g 1 t org.1 (org.2 + c) k)
  ws.eraseDups.map fun (w : Nat) => (g.base + w / 32, w % 32)

/-- The words of the kept area that a pass reads for reduction elements k0 to k1 - 1 (R144, R214). -/
def keptWords (s : State) (n : Nat) (op : Op) (g : GridCore) (q ps k0 k1 : Nat) : List (Nat × Nat) :=
  let at_ := 512 * keptRow op g (s.core n g.phys).ring
  let spot := fun (o tile : Nat) => keptSpot op (deviceByte s) g o tile
  let range := fun (off len : Nat) => (wordsOf (at_ + off) len).map fun w => (w / 32, w % 32)
  (List.range 2).flatMap fun o =>
    if !fromKept op o ps || k1 ≤ k0 then []
    else if o = 1 && compressed op then
      (List.range (cdiv k1 512 - k0 / 512)).flatMap fun i =>
        (compParts s n op g q ps ((partRange op g.p).1 / 512 + k0 / 512 + i)).flatMap fun x => range (spot 1 x).1 (spot 1 x).2.1
    else
      let per := if o = 0 then passRows op * unitWidth op 0 else 32 * ((op.layout 1).elim 4 fun l => l.format.read)
      range ((spot o (unitIx op g o q ps * perUnit op g o)).1 + k0 * per / 8) (cdiv ((k1 - k0) * per) 8)

/-- The words that the preload of a pass is read from. -/
def preloadWords (op : Op) (g : GridCore) (t : TileIx) (ps : Nat) : List (Nat × Nat) :=
  let org := (tilePasses op).getD ps (0, 0)
  if !op.preEn || g.p != 0 then [] else match op.layout 2 with
    | some l => if !l.space || hasStream op 2 then []
        else (((List.range (passRows op * 32)).flatMap fun (i : Nat) =>
          elemReads op g t 2 l (coordOf op 2 t (org.1 + i / 32) (org.2 + i % 32) 0)).eraseDups).map fun (w : Nat) =>
            (g.base + w / 32, w % 32)
    | none => []

/-- Words that a task reads through the port: inside its region, held by no other task, decoded (R144, R152, R154). -/
def regionRead (s : State) (n : Nat) (g : GridCore) (t : Nat) (ws : List (Nat × Nat)) : State × Bool :=
  match outsideRegion g.base g.len ws with
  | some w => (boundFault s n g.phys t w.1 w.2, false)
  | none => if wordsWait (s.core n g.phys) t false ws then (scoreHeld s n, false) else taskRead s n g.phys t ws

/-- The least rows and words that hold a list of words. -/
def wordsRect : List (Nat × Nat) → Option (Nat × Nat × Nat × Nat)
  | [] => none
  | w :: r => some (r.foldl (fun q x => (min q.1 x.1, max q.2.1 x.1, min q.2.2.1 x.2, max q.2.2.2 x.2)) (w.1, w.1, w.2, w.2))

/-- The result area of a dot-mode pass in the core's own store (R121, R153): the destination's elements and their scales,
or a part-0 core's slot of the part area. -/
def passRect (s : State) (n : Nat) (op : Op) (g : GridCore) (t : TileIx) (seq ps : Nat) : Option (Nat × Nat × Nat × Nat) :=
  if op.mode != 0 then none
  else if 1 < op.parts then
    if g.p != 0 then none
    else
      let base := fld s (Reg.coreRecvWindow n g.phys 7) 8 0 * 512 + 4 * (seq % 2 * (op.parts * (tileRows op * tileCols op)))
      wordsRect ((wordsOf base (4 * (tileRows op * tileCols op))).map fun w => (w / 32, w % 32))
  else match op.layout 3 with
    | some l => if !l.space then none
        else
          let org := (tilePasses op).getD ps (0, 0)
          let at_ := fun (i : Nat) => permuted (op.slot 3).xform
            (columnOf op (mapByte s n op g) t 3 (org.2 + i % 32) (coordOf op 3 t (org.1 + i / 32) (org.2 + i % 32) 0))
          wordsRect (((List.range (passRows op * 32)).flatMap fun i => elemReads op g t 3 l (at_ i)).map fun w =>
            (g.base + w / 32, w % 32))
    | none => none

/-- The swap registers take the preload of the pass that comes next, once it is held (R84, R88). -/
def loadSwap (s : State) (n : Nat) (l : LoadedOp) (g : GridCore) : State :=
  match (s.core n g.phys).array with
  | none => s
  | some a =>
    if a.swap.isSome || a.cur.isSome || a.halted.isSome || !remoteReady l.op g a.remote a.seq then s
    else match (workTiles l.op g)[a.seq]? with
      | none => s
      | some t => match preloadOf s n l.op g a t a.pass with
        | none => s
        | some pre => match regionRead s n g 0 (preloadWords l.op g t a.pass) with
          | (s, false) => s
          | (s, true) =>
            let s := noteRaised s n (preloadRaised s n l.op g a t a.pass)
            let c := s.core n g.phys
            let p := Pass.start a.seq a.pass (passRows l.op) (accInt l.op) pre
            s.setCore n g.phys { c with array := c.array.map fun a => { a with swap := some p } }

/-- A pass starts from the swap registers when an entry of the store path is free (R85, R90), and enters its result area
(R153). -/
def startPass (s : State) (n : Nat) (l : LoadedOp) (g : GridCore) : State :=
  match (s.core n g.phys).array with
  | none => s
  | some a => match a.cur, a.swap, (workTiles l.op g)[a.seq]? with
    | none, some p, some t =>
      if 2 ≤ a.awaiting.length + ((s.core n g.phys).behind.elim 0 fun b => b.1.awaiting.length) then s
      else
        let rect := passRect s n l.op g t a.seq a.pass
        if rect.isSome && decide (16 ≤ (s.core n g.phys).score.length) then scoreHeld s n
        else
          let s := match rect with
            | some (r0, r1, j0, j1) => scoreEnter s n g.phys ⟨0, a.seq, a.pass, true, r0, r1, j0, j1⟩
            | none => s
          let c := s.core n g.phys
          s.setCore n g.phys { c with array := some { a with cur := some p, swap := none } }
    | _, _, _ => s

/-- The pass at hand fed as far as its operands are held; once it has them all it drains into the store path. -/
def feedPass (s : State) (n : Nat) (l : LoadedOp) (g : GridCore) : State :=
  match (s.core n g.phys).array with
  | none => s
  | some a => match a.cur, (workTiles l.op g)[a.seq]? with
    | some p, some t =>
      let k1 := heldTo s n l.op g a t a.pass
      match regionRead s n g 0 (feedWords s n l.op g t a.seq a.pass a.kpos k1 ++ keptWords s n l.op g a.seq a.pass a.kpos k1) with
      | (s, false) => s
      | (s, true) =>
        let s := countSteps s n l.op g a t a.pass a.kpos k1
        let p := feedRange s n l.op g a t a.kpos k1 p
        let nan := (List.range (k1 - a.kpos)).any fun i => scaleNanAt s n l.op g a t a.pass ((partRange l.op g.p).1 + a.kpos + i)
        let s := noteRaised s n { scaleNan := nan }
        let c := s.core n g.phys
        let a' :=
          if k1 = kPart l.op g.p then
            let next := if a.pass + 1 = (tilePasses l.op).length then (a.seq + 1, 0) else (a.seq, a.pass + 1)
            { a with cur := none, awaiting := a.awaiting ++ [p], kpos := 0, seq := next.1, pass := next.2 }
          else { a with cur := some p, kpos := k1 }
        s.setCore n g.phys { c with array := some a' }
    | _, _ => s

/-- The array task takes what its rings hold, loads its swap registers, and feeds the pass at hand (R84, R85, R87, R90,
R118); behind a pass that drains, the swap registers take the next preload. -/
def feedArrays (s : State) (n : Nat) (l : LoadedOp) (g : GridCore) : State :=
  loadSwap (feedPass (startPass (loadSwap (takeTiles s n l g) n l g) n l g) n l g) n l g

/-! ### Checksums (R100, R101) -/

/-- A pass with disturbed accumulators, as its results reach the bottom edge. -/
def Pass.disturb (p : Pass) : List Disturb → Pass
  | [] => p
  | d :: r =>
    let put := fun (cs : List Cell) (i : Nat) => cs.mapIdx fun j c => if j = i then { c with acc := d.value } else c
    Pass.disturb (
      if d.row = 32 then { p with rowChk := put p.rowChk (32 * d.array.val + d.col) }
      else if d.col = 32 then { p with colChk := put p.colChk (32 * d.array.val + d.row) }
      else { p with cells := put p.cells ((32 * d.array.val + d.row) * 32 + d.col) }) r

/-- ceil(log2 x). -/
def clog2 (x : Nat) : Nat := if x ≤ 1 then 0 else Nat.log2 (x - 1) + 1

/-- One comparison: the sum of 32 accumulators against their checksum cell (R101). True on a mismatch. -/
def mismatch (isInt : Bool) (guard k : Nat) (xs : List Cell) (x : Cell) : Bool :=
  if isInt then (xs.foldl (fun (a : W32) c => a + c.acc) 0) != x.acc
  else
    let all := xs ++ [x]
    if all.any fun c => (f32 c.acc).isNaN || (f32 c.acc).isInf then false
    else
      let sum := match xs with
        | [] => 0
        | c :: r => r.foldl (fun a c => fadd a c.acc) c.acc
      let diff := Num.abs (Num.add (f32 sum) (Num.neg (f32 x.acc)))
      match all.foldl (fun e c => maxExpo e c.ex) none with
      | none => !diff.isZero
      | some e => Num.lt (.fin false 1 (e - 24 + clog2 (k + 64) + guard)) diff

/-- Failing columns and rows of an array of a pass. -/
def Pass.failures (p : Pass) (guard k arr : Nat) : List Nat × List Nat :=
  let cell := fun (r c : Nat) => p.cells.getD ((32 * arr + r) * 32 + c) ⟨0, none, 0⟩
  let cols := (List.range 32).filter fun c =>
    mismatch p.isInt guard k ((List.range 32).map fun r => cell r c) (p.rowChk.getD (32 * arr + c) ⟨0, none, 0⟩)
  let rows := (List.range 32).filter fun r =>
    mismatch p.isInt guard k ((List.range 32).map fun c => cell r c) (p.colChk.getD (32 * arr + r) ⟨0, none, 0⟩)
  (cols, rows)

/-- The uncommitted passes of an array task discarded: the task stands at the first of them (R103, R576). -/
def ArrayTask.discard (a : ArrayTask) : ArrayTask :=
  match a.awaiting with
  | p :: _ => { a with seq := p.seq, pass := p.pass, kpos := 0, cur := none, swap := none, awaiting := [], pair := none }
  | [] => { a with kpos := 0, cur := none, swap := none, pair := none }

/-- A core fault (R103, R107, R108): the core stops, its uncommitted passes are discarded, the mismatch is counted
and recorded, the fault is posted. -/
def coreFault (s : State) (n : Nat) (g : GridCore) (id : W32) (arr : Nat) (cols rows : List Nat) : State :=
  let s := count32 s (Reg.chChkMismatchCount n) 1
  let s := recordOnce s (Reg.chChkLast n)
    (g.log * 2 ^ 53 + arr * 2 ^ 52 + b2n (!cols.isEmpty) * 2 ^ 51 + b2n (!rows.isEmpty) * 2 ^ 50
      + cols.headD 0 * 2 ^ 45 + rows.headD 0 * 2 ^ 40 + id.toNat)
  let s := scoreLeave s n g.phys 0
  let c := s.core n g.phys
  let s := s.setCore n g.phys { c with array := c.array.map fun a => { a.discard with halted := some .data } }
  beginRecovery (post s n 0x07 id [(10, g.log)]) n (.core g.log)

/-! ### The cancellation monitor (R130 to R134) -/

/-- The shortfall of a result that is to be counted: 0xFF for a zero. -/
def shortfall (ex : Option Int) (v : W32) : Option Nat :=
  match f32 v, ex with
  | .fin _ 0 _, some _ => some 0xFF
  | .fin s m e, some x =>
    (match Num.expo (.fin s m e) with
    | some r => if 24 ≤ x - r then some (min 0xFF (x - r).toNat) else none
    | none => none)
  | _, _ => none

/-- Counted results of one cycle's store: core, source, array, part, row, column, shortfall. -/
def noteCancel (s : State) (n log source arr part row col short : Nat) (id : W32) (tile : Nat) : State :=
  let s := count32 s (Reg.chCancelMonCount n) 1
  if flag s (Reg.chCancelMonLast n) 63 then s
  else
    let s := wr s (Reg.chCancelMonLast n) (BitVec.ofNat 64 (2 ^ 63 + log * 2 ^ 53 + source * 2 ^ 52 + arr * 2 ^ 51
      + part * 2 ^ 50 + (row % 32) * 2 ^ 45 + (col % 32) * 2 ^ 40 + short * 2 ^ 32 + id.toNat))
    wr s (Reg.chCancelMonTile n) (BitVec.ofNat 64 (tile % 2 ^ 32))

/-! ### Commit -/

/-- The part-0 core of a block. -/
def partCore (l : LoadedOp) (g : GridCore) : GridCore := (l.grid.find? fun h => h.i == g.i && h.j == g.j && h.p == 0).getD g

/-- Byte offset, in the store of the part-0 core, of an element of the part area (R698). Within a slot the sums of a tile,
and their indices, stand row by row: the rule gives only the slot's size (DESIGN CHOICE). -/
def partAddr (s : State) (n : Nat) (op : Op) (h : GridCore) (t p r c : Nat) (idx : Bool) : Nat :=
  let base := fld s (Reg.coreRecvWindow n h.phys 7) 8 0 * 512
  let mn := tileRows op * tileCols op
  let per := if op.mode = 4 || op.mode = 5 then 2 * op.parts * mn else op.parts * mn
  base + 4 * (t % 2 * per + (if idx then op.parts * mn else 0) + p * mn + r * tileCols op + c)

/-- A part's store of a pass into the part area (R121, R698). -/
def storePart (s : State) (n : Nat) (l : LoadedOp) (g : GridCore) (p : Pass) : State × Option Stop :=
  let h := partCore l g
  let org := (tilePasses l.op).getD p.pass (0, 0)
  let bits := p.cells.zipIdx.flatMap fun q =>
    let r := org.1 + q.2 / 32
    let c := org.2 + q.2 % 32
    (8 * (storeBase n h.phys + partAddr s n l.op h p.seq g.p r c false), 32, q.1.acc.toNat) ::
      (if l.op.mode = 4 || l.op.mode = 5 then
        [(8 * (storeBase n h.phys + partAddr s n l.op h p.seq g.p r c true), 32, q.1.idx.toNat)] else [])
  let ws := gatherBits bits
  match storeWords s n g 0 l.op.opId ws with
  | (s, some e) => (haltStore s n g 0 l.op.opId e, some e)
  | (s, none) => (s, none)

/-- The results of a pass with their source coordinates, row by row; a compressed operand's columns are written at
their original columns (R288). -/
def passResults (s : State) (n : Nat) (op : Op) (g : GridCore) (t : TileIx) (o : Nat) (p : Pass) (val : Nat → Cell → Num) : List Res :=
  let org := (tilePasses op).getD p.pass (0, 0)
  p.cells.zipIdx.map fun q =>
    let r := org.1 + q.2 / 32
    let c := org.2 + q.2 % 32
    ⟨columnOf op (mapByte s n op g) t o c (coordOf op o t r c 0), val q.2 q.1⟩

/-- The store scale of a column of a pass (R68, R117, R288). -/
def storeScale (s : State) (n : Nat) (op : Op) (g : GridCore) (a : ArrayTask) (t : TileIx) (seq ps c : Nat) : Num :=
  match op.layout 5 with
  | none => Num.ofInt 1
  | some l =>
    if hasStream op 5 then f32 (a.scales.getD (32 * unitIx op g 5 seq ps + c) 0)
    else
      let org := (tilePasses op).getD ps (0, 0)
      let x := columnOf op (mapByte s n op g) t 5 (org.2 + c) (coordOf op 5 t org.1 (org.2 + c) 0)
      if inside l x then f32 (BitVec.ofNat 32 (readCode (slotByte s n op g 5 l) l x)) else padNum op l

/-- Whether a result is stored: its destination lies within the extents (R201). -/
def liveResult (op : Op) (o : Nat) (x : List Int) : Bool :=
  match op.layout o with
  | some l => inside l (permuted (op.slot o).xform x)
  | none => false

/-- The monitor over a committed dot-mode pass: array A before B, rows and columns ascending (R131, R133). A whole pass
counts as one cycle: which 64 results fall in one cycle is not given (DESIGN CHOICE). -/
def monitorPass (s : State) (n : Nat) (l : LoadedOp) (g : GridCore) (t : TileIx) (p : Pass) : State :=
  if l.op.mode != 0 || p.isInt then s
  else
    let rs := passResults s n l.op g t 3 p fun _ c => f32 c.acc
    (p.cells.zip rs).zipIdx.foldl (fun s q =>
      if !liveResult l.op 3 q.1.2.x then s
      else match shortfall q.1.1.ex q.1.1.acc with
        | some sh => noteCancel s n g.log 0 (q.2 / 1024) (b2n (decide (1 < l.op.parts))) (q.2 / 32 % 32) (q.2 % 32) sh
            l.op.opId (tileIndex l.op t)
        | none => s) s

/-- A finished core noted (R219): a part-0 core closes its window 7 (R698). -/
def finishCore (s : State) (n : Nat) (id : W32) (log : Nat) : State :=
  match findOp s n id with
  | some l =>
    if l.finished.contains log then s
    else
      let s := putOp s n id { l with finished := l.finished ++ [log] }
      match gridCore l log with
      | some g => if g.p = 0 && decide (0 < partRows l.op) then setFlag s (Reg.coreRecvWindow n g.phys 7) 31 false else s
      | none => s
  | none => s

/-- The store scales of a pass read from the region, where they come through no stream (R144). -/
def scaleReads (s : State) (n : Nat) (op : Op) (g : GridCore) (t : TileIx) (ps cols : Nat) : State × Bool :=
  match op.layout 5 with
  | some l =>
    if !(op.slot 5).en || hasStream op 5 || !l.space then (s, true)
    else
      let org := (tilePasses op).getD ps (0, 0)
      let ws := ((List.range cols).flatMap fun c =>
        elemReads op g t 5 l (columnOf op (mapByte s n op g) t 5 (org.2 + c) (coordOf op 5 t org.1 (org.2 + c) 0))).eraseDups
      regionRead s n g 0 (ws.map fun (w : Nat) => (g.base + w / 32, w % 32))
  | none => (s, true)

/-- The tiles whose parts a part-0 core has combined in an operation, its array task or the one that drains behind it. -/
def combinedOf (c : Core) (id : W32) : Nat :=
  match c.array, c.behind with
  | some a, b => if a.opId == id then a.combined else (b.map (·.1.combined)).getD 0
  | none, b => (b.map (·.1.combined)).getD 0

/-- A pass's results written in full (R102, R121, R163): through store conversion, or as a part. It is answered
whether they were. -/
def commitPass (s : State) (n : Nat) (l : LoadedOp) (g : GridCore) (a : ArrayTask) (p : Pass) : State × Bool :=
  match (workTiles l.op g)[p.seq]? with
  | none => (s, true)
  | some t =>
    let last := p.pass + 1 = (tilePasses l.op).length
    if 1 < l.op.parts then
      let h := partCore l g
      let read := combinedOf (s.core n h.phys) l.op.opId
      if read + 2 ≤ p.seq then (s, false)
      else match storePart s n l g p with
        | (s, some _) => (s, false)
        | (s, none) =>
          let s := monitorPass s n l g t p
          let src := 4 * (800 * n + g.phys)
          (if !last then underWay s n h.phys 7 src
            else if p.pass = 0 then arriveAt s n h.phys 7 else endTransfer s n h.phys 7 src, true)
    else
      let isI := p.isInt
      let raw := (l.op.layout 3).any (rawWords l.op)
      match scaleReads s n l.op g t p.pass 32 with
      | (s, false) => (s, false)
      | (s, true) =>
      let vals := fun (i : Nat) (c : Cell) =>
        if (l.op.slot 5).en then Num.mul (accNum isI c.acc) (storeScale s n l.op g a t p.seq p.pass (i % 32)) else accNum isI c.acc
      match storeResults s n g 0 l.op 3 raw (passResults s n l.op g t 3 p vals) with
      | (s, _, some _) => (s, false)
      | (s, ws, none) =>
        let r := if l.op.idxEn then storeResults s n g 0 l.op 4 true (passResults s n l.op g t 4 p fun _ c => i32 c.idx)
          else (s, [], none)
        match r with
        | (s, _, some _) => (s, false)
        | (s, ws', none) =>
          let s := monitorPass s n l g t p
          let c := s.core n g.phys
          let before := (c.array.map (·.arrive)).getD none
          let best := lower before (lowest (ws ++ ws'))
          let s := s.setCore n g.phys { c with array := c.array.map fun a => { a with arrive := if last then none else best } }
          (partStored s n g.phys (4 * (800 * n + g.phys)) l.op.arrive before best last, true)

/-- The awaiting pass at the front leaves the store path; a core whose last pass is written has finished, unless it
still combines. -/
def retirePass (s : State) (n : Nat) (l : LoadedOp) (g : GridCore) (p : Pass) : State :=
  let c := s.core n g.phys
  let s := s.setCore n g.phys { c with array := c.array.map fun a => { a with awaiting := a.awaiting.drop 1, halted := none } }
  let s := scoreDone s n g.phys p.seq p.pass
  let lastOne := p.seq + 1 = (workTiles l.op g).length && p.pass + 1 = (tilePasses l.op).length
  if lastOne && !(decide (1 < l.op.parts) && g.p = 0) then finishCore s n l.op.opId g.log else s

/-- The reduction length of a pass; for pair records, that of their producer (R101, R299). -/
def passLen (s : State) (n : Nat) (op : Op) (g : GridCore) : Nat :=
  if op.kind = 2 then
    match (findOp s n (BitVec.ofNat 32 (bits (op.kword 0) 63 32))).bind fun p => p.op.layout 0 with
    | some l => l.extent 0
    | none => 0
  else kPart op g.p

/-- The awaiting pass at the front: compared in dot mode, then committed or failed (R101 to R104, R106). Where both
arrays of a pass fail, array A is the one recorded: R108 names none (DESIGN CHOICE). -/
def comparePass (s : State) (n : Nat) (l : LoadedOp) (g : GridCore) (ds : List Disturb) : State :=
  let c := s.core n g.phys
  match c.array with
  | none => s
  | some a =>
    match a.awaiting with
    | [] => s
    | p0 :: _ =>
      let p := p0.disturb ds
      let k := passLen s n l.op g
      let guard := fld s (Reg.chChkCtrl n) 7 4
      let arrs := List.range (p.rows / 32)
      let fails := if l.op.mode = 0 && flag s (Reg.chChkCtrl n) 0 then
          arrs.filterMap fun x => let f := p.failures guard k x; if f.1.isEmpty && f.2.isEmpty then none else some (x, f)
        else []
      match fails with
      | (x, f) :: _ => coreFault s n g l.op.opId x f.1 f.2
      | [] => match commitPass s n l g a p with
        | (s, false) => s
        | (s, true) => retirePass s n l g p

/-! ### The combine of parts (R122, R698) -/

/-- A word of the part area. -/
def partWord (s : State) (n : Nat) (h : GridCore) (a : Nat) : W32 := BitVec.ofNat 32 (leNat (csBytes s n h.phys a 4))

/-- The combined value of an element with its largest exponent and its index: parts in ascending order. -/
def combineElem (isInt : Bool) (mode : Nat) (vs : List (W32 × W32)) : Cell :=
  match vs with
  | [] => ⟨0, none, 0⟩
  | v :: r =>
    if mode = 4 || mode = 5 then
      r.foldl (fun c x =>
        let held := accNum isInt c.acc
        let y := accNum isInt x.1
        if (if mode = 5 then Num.lt held y else Num.lt y held) then { c with acc := x.1, idx := x.2 } else c)
        ⟨v.1, none, v.2⟩
    else
      r.foldl (fun c x =>
        let c := { c with ex := maxExpo c.ex (Num.expo (accNum isInt x.1)) }
        c.addTerm isInt (accNum isInt x.1)) (Cell.start isInt v.1)

/-- The cells of a tile combined from their parts (R122). -/
def combineCells (s : State) (n : Nat) (l : LoadedOp) (g : GridCore) (t : Nat) : List Cell :=
  let cols := tileCols l.op
  let word := fun (p r c : Nat) (x : Bool) => partWord s n g (partAddr s n l.op g t p r c x)
  (List.range (tileRows l.op * cols)).map fun e =>
    combineElem (accInt l.op) l.op.mode ((List.range l.op.parts).map fun p =>
      (word p (e / cols) (e % cols) false,
        if l.op.mode = 4 || l.op.mode = 5 then word p (e / cols) (e % cols) true else 0))

/-- What a combine stores into an operand: each cell at its place. -/
def combineResults (s : State) (n : Nat) (l : LoadedOp) (g : GridCore) (tile : TileIx) (o : Nat) (val : Nat → Cell → Num) (cells : List Cell) :
    List Res :=
  cells.zipIdx.map fun q =>
    let r := q.2 / tileCols l.op
    let c := q.2 % tileCols l.op
    ⟨columnOf l.op (mapByte s n l.op g) tile o c (coordOf l.op o tile r c 0), val c q.1⟩

/-- A combined value with its store scale (R68, R130). -/
def combineValue (s : State) (n : Nat) (l : LoadedOp) (g : GridCore) (a : ArrayTask) (tile : TileIx) (c : Nat) (x : Cell) : Num :=
  let isI := accInt l.op
  if (l.op.slot 5).en then Num.mul (accNum isI x.acc) (storeScale s n l.op g a tile a.combined
    ((((tilePasses l.op).findIdx? fun o => o.2 == c / 32 * 32)).getD 0) (c % 32)) else accNum isI x.acc

/-- The stores of a combine: the results, and the indices where the operation keeps them; the words written, and why
they stopped. -/
def combineStore (s : State) (n : Nat) (l : LoadedOp) (g : GridCore) (a : ArrayTask) (tile : TileIx) :
    State × List (Nat × Nat × Nat) × Option Stop :=
  let cells := combineCells s n l g a.combined
  let raw := (l.op.layout 3).any (rawWords l.op)
  match storeResults s n g 0 l.op 3 raw (combineResults s n l g tile 3 (combineValue s n l g a tile) cells) with
  | (s, ws, some e) => (s, ws, some e)
  | (u, ws, none) =>
    if l.op.idxEn then
      match storeResults u n g 0 l.op 4 true (combineResults s n l g tile 4 (fun _ c => i32 c.idx) cells) with
      | (s, ws', e) => (s, ws ++ ws', e)
    else (u, ws, none)

/-- The words of the part area that a tile's combine reads. -/
def combineWords (s : State) (n : Nat) (l : LoadedOp) (g : GridCore) (t : Nat) : List (Nat × Nat) :=
  let mn := tileRows l.op * tileCols l.op
  let per := if l.op.mode = 4 || l.op.mode = 5 then 2 * l.op.parts * mn else l.op.parts * mn
  (wordsOf (partAddr s n l.op g t 0 0 0 false) (4 * per)).map fun w => (w / 32, w % 32)

/-- What a combine reads: the parts of its tile, and the store scales (R144). -/
def combineReads (s : State) (n : Nat) (l : LoadedOp) (g : GridCore) (tile : TileIx) (t : Nat) : State × Bool :=
  match taskRead s n g.phys 0 (combineWords s n l g t) with
  | (s, false) => (s, false)
  | (s, true) => scaleReads s n l.op g tile 0 (tileCols l.op)

/-- COMBINE (R122, R130): the parts of the next tile are combined on the part-0 core once counter 7 shows them all,
and the result is stored. The lane that a counted result is recorded with is its place in the tile, row by row, modulo
32: the rule does not say which lane an element takes (DESIGN CHOICE). -/
def opCombine (n log : Nat) (s : State) : State :=
  let i := arrayCore s n log
  let found := ((s.core n i).array.bind fun a => (findOp s n a.opId).map fun l => (a, l)).bind fun p =>
    (p.2.grid.find? (·.phys == i)).map fun g => (p.1, p.2, g)
  match found with
  | none => s
  | some (a, l, g) =>
    let t := a.combined
    let v := (mfind l.counter7 g.log).getD 0 + BitVec.ofNat 32 (l.op.parts * (t + 1))
    match (workTiles l.op g)[t]? with
    | none => s
    | some tile =>
      if l.op.parts ≤ 1 || g.p != 0 || l.stopped || a.halted.isSome || !reached s n i 7 v then s
      else match combineReads s n l g tile t with
      | (s, false) => s
      | (s, true) => match combineStore s n l g a tile with
        | (s, _, some _) => s
        | (u, ws, none) =>
          let cells := combineCells s n l g t
          let u := if l.op.mode != 0 || accInt l.op then u
            else (cells.zip (combineResults s n l g tile 3 (combineValue s n l g a tile) cells)).zipIdx.foldl (fun u q =>
              if !liveResult l.op 3 q.1.2.x then u
              else match shortfall q.1.1.ex q.1.1.acc with
                | some sh => noteCancel u n g.log 1 0 0 (q.2 % 32) 0 sh l.op.opId (tileIndex l.op tile)
                | none => u) u
          let u := arriveStore u n i l.op.arrive (lowest ws)
          let c := u.core n i
          let u := u.setCore n i { c with array := c.array.map fun a => { a with combined := t + 1 } }
          if t + 1 = (workTiles l.op g).length then finishCore u n l.op.opId g.log else u

end Sys2Proof.Machine
end

