-- ==== Sys2Proof/Machine/Estimates.lean ====
section
/-! DEFINITION. The estimates of the vector unit (R109): each exact value is enclosed between two fractions,
and the result is one of the FP32 codes within the accuracy that the table of R109 grants. Which of them it
is, the spec leaves open (`Config.estimate`). -/

namespace Sys2Proof.Machine

/-- An enclosure [lo, hi], in units of 2^-512. -/
structure Encl where
  lo : Int
  hi : Int
deriving DecidableEq, Repr

/-- One, in the enclosure's units. -/
def enclOne : Int := (2 ^ 512 : Nat)

/-- floor and ceiling of a quotient by a positive number. -/
def ceilDiv (a b : Int) : Int := -((-a) / b)

namespace Encl

def ofFrac (neg : Bool) (a b : Nat) : Encl :=
  let x : Int := (a * 2 ^ 512 : Nat)
  let y := if neg then -x else x
  ⟨y / (b : Int), ceilDiv y b⟩
def ofInt (k : Int) : Encl := ⟨k * enclOne, k * enclOne⟩
def add (a b : Encl) : Encl := ⟨a.lo + b.lo, a.hi + b.hi⟩
def neg (a : Encl) : Encl := ⟨-a.hi, -a.lo⟩
def mul (a b : Encl) : Encl :=
  let p := a.lo * b.lo
  let q := a.lo * b.hi
  let r := a.hi * b.lo
  let t := a.hi * b.hi
  ⟨min (min p q) (min r t) / enclOne, ceilDiv (max (max p q) (max r t)) enclOne⟩
def divNat (a : Encl) (n : Nat) : Encl := ⟨a.lo / (n : Int), ceilDiv a.hi n⟩
/-- Division by an enclosure above zero. -/
def div (a b : Encl) : Encl :=
  let p := a.lo * enclOne
  let q := a.hi * enclOne
  ⟨min (p / b.lo) (p / b.hi), max (ceilDiv q b.lo) (ceilDiv q b.hi)⟩

/-- The sum of a power-like series: term k + 1 is term k times x divided by the next divisor. -/
def series (next : Nat → Nat) (x : Encl) : Nat → Nat → Encl → Encl → Encl
  | 0, _, _, acc => acc
  | n + 1, k, term, acc =>
    let t := (term.mul x).divNat (next k)
    series next x n (k + 1) t (acc.add t)

/-- Squaring k times. -/
def squares : Nat → Encl → Encl
  | 0, x => x
  | k + 1, x => squares k (x.mul x)

/-- exp of an enclosure of magnitude below 256: the series at x / 2^16, squared 16 times. -/
def exp (x : Encl) : Encl :=
  let y := x.divNat (2 ^ 16)
  let s := series (fun k => k + 1) y 56 0 (ofInt 1) (ofInt 1)
  squares 16 ⟨s.lo - 1, s.hi + 1⟩

/-- The sum over odd powers z^(2k+1) / (2k+1), with alternating signs when alt. -/
def oddSeries (alt : Bool) (z2 : Encl) : Nat → Nat → Encl → Encl → Encl
  | 0, _, _, acc => acc
  | n + 1, k, pw, acc =>
    let p := pw.mul z2
    let t := p.divNat (2 * k + 3)
    oddSeries alt z2 n (k + 1) p (acc.add (if alt && k % 2 = 0 then t.neg else t))

/-- A tail bound added on both sides. -/
def pad (x : Encl) (k : Nat) : Encl := ⟨x.lo - (2 ^ k : Nat), x.hi + (2 ^ k : Nat)⟩

/-- ln 2 = 2 atanh (1/3). -/
def ln2 : Encl :=
  let z := ofFrac false 1 3
  let s := oddSeries false (z.mul z) 160 0 z z
  (s.add s).pad 8

/-- ln of a fraction a / b from 1 to 2. -/
def lnUnit (a b : Nat) : Encl :=
  let z := ofFrac false (a - b) (a + b)
  let s := oddSeries false (z.mul z) 160 0 z z
  if a = b then ofInt 0 else (s.add s).pad 8

/-- pi, by Machin's formula. -/
def pi : Encl :=
  let f := fun (n : Nat) (k : Nat) =>
    let z := ofFrac false 1 n
    (oddSeries true (z.mul z) k 0 z z).pad 8
  let a := f 5 120
  let b := f 239 40
  let sixteen := ofInt 16
  (sixteen.mul a).add ((ofInt 4).mul b).neg

/-- The square root of an enclosure above zero. -/
def sqrt (x : Encl) : Encl :=
  let r := fun (v : Int) => (isqrt (v.toNat * 2 ^ 512) : Int)
  ⟨r x.lo, r x.hi + 1⟩

/-- The series of erf without its factor: the sum of (-1)^n x^(2n+1) / (n! (2n+1)). -/
def erfSeries (x2 : Encl) : Nat → Nat → Encl → Encl → Encl
  | 0, _, _, acc => acc
  | n + 1, k, term, acc =>
    let t := ((term.mul x2).divNat (k + 1)).neg
    erfSeries x2 n (k + 1) t (acc.add (t.divNat (2 * k + 3)))

/-- erf of an enclosure of magnitude below 9. -/
def erf (x : Encl) : Encl :=
  let s := (erfSeries (x.mul x) 420 0 x x).pad 8
  ((s.add s).div pi.sqrt)

end Encl

/-- Codes of FP32 in rising order of value: a code without sign, negative for a negative value. -/
def ordCode (c : W32) : Int := if c.msb then -((c.toNat % 2 ^ 31 : Nat) : Int) else (c.toNat : Int)
/-- The code at a place of that order, never past an infinity. -/
def ofOrd (i : Int) : W32 :=
  let m := min i.natAbs 0x7F800000
  BitVec.ofNat 32 (if i < 0 then 2 ^ 31 + m else m)

/-- The place of the FP32 value at or below a magnitude a / 2^512, and whether it is equal to it. -/
def magPlace (a : Nat) : Nat × Bool :=
  if a = 0 then (0, true)
  else
    let nq := roundFloat fmtFP32 .zero a (2 ^ 512)
    let c := magCode fmtFP32 nq.1 nq.2
    let back := frac nq.1 nq.2
    (min c 0x7F800000, back.1 * 2 ^ 512 = a * back.2)

/-- The places at or below, and at or above, a value in units of 2^-512. -/
def floorPlace (v : Int) : Int :=
  let p := magPlace v.natAbs
  if v < 0 then (if p.2 then -(p.1 : Int) else -(p.1 : Int) - 1) else (p.1 : Int)
def ceilPlace (v : Int) : Int := -(floorPlace (-v))

/-- The places an estimate may return: within n ulp of a value in the enclosure, or within 2^-24 of it where
`abs` allows that and the value is below 2^-20 (R109). -/
def estRange (n : Nat) (abs : Bool) (x : Encl) : Int × Int :=
  let lo := min (ceilPlace x.hi - n) (floorPlace x.lo - ((n : Int) - 1))
  let hi := max (floorPlace x.lo + n) (ceilPlace x.hi + ((n : Int) - 1))
  let tiny : Int := (2 ^ 492 : Nat)
  let tol : Int := (2 ^ 488 : Nat)
  if abs && decide (-tiny < x.lo) && decide (x.hi < tiny) then
    (min lo (ceilPlace (x.lo - tol)), max hi (floorPlace (x.hi + tol)))
  else (lo, hi)

/-- The estimate: one of the places allowed, the free value picking it. -/
def pick (op : Nat) (a : W32) (r : Int × Int) : W32 :=
  ofOrd (r.1 + ((Config.estimate op a % ((r.2 - r.1).toNat + 1) : Nat) : Int))

/-- A finite number as an enclosure. -/
def enclNum (n : Bool) (m : Nat) (e : Int) : Encl := let ab := frac m e; Encl.ofFrac n ab.1 ab.2

/-- Whether |x| is at least k. -/
def atLeast (k : Nat) (m : Nat) (e : Int) : Bool := let ab := frac m e; decide (k * ab.2 ≤ ab.1)

/-- A value within 2^-k of a bound b (an integer), on the side toward zero. -/
def nearInt (b : Int) (k : Nat) : Encl :=
  let d : Int := (2 ^ (512 - k) : Nat)
  if b < 0 then ⟨b * enclOne, b * enclOne + d⟩ else if b = 0 then ⟨0, d⟩ else ⟨b * enclOne - d, b * enclOne⟩

/-- 1 / (1 + exp (-x)), for every finite x. -/
def enclSigmoid (n : Bool) (m : Nat) (e : Int) : Encl :=
  if atLeast 128 m e then (if n then nearInt 0 180 else nearInt 1 180)
  else (Encl.ofInt 1).div ((Encl.ofInt 1).add (enclNum n m e).neg.exp)

/-- tanh, for every finite x. -/
def enclTanh (n : Bool) (m : Nat) (e : Int) : Encl :=
  if atLeast 64 m e then (if n then nearInt (-1) 180 else nearInt 1 180)
  else
    let x := (enclNum n m e)
    let ex := (x.add x).exp
    (ex.add (Encl.ofInt (-1))).div (ex.add (Encl.ofInt 1))

/-- erf, for every finite x. -/
def enclErf (n : Bool) (m : Nat) (e : Int) : Encl :=
  if atLeast 8 m e then (if n then nearInt (-1) 90 else nearInt 1 90) else (enclNum n m e).erf

/-- x times a factor in [0, 1]. -/
def timesUnit (x : Encl) (f : Encl) : Encl := x.mul f

/-- gelu in erf form: x * (1 + erf (x / sqrt 2)) / 2. -/
def enclGelu (n : Bool) (m : Nat) (e : Int) : Encl :=
  let x := enclNum n m e
  if atLeast 11 m e then
    (if n then (nearInt 0 80).neg else timesUnit x (nearInt 1 80))
  else
    let y := x.div (Encl.ofInt 2).sqrt
    (x.mul ((Encl.ofInt 1).add y.erf)).divNat 2

/-- silu: x * sigmoid x. -/
def enclSilu (n : Bool) (m : Nat) (e : Int) : Encl :=
  if atLeast 128 m e && n then (nearInt 0 170).neg
  else timesUnit (enclNum n m e) (enclSigmoid n m e)

/-- exp x, with an empty result meaning overflow. -/
def enclExp (n : Bool) (m : Nat) (e : Int) : Option Encl :=
  if atLeast 128 m e then (if n then some (nearInt 0 180) else none) else some (enclNum n m e).exp

/-- 2^x: the whole part shifts, the rest goes through exp. -/
def enclExp2 (n : Bool) (m : Nat) (e : Int) : Option Encl :=
  if atLeast 256 m e then (if n then some (nearInt 0 200) else none)
  else
    let k := Num.floorInt (.fin n m e)
    let f := (enclNum n m e).add (Encl.ofInt (-k))
    let y := (f.mul Encl.ln2).exp
    let z := if f.lo = 0 && f.hi = 0 then Encl.ofInt 1 else y
    if k < 0 then some ⟨z.lo / (2 ^ (-k).toNat : Nat), ceilDiv z.hi (2 ^ (-k).toNat : Nat)⟩
    else some ⟨z.lo * (2 ^ k.toNat : Nat), z.hi * (2 ^ k.toNat : Nat)⟩

/-- ln of a positive number. -/
def enclLn (m : Nat) (e : Int) : Encl :=
  let k := Nat.log2 m
  (Encl.lnUnit m (2 ^ k)).add ((Encl.ofInt (e + (k : Int))).mul Encl.ln2)

/-- log2 of a positive number. -/
def enclLog2 (m : Nat) (e : Int) : Encl :=
  let k := Nat.log2 m
  ((Encl.lnUnit m (2 ^ k)).div Encl.ln2).add (Encl.ofInt (e + (k : Int)))

/-- Whether a value in an enclosure overflows FP32: rounded to nearest it exceeds the greatest finite number. -/
def Encl.overflows (x : Encl) : Bool := decide (((2 ^ 128 - 2 ^ 103) * 2 ^ 512 : Nat) ≤ x.lo)

/-- recip: at most 1 ulp from 1 / x (R109); the reciprocal of a magnitude of at most 2^-128 overflows. -/
def fRecip (a : W32) : W32 :=
  match f32 a with
  | .nan => nan32
  | .inf n => toF32 (Num.zero n)
  | .fin n m e =>
    if m = 0 then toF32 (.inf n)
    else
      let ab := frac m e
      if (Encl.ofFrac false ab.2 ab.1).overflows then toF32 (.inf n)
      else pick 0x15 a (estRange 1 false (Encl.ofFrac n ab.2 ab.1))

/-- rsqrt: at most 1 ulp from 1 / sqrt x. -/
def fRsqrt (a : W32) : W32 :=
  match f32 a with
  | .nan => nan32
  | .inf n => if n then nan32 else 0
  | .fin n m e =>
    if m = 0 then toF32 (.inf n)
    else if n then nan32
    else
      let ab := frac m e
      pick 0x16 a (estRange 1 false (Encl.ofFrac false ab.2 ab.1).sqrt)

/-- exp2 and exp share their limits: 1 at zero, +inf on overflow. -/
def fExpLike (op n' : Nat) (f : Bool → Nat → Int → Option Encl) (a : W32) : W32 :=
  match f32 a with
  | .nan => nan32
  | .inf n => if n then 0 else posInf32
  | .fin n m e => match f n m e with
    | none => posInf32
    | some x => if x.overflows then posInf32 else pick op a (estRange n' false x)
def fExp2 (a : W32) : W32 := fExpLike 0x17 1 enclExp2 a
def fExp (a : W32) : W32 := fExpLike 0x19 2 enclExp a

/-- log2 and ln: a NaN for a negative value, minus infinity for a zero. -/
def fLogLike (op n' : Nat) (f : Nat → Int → Encl) (a : W32) : W32 :=
  match f32 a with
  | .nan => nan32
  | .inf n => if n then nan32 else posInf32
  | .fin n m e =>
    if m = 0 then negInf32 else if n then nan32 else pick op a (estRange n' false (f m e))
def fLog2 (a : W32) : W32 := fLogLike 0x18 1 enclLog2 a
def fLn (a : W32) : W32 := fLogLike 0x1A 2 enclLn a

/-- The activation functions: within 4 ulp, or 2^-24 where the result is small; limits at the infinities. -/
def fActivation (op : Nat) (f : Bool → Nat → Int → Encl) (atNeg atPos : W32) (a : W32) : W32 :=
  match f32 a with
  | .nan => nan32
  | .inf n => if n then atNeg else atPos
  | .fin n m e => pick op a (estRange 4 true (f n m e))
def fTanh (a : W32) : W32 := fActivation 0x1B enclTanh 0xBF800000 0x3F800000 a
def fSigmoid (a : W32) : W32 := fActivation 0x1C enclSigmoid 0 0x3F800000 a
def fErf (a : W32) : W32 := fActivation 0x1D enclErf 0xBF800000 0x3F800000 a
/-- gelu and silu of minus infinity are the limits of their forms, a zero. -/
def fGelu (a : W32) : W32 := fActivation 0x1E enclGelu 0x80000000 posInf32 a
def fSilu (a : W32) : W32 := fActivation 0x1F enclSilu 0x80000000 posInf32 a

end Sys2Proof.Machine
end

