-- ==== Sys2Proof/Machine/Vector.lean ====
section
/-! DEFINITION. The vector unit (R109 to R111) and the programs of kind 0x3 (R560, R561): one command for each
opcode, carried out when the word the core's vector task has come to holds that opcode. -/

namespace Sys2Proof.Machine

/-! ### Lane operations -/

/-- Lane by lane. -/
def lanes1 (f : W32 → W32) (a : List W32) : List W32 := a.map f
def lanes2 (f : W32 → W32 → W32) (a b : List W32) : List W32 := (a.zip b).map fun p => f p.1 p.2
/-- A mask lane: all ones or zero. -/
def maskLane (b : Bool) : W32 := if b then 0xFFFFFFFF else 0

/-- A floating comparison, by the immediate's low three bits: eq, ne, lt, le, unordered (R561). -/
def fcmp (k : Nat) (a b : W32) : W32 :=
  let c := Num.cmp (f32 a) (f32 b)
  maskLane (match k with
    | 0 => c == some .eq
    | 1 => c != some .eq
    | 2 => c == some .lt
    | 3 => c == some .lt || c == some .eq
    | _ => c == none)

/-- An integer comparison (R561); no two integers are unordered. -/
def icmp (k : Nat) (a b : W32) : W32 :=
  maskLane (match k with
    | 0 => a == b
    | 1 => a != b
    | 2 => decide (a.toInt < b.toInt)
    | 3 => decide (a.toInt ≤ b.toInt)
    | _ => false)

/-- Selection by a mask (R561). -/
def selLanes (a b c : List W32) : List W32 := ((a.zip b).zip c).map fun p => if p.2 != 0 then p.1.1 else p.1.2

/-- Shifts by a whole 32-bit amount: 32 or more gives 0, and the right shift is logical (R109). -/
def shlLane (a b : W32) : W32 := if b.toNat < 32 then a <<< b.toNat else 0
def shrLane (a b : W32) : W32 := if b.toNat < 32 then a >>> b.toNat else 0

/-- Ones, and leading zeros, of a lane. -/
def popLane (a : W32) : W32 := BitVec.ofNat 32 (popcount a.toNat)
def clzLane (a : W32) : W32 := BitVec.ofNat 32 (if a = 0 then 32 else 31 - Nat.log2 a.toNat)

/-- One round of the lane sum: adjacent pairs added (R110). -/
def pairSums : List W32 → List W32
  | a :: b :: r => fadd a b :: pairSums r
  | r => r
/-- The lane sum: five rounds over 32 lanes, the result in lane 0 and zero elsewhere. -/
def laneSum (a : List W32) : W32 := ((pairSums (pairSums (pairSums (pairSums (pairSums a))))).headD 0)
def lsumLanes (a : List W32) : List W32 := laneSum a :: List.replicate 31 0

/-- The extreme lane and its index: NaN lanes are skipped, the lowest lane wins ties; NaN with index 0 when every
lane is NaN (R109). -/
def extreme (big : Bool) (a : List W32) : Option (W32 × Nat) :=
  a.zipIdx.foldl (fun best p =>
    if (f32 p.1).isNaN then best
    else match best with
      | none => some p
      | some q => if (if big then Num.lt (f32 q.1) (f32 p.1) else Num.lt (f32 p.1) (f32 q.1)) then some p else best) none
def extremeLanes (big : Bool) (a : List W32) : List W32 :=
  match extreme big a with
  | some (v, i) => v :: BitVec.ofNat 32 i :: List.replicate 30 0
  | none => nan32 :: 0 :: List.replicate 30 0

/-- Whether key a sorts strictly before key b: NaNs last, equal keys and NaNs in lane order (R109). -/
def sortsBefore (desc : Bool) (a b : W32 × Nat) : Bool :=
  match (f32 a.1).isNaN, (f32 b.1).isNaN with
  | true, true => decide (a.2 < b.2)
  | true, false => false
  | false, true => true
  | false, false =>
    if desc then Num.lt (f32 b.1) (f32 a.1) || (!Num.lt (f32 a.1) (f32 b.1) && decide (a.2 < b.2))
    else Num.lt (f32 a.1) (f32 b.1) || (!Num.lt (f32 b.1) (f32 a.1) && decide (a.2 < b.2))
/-- A pair put in its place in a sorted list. -/
def sortInsert (desc : Bool) (x : W32 × Nat) : List (W32 × Nat) → List (W32 × Nat)
  | [] => [x]
  | y :: r => if sortsBefore desc x y then x :: y :: r else y :: sortInsert desc x r
/-- Keys sorted, and the indices of b permuted with them. -/
def sortLanes (desc : Bool) (a b : List W32) : List W32 × List W32 :=
  let o := (a.zipIdx).foldr (sortInsert desc) []
  (o.map (·.1), o.map fun p => b.getD p.2 0)

/-- Uniform FP32 in [0, 1) from the top 24 bits of a draw (R109). -/
def uniform (d : W32) : W32 := toF32 (.fin false (d.toNat / 256) (-24))

/-- The lanes converted to a format and back (R67 to R73, R561), with what the conversion of the live lanes raises (R77).
Two's complement targets add the operation's zero point (R68). A block-scaled target takes the 32 lanes as one block,
and the flags of the block are those of its live lanes. -/
def cvtLanes (f : Fmt) (z : Int) (draw : Nat → Nat) (live : Nat → Bool) (a : List W32) : List W32 × Raised :=
  if f.isMX then
    let r := storeBlock f (a.zipIdx.map fun p => (f32 p.1, f.rounding (draw p.2)))
    let own := storeBlock f ((a.zipIdx.filter fun p => live p.2).map fun p => (f32 p.1, f.rounding (draw p.2)))
    (r.2.1.map fun c => loadF32 (decodeScaled f r.1 c), own.2.2)
  else
    let out := a.zipIdx.map fun p => storeElem f (f.rounding (draw p.2)) (if f.isInt then z else 0) (f32 p.1)
    (out.map fun r => loadF32 (decodeScaled f 127 r.1),
      ((out.zipIdx.filter fun p => live p.2).map (·.1.2)).foldl Raised.join {})

/-! ### The vector task -/

/-- A register of a vector task. -/
def VecTask.reg (t : VecTask) (i : Nat) : List W32 := t.v.getD i []
/-- A register replaced. -/
def VecTask.set (t : VecTask) (i : Nat) (x : List W32) : VecTask := { t with v := t.v.set i x }

/-- What a vector command works on: the operation, its core and its task. -/
structure VecAt where
  l : LoadedOp
  g : GridCore
  t : VecTask
  w : VecOp
deriving DecidableEq, Repr

/-- The task at a word of a given opcode, started, not halted, with the tile's arrivals taken (R167, R560). -/
def vecAt (s : State) (n log code : Nat) : Option VecAt :=
  match (s.core n (vecCore s n log)).vec with
  | none => none
  | some t =>
    match findOp s n t.opId with
    | none => none
    | some l =>
      match gridCore l log with
      | none => none
      | some g =>
        let w := vecDecode (if t.pc < 16 then vecWord l.op t.pc else 0)
        if w.code = code && t.halted.isNone && l.started.contains log && !l.stopped
            && decide (t.seq < (workTiles l.op g).length) && remoteReady l.op g t.remote t.seq then some ⟨l, g, t, w⟩
        else none

/-- A task put back with the next word. -/
def vecNext (s : State) (n : Nat) (v : VecAt) (t : VecTask) : State :=
  let c := s.core n v.g.phys
  s.setCore n v.g.phys { c with vec := some { t with pc := t.pc + 1 } }

/-- An opcode that writes register d from registers alone. -/
def vecReg (n log code : Nat) (f : VecOp → VecTask → List W32) (s : State) : State :=
  match vecAt s n log code with
  | none => s
  | some v => vecNext s n v (v.t.set v.w.d (f v.w v.t))

/-- The opcodes of one and of two source registers. -/
def vecUn (n log code : Nat) (f : W32 → W32) : State → State :=
  vecReg n log code fun w t => lanes1 f (t.reg w.a)
def vecBin (n log code : Nat) (f : W32 → W32 → W32) : State → State :=
  vecReg n log code fun w t => lanes2 f (t.reg w.a) (t.reg w.b)

/-- Where a block's scale byte of the streamed tile stands in its stream's scale rows: a byte of the core's store; the halves
beyond the rows stay with the stream (R186, R238). -/
def laneScaleAt (s : State) (v : VecAt) (st : Stream) (o tno : Nat) (x : List Int) : Option (Nat × Nat) :=
  (scaleIx v.l.op (deviceByte s) v.g o tno 0 ((v.l.op.layout o).elim x fun l => l.blockX x)).map fun ix =>
    (ix, ((mfind st.rings v.g.log).getD 0 + 4 * (st.lead + 1)) * 512 + tno % (st.lead + 1) * 128 + ix)

/-- The block scale of a streamed lane, as its tile brought it (R186, R240, R250). -/
def laneScale (s : State) (n : Nat) (v : VecAt) (st : Stream) (o tno : Nat) (x : List Int) : Byte :=
  match laneScaleAt s v st o tno x with
  | none => 127
  | some (ix, b) =>
    if ix < 128 then (csBytes s n v.g.phys b 1).headD 127
    else ((mfind st.held (8 * tno + ix / 64)).getD []).getD (ix % 64) 127

/-- The value of a lane of an operand: from its stream's ring when it has one, else from the region (R67). The ring
delivers the tile last requested, once it is full (R240). -/
def vecLane (s : State) (n : Nat) (v : VecAt) (o : Nat) (tile : TileIx) (i : Nat) : Num × Bool :=
  match v.l.op.layout o with
  | none => (.nan, true)
  | some l =>
    let x := moved (baseCoord o tile.levels) (some 0) ((i : Nat) : Int)
    if !inside l x then (padNum v.l.op l, true)
    else if hasStream v.l.op o then
      match streamOn s n v.g.log v.l.op.opId o with
      | none => (.nan, false)
      | some k =>
        let st := s.stream n k
        let place := vecFresh v.l.op v.g o v.t.seq * 32 + i
        let e := max 1 (perTile v.l.op o)
        let tno := place / e
        if askedOf st v.g.log != tno + 1 || st.full ≤ tno then (.nan, false)
        else
          let row := (mfind st.rings v.g.log).getD 0 + 4 * (tno % (st.lead + 1))
          let w := l.format.width
          let code := takeBits (csBytes s n v.g.phys (512 * row) 2048) (place % e * w) w
          (decodeScaled l.format (if l.format.isMX then laneScale s n v st o tno x else 127) code, true)
    else (decodeScaled l.format (scaleOf s n v.l.op v.g o x) (readCode (slotByte s n v.l.op v.g o l) l x), true)

/-- The block scale of a lane of an operand: what its stream brought, or what memory or the region holds (R186). -/
def vecScale (s : State) (n : Nat) (v : VecAt) (o : Nat) (tile : TileIx) (i : Nat) : Byte :=
  let x := moved (baseCoord o tile.levels) (some 0) ((i : Nat) : Int)
  match (if hasStream v.l.op o then streamOn s n v.g.log v.l.op.opId o else none) with
  | some k => laneScale s n v (s.stream n k) o ((vecFresh v.l.op v.g o v.t.seq * 32 + i) / max 1 (perTile v.l.op o)) x
  | none => scaleOf s n v.l.op v.g o x

/-- The core store words a load reads: row and word of each. -/
def vecWords (s : State) (n : Nat) (v : VecAt) (o : Nat) (tile : TileIx) : List (Nat × Nat) :=
  match v.l.op.layout o with
  | none => []
  | some l =>
    if hasStream v.l.op o then
      match streamOn s n v.g.log v.l.op.opId o with
      | none => []
      | some k =>
        let st := s.stream n k
        let place := vecFresh v.l.op v.g o v.t.seq * 32
        let e := max 1 (perTile v.l.op o)
        let row := (mfind st.rings v.g.log).getD 0 + 4 * (place / e % (st.lead + 1))
        let b := place % e * l.format.width / 8
        let sc := if l.format.isMX then
            (List.range 32).flatMap fun i =>
              match laneScaleAt s v st o (place / e) (moved (baseCoord o tile.levels) (some 0) ((i : Nat) : Int)) with
              | some (ix, at_) => if ix < 128 then wordsOf at_ 1 else []
              | none => []
          else []
        (wordsOf (row * 512 + b) (4 * l.format.width) ++ sc).dedup.map fun w => (w / 32, w % 32)
    else if l.space then
      (((List.range 32).flatMap fun i =>
        let x := moved (baseCoord o tile.levels) (some 0) ((i : Nat) : Int)
        (elemReads v.l.op v.g tile o l x).map (· + v.g.base * 32)).dedup).map fun w => (w / 32, w % 32)
    else []

/-- LD (R67, R109, R144, R561): 32 lanes of a read operand into d. The task waits while the operand's stream tile
is not full. -/
def opLd (n log : Nat) (s : State) : State :=
  match vecAt s n log 0x01 with
  | none => s
  | some v =>
    match (workTiles v.l.op v.g)[v.t.seq]? with
    | none => s
    | some tile =>
      let o := v.w.imm % 8
      let vals := (List.range 32).map fun i => vecLane s n v o tile i
      if vals.any fun p => !p.2 then s
      else match regionRead s n v.g 1 (vecWords s n v o tile) with
        | (s, false) => s
        | (s, true) =>
          let live := fun (i : Nat) => match v.l.op.layout o with
            | some l => inside l (moved (baseCoord o tile.levels) (some 0) ((i : Nat) : Int))
            | none => false
          let mx := match v.l.op.layout o with | some l => l.format.isMX | none => false
          let r : Raised :=
            { overflow := vals.zipIdx.any fun p => live p.2 && loadOverflows p.1.1
              scaleNan := mx && (List.range 32).any fun i => live i &&
                vecScale s n v o tile i == 0xFF }
          vecNext (noteRaised s n r) n v (v.t.set v.w.d (vals.map fun p => loadF32 p.1))

/-- Whether a tile is the last of its row among a core's tiles (R561). -/
def lastOfRow (op : Op) (g : GridCore) (seq : Nat) : Bool :=
  match (workTiles op g)[seq]?, (workTiles op g)[seq + 1]? with
  | some a, some b => a.tm != b.tm
  | _, _ => true

/-- The region words that results of a vector store touch (R154). -/
def stWords (v : VecAt) (tile : TileIx) (o : Nat) (rs : List Res) : List (Nat × Nat) :=
  match v.l.op.layout o with
  | some l => if !l.space then []
      else (rs.flatMap fun r => elemReads v.l.op v.g tile o l (permuted (v.l.op.slot o).xform r.x)).map fun w =>
        (v.g.base + w / 32, w % 32)
  | none => []

/-- ST (R68 to R73, R154, R561): 32 lanes of a to slot 3; or lane 0 to slot 4, at the last tile of each row. A store takes
one draw for each lane. -/
def opSt (n log : Nat) (s : State) : State :=
  match vecAt s n log 0x02 with
  | none => s
  | some v =>
    match (workTiles v.l.op v.g)[v.t.seq]? with
    | none => s
    | some tile =>
      let o := v.w.imm % 8
      if o = 4 && !lastOfRow v.l.op v.g v.t.seq then vecNext s n v v.t
      else
        let a := v.t.reg v.w.a
        let rs := if o = 4 then [(⟨baseCoord 4 tile.levels, f32 (a.headD 0)⟩ : Res)]
          else a.zipIdx.map fun p => ⟨moved (baseCoord 3 tile.levels) (some 0) ((p.2 : Nat) : Int), f32 p.1⟩
        if wordsWait (s.core n v.g.phys) 1 true (stWords v tile o rs) then scoreHeld s n
        else match storeResults s n v.g 1 v.l.op o false rs with
        | (s, _, some _) => s
        | (s, ws, none) =>
          let rest := if o = 4 && (v.l.op.layout 4).any (fun l => l.format.rnd == 2) then 31 else 0
          let c := s.core n v.g.phys
          let s := s.setCore n v.g.phys { c with draws := c.draws + rest }
          let best := lower v.t.arrive (lowest ws)
          let s := partStored s n v.g.phys (4 * (800 * n + v.g.phys) + 1) v.l.op.arrive v.t.arrive best false
          vecNext s n v { v.t with arrive := best }

def opBcast (n log : Nat) : State → State :=
  vecReg n log 0x03 fun w t => List.replicate 32 ((t.reg w.a).headD 0)
def opAdd (n log : Nat) : State → State := vecBin n log 0x08 fadd
def opSub (n log : Nat) : State → State := vecBin n log 0x09 fsub
def opMul (n log : Nat) : State → State := vecBin n log 0x0A fmul
def opFma (n log : Nat) : State → State :=
  vecReg n log 0x0B fun w t => (((t.reg w.a).zip (t.reg w.b)).zip (t.reg w.c)).map fun p => ffma p.1.1 p.1.2 p.2
def opMin (n log : Nat) : State → State := vecBin n log 0x0C fmin
def opMax (n log : Nat) : State → State := vecBin n log 0x0D fmax
def opAbs (n log : Nat) : State → State := vecUn n log 0x0E fabs
def opNeg (n log : Nat) : State → State := vecUn n log 0x0F fneg
def opCopysign (n log : Nat) : State → State := vecBin n log 0x10 fcopysign
def opCmp (n log : Nat) : State → State :=
  vecReg n log 0x11 fun w t => lanes2 (fcmp (w.imm % 8)) (t.reg w.a) (t.reg w.b)
def opSel (n log : Nat) : State → State :=
  vecReg n log 0x12 fun w t => selLanes (t.reg w.a) (t.reg w.b) (t.reg w.c)
def opDiv (n log : Nat) : State → State := vecBin n log 0x13 fdiv
def opSqrt (n log : Nat) : State → State := vecUn n log 0x14 fsqrt
def opRecip (n log : Nat) : State → State := vecUn n log 0x15 fRecip
def opRsqrt (n log : Nat) : State → State := vecUn n log 0x16 fRsqrt
def opExp2 (n log : Nat) : State → State := vecUn n log 0x17 fExp2
def opLog2 (n log : Nat) : State → State := vecUn n log 0x18 fLog2
def opExp (n log : Nat) : State → State := vecUn n log 0x19 fExp
def opLn (n log : Nat) : State → State := vecUn n log 0x1A fLn
def opTanh (n log : Nat) : State → State := vecUn n log 0x1B fTanh
def opSigmoid (n log : Nat) : State → State := vecUn n log 0x1C fSigmoid
def opErf (n log : Nat) : State → State := vecUn n log 0x1D fErf
def opGelu (n log : Nat) : State → State := vecUn n log 0x1E fGelu
def opSilu (n log : Nat) : State → State := vecUn n log 0x1F fSilu
def opLsum (n log : Nat) : State → State := vecReg n log 0x20 fun w t => lsumLanes (t.reg w.a)
def opLmax (n log : Nat) : State → State := vecReg n log 0x21 fun w t => extremeLanes true (t.reg w.a)
def opLmin (n log : Nat) : State → State := vecReg n log 0x22 fun w t => extremeLanes false (t.reg w.a)
def opIadd (n log : Nat) : State → State := vecBin n log 0x23 (· + ·)
def opIsub (n log : Nat) : State → State := vecBin n log 0x24 (· - ·)
def opImul (n log : Nat) : State → State := vecBin n log 0x25 (· * ·)
def opShl (n log : Nat) : State → State := vecBin n log 0x26 shlLane
def opShr (n log : Nat) : State → State := vecBin n log 0x27 shrLane
def opAnd (n log : Nat) : State → State := vecBin n log 0x28 (· &&& ·)
def opOr (n log : Nat) : State → State := vecBin n log 0x29 (· ||| ·)
def opXor (n log : Nat) : State → State := vecBin n log 0x2A (· ^^^ ·)
def opIcmp (n log : Nat) : State → State :=
  vecReg n log 0x2B fun w t => lanes2 (icmp (w.imm % 8)) (t.reg w.a) (t.reg w.b)
def opPopcnt (n log : Nat) : State → State := vecUn n log 0x2C popLane
def opClz (n log : Nat) : State → State := vecUn n log 0x2D clzLane

/-- Whether a lane of a tile holds no padding: its place lies within the written operand (R77, R201). -/
def liveLane (v : VecAt) (i : Nat) : Bool :=
  match (workTiles v.l.op v.g)[v.t.seq]? with
  | some tile => liveResult v.l.op 3 (moved (baseCoord 3 tile.levels) (some 0) ((i : Nat) : Int))
  | none => true

/-- CVT (R67 to R73, R77, R561): the lanes converted to the format of the immediate and back; with stochastic rounding
one draw for each lane. -/
def opCvt (n log : Nat) (s : State) : State :=
  match vecAt s n log 0x30 with
  | none => s
  | some v =>
    let f : Fmt := ⟨bits v.w.imm 5 4, bit v.w.imm 6, false, 0, false, bits v.w.imm 9 7, bits v.w.imm 3 0⟩
    let c := s.core n v.g.phys
    let r := cvtLanes f v.l.op.zeroPoint (fun i => (Config.draw c.seed v.g.log (c.draws + i)).toNat) (liveLane v) (v.t.reg v.w.a)
    let s := noteRaised s n r.2
    let s := if f.rnd = 2 then
        let c := s.core n v.g.phys
        s.setCore n v.g.phys { c with draws := c.draws + 32 }
      else s
    vecNext s n v (v.t.set v.w.d r.1)

/-- RAND (R73, R109, R561): uniform values, one draw for each lane. -/
def opRand (n log : Nat) (s : State) : State :=
  match vecAt s n log 0x31 with
  | none => s
  | some v =>
    let c := s.core n v.g.phys
    let xs := (List.range 32).map fun i => uniform (Config.draw c.seed v.g.log (c.draws + i))
    vecNext (s.setCore n v.g.phys { c with draws := c.draws + 32 }) n v (v.t.set v.w.d xs)

/-- SORT (R109, R561): d takes the sorted keys, b the permuted indices; when d names b, the keys stand. -/
def opSort (n log : Nat) (s : State) : State :=
  match vecAt s n log 0x32 with
  | none => s
  | some v =>
    let r := sortLanes (bit v.w.imm 0) (v.t.reg v.w.a) (v.t.reg v.w.b)
    vecNext s n v ((v.t.set v.w.b r.2).set v.w.d r.1)

/-- VEC_END (R163, R561): the program has run for its tile. v0 to v5 are cleared, and v6 and v7 at a new row; after
the last tile the core has finished. -/
def opVecEnd (n log : Nat) (s : State) : State :=
  match vecAt s n log 0x00 with
  | none => s
  | some v =>
    let zero := List.replicate 32 (0 : W32)
    let row := lastOfRow v.l.op v.g v.t.seq
    let regs := v.t.v.zipIdx.map fun p => if p.2 < 6 || row then zero else p.1
    let t := { v.t with seq := v.t.seq + 1, pc := 0, v := regs, arrive := none }
    let s := partStored s n v.g.phys (4 * (800 * n + v.g.phys) + 1) v.l.op.arrive v.t.arrive v.t.arrive true
    let c := s.core n v.g.phys
    let s := s.setCore n v.g.phys { c with vec := some t }
    if t.seq = (workTiles v.l.op v.g).length then finishCore (flushTask s n v.g.phys 1) n v.l.op.opId v.g.log else s

end Sys2Proof.Machine
end

