-- ==== Sys2Proof/Machine/Paged.lean ====
section
/-! DEFINITION. What both attention engines share: the running state and its merge (R377 to R384), the length table
and visibility (R385 to R390), key/value pages and their headers (R370 to R372, R391, R392, R420 to R426). -/

namespace Sys2Proof.Machine

/-! ### The running state -/

/-- LOG2E (R377). -/
def log2e : W32 := 0x3FB8AA3B

/-- exp2((x - m) * LOG2E), each step rounded; 0 where x is negative infinity (R378, R381). -/
def expDiff (x m : W32) : W32 := if x = negInf32 then 0 else fExp2 (fmul (fsub x m) log2e)

/-- The empty state and the NaN state of d elements (R377, R380). -/
def RowState.empty (d : Nat) : RowState := ⟨negInf32, 0, List.replicate d 0⟩
def RowState.nan (d : Nat) : RowState := ⟨nan32, nan32, List.replicate d nan32⟩

/-- The greater of two FP32 values that are not NaN. -/
def maxF (a b : W32) : W32 := if Num.lt (f32 a) (f32 b) then b else a

/-- A logit that makes its row's state NaN (R380). -/
def badLogit (x : W32) : Bool := (f32 x).isNaN || x == posInf32

/-- m_new of an update (R378). -/
def nextMax (m : W32) (xs : List W32) : W32 := xs.foldl maxF m

/-- The logit of a score (R377): scale * (q . k) + b, each operation rounded; negative infinity with a bias of negative
infinity (R387). -/
def logitOf (scale score : W32) (bias : Option W32) : W32 :=
  match bias with
  | some b => if b = negInf32 then negInf32 else fadd (fmul scale score) b
  | none => fmul scale score

/-- One key applied to a row's state by a decode unit (R378, R379): p stays in FP32. -/
def RowState.decodeKey (st : RowState) (x : W32) (v : List Num) : RowState :=
  if (f32 st.m).isNaN then st
  else if badLogit x then RowState.nan st.o.length
  else
    let m := maxF st.m x
    if m = negInf32 then st
    else
      let p := expDiff x m
      let c := expDiff st.m m
      { m := m
        l := fadd (fmul st.l c) p
        o := (st.o.zip v).map fun (e : W32 × Num) => accAdd false (fmul e.1 c) (Num.mul (f32 p) e.2) }

/-- Two states merged, a before b (R381). -/
def RowState.merge (a b : RowState) : RowState :=
  if (f32 a.m).isNaN || (f32 b.m).isNaN then RowState.nan a.o.length
  else if b.m = negInf32 then a
  else if a.m = negInf32 then b
  else
    let m := maxF a.m b.m
    let ca := expDiff a.m m
    let cb := expDiff b.m m
    { m := m
      l := ffma b.l cb (fmul a.l ca)
      o := (a.o.zip b.o).map fun (e : W32 × W32) => ffma e.2 cb (fmul e.1 ca) }

/-- The output row and the log-sum-exp of a state (R383, R384). -/
def RowState.final (st : RowState) : List W32 × W32 :=
  if (f32 st.m).isNaN then (st.o.map fun _ => nan32, nan32)
  else if st.m = negInf32 then (st.o.map fun _ => 0, negInf32)
  else (st.o.map fun x => fdiv x st.l, fadd st.m (fLn st.l))

/-- The counts of finalised rows (R384). -/
def countFinal (s : State) (n : Nat) (rows : List RowState) : State :=
  let nans := (rows.filter fun r => (f32 r.m).isNaN).length
  let empty := (rows.filter fun r => r.m == negInf32).length
  let s := if nans = 0 then s else count32 s (Reg.chAttnNanRowCount n) nans
  if empty = 0 then s else count32 s (Reg.chAttnEmptyRowCount n) empty

/-! ### Fields of kinds 0x1 and 0x9 (R393) -/

def attnScale (op : Op) : W32 := BitVec.ofNat 32 (bits (op.kword 0) 63 32)
def attnWindow (op : Op) : Nat := bits (op.kword 0) 31 0
def attnCausal (op : Op) : Bool := bit (op.kword 1) 63
def attnBias (op : Op) : Bool := bit (op.kword 1) 62
def attnLse (op : Op) : Bool := bit (op.kword 1) 61
def attnGrp (op : Op) : Nat := bits (op.kword 1) 60 56
def attnDim (op : Op) : Nat := bits (op.kword 1) 55 47
def attnBlock (op : Op) : Nat := 32 * 2 ^ bits (op.kword 1) 46 45
def attnFmts (op : Op) : Nat := bits (op.kword 1) 31 16
def attnPFmt (op : Op) : Fmt := Fmt.ofWord (bits (op.kword 1) 15 0)
def attnBiasMin (op : Op) : Int := signed 32 (bits (op.kword 2) 63 32)

/-! ### The length table -/

/-- A length table entry from its 32 bytes (R388). -/
def parseLen (bs : List Byte) : LenEntry :=
  let a := le64 bs 0
  let b := le64 bs 8
  let c := le64 bs 16
  let d := le64 bs 24
  ⟨bits a 63 48, bits a 47 0, bits b 63 32, bits b 31 0, bits c 63 32, bits c 31 0, bits d 63 32, bits d 31 24,
    bits d 23 16, bits d 15 0⟩

/-- Entries of the length table. -/
def lenCount (op : Op) : Nat := match op.layout 1 with | some l => l.extent 0 / 8 | none => 0

/-- The current generation of an identifier (R433). -/
def kvGen (s : State) (n seq : Nat) : Nat := fld s (Reg.chKvGen n (seq / 8)) (seq % 8 * 8 + 7) (seq % 8 * 8)

/-- The first check of R390 that an entry fails. -/
def lenFault (n : Nat) (op : Op) (before : List LenEntry) (e : LenEntry) : Option Nat :=
  let rows := match op.layout 0 with | some l => l.extent 2 | none => 0
  let heads := match op.layout 0 with | some l => l.extent 1 / max 1 (attnGrp op) | none => 0
  let own := match place e.list with | .tier0 m _ => m == n | _ => false
  if e.q = 0 || decide (rows < e.row + e.q) then some 1
  else if heads ≤ e.kvh then some 2
  else if op.kind = 1 && before.any fun b => b.kvh == e.kvh && decide (e.row < b.row + b.q) then some 3
  else if op.kind = 9 && decide (16 < attnGrp op * e.q) then some 4
  else if e.list % 4 != 0 || !own then some 5
  else if 0xFFFFFFFF < e.qpos + e.q - 1 || (decide (0 < e.kv) && decide (0xFFFFFFFF < e.kpos + e.kv - 1)) then some 6
  else none

/-! ### Visibility (R385 to R387) -/

/-- The distance from a query row of entry q to key i of entry k. -/
def distance (q : LenEntry) (row : Nat) (k : LenEntry) (i : Nat) : Int :=
  (q.qpos : Int) + ((row : Int) - q.row) - (k.kpos + i)

/-- Whether key i of entry k is visible to a row of entry q (R386). -/
def visible (op : Op) (q : LenEntry) (row : Nat) (k : LenEntry) (i : Nat) : Bool :=
  let d := distance q row k i
  decide (i < k.kv) && k.seg == q.seg && (!attnCausal op || decide (0 ≤ d))
    && (attnWindow op == 0 || (decide (0 ≤ d) && decide (d < attnWindow op)))

/-- The distance bias of a visible key (R387). -/
def biasAt (op : Op) (get : Nat → Byte) (head : Nat) (d : Int) : Option W32 :=
  match attnBias op, op.layout 5 with
  | true, some l =>
    let e := max 0 (min (d - attnBiasMin op) ((l.extent 0 : Int) - 1))
    some (BitVec.ofNat 32 (readCode get l [e, (head : Int), 0, 0, 0, 0]))
  | _, _ => none

/-- The logit of a key for a row: negative infinity where it is not visible. -/
def logitAt (op : Op) (get : Nat → Byte) (head : Nat) (q : LenEntry) (row : Nat) (k : LenEntry) (i : Nat) (score : W32) : W32 :=
  if visible op q row k i then logitOf (attnScale op) score (biasAt op get head (distance q row k i)) else negInf32

/-! ### Pages (R420 to R426) -/

/-- A page header (R425). -/
structure PageHdr where
  kfmt   : Nat
  vfmt   : Nat
  seq    : Nat
  gen    : Nat
  ltok   : Nat
  resv   : Bool
  valid  : Bool
  kscale : W32
  vscale : W32
  slot   : W32
deriving DecidableEq, Repr

/-- A header from its 32 bytes. -/
def parseHdr (bs : List Byte) : PageHdr :=
  let a := le64 bs 0
  let b := le64 bs 8
  let c := le64 bs 16
  ⟨bits a 63 48, bits a 47 32, bits a 31 16, bits a 15 8, bits a 7 4,
    bits a 3 1 != 0 || bits c 39 32 != 0 || le64 bs 24 != 0, bit a 0, BitVec.ofNat 32 (bits b 63 32),
    BitVec.ofNat 32 (bits b 31 0), BitVec.ofNat 32 (bits c 31 0)⟩

/-- Device address of the header of a frame: the channel's header table in its half of the key/value area (R424). -/
def hdrAddr (s : State) (n p : Nat) : Nat :=
  let r := Reg.chKvArea n
  let half := if n < partner n then 0 else fld s r 47 29 * 0x100000
  tier0Base n + fld s r 16 0 * 0x200000 + half + 32 * p

/-- Bytes of t tokens of head width d in a region, with their scales (R422). -/
def regionBytes (f : Fmt) (t d : Nat) : Nat :=
  cdiv (t * d) 512 * 64 * f.width + (if f.fmt = 6 then t * d / 32 else 0)

/-- Tokens in each block (R422). -/
def blockTokens (d : Nat) (k v : Fmt) : Nat :=
  (((List.range 9).reverse.map fun e => 2 ^ e).find? fun t =>
    decide (regionBytes k t d ≤ 1024) && decide (regionBytes v t d ≤ 1024)).getD 1

/-- The page-header fault or format fault of a page (R391, R426): code 0 stands for the format fault. -/
def hdrFault (op : Op) (e : LenEntry) (h : PageHdr) : Option Nat :=
  let k := Fmt.ofWord h.kfmt
  let v := Fmt.ofWord h.vfmt
  if !bit (attnFmts op) k.fmt || !bit (attnFmts op) v.fmt then some 0
  else if !h.valid || h.resv then some 1
  else if h.ltok < 4 || 8 < h.ltok || min 256 (16 * blockTokens (attnDim op) k v) < 2 ^ h.ltok then some 2
  else if h.seq != e.seq || h.gen != e.gen then some 3
  else none

/-- A page met on a walk: its frame, its header, the tokens before it. -/
structure PageRun where
  frame : Nat
  hdr   : PageHdr
  first : Nat
deriving DecidableEq, Repr

/-- Block and place within the block of a token of a page. -/
def tokenPlace (d : Nat) (h : PageHdr) (j : Nat) : Nat × Nat :=
  let t := blockTokens d (Fmt.ofWord h.kfmt) (Fmt.ofWord h.vfmt)
  (j / t, j % t)

/-- A region of a block as a layout of one planar row (R421). -/
def regionLayout (n frame block : Nat) (value : Bool) (fw elems : Nat) : Layout :=
  ⟨1, false, false, tier0Base n + 32768 * frame + block * 2048 + (if value then 1024 else 0), 0, fw, 0, [elems], [0], 0⟩

/-- The region of a token's key or value, and the token's first element in it (R421). -/
def kvRegion (n d : Nat) (value : Bool) (r : PageRun) (tok : Nat) : Layout × Nat :=
  let h := r.hdr
  let t := blockTokens d (Fmt.ofWord h.kfmt) (Fmt.ofWord h.vfmt)
  let pl := tokenPlace d h (tok - r.first)
  (regionLayout n r.frame pl.1 value (if value then h.vfmt else h.kfmt) (t * d), pl.2 * d)

/-- The code of element i of a token's key or value, and its block scale byte (R421). -/
def kvCode (s : State) (n d : Nat) (value : Bool) (r : PageRun) (tok i : Nat) : Nat :=
  let p := kvRegion n d value r tok
  readCode (deviceByte s) p.1 [((p.2 + i : Nat) : Int), 0, 0, 0, 0, 0]
def kvScale (s : State) (n d : Nat) (value : Bool) (r : PageRun) (tok i : Nat) : Byte :=
  let p := kvRegion n d value r tok
  deviceByte s (p.1.base + cdiv (p.1.extent 0) 512 * 64 * p.1.format.width + (p.2 + i) / 32)

/-- Element i of the key or value of a token, with its scale and the page's factor (R392, R421, R425). -/
def kvElem (s : State) (n d : Nat) (value : Bool) (r : PageRun) (tok i : Nat) : Num :=
  let f := Fmt.ofWord (if value then r.hdr.vfmt else r.hdr.kfmt)
  Num.mul (f32 (if value then r.hdr.vscale else r.hdr.kscale))
    (decodeScaled f (kvScale s n d value r tok i) (kvCode s n d value r tok i))

/-- The words a token's key or value lies in, with its scales. -/
def kvWords (n d : Nat) (value : Bool) (r : PageRun) (tok : Nat) : List Nat :=
  let p := kvRegion n d value r tok
  let f := p.1.format
  let data := (List.range d).flatMap fun i => elemWords p.1 [((p.2 + i : Nat) : Int), 0, 0, 0, 0, 0] f.width
  let sc := if f.isMX then wordsOf (p.1.base + cdiv (p.1.extent 0) 512 * 64 * f.width + p.2 / 32) (cdiv d 32) else []
  (data ++ sc).dedup

/-- A scale byte 0xFF among those of a token's key or value (R74, R422). -/
def kvScaleNan (s : State) (n d : Nat) (value : Bool) (r : PageRun) (tok : Nat) : Bool :=
  (kvRegion n d value r tok).1.format.isMX && (List.range (d / 32)).any fun i => kvScale s n d value r tok (32 * i) == 0xFF

/-- The page of a token. -/
def runOf (rs : List PageRun) (tok : Nat) : Option PageRun :=
  rs.find? fun r => decide (r.first ≤ tok) && decide (tok < r.first + 2 ^ r.hdr.ltok)

/-- A page-header fault recorded and counted (R426). -/
def noteHdrFault (s : State) (n code frame : Nat) (id : W32) : State :=
  let s := count32 s (Reg.chKvHdrFaultCount n) 1
  recordOnce s (Reg.chKvHdrFault n) (code * 2 ^ 60 + frame * 2 ^ 32 + id.toNat)

/-- A length-table fault recorded (R390, R417). -/
def noteLenFault (s : State) (n code entry : Nat) (id : W32) : State :=
  recordOnce s (Reg.chAttnFault n) (code * 2 ^ 59 + (entry % 2 ^ 24) * 2 ^ 32 + id.toNat)

/-- Stream tiles that a walking stream has read (R274, R351, R401): counted, and the lateness of the first of them as that of
any stream tile. No request of theirs is recorded: they are classed by the present mode (DESIGN CHOICE; R37). -/
def walkTiles (s : State) (n k tiles late : Nat) (cause : StallCause) : State :=
  let x := s.stream n k
  let s := count64 s (Reg.chStreamFetchCount n) tiles
  let s := lateAs s n (inService s n) x.opId k x.walked late cause
  s.setStream n k { s.stream n k with walked := x.walked + tiles }

end Sys2Proof.Machine
end

