-- ==== Sys2Proof/Machine/Tiers.lean ====
section
/-! DEFINITION. Tiers in service: write-back and refresh, hot pseudo-channels, migration (R337 to R345), the fence
(R335) and the shadow of the key/value pages (R435 to R438). -/

namespace Sys2Proof.Machine

/-! ### Write-back, refresh, hot channels -/

/-- DRAM_WRITE_BACK (R347): a corrected word that is still due is written back. -/
def opDramWriteBack (word : Nat) (s : State) : State :=
  let due := fun (n : Nat) => (s.chan n).wb.contains word
  match (List.range 4).find? due with
  | none => s
  | some n =>
    let s := writeBackWord s word
    s.setChan n { s.chan n with wb := (s.chan n).wb.filter (· != word) }

/-- The temperature class that a stack reports, against a limit (R321, R612). -/
def stackHot (s : State) (k : Nat) (limit : Int) : Bool :=
  s.board.temps.any fun p => p.1 == (⟨3, k⟩ : Sensor) && decide (limit < p.2)

/-- DRAM_REFRESH (R321): a bank's refresh, per bank in service, all banks of the pseudo-channel otherwise and while
its stack is above 95 °C; no refresh comes from the module while DORMANT leaves it to the devices (R602). With service mode
set but recovery in force, which the rule does not name, all banks are refreshed; and a stack above 95 °C leaves tier 1 per bank:
it is of other devices (DESIGN CHOICE). -/
def opDramRefresh (n : Nat) (tier1 : Bool) (device pc : Nat) (bank : Option Nat) (s : State) : State :=
  if s.board.retained || fld s Reg.glbPwrStatus 31 29 ≠ 3 then s
  else
    let per := inService s n && (tier1 || !stackHot s (3 * n + device) 95)
    s.setChan n { s.chan n with lastRef := some (tier1, device, pc, if per then bank else none) }

/-- HOT_CHANNEL_SAMPLE (R328 to R330). Where several pseudo-channels qualify in the sample that begins an episode, the
lowest-numbered one is taken: the rule names none (DESIGN CHOICE). -/
def opHotChannelSample (n : Nat) (occ : List Nat) (s : State) : State :=
  let r := Reg.chHotCtrl n
  let c := s.chan n
  if !flag s r 31 then s.setChan n { c with hot := none }
  else
    let q := fun (i : Nat) => min 32 (occ.getD i 0)
    let sum := (List.range 96).foldl (fun a i => a + q i) 0
    let ratio := max 2 (fld s r 19 16)
    let hot := fun (i : Nat) => decide (fld s r 15 12 ≤ q i) && decide (ratio * sum < 96 * q i)
    let at_ : Option Nat := match c.hot with
      | some e => if hot (32 * e.stack + e.pc) then some (32 * e.stack + e.pc) else none
      | none => none
    let begin_ : Option Nat := match at_ with | some i => some i | none => (List.range 96).find? hot
    match begin_ with
    | none => s.setChan n { c with hot := none }
    | some i =>
      let old : Episode := match c.hot, at_ with
        | some e, some _ => e
        | _, _ => ⟨i / 32, i % 32, 0, 0, false, false⟩
      let e := { old with samples := old.samples + 1, peak := max old.peak (q i) }
      -- samples are 1,024 cycles of 1.2 GHz apart: the window holds when the samples span it
      let full := decide (fld s r 11 0 * 10000 * 12 ≤ (e.samples - 1) * 10240)
      let notes := !e.posted && full && !flag s (Reg.chHotLast n) 63
      let s := s.setChan n { c with hot := some { e with posted := e.posted || full, noted := e.noted || notes } }
      if e.posted then
        if e.noted && flag s (Reg.chHotLast n) 63 then
          let s := setFld s (Reg.chHotLast n) 47 40 e.peak
          setFld s (Reg.chHotLast n) 31 0 (min e.samples 0xFFFFFFFF)
        else s
      else if full then
        let s := count32 s (Reg.chHotCount n) 1
        let s := recordOnce s (Reg.chHotLast n) (e.stack * 2 ^ 61 + e.pc * 2 ^ 56 + e.peak * 2 ^ 40
          + min 255 (sum * 8 / 96) * 2 ^ 32 + min e.samples 0xFFFFFFFF)
        post s n 0x0D 0 [(2, e.stack), (5, e.pc), (8, e.peak)]
      else s

/-! ### Migration -/

/-- Whether an address may be a command's t1addr (R341, R342). -/
def tier1Ok (s : State) (n a : Nat) : Bool :=
  a % 32768 == 0 && (match place a with
    | .tier1 m _ => (m == n || m == partner n) && !(s.chan m).t1Out
    | _ => false)

/-- A migration fault: the command is discarded (R342). -/
def migFault (s : State) (n : Nat) (c : MigCmd) : State :=
  post (setFlag s (Reg.chMigStatus n) 8 true) n 0x0C 0 [(32, c.tag.toNat)]

/-- A write of CH_MIG_CMD3 enqueues the command in CH_MIG_CMD0 to CH_MIG_CMD3 (R341, R344); one with a reserved op
faults at once. -/
def migEnqueue (n : Nat) (s : State) : State :=
  let q := (s.chan n).mig
  if q.length ≥ 64 then setFlag s (Reg.chMigStatus n) 9 true
  else
    let r := Reg.chMigCmd0 n
    let c : MigCmd := ⟨fld s r 63 60, flag s r 59, flag s r 58, fld s r 22 0, fld s (Reg.chMigCmd1 n) 47 0,
      BitVec.ofNat 32 (fld s (Reg.chMigCmd2 n) 63 32), BitVec.ofNat 32 (fld s (Reg.chMigCmd2 n) 31 0), false, false⟩
    if c.op = 0 || 8 ≤ c.op then migFault s n c
    else startWake (s.setChan n { s.chan n with mig := q ++ [c] })

/-- The first command of an op that may run: not carried out, and no earlier one names its frame (R343). -/
def migPick (o : Nat) : List MigCmd → List Nat → Nat → Option (Nat × MigCmd)
  | [], _, _ => none
  | c :: r, seen, i =>
    if c.op == o && !c.moved && !seen.contains c.frame then some (i, c)
    else migPick o r (c.frame :: seen) (i + 1)

/-- The queue with a command marked as carried out, or dropped. -/
def migMark (s : State) (n i : Nat) (c : MigCmd) : State :=
  s.setChan n { s.chan n with mig := (s.chan n).mig.set i { c with moved := true } }
def migDrop (s : State) (n i : Nat) : State := s.setChan n { s.chan n with mig := (s.chan n).mig.eraseIdx i }

/-- One word read to be moved between tiers: counted as the decoder delivers it. A word that leaves a stack crosses the port
of its Letrix die (R13, R348). -/
def readMoved (s : State) (src : Nat) : State :=
  let s := match decodeWord s src with
    | .clean => s
    | .corrected _ _ => (match ceReg (16 * src) with
      | some r => noteCeWord (noteWriteBack (count32 s r 1) (16 * src)) (16 * src)
      | none => s)
    | .bad => noteUeWord (match ueReg (16 * src) with | some r => count32 s r 1 | none => s) (16 * src)
  portBytes s true (16 * src) 16

/-- The word written where it goes; an uncorrectable one stays one. A word that enters a stack crosses its port. -/
def putMoved (s : State) (src dst : Nat) : State :=
  let s := copyWord s src dst
  let drop := fun (s : State) (m : Nat) => s.setChan m { s.chan m with wb := (s.chan m).wb.filter (· != dst) }
  match place (16 * dst) with
  | .tier0 m _ => portBytes (drop s m) false (16 * dst) 16
  | .tier1 m _ => drop s m
  | _ => s

/-- One word moved between tiers. -/
def moveWord (s : State) (src dst : Nat) : State := putMoved (readMoved s src) src dst

/-- A byte range moved, word by word. -/
def moveBytes (s : State) (src dst len : Nat) : State :=
  (List.range (len / 16)).foldl (fun s i => moveWord s (src / 16 + i) (dst / 16 + i)) s

/-- The channel whose tier 0 a migration reads a frame of a channel from; none where the fence leaves no copy in reach
(R335). -/
def serving (s : State) (n f : Nat) : Option Nat :=
  if !fenced s n then some n
  else if mirrored s n (32768 * f) && !fenced s (partner n) then some (partner n) else none

/-- The channels in whose tier 0 a migration writes a frame: both copies of a mirrored one, but for one that is fenced
(R333, R335). -/
def copiesOf (s : State) (n f : Nat) : List Nat :=
  [n, partner n].filter fun m => !fenced s m && (m == n || mirrored s n (32768 * f))

/-- A frame filled from tier 1: each word is read once, and written in both copies where the frame is mirrored (R333,
R348). -/
def fillFrame (s : State) (n f src : Nat) : State :=
  let off := 32768 * f
  let ms := copiesOf s n f
  let s := (List.range 2048).foldl (fun s i => ms.foldl (fun s m =>
    putMoved s (src / 16 + i) ((tier0Base m + off) / 16 + i)) (readMoved s (src / 16 + i))) s
  if ms.length = 2 then count64 s (Reg.chMirrorWriteCount n) 2048 else s

/-- The bytes of a frame copied to tier 1, from the copy that serves it. -/
def copyFrame (s : State) (n f t1 : Nat) : State :=
  match serving s n f with
  | some m => moveBytes s (tier0Base m + 32768 * f) t1 32768
  | none => s

/-- What an op asks of its frame (R342). A command whose frame the fence leaves in no reach (R335) has no issuer to halt: it
faults as one whose frame is in a wrong state (DESIGN CHOICE). -/
def frameOk (s : State) (n : Nat) (c : MigCmd) : Bool :=
  let here := !absent s n c.frame
  let reach := (serving s n c.frame).isSome
  decide (c.frame < frames) && (match c.op with
    | 1 => !here && reach
    | 2 => here && reach
    | 3 => !here && reach
    | 6 => (here || c.drain) && reach
    | 7 => here && mirrored s n (32768 * c.frame) && !fenced s n && !fenced s (partner n)
    | _ => true)

/-- A command of an op carried out where it breaks no rule (R342); it waits until a dormant module is ACTIVE
(R604). -/
def migRun (o n : Nat) (addr : Bool) (act : MigCmd → State → Option State) (s : State) : State :=
  match migPick o (s.chan n).mig [] 0 with
  | none => s
  | some (i, c) =>
    if isDormant s then s
    else if !frameOk s n c || (addr && !tier1Ok s n c.t1) then migFault (migDrop s n i) n c
    else match act c (migMark s n i c) with
      | some t => t
      | none => s

/-- FETCH_FROM_TIER_1 (R341, R342). -/
def opFetchFromTier1 (n : Nat) : State → State :=
  migRun 1 n true fun c s => some (markFrame (fillFrame s n c.frame c.t1) n c.frame true)

/-- COPY_TO_TIER_1 (R342, R343). -/
def opCopyToTier1 (n : Nat) : State → State :=
  migRun 2 n true fun c s => some (copyFrame s n c.frame c.t1)

/-- A host transfer of a channel by its number. -/
def migXfer (s : State) (n : Nat) (c : MigCmd) : Option Xfer := (s.chan n).book.xfers.find? (·.xfer == c.xfer)

/-- The op 0x3 that runs next: the first that faults or whose transfer has arrived, with no earlier command on its frame
(R342, R343). -/
def fromHostPick (s : State) (n : Nat) : List MigCmd → List Nat → Nat → Option (Nat × MigCmd)
  | [], _, _ => none
  | c :: r, seen, i =>
    if c.op == 3 && !c.moved && !seen.contains c.frame && (!frameOk s n c || (migXfer s n c).all fun x => decide (16 ≤ x.pieces.length))
    then some (i, c)
    else fromHostPick s n r (c.frame :: seen) (i + 1)

/-- FETCH_FROM_HOST (R342, R526): runs once its transfer has arrived; a transfer slot with an uncorrectable word is a
migration fault (R580). -/
def opFetchFromHost (n : Nat) (s : State) : State :=
  match fromHostPick s n (s.chan n).mig [] 0 with
  | none => s
  | some (i, c) =>
    if isDormant s then s
    else match migXfer s n c with
    | none => migFault (migDrop s n i) n c
    | some x =>
      if !frameOk s n c then migFault (migDrop s n i) n c
      else match (s.plan.bind fun p => p.chans[n]?).bind fun p => p.slots[x.slot]? with
        | none => migFault (migDrop s n i) n c
        | some a =>
          if (List.range 2048).any fun w => decodeWord s (a / 16 + w) == .bad then
            let bad := ((List.range 2048).filter fun w => decodeWord s (a / 16 + w) == .bad).length
            migFault (migDrop (count32 s (Reg.chT1UeCount n) bad) n i) n c
          else markFrame (fillFrame (migMark s n i c) n c.frame a) n c.frame true

/-- MARK_ABSENT (R339, R342). -/
def opMarkAbsent (n : Nat) : State → State :=
  migRun 4 n false fun c s => some (markFrame s n c.frame false)

/-- MARK_PRESENT (R342). -/
def opMarkPresent (n : Nat) : State → State :=
  migRun 5 n false fun c s => some (markFrame s n c.frame true)

/-- EVICT (R339, R342): the frame is marked absent at once; while accesses that had passed their check are in flight the
copy waits for them, and a further EVICT makes it. -/
def opEvict (n : Nat) (s : State) : State :=
  match migPick 6 (s.chan n).mig [] 0 with
  | none => s
  | some (i, c) =>
    if isDormant s then s
    else if !frameOk s n c || !tier1Ok s n c.t1 then migFault (migDrop s n i) n c
    else
      let s := markFrame s n c.frame false
      if flightInFrame s n c.frame then
        s.setChan n { s.chan n with mig := (s.chan n).mig.set i { c with drain := true } }
      else copyFrame (migMark s n i c) n c.frame c.t1

/-- REPAIR_BLOCK_FROM_MIRROR (R342, R346): one 2 KiB block rewritten from the partner copy. -/
def opRepairBlockFromMirror (n : Nat) : State → State :=
  migRun 7 n false fun c s =>
    let off := 32768 * c.frame + 2048 * (c.t1 % 16)
    some (moveBytes s (tier0Base (partner n) + off) (tier0Base n + off) 2048)

/-- The tasks and combining cores halted for a reason freed: they make their access again. -/
def freeHalts (s : State) (p : TaskHalt → Bool) : State :=
  let free := fun (h : Option TaskHalt) => if h.any p then none else h
  let one := fun (c : Core) => { c with
    array := c.array.map fun (a : ArrayTask) => { a with halted := free a.halted }
    behind := c.behind.map fun (b : ArrayTask × W32 × Nat) => ({ b.1 with halted := free b.1.halted }, b.2)
    vec := c.vec.map fun (a : VecTask) => { a with halted := free a.halted }
    fill := c.fill.map fun (a : FillTask) => { a with halted := free a.halted } }
  let lx := fun (l : LoadedOp) => { l with lx := { l.lx with halted := free l.lx.halted } }
  { s with cores := s.cores.map fun e => (e.1, one e.2)
           chans := s.chans.map fun (e : Nat × Chan) => (e.1, { e.2 with ops := e.2.ops.map lx }) }

/-- Every issuer of any channel halted on a page fault in a frame resumes (R341). -/
def resumeAll (s : State) (n f : Nat) : State :=
  let both := mirrored s n (32768 * f)
  let mine := fun (k : Nat) => k == n * 2 ^ 23 + f || (both && k == partner n * 2 ^ 23 + f)
  let s := (s.streams.filter fun e => e.2.halt == some 1 && (e.2.frame.map mine).getD false).foldl
    (fun (s : State) (e : Nat × Stream) => resumeStream s (e.1 / 4096) (e.1 % 4096)) s
  freeHalts s fun h => match h with | .page k => mine k | _ => false

/-- The tasks halted by a merge with an uncorrectable word of a repaired block make their access again (R319, R346): no
register resumes a task, so the block's repair does (DESIGN CHOICE). -/
def resumeMerges (s : State) (n off : Nat) : State :=
  let a := tier0Base n + off
  freeHalts s fun h => match h with | .merge w => decide (a ≤ w) && decide (w < a + 2048) | _ => false

/-- The 16 blocks of a frame marked dirty (R436). -/
def dirtyFrame (s : State) (n f : Nat) : State :=
  (List.range 16).foldl (fun s b => markDirty s n (32768 * f + 2048 * b)) s

/-- Whether a command carried out may complete: a mark-absent waits for the accesses that had passed the check (R339). -/
def migSettled (s : State) (n : Nat) (c : MigCmd) : Bool := c.moved && !(c.op == 4 && flightInFrame s n c.frame)

/-- MIGRATION_COMPLETE (R319, R339, R341, R344, R345, R348, R436): the oldest command that has been carried out and may
complete does. -/
def opMigrationComplete (n : Nat) (s : State) : State :=
  match (s.chan n).mig.findIdx? (migSettled s n) with
  | none => s
  | some i =>
    match (s.chan n).mig[i]? with
    | none => s
    | some c =>
      let s := count64 (migDrop s n i) (Reg.chMigDoneCount n) 1
      let s := if c.op = 1 || c.op = 3 || c.op = 5 then dirtyFrame s n c.frame else s
      let s := if c.op = 7 then resumeMerges s n (32768 * c.frame + 2048 * (c.t1 % 16)) else s
      let b := (s.chan n).book
      let s := if c.op = 3 then
          s.setChan n { s.chan n with book := { b with xfers := b.xfers.filter (·.xfer != c.xfer) } }
        else s
      let s := if c.resume then resumeAll s n c.frame else s
      if c.event then post s n 0x0B 0 [(32, c.tag.toNat)] else s

/-! ### The fence and the lock -/

/-- Tier 0 of a channel fenced (R335, R582): the first loss stands until reset. -/
def fence (s : State) (n unit : Nat) (die : Bool) : State :=
  if fenced s n then s
  else
    let s := wr s (Reg.chT0Fence n) (BitVec.ofNat 64 (2 ^ 31 + b2n die * 4 + unit % 4))
    post s n 0x12 0 [(2, unit), (1, b2n die)]

/-- The tier 1 of a channel leaves service: its partner's shadow is lost (R438). -/
def loseTier1 (s : State) (n : Nat) : State :=
  let m := partner n
  let s := s.setChan n { s.chan n with t1Out := true }
  if flag s (Reg.chKvShadow m) 62 then s
  else
    let s := setFlag s (Reg.chKvShadow m) 62 true
    let s := s.setChan m { s.chan m with dirty := [] }
    post s m 0x10 0 []

/-- T0_FENCE_WRITE (R335, R663): firmware sets fenced; a write of 0 is ignored. -/
def opT0FenceWrite (n : Nat) (v : W64) (s : State) : State :=
  if bits v.toNat 63 32 ≠ 0 || bits v.toNat 30 3 ≠ 0 then s
  else if bit v.toNat 31 then fence s n 0 false
  else s

/-- IL_LOCK_WRITE (R325): locked can only be set. -/
def opIlLockWrite (v : W64) (s : State) : State :=
  if bits v.toNat 63 1 ≠ 0 then s
  else if bit v.toNat 0 then setFlag s Reg.glbIlCtrl 0 true
  else s

/-! ### The shadow -/

/-- The shadow slot that a frame's header names (R425, R436). -/
def shadowSlot (s : State) (n f : Nat) : Nat := leNat (goodBytes s (hdrAddr s n f + 16) 4)

/-- One dirty block copied to its slot in the partner's tier 1 (R436). -/
def shadowBlock (s : State) (n b : Nat) : State :=
  let c := s.chan n
  if !c.dirty.contains b then s
  else
    let s := s.setChan n { c with dirty := c.dirty.filter (· != b),
                                  sync := c.sync.map fun (y : Sync) => { y with blocks := y.blocks.filter (· != b) } }
    let slot := shadowSlot s n (b / 16)
    let dst := fld s (Reg.chKvShadow n) 47 0 + 32768 * slot + b % 16 * 2048
    let inside := match place dst with | .tier1 m _ => m == partner n | _ => false
    if slot = 0xFFFFFFFF || !inside then s
    else
      let src := tier0Base n + 2048 * b
      let s := moveBytes s src dst 2048
      count64 s (Reg.chKvShadowBlockCount n) 1

/-- SHADOW_BLOCK_COPY (R436). -/
def opShadowBlockCopy (n b : Nat) (s : State) : State := if fenced s n then s else shadowBlock s n b

/-- The sequences whose step has stored its last keys and values in a channel, with the number of the step: that of the token it
makes (R438). -/
def storedSeqs (s : State) (n : Nat) : List (Nat × Nat) :=
  (s.ref.live.filter fun q => match q.work with
    | some w => w.any fun x => x.ch == n && x.ops.isEmpty
    | none => false).map fun q => (q.id, q.made)

/-- A shadow sync asked for (R437). -/
def askSync (s : State) (n tag : Nat) : State :=
  let s := setFld (setFlag s (Reg.chKvSync n) 63 true) (Reg.chKvSync n) 31 0 tag
  s.setChan n { s.chan n with sync := some ⟨(s.chan n).dirty, BitVec.ofNat 32 tag, storedSeqs s n⟩ }

/-- SHADOW_SYNC_REQUEST (R437): a write of CH_KV_SYNC, ignored while go is 1. -/
def opShadowSyncRequest (n : Nat) (v : W64) (s : State) : State :=
  if bits v.toNat 62 32 ≠ 0 || flag s (Reg.chKvSync n) 63 then s
  else if bit v.toNat 63 then askSync s n (bits v.toNat 31 0)
  else setFld s (Reg.chKvSync n) 31 0 (bits v.toNat 31 0)

/-- A sync completed: go cleared, the event posted, the channel counted for the steps it covers (R437, R438). -/
def endSync (s : State) (n : Nat) (y : Sync) : State :=
  let s := setFlag s (Reg.chKvSync n) 63 false
  let s := s.setChan n { s.chan n with sync := none }
  let note := fun (q : Live) => if y.seqs.contains (q.id, q.made) then { q with synced := n :: q.synced } else q
  let s := { s with ref := { s.ref with live := s.ref.live.map note } }
  post s n 0x0F 0 [(32, y.tag.toNat)]

/-- SHADOW_SYNC_COMPLETE (R437). -/
def opShadowSyncComplete (n : Nat) (s : State) : State :=
  match (s.chan n).sync with
  | none => s
  | some y =>
    if y.blocks.isEmpty || flag s (Reg.chKvShadow n) 62 then
      let s := endSync s n y
      let left := fun (q : Live) => (storedSeqs s n).contains (q.id, q.made) && !q.synced.contains n
      if s.ref.live.any left then askSync s n y.tag.toNat else s
    else s

/-- A whole sync, as firmware completes one before it parks, retires or sleeps (R434, R439, R602). -/
def syncNow (s : State) (n : Nat) : State :=
  let s := askSync s n (fld s (Reg.chKvSync n) 31 0)
  let s := (s.chan n).dirty.foldl (fun s b => shadowBlock s n b) s
  match (s.chan n).sync with | some y => endSync s n y | none => s

end Sys2Proof.Machine
end

