-- ==== Sys2Proof/Machine/Links.lean ====
section
/-! DEFINITION. Dorul links (R461 to R504): flits and replay, messages, credits, the port states, windows and
sends, and the frames of host mode as a port numbers them (R519). -/

namespace Sys2Proof.Machine

/-! ### Message fields (R469) -/

def Msg.kind (m : Msg) : Nat := bits m.w0.toNat 63 60
def Msg.cls (m : Msg) : Nat := bits m.w0.toNat 59 58
def Msg.dst (m : Msg) : Nat := bits m.w0.toNat 57 55
def Msg.src (m : Msg) : Nat := bits m.w0.toNat 54 52
def Msg.ttl (m : Msg) : Nat := bits m.w0.toNat 51 49
def Msg.len (m : Msg) : Nat := bits m.w0.toNat 43 32
def Msg.stag (m : Msg) : Nat := bits m.w0.toNat 31 0
def Msg.seq (m : Msg) : Nat := bits m.w3.toNat 63 48
def Msg.sgen (m : Msg) : Nat := bits m.w3.toNat 47 40
def Msg.sv (m : Msg) : Bool := bit m.w3.toNat 39
/-- Word 1 bits [63:60]: the sub, op or fkind of types 0x3 to 0x6 (R509, R522, R525, R532). -/
def Msg.sub (m : Msg) : Nat := bits m.w1.toNat 63 60
/-- Bound for the host (R522, R525). -/
def Msg.toh (m : Msg) : Bool := bit m.w2.toNat 63
/-- A field of word 1. -/
def Msg.f1 (m : Msg) (hi lo : Nat) : Nat := bits m.w1.toNat hi lo

/-- Word 0 of a message. -/
def word0 (kind cls dst src ttl len stag : Nat) : W64 :=
  BitVec.ofNat 64 (kind * 2 ^ 60 + cls * 2 ^ 58 + dst % 8 * 2 ^ 55 + src % 8 * 2 ^ 52 + ttl * 2 ^ 49
    + len % 4096 * 2 ^ 32 + stag % 2 ^ 32)

/-- A message with its ttl or source replaced. -/
def Msg.setTtl (m : Msg) (t : Nat) : Msg := { m with w0 := BitVec.ofNat 64 (putBits m.w0.toNat 51 49 t) }
def Msg.setSrc (m : Msg) (t : Nat) : Msg := { m with w0 := BitVec.ofNat 64 (putBits m.w0.toNat 54 52 t) }
def Msg.setDst (m : Msg) (t : Nat) : Msg := { m with w0 := BitVec.ofNat 64 (putBits m.w0.toNat 57 55 t) }

/-- Bytes padded to a multiple of 16. -/
def pad16 (bs : List Byte) : List Byte := bs ++ List.replicate ((16 - bs.length % 16) % 16) 0

/-- The bytes of a message as it lies in flit bodies (R468). -/
def Msg.bytes (m : Msg) : List Byte :=
  leBytes 8 m.w0.toNat ++ leBytes 8 m.w1.toNat ++ leBytes 8 m.w2.toNat ++ leBytes 8 m.w3.toNat ++ pad16 m.data

/-- A message read from its bytes. -/
def Msg.ofBytes (bs : List Byte) : Msg :=
  let w := fun (k : Nat) => BitVec.ofNat 64 (leNat ((bs.drop (8 * k)).take 8))
  let m : Msg := ⟨w 0, w 1, w 2, w 3, []⟩
  { m with data := (bs.drop 32).take m.len }

/-- Credits of a message (R475). -/
def Msg.credits (m : Msg) : Nat := cdiv (32 + m.len) 64

/-- The class of a type and its largest len (R470). -/
def typeClass : Nat → Option (Nat × Nat)
  | 1 => some (2, 2048) | 2 => some (0, 0) | 3 => some (0, 512) | 4 => some (1, 2048) | 5 => some (1, 2048)
  | 6 => some (3, 2048) | _ => none

/-- Whether a message's reserved bits are zero and its codes are not reserved (R471, R472, R509, R522, R525,
R532). -/
def Msg.fieldsOk (m : Msg) : Bool :=
  let a := m.w1.toNat
  let b := m.w2.toNat
  bits m.w0.toNat 48 44 == 0 && bits m.w3.toNat 38 0 == 0 && (match m.kind with
    | 1 => bits a 47 32 == 0 && b == 0 && m.len % 16 == 0 && bits a 31 0 % 16 == 0
    | 2 => bits a 51 0 == 0 && b == 0
    | 3 => decide (1 ≤ m.sub) && decide (m.sub ≤ 4) && bits a 24 0 == 0 && b == 0
    | 4 => bits b 62 0 == 0 && (match m.sub with
      | 1 => decide (1 ≤ m.f1 59 48) && decide (m.f1 59 48 ≤ 256) && m.len == 0
      | 2 => decide (1 ≤ m.f1 59 48) && decide (m.f1 59 48 ≤ 256) && m.len == 8 * m.f1 59 48
      | 3 => bits a 55 0 == 0
      | 4 => bits a 53 32 == 0 && m.len == 2048
      | 5 => bits a 51 0 == 0
      | _ => false)
    | 5 => bits a 3 0 == 0 && bits b 62 48 == 0 && m.len % 4 == 0 &&
      [1, 2, 3, 4, 8, 9].contains m.sub
    | 6 => decide (1 ≤ m.sub) && decide (m.sub ≤ 3) && bits a 35 0 == 0 && b == 0 && !m.sv
    | _ => false)

/-- Whether a message is well formed (R472). -/
def Msg.ok (m : Msg) : Bool :=
  match typeClass m.kind with
  | some (c, l) => m.cls == c && decide (m.len ≤ l) && m.fieldsOk
  | none => false

/-! ### Ports and their registers -/

def linkReg (p : Nat) : RegRef := Reg.chLinkStatus (p / 2) (p % 2)
def linkCtl (p : Nat) : RegRef := Reg.chLinkCtrl (p / 2) (p % 2)
/-- Port state (R490). -/
def portState (s : State) (p : Nat) : Nat := fld s (linkReg p) 31 29
def linkUp (s : State) (p : Nat) : Bool := portState s p == 2 || portState s p == 3
/-- A port of host mode (R516, R521). -/
def hostPort (s : State) (p : Nat) : Bool :=
  flag s Reg.glbHostCfg 2 && ((p == 6 && flag s Reg.glbHostCfg 0) ||
    (p == 7 && flag s Reg.glbHostCfg 1 && flag s Reg.glbHostCfg 0))
/-- Own module number (R505, R511). -/
def ownModule (s : State) : Nat := fld s Reg.glbGroupStatus 27 25
/-- The ring ports (R461). -/
def ringPort (p : Nat) : Bool := decide (p < 4)

/-- Buffer credits of a class (R474). -/
def bufCredits : Nat → Nat
  | 0 => 256 | 1 => 512 | 2 => 2048 | _ => 1280

/-- Credits held at the next port (R475, R476). -/
def heldCredits (x : Port) (c : Nat) : Nat :=
  bufCredits c - (x.used.getD c 0 + 4096 - x.seen.getD c 0) % 4096

/-- A list of four counters with one raised, modulo 4,096. -/
def bumpAt (l : List Nat) (c n : Nat) : List Nat := l.set c ((l.getD c 0 + n) % 4096)

/-! ### Sending flits -/

/-- A flit as a port sends it, with its acknowledgement and credits (R465, R475). -/
def mkFlit (x : Port) (kind seq first : Nat) (body : List Byte) : Flit :=
  let a : Fin 4 := if x.alt then 2 else 0
  let b : Fin 4 := if x.alt then 3 else 1
  ⟨kind, seq, (x.rxNext + 4095) % 4096, x.rxAny, a, x.freed.getD a.val 0, b, x.freed.getD b.val 0, first, body⟩

/-- A flit sent: data and idle flits alternate between the class pairs (R475). -/
def sendFlit (x : Port) (kind seq first : Nat) (body : List Byte) : Port :=
  { x with out := some (mkFlit x kind seq first body), alt := if kind = 2 then x.alt else !x.alt }

/-- The bodies of a message: it starts a flit of its own, and the rest of its last body is padding (R468). -/
def bodies (bs : List Byte) : List (Nat × List Byte) :=
  (List.range (cdiv bs.length 624)).map fun i =>
    let b := (bs.drop (624 * i)).take 624
    (if i = 0 then 0 else 0x3F, b ++ List.replicate (624 - b.length) 0)

/-- A message put on the line: its flits numbered and kept for replay, its credits taken (R467, R475). -/
def transmit (x : Port) (m : Msg) (send : Option (Nat × Nat)) : Port :=
  let x := (bodies m.bytes).foldl (fun (x : Port) (f : Nat × List Byte) =>
    let y := sendFlit x 1 x.txSeq f.1 f.2
    { y with replay := y.replay ++ [⟨y.txSeq, f.1, f.2, send⟩], txSeq := (y.txSeq + 1) % 4096 }) x
  { x with used := bumpAt x.used m.cls m.credits }

/-- Whether a message may be started on a port (R467, R476). -/
def canStart (x : Port) (m : Msg) (origin : Bool) : Bool :=
  let held := heldCredits x m.cls
  decide (m.credits ≤ held) && (!origin || decide (66 ≤ held)) &&
    decide (x.replay.length + (bodies m.bytes).length ≤ 512)

/-- The flits of a send command counted in its channel. -/
def noteSent (s : State) (send : Option (Nat × Nat)) (n : Nat) : State :=
  match send with
  | none => s
  | some (ch, no) =>
    let one := fun (c : SendCmd) => if c.no == no then { c with left := c.left + n } else c
    s.setChan ch { s.chan ch with sends := (s.chan ch).sends.map one }

/-- The messages that wait at a port leave in order, each class for itself, as credits and replay room allow. -/
def pumpGo (s : State) (p : Nat) : List TxMsg → List Nat → List TxMsg → State
  | [], _, keep => s.setPort p { s.port p with waiting := keep }
  | t :: r, blocked, keep =>
    let x := s.port p
    if !blocked.contains t.msg.cls && canStart x t.msg t.origin then
      let s := s.setPort p (transmit x t.msg t.send)
      pumpGo (noteSent s t.send (bodies t.msg.bytes).length) p r blocked keep
    else pumpGo s p r (t.msg.cls :: blocked) (keep ++ [t])

/-- A port sends what it can: control messages first (R47, R474), the other classes in the order in which their messages
came, which stands for their rotating order (DESIGN CHOICE: no cycle of the arbiter is modelled). -/
def pump (s : State) (p : Nat) : State :=
  let w := (s.port p).waiting
  if linkUp s p then pumpGo s p (w.filter (·.msg.cls == 0) ++ w.filter (·.msg.cls != 0)) [] [] else s

/-- A message handed to a port. -/
def sendOn (s : State) (p : Nat) (t : TxMsg) : State :=
  pump (s.setPort p { s.port p with waiting := (s.port p).waiting ++ [t] }) p

/-- The port of the route to a module (R512). -/
def routePort (s : State) (t : Nat) : Option Nat :=
  if flag s (Reg.glbRoute t) 31 then some (fld s (Reg.glbRoute t) 30 28) else none

/-- A host frame numbered and sent, or kept until fewer than 1,024 are unacknowledged (R519). -/
def hostSend (s : State) (p : Nat) (m : Msg) : State :=
  let x := s.port p
  if !x.hup then s
  else if x.hun.length < 1024 then
    s.setPort p { x with hun := x.hun ++ [(x.htx, m)], htx := (x.htx + 1) % 65536,
                         hout := some (x.htx, (x.hrx + 65535) % 65536, m) }
  else s.setPort p { x with hwait := x.hwait ++ [m] }

/-- The host port in use: the lowest that is up. -/
def hostOut (s : State) : Option Nat := [6, 7].find? fun p => hostPort s p && (s.port p).hup

/-- A message's type and the tag that the host gave the request it answers: stag of a type 0x4, htag of a type 0x5 (R469,
R522). -/
def hostKey (m : Msg) : Nat := m.kind * 2 ^ 32 + (if m.kind = 4 then m.stag else bits m.w2.toNat 31 0)

/-- The host port that a message for the host leaves by (R516): that by which its request arrived, or else the lowest that
is up. -/
def hostPick (s : State) (prefer : Option Nat) (m : Msg) : Option Nat :=
  let up := fun (p : Nat) => hostPort s p && (s.port p).hup
  ((prefer.filter up).orElse fun _ => (mfind s.ref.via (hostKey m)).filter up).orElse fun _ => hostOut s

/-- A message of this module leaves for its destination: over its route, or out of the host port when it is bound for
the host and this module is its destination (R478, R520). `prefer` is the host port its request came by (R516). -/
def emit (s : State) (prefer : Option Nat) (send : Option (Nat × Nat)) (m : Msg) : State :=
  if m.dst = ownModule s then
    if m.toh && (m.kind == 4 || m.kind == 5) then
      match hostPick s prefer m with
      | some p => hostSend s p m
      | none => s
    else count32 s Reg.glbLinkUnrouteCount 1
  else match routePort s m.dst with
    | none => count32 s Reg.glbLinkUnrouteCount 1
    | some p => sendOn s p ⟨m, true, send⟩

/-! ### Receiving flits -/

/-- Messages taken from flit bodies; a header of type 0x0 ends the body (R468). The result is the whole messages and
the bytes of one that goes on in the next flit. -/
def takeMsgs : Nat → List Byte → List Byte → List Msg → List Msg × List Byte
  | 0, part, _, acc => (acc, part)
  | k + 1, part, body, acc =>
    if body.isEmpty then (acc, part)
    else if part.isEmpty && (body.getD 7 0).toNat / 16 == 0 then (acc, [])
    else
      let all := part ++ body
      let len := 32 + bits (leNat (all.take 8)) 43 32
      let total := cdiv len 16 * 16
      if all.length < total then (acc, all)
      else takeMsgs k [] (all.drop total) (acc ++ [Msg.ofBytes (all.take total)])

/-- A message that has left its receive buffer frees its credits (R475). -/
def freeCredits (s : State) (p : Nat) (m : Msg) : State :=
  s.setPort p { s.port p with freed := bumpAt (s.port p).freed m.cls m.credits }

/-- A message enters its receive buffer; the parts of requests for this module are also noted in their order of arrival: a
frame completes at the module that its `dst` names (R29, R522). -/
def receive (s : State) (p : Nat) (m : Msg) : State :=
  let s := s.setPort p { s.port p with rxq := (s.port p).rxq ++ [m] }
  if m.kind == 5 && m.sub == 1 && m.dst == ownModule s then
    let held := s.ref.arrived.filter fun (a : Arrived) => (s.port a.port).rxq.contains a.msg
    { s with ref := { s.ref with arrived := held ++ [⟨p, m, timeNs s⟩] } }
  else s

/-- Received messages enter their buffers, but malformed ones are dropped and counted (R472). -/
def acceptMsgs (s : State) (p : Nat) (ms : List Msg) : State :=
  ms.foldl (fun (s : State) (m : Msg) =>
    if m.ok then receive s p m
    else freeCredits (count32 s (Reg.chLinkBadmsgCount (p / 2) (p % 2)) 1) p m) s

/-- An acknowledgement: the flits up to it leave the replay buffer (R467, R488). -/
def applyAck (s : State) (p ack : Nat) : State :=
  let x := s.port p
  let gone := x.replay.filter fun (f : TxFlit) => decide ((ack + 4096 - f.seq) % 4096 < 512)
  let keep := x.replay.filter fun (f : TxFlit) => !decide ((ack + 4096 - f.seq) % 4096 < 512)
  let s := s.setPort p { x with replay := keep }
  gone.foldl (fun (s : State) (f : TxFlit) => match f.send with
    | none => s
    | some (ch, no) =>
      let one := fun (c : SendCmd) => if c.no == no then { c with left := c.left - 1 } else c
      s.setChan ch { s.chan ch with sends := (s.chan ch).sends.map one }) s

/-- The acknowledgement and credits of a good flit applied; what they free is sent (R465, R475). -/
def applyHeader (s : State) (p : Nat) (f : Flit) : State :=
  let s := if f.ackV then applyAck s p f.ack else s
  let x := s.port p
  let seen := (x.seen.set f.classA.val f.credA).set f.classB.val f.credB
  pump (s.setPort p { x with seen := seen }) p

/-- The port resends from its first unacknowledged flit (R467, R494). -/
def resend (s : State) (p : Nat) : State :=
  let x := s.port p
  s.setPort p (x.replay.foldl (fun (x : Port) (f : TxFlit) => sendFlit x 1 f.seq f.first f.body) x)

/-- A counted resend (R467). -/
def countedResend (s : State) (p : Nat) : State :=
  if (s.port p).replay.isEmpty then s else count32 (resend s p) (Reg.chLinkReplayCount (p / 2) (p % 2)) 1

/-- A nak sent: it names the last good flit (R467). -/
def sendNak (s : State) (p : Nat) : State :=
  let x := s.port p
  s.setPort p (sendFlit { x with nak := true } 2 0 0x3F (List.replicate 624 0))

/-- A flit discarded or found out of order: the first such sends a nak (R467). -/
def discardFlit (s : State) (p : Nat) : State := if (s.port p).nak then s else sendNak s p

/-- A flit arrives (R465 to R468, R504). -/
def receiveFlit (s : State) (p : Nat) (f : Flit) (c : FlitCheck) : State :=
  let n := p / 2
  let j := p % 2
  if !linkUp s p then s
  else if c.uncorrectable then discardFlit (count32 s (Reg.chLinkFecUncorrCount n j) 1) p
  else
    let s := if c.corrected then count64 s (Reg.chLinkFecCorrCount n j) 1 else s
    if !c.crcOk then discardFlit (count32 s (Reg.chLinkCrcCount n j) 1) p
    else if 3 ≤ f.ftype then discardFlit s p
    else
      let s := applyHeader s p f
      let x := s.port p
      if f.ftype = 1 then
        if f.seq = x.rxNext then
          let r := takeMsgs 64 x.part f.body []
          let s := s.setPort p { x with rxNext := (x.rxNext + 1) % 4096, rxAny := true, nak := false, part := r.2 }
          acceptMsgs s p r.1
        else discardFlit s p
      else if f.ftype = 2 then countedResend s p
      else s

/-- A message leaves the receive buffer. -/
def dropMsg (s : State) (p : Nat) (m : Msg) : State :=
  let x := s.port p
  freeCredits (s.setPort p { x with rxq := x.rxq.erase m, bad := x.bad.erase m }) p m

/-- The receive buffer holds a message's payload uncorrectable (R580): a window write waits for its check 7 (R482), any
other type is dropped. -/
def strikeMsg (p : Nat) (s : State) (m : Msg) : State :=
  if m.kind = 1 then s.setPort p { s.port p with bad := m :: (s.port p).bad } else dropMsg s p m

/-- DATA_FLIT, IDLE_FLIT and NAK_FLIT (R465 to R468): a flit of the type the command names. One whose type is
reserved is discarded. `struck` are the places in the receive buffer whose payload is then found uncorrectable. -/
def opDataFlit (p : Nat) (f : Flit) (c : FlitCheck) (struck : List Nat) (s : State) : State :=
  let s := if f.ftype = 1 || 3 ≤ f.ftype then receiveFlit s p f c else s
  (struck.eraseDups.filterMap fun i => (s.port p).rxq[i]?).foldl (strikeMsg p) s
def opIdleFlit (p : Nat) (f : Flit) (c : FlitCheck) (s : State) : State :=
  if f.ftype = 0 then receiveFlit s p f c else s
def opNakFlit (p : Nat) (f : Flit) (c : FlitCheck) (s : State) : State :=
  if f.ftype = 2 then receiveFlit s p f c else s

/-- REPLAY_TIMEOUT (R467). -/
def opReplayTimeout (p : Nat) (s : State) : State := if linkUp s p then countedResend s p else s

/-- NAK_RESEND_TIMEOUT (R467). -/
def opNakResendTimeout (p : Nat) (s : State) : State :=
  if linkUp s p && (s.port p).nak then sendNak s p else s

/-! ### Taking messages from the receive buffers -/

/-- The oldest message of a class at a port. -/
def frontOf (s : State) (p c : Nat) : Option Msg := (s.port p).rxq.find? (·.cls == c)

/-- The oldest message of a class, where it is for this module and of the kind and sub that a command takes. -/
def takeFor (s : State) (p kind : Nat) (subs : List Nat) : Option Msg :=
  match typeClass kind with
  | none => none
  | some (c, _) => (frontOf s p c).filter fun m =>
      m.kind == kind && m.dst == ownModule s && (subs.isEmpty || subs.contains m.sub)

/-- A stale message: dropped without reply and counted (R484). -/
def staleMsg (s : State) (p : Nat) (m : Msg) : State := count32 (dropMsg s p m) Reg.glbLinkStaleCount 1

/-- Where a message for another module goes: along its ring for type 0x6, else by the routes (R478, R531). -/
def forwardPort (s : State) (p : Nat) (m : Msg) : Option Nat :=
  if m.kind = 6 && ringPort p then some (p ^^^ 2) else routePort s m.dst

/-- MESSAGE_FORWARD (R478, R479, R520, R531). -/
def opMessageForward (p c : Nat) (s : State) : State :=
  match frontOf s p c with
  | none => s
  | some m =>
    if m.dst = ownModule s then s
    else if m.ttl = 0 then count32 (dropMsg s p m) Reg.glbLinkTtlDropCount 1
    else match forwardPort s p m with
      | none => count32 (dropMsg s p m) Reg.glbLinkUnrouteCount 1
      | some q =>
        let m' := m.setTtl (m.ttl - 1)
        if linkUp s q && canStart (s.port q) m' false then
          let s := dropMsg s p m
          s.setPort q (transmit (s.port q) m' none)
        else s

/-- MESSAGE_AGE_DROP (R479). -/
def opMessageAgeDrop (p c : Nat) (s : State) : State :=
  match frontOf s p c with
  | none => s
  | some m => count32 (dropMsg s p m) Reg.glbLinkAgeDropCount 1

/-! ### Windows (R480 to R485) -/

/-- The outcome of the checks of R482. -/
inductive WinCheck where
  | stale
  | reject (reason : Nat) (core : Option Nat) -- the core counts the reject of order 5
  | core (n i : Nat) (off : Nat) (k : Nat)
  | memory (a : Nat)
deriving DecidableEq, Repr

/-- Whether every tier-0 word of a range is in service (R482, order 6). -/
def rangeServes (s : State) (a len : Nat) : Bool :=
  (List.range (cdiv (a % 32768 + len) 32768)).all fun i =>
    match place (if i = 0 then a else 32768 * (a / 32768 + i)) with
    | .tier0 n off => (match resolve s (tier0Base n + off) true with | .ok _ => true | .error _ => false)
    | .tier1 n _ => !(s.chan n).t1Out
    | _ => false

/-- The checks of a window write in their order (R482, R604). -/
def checkWindow (s : State) (m : Msg) (dataBad : Bool) : WinCheck :=
  let k := m.f1 63 56
  let w := Reg.glbWinCtrl k
  let n := fld s w 44 43
  let kind := fld s w 62 61
  let off := m.f1 31 0
  let phys := physOf s n (fld s w 42 33)
  let r := Reg.coreRecvWindow n phys (fld s w 32 30)
  let at_ := fld s r 8 0 * 512 + off
  let a := fld s (Reg.glbWinBase k) 47 0 + off
  let gen := fld s (Reg.chKvGen n (m.seq / 8)) (m.seq % 8 * 8 + 7) (m.seq % 8 * 8)
  if m.f1 55 48 ≠ fld s w 60 53 then .stale
  else if m.sv && m.sgen != gen then .stale
  else if !flag s w 63 || !(kind == 1 || kind == 2) then .reject 1 none
  else if !bit (fld s w 52 45) m.src then .reject 2 none
  else if kind = 1 && !(flag s r 31 && decide (off + m.len ≤ fld s r 25 16 * 512)) then .reject 3 (some n)
  else if kind = 2 && fld s (Reg.glbWinLen k) 31 0 < off + m.len then .reject 3 none
  else if isDormant s then .reject 4 none
  else if kind = 1 && !(storeMapped s n phys && (wordsOf at_ m.len).all fun x => rowPowered s n phys (x / 32)) then
    .reject 4 none
  else if kind = 2 && !rangeServes s a m.len then .reject 4 none
  else if dataBad then .reject 5 none
  else if kind = 1 then .core n phys at_ (fld s w 32 30)
  else .memory a

/-- A reject sent to the source of a write (R485, R471). -/
def sendReject (s : State) (m : Msg) (reason : Nat) : State :=
  let r : Msg := ⟨word0 2 0 m.src (ownModule s) 7 0 m.stag, BitVec.ofNat 64 (m.f1 63 56 * 2 ^ 56 + reason * 2 ^ 52), 0,
    m.w3, []⟩
  emit (count32 s Reg.glbWinRejectCount 1) none none r

/-- WINDOW_WRITE (R482 to R485, R604): `dataBad` says that the data's decode in the receive buffer is not clean. -/
def opWindowWrite (p : Nat) (dataBad : Bool) (s : State) : State :=
  match takeFor s p 1 [] with
  | none => s
  | some m =>
    match checkWindow s m (dataBad || (s.port p).bad.contains m) with
    | .stale => staleMsg s p m
    | .reject reason core =>
      let s := dropMsg s p m
      let s := match core with | some n => count32 s (Reg.chCsWindowRejectCount n) 1 | none => s
      let s := if isDormant s then startWake s else s
      sendReject s m reason
    | .core n i off k =>
      let ws := (List.range (m.len / 16)).map fun j =>
        (off / 16 + j, leNat ((m.data.drop (16 * j)).take 16), 2 ^ 128 - 1)
      let s := dropMsg s p m
      let s := ws.foldl (fun (s : State) (x : Nat × Nat × Nat) =>
        csWrite s n i 3 (x.1 / 32) (x.1 % 32) x.2.1 x.2.2) s
      arriveAt s n i k
    | .memory a =>
      let s := dropMsg s p m
      let s := (writeRange s a m.data).1
      let r := Reg.glbWinArrival (m.f1 63 56)
      setFld s r 31 0 ((fld s r 31 0 + 1) % 2 ^ 32)

/-- REJECT (R485): posted to the queue of the port's channel; the sender is not halted. -/
def opReject (p : Nat) (s : State) : State :=
  match takeFor s p 2 [] with
  | none => s
  | some m =>
    post (dropMsg s p m) (p / 2) 0x23 0 [(32, m.stag), (3, m.src), (8, m.f1 63 56), (4, m.f1 55 52)]

/-! ### Sends (R486 to R489) -/

/-- SEND_COMMAND (R486, R489, R604): a write of CH_LINK_SEND_CMD3. -/
def opSendCommand (n : Nat) (v : W64) (s : State) : State :=
  if bits v.toNat 4 0 ≠ 0 then s
  else
    let c := s.chan n
    if c.sends.length ≥ 64 then setFlag s (Reg.chLinkSendStatus n) 9 true
    else
      let s := wr s (Reg.chLinkSendCmd3 n) v
      let cmd : SendCmd := ⟨c.book.sendNo, rd s (Reg.chLinkSendCmd0 n), rd s (Reg.chLinkSendCmd1 n),
        rd s (Reg.chLinkSendCmd2 n), v, false, 0, 0⟩
      startWake (s.setChan n { s.chan n with sends := c.sends ++ [cmd],
                                             book := { c.book with sendNo := c.book.sendNo + 1 } })

/-- The operations that stand in a channel's work queue. -/
def queuedIds (s : State) (n : Nat) : List W32 :=
  let h := fld s (Reg.chWqHead n) 11 0
  (List.range ((fld s (Reg.chWqTail n) 11 0 + 4096 - h) % 4096)).map fun i =>
    let e := leNat (viewRange s (fld s (Reg.chWqBase n) 47 0 + 8 * ((h + i) % 4096)) 8)
    BitVec.ofNat 32 (leNat (viewRange s (bits e 47 0 + 4) 4))

/-- An operation has completed: it is neither loaded nor queued (R219). -/
def opGone (s : State) (n : Nat) (id : W32) : Bool :=
  !((s.chan n).ops.any fun (l : LoadedOp) => l.op.opId == id) && !(queuedIds s n).contains id

/-- The source of a send: a device address in a tier or a core store (R486); register blocks are unmapped (R695). An
uncorrectable word of a core store raises its fault too (R144, R181). -/
def readSource (s : State) (a len : Nat) : State × Option (List Byte) :=
  match readRange s a len with
  | (s, .ok bs) => (s, some bs)
  | (s, .error e) => (stopEvent s 0 e, none)

/-- The window writes of a send, from the i-th on, k of them: each is read and sent; a source that cannot be read ends
the send with status 0x2 (R487). -/
def sendParts (n : Nat) (c : SendCmd) : Nat → Nat → State → State × Bool
  | 0, _, s => (s, true)
  | k + 1, i, s =>
    let len := min 2048 (bits c.w2.toNat 63 32 / 16 * 16 - 2048 * i)
    match readSource s (bits c.w1.toNat 47 0 / 16 * 16 + 2048 * i) len with
    | (s, none) => (s, false)
    | (s, some bs) =>
      let w1 := bits c.w0.toNat 60 53 * 2 ^ 56 + bits c.w0.toNat 52 45 * 2 ^ 48 +
        (bits c.w0.toNat 31 0 / 16 * 16 + 2048 * i) % 2 ^ 32
      let w3 := if bit c.w3.toNat 7 then
          bits c.w3.toNat 31 16 * 2 ^ 48 + bits c.w3.toNat 15 8 * 2 ^ 40 + 2 ^ 39 else 0
      let m : Msg := ⟨word0 1 2 (bits c.w0.toNat 63 61) (ownModule s) 7 len (bits c.w2.toNat 31 0),
        BitVec.ofNat 64 w1, 0, BitVec.ofNat 64 w3, bs⟩
      sendParts n c k (i + 1) (emit s none (some (n, c.no)) m)

/-- SEND_START (R486, R487, R604): the first command not yet started, once its `after` operation has completed. -/
def opSendStart (n : Nat) (s : State) : State :=
  match (s.chan n).sends.find? (fun (c : SendCmd) => !c.sent) with
  | none => s
  | some c =>
    if isDormant s || (bit c.w3.toNat 6 && !opGone s n (BitVec.ofNat 32 (bits c.w3.toNat 63 32))) then s
    else
      let put := fun (s : State) (f : SendCmd → SendCmd) =>
        s.setChan n { s.chan n with sends := (s.chan n).sends.map fun (x : SendCmd) => if x.no == c.no then f x else x }
      let s := put s fun x => { x with sent := true }
      let r := sendParts n c (cdiv (bits c.w2.toNat 63 32) 2048) 0 s
      if r.2 then r.1 else put r.1 fun x => { x with err := 2 }

/-- Whether a message of a send still waits at a port. -/
def sendWaits (s : State) (n no : Nat) : Bool :=
  (List.range 8).any fun p => (s.port p).waiting.any fun (t : TxMsg) => t.send == some (n, no)

/-- SEND_COMPLETE (R488, R489): the oldest started send of which every flit is acknowledged, or that has ended. -/
def opSendComplete (n : Nat) (s : State) : State :=
  match (s.chan n).sends.find? (fun (c : SendCmd) => c.sent && (c.err != 0 || (c.left == 0 && !sendWaits s n c.no))) with
  | none => s
  | some c =>
    let s := s.setChan n { s.chan n with sends := (s.chan n).sends.filter fun (x : SendCmd) => x.no != c.no }
    let tag := bits c.w2.toNat 31 0
    if c.err = 0 then (if bit c.w3.toNat 5 then post s n 0x24 0 [(32, tag)] else s)
    else post (setFlag s (Reg.chLinkSendStatus n) 8 true) n 0x25 0 [(32, tag), (4, c.err)]

/-! ### Port states (R490 to R499) -/

/-- A port's state and lanes changed. -/
def setState (s : State) (p st lanes : Nat) : State :=
  setFld (setFld s (linkReg p) 31 29 st) (linkReg p) 28 25 lanes

/-- A port fails (R491, R495, R496, R499): event 0x21. -/
def failPort (s : State) (p reason : Nat) : State :=
  let s := setFld (setState s p 5 0) (linkReg p) 21 19 reason
  post s (p / 2) 0x21 0 [(3, p), (3, reason)]

/-- A port faces a new partner: its replay buffer is discarded, numbers and credits start again, and the sends with a
message in the discarded flits are lost (R492). -/
def newPartner (s : State) (p : Nat) : State :=
  let x := s.port p
  let lost := (x.replay.filterMap fun (f : TxFlit) => f.send)
  let s := s.setPort p { x with txSeq := 0, replay := [], used := [0, 0, 0, 0], seen := [0, 0, 0, 0], rxNext := 0,
                                rxAny := false, nak := false, part := [], freed := [0, 0, 0, 0] }
  (List.range 4).foldl (fun s n =>
    let one := fun (c : SendCmd) => if lost.contains (n, c.no) then { c with err := 1, left := 0 } else c
    s.setChan n { s.chan n with sends := (s.chan n).sends.map one }) s

/-- A port comes up on three or four lanes facing a partner (R491, R492). -/
def comeUp (s : State) (p : Nat) (lanes : Nat) (partner pport : Nat) (bypassed : Bool) : State :=
  let changed := match (s.port p).faced with
    | some f => f != (partner, pport)
    | none => false
  let s := if changed then newPartner s p else s
  let s := (endRecovery s (p / 2) (.port p)).setPort p
    { s.port p with faced := some (partner, pport), direct := false, beat := timeNs s }
  let s := setState s p (if lanes = 15 then 2 else 3) lanes
  let s := setFld (setFld s (linkReg p) 18 16 partner) (linkReg p) 15 13 pport
  let s := setFlag s (linkReg p) 24 bypassed
  pump (if changed then s else resend s p) p

/-- Cold training entered (R490): a relock that was under way is over, and the recovery it was a step of (R37). -/
def startTrain (s : State) (p : Nat) : State := setState (endRecovery s (p / 2) (.port p)) p 1 0

/-- LANE_LOSS (R493 to R496). -/
def laneLost (p lane other : Nat) (s : State) : State :=
  let n := p / 2
  let j := p % 2
  let lanes := fld s (linkReg p) 28 25
  if !linkUp s p || !bit lanes lane then s
  else
    let drop := fun (s : State) (l : Nat) => post (count32 s (Reg.chLinkLaneDropCount n j) 1) n 0x20 0 [(3, p), (2, l)]
    if portState s p = 3 then failPort (drop s lane) p 3
    else if lane ≠ other then failPort (drop (drop s lane) other) p 3
    else resend (setState (drop s lane) p 3 (lanes - 2 ^ lane)) p

/-- LOSS_OF_SIGNAL on every lane (R498): a ring port on its direct path relocks onto its bypassed set, where it has
one; the others train. The relock is the recovery of a neighbouring module's loss (R40), which holds the channel whose
registers report the port until the port comes up (R37). -/
def signalLost (p : Nat) (s : State) : State :=
  if portState s p = 0 || portState s p = 1 || portState s p = 5 then s
  else if ringPort p && !flag s (linkReg p) 24 && flag s (linkReg p) 22 then
    beginRecovery ((setState s p 4 0).setPort p { s.port p with direct := false }) (p / 2) (.port p)
  else startTrain s p

/-- RELOCK_TIMEOUT (R498). -/
def opRelockTimeout (p : Nat) (s : State) : State := if portState s p = 4 then startTrain s p else s

/-- LINK_ENABLE (R490, R503): a write of CH_LINK_CTRL. Enabled, the port trains; cleared, it is OFF. A host-mode port
stays OFF and trains as IEEE 802.3 has it. -/
def opLinkEnable (p : Nat) (v : W64) (s : State) : State :=
  if bits v.toNat 63 32 ≠ 0 || bits v.toNat 28 0 ≠ 0 then s
  else
    let old := flag s (linkCtl p) 31
    let s := setFlag s (linkCtl p) 31 (bit v.toNat 31)
    if hostPort s p then s
    else if !bit v.toNat 31 then setState (endRecovery s (p / 2) (.port p)) p 0 0
    else if !old then startTrain s p
    else if bit v.toNat 30 then startTrain s p
    else if bit v.toNat 29 && ringPort p && portState s p != 5 then
      (if flag s (linkReg p) 23 then (setState s p 4 0).setPort p { s.port p with direct := true } else startTrain s p)
    else s

/-- RETRAIN (R496, R503). -/
def opRetrain (p : Nat) (s : State) : State :=
  if flag s (linkCtl p) 31 && !hostPort s p then startTrain s p else s

/-- RELOCK_DIRECT (R498, R503). -/
def opRelockDirect (p : Nat) (s : State) : State :=
  if !flag s (linkCtl p) 31 || hostPort s p || !ringPort p || portState s p = 5 then s
  else if flag s (linkReg p) 23 then (setState s p 4 0).setPort p { s.port p with direct := true }
  else startTrain s p

/-! ### The bye (R497, R500, R501) -/

/-- The relays are commanded open (R497). -/
def relaysOpen (s : State) : Bool :=
  flag s Reg.glbPwrStatus 27 && flag s Reg.glbPwrStatus 28 && decide (3 ≤ fld s Reg.glbPwrStatus 31 29) &&
    !s.board.off && flag s Reg.glbByeCtrl 0

/-- The relays follow their command. -/
def setRelays (s : State) : State := setFld s Reg.glbByeStatus 7 0 (if relaysOpen s then 0 else 255)

/-- Insert written (R501). -/
def setInsert (s : State) (b : Bool) : State := setRelays (setFlag s Reg.glbByeCtrl 0 b)

/-- BYE_INSERT_WRITE (R497, R501). -/
def opByeInsertWrite (v : W64) (s : State) : State :=
  if bits v.toNat 63 1 ≠ 0 then s else setInsert s (bit v.toNat 0)

/-- BYE_FAULT (R500): a relay sensed other than commanded. -/
def opByeFault (k : Nat) (closed : Bool) (s : State) : State :=
  if closed == !relaysOpen s then s
  else
    let s := setFlag s Reg.glbByeStatus k closed
    let s := setFlag s Reg.glbByeStatus (8 + k) true
    post s 4 0x22 0 [(8, fld s Reg.glbByeStatus 15 8)]

end Sys2Proof.Machine
end

