-- ==== Sys2Proof/Machine/Firmware.lean ====
section
/-! DEFINITION. What the spec fixes of the firmware's work: pages (R430 to R432, R439, R440), steps (R438, R555 to
R557), the retire fence (R434), the restore after a loss (R441), and the status frames of the referee (R524). -/

namespace Sys2Proof.Machine

/-! ### Books -/

def book (s : State) (n : Nat) : Book := (s.chan n).book
def setBook (s : State) (n : Nat) (b : Book) : State := s.setChan n { s.chan n with book := b }
def planOf (s : State) (n : Nat) : Option ChanPlan := s.plan.bind fun p => p.chans[n]?
def modelOf (s : State) (m : Nat) : Option ModelPlan := s.plan.bind fun p => p.models.find? (·.model == m)
def setRef (s : State) (r : Referee) : State := { s with ref := r }
def findLive (s : State) (id : Nat) : Option Live := s.ref.live.find? (·.id == id)
def putLive (s : State) (q : Live) : State :=
  setRef s { s.ref with live := s.ref.live.map fun (x : Live) => if x.id == q.id then q else x }
/-- The channels that serve a model: those that hold it and whose tier 0 and cores are in service (R28). -/
def servers (s : State) (m : ModelPlan) : List Nat := m.chans.filter fun n => !fenced s n && !(s.chan n).out

/-- The cancel of one operation (R258), asked for and completed. -/
def cancelOp (s : State) (n : Nat) (id : W32) : State :=
  if (s.chan n).ops.any fun (l : LoadedOp) => l.op.opId == id then
    opCancelComplete n (askCancel n (BitVec.ofNat 64 (2 ^ 63 + id.toNat)) s)
  else s

/-! ### Pages -/

/-- The lowest number from `first`, of `count`, that is not taken. -/
def lowestFree (first count : Nat) (taken : Nat → Bool) : Option Nat :=
  ((List.range count).map (· + first)).find? fun k => !taken k

/-- A place in a sequence's part of the channel's half of the key/value area, beyond the header table (R424, R430): that of list l
among `places`, with the lists taken over from the partner in the second half of the part. No two live sequences share a part. -/
def partAddrOf (s : State) (n : Nat) (m : ModelPlan) (places : List Nat) (id l : Nat) : Nat :=
  let k := m.listAt.length
  let off := if l < k then places.getD l 0 else m.seqArea / 2 + places.getD (l - k) 0
  hdrAddr s n 0 + 0x9000000 + id % 16384 * m.seqArea + off

/-- The address of a sequence's page list, and of the saved header of its page i while that is parked (R424, R430, R439). -/
def listAddr (s : State) (n : Nat) (m : ModelPlan) (id l : Nat) : Nat := partAddrOf s n m m.listAt id l
def savedAddr (s : State) (n : Nat) (m : ModelPlan) (id l i : Nat) : Nat := partAddrOf s n m m.saveAt id l + 32 * i

/-- A page header as firmware writes it (R425). -/
def headerBytes (m : ModelPlan) (id gen l slot : Nat) (valid : Bool) : List Byte :=
  let h := m.lists.getD (l % max 1 m.lists.length) (0, 0)
  leBytes 8 (m.kfmt.toNat * 2 ^ 48 + m.vfmt.toNat * 2 ^ 32 + id % 65536 * 65536 + gen % 256 * 256 + m.ltok % 16 * 16
    + b2n valid) ++
  leBytes 8 (m.kscale.toNat * 2 ^ 32 + m.vscale.toNat) ++
  leBytes 8 (h.1 % 65536 * 2 ^ 48 + h.2 % 256 * 2 ^ 40 + slot % 2 ^ 32) ++ leBytes 8 0

/-- Live pages of a pool: those with a frame (R432). -/
def livePages (s : State) (n j : Nat) : Nat := ((book s n).pages.filter fun (p : PageRec) => p.pool == j && p.away.isNone).length

/-- A free frame of a pool within its admission limit, and the page's shadow slot (R430, R432, R434). What a partner restores is not
held to the limit: the limits leave it the frames (R428). -/
def takeFrame (s : State) (n j : Nat) (limited : Bool := true) : Option (Nat × Nat) :=
  match planOf s n with
  | none => none
  | some c =>
    let pool := (rd s (Reg.chKvPool n j)).toNat
    if !bit pool 63 || (limited && decide (c.limits.getD j 0 ≤ livePages s n j)) then none
    else
      let ps := (book s n).pages
      let frame := lowestFree (bits pool 22 0) (bits pool 45 23) fun f =>
        (s.chan n).held.contains f || ps.any fun (p : PageRec) => p.frame == f && p.away.isNone
      let area := c.shadows.getD j (0, 0)
      let slot := if bit pool 62 then
          (lowestFree area.1 area.2 fun k => ps.any fun (p : PageRec) => p.slot == k).getD 0xFFFFFFFF
        else 0xFFFFFFFF
      frame.map fun f => (f, slot)

/-- A frame marked present by op 0x5, with its completion (R342, R348, R436). -/
def presentNow (s : State) (n f : Nat) : State :=
  dirtyFrame (count64 (markFrame s n f true) (Reg.chMigDoneCount n) 1) n f

/-- Pages of one list of a sequence that hold its frames. -/
def listPages (s : State) (n id l : Nat) : List PageRec :=
  (book s n).pages.filter fun (p : PageRec) => p.seq == id && p.list == l

/-- A page added to a list, in the order of R430. -/
def addPage (s : State) (n : Nat) (m : ModelPlan) (id gen l : Nat) : Option State :=
  (takeFrame s n m.pool).map fun (p : Nat × Nat) =>
    let hdr := headerBytes m id gen l p.2 true
    let at_ := (listPages s n id l).length
    let s := (writeRange s (hdrAddr s n p.1) hdr).1
    let s := presentNow s n p.1
    let s := (writeRange s (listAddr s n m id l + 4 * at_) (leBytes 4 p.1)).1
    setBook s n { book s n with pages := (book s n).pages ++ [⟨id, l, p.1, p.2, m.pool, none, hdr⟩] }

/-- An eviction slot that holds no page. -/
def takeEvict (s : State) (n j : Nat) : Option Nat :=
  (planOf s n).bind fun (c : ChanPlan) =>
    let a := c.evicts.getD j (0, 0)
    ((List.range a.2).map fun i => a.1 + 32768 * i).find? fun x =>
      !(book s n).pages.any fun (p : PageRec) => p.away == some x

/-- The model of a live sequence. -/
def modelFor (s : State) (id : Nat) : Option ModelPlan := (findLive s id).bind fun q => modelOf s q.model

/-- The header of a page saved beside its sequence's lists (R424, R439). -/
def saveHeader (s : State) (n : Nat) (p : PageRec) (hdr : List Byte) : State :=
  match modelFor s p.seq with
  | some m =>
    let i := (listPages s n p.seq p.list).findIdx (· == p)
    (writeRange s (savedAddr s n m p.seq p.list i) hdr).1
  | none => s

/-- One page evicted into the channel's own tier 1 by op 0x6, its header saved (R439). -/
def evictPage (s : State) (n : Nat) (p : PageRec) : State :=
  match takeEvict s n p.pool with
  | none => s
  | some a =>
    let s := saveHeader s n p (viewRange s (hdrAddr s n p.frame) 32)
    let s := moveBytes (markFrame s n p.frame false) (tier0Base n + 32768 * p.frame) a 32768
    let s := count64 s (Reg.chMigDoneCount n) 1
    let one := fun (x : PageRec) => if x == p then { x with away := some a } else x
    setBook s n { book s n with pages := (book s n).pages.map one }

/-- A sequence parked in a channel: a sync, then every page evicted (R439). -/
def parkSeq (s : State) (n id : Nat) : State :=
  let s := syncNow s n
  ((book s n).pages.filter fun (p : PageRec) => p.seq == id && p.away.isNone).foldl (fun s p => evictPage s n p) s

/-- The words of a 32 KiB slot of tier 1 read: whether one is uncorrectable, each of which is counted. -/
def slotBad (s : State) (a : Nat) : State × Bool :=
  (List.range 2048).foldl (fun (r : State × Bool) w =>
    if decodeWord r.1 (a / 16 + w) == .bad then
      (noteUeWord (match ueReg (a + 16 * w) with | some x => count32 r.1 x 1 | none => r.1) (a + 16 * w), true)
    else r) (s, false)

/-- Where a parked page is fetched from: its eviction slot, or its shadow slot where a word of the former is uncorrectable
(R580). -/
def pageSource (s : State) (n a : Nat) (p : PageRec) : State × Nat :=
  match slotBad s a with
  | (s, true) => (s, if p.slot = 0xFFFFFFFF then a else fld s (Reg.chKvShadow n) 47 0 + 32768 * p.slot)
  | (s, false) => (s, a)

/-- A header with a shadow slot put into it (R425). -/
def withSlot (hdr : List Byte) (slot : Nat) : List Byte := hdr.take 16 ++ leBytes 4 slot ++ hdr.drop 20

/-- A parked page brought back by op 0x1, with its saved header and its place in its list (R440). Its slot is kept; a page taken
over while it was parked gets one (R441). -/
def fetchPage (s : State) (n : Nat) (m : ModelPlan) (p : PageRec) (at_ : Nat) : Option State :=
  match p.away with
  | none => some s
  | some a => (takeFrame s n p.pool).map fun (f : Nat × Nat) =>
    let r := pageSource s n a p
    let s := fillFrame r.1 n f.1 r.2
    let s := presentNow s n f.1
    let slot := if p.slot = 0xFFFFFFFF then f.2 else p.slot
    let hdr := withSlot (viewRange s (savedAddr s n m p.seq p.list at_) 32) slot
    let s := (writeRange s (hdrAddr s n f.1) hdr).1
    let s := (writeRange s (listAddr s n m p.seq p.list + 4 * at_) (leBytes 4 f.1)).1
    let one := fun (x : PageRec) => if x == p then { x with away := none, frame := f.1, slot := slot, hdr := hdr } else x
    setBook s n { book s n with pages := (book s n).pages.map one }

/-- A sequence is idle: no step of it is queued, running or waiting (R432). -/
def idleSeq (q : Live) : Bool := q.work.isNone && !q.waits && !q.parked

/-- An action on a channel's pages, for a sequence whose step is expanded, with idle sequences of the pool other than it parked
until it succeeds (R432). -/
def withRoom (n j self : Nat) (act : State → Option State) : Nat → State → State × Bool
  | 0, s => (s, false)
  | k + 1, s =>
    match act s with
    | some t => (t, true)
    | none =>
      let idle := s.ref.live.find? fun (q : Live) =>
        q.id != self && idleSeq q && (book s n).pages.any fun (p : PageRec) => p.seq == q.id && p.pool == j && p.away.isNone
      match idle with
      | some q =>
        let s := putLive s { q with parked := true }
        withRoom n j self act k ((List.range 4).foldl (fun s c => parkSeq s c q.id) s)
      | none => (post s n 0x0E 0 [(2, j)], false)

/-- Pages of a list grown to hold a number of tokens. -/
def growList (n : Nat) (m : ModelPlan) (id gen l pages : Nat) : Nat → State → State × Bool
  | 0, s => (s, true)
  | k + 1, s =>
    if pages ≤ (listPages s n id l).length then (s, true)
    else match withRoom n m.pool id (fun s => addPage s n m id gen l) 64 s with
      | (s, true) => growList n m id gen l pages k s
      | r => r

/-- Every page of a sequence in a channel brought back (R440). -/
def unparkPages (n : Nat) (m : ModelPlan) : List (PageRec × Nat) → State → State × Bool
  | [], s => (s, true)
  | (p, i) :: r, s =>
    match withRoom n m.pool p.seq (fun s => fetchPage s n m p i) 64 s with
    | (s, true) => unparkPages n m r s
    | x => x

/-- The lists that a channel walks for a model: twice as many where it serves its partner's heads too. -/
def listCount (s : State) (n : Nat) (m : ModelPlan) : Nat :=
  if m.chans.contains (partner n) && !(servers s m).contains (partner n) then 2 * m.lists.length else m.lists.length

/-- The pages of a step allocated in a channel, before its operations are queued (R440, R556). -/
def stepPages (s : State) (n : Nat) (m : ModelPlan) (q : Live) : State × Bool :=
  let need := cdiv (q.counted + q.input.length) (2 ^ m.ltok)
  let lists := List.range (listCount s n m)
  let back := lists.flatMap fun l => (listPages s n q.id l).zipIdx
  match unparkPages n m back s with
  | (s, false) => (s, false)
  | (s, true) => lists.foldl (fun (r : State × Bool) l =>
      if r.2 then growList n m q.id q.gen l need (need + 1) r.1 else r) (s, true)

/-! ### Steps -/

/-- A length table entry as firmware fills it in (R388, R431, R556): its kv_len counts the step's own tokens only once the
operations before it in the step are complete, which store their keys and values. -/
def lenBytes (s : State) (n : Nat) (m : ModelPlan) (q : Live) (l : Nat) (stored : Bool) : List Byte :=
  let h := m.lists.getD (l % max 1 m.lists.length) (0, 0)
  leBytes 8 (q.id * 2 ^ 48 + listAddr s n m q.id l) ++
  leBytes 8 ((q.counted + if stored then q.input.length else 0) * 2 ^ 32 + q.input.length) ++
  leBytes 8 q.counted ++
  leBytes 8 (h.2 % 256 * 2 ^ 24 + q.gen % 256 * 2 ^ 16)

/-- An entry appended to a work queue (R558, R559). -/
def appendEntry (s : State) (n e : Nat) : State :=
  let tail := fld s (Reg.chWqTail n) 11 0
  let s := (writeRange s (fld s (Reg.chWqBase n) 47 0 + 8 * tail) (leBytes 8 e)).1
  setFld s (Reg.chWqTail n) 11 0 ((tail + 1) % 4096)

/-- A descriptor put in its place with an op_id of the channel's own (R557), and appended to the work queue. The
done_deadline of the template stands for the one that firmware fills in, whose value no rule gives (R556, DESIGN CHOICE). -/
def queueOp (n : Nat) (r : State × List W32) (t : Template) : State × List W32 :=
  let s := r.1
  let b := book s n
  let id := n % 4 * 2 ^ 30 + (b.opNo + 1) % 2 ^ 30
  let s := setBook s n { b with opNo := (b.opNo + 1) % 2 ^ 30 }
  let s := (writeRange s t.place (t.bytes.take 4 ++ leBytes 4 id ++ t.bytes.drop 8)).1
  (appendEntry s n (b2n t.wait * 2 ^ 63 + t.place), r.2 ++ [BitVec.ofNat 32 id])

/-- The length tables of a template written, at the address and for the list of each entry. -/
def writeLens (s : State) (n : Nat) (m : ModelPlan) (q : Live) (stored : Bool) (es : List (Nat × Nat)) : State :=
  es.foldl (fun s (e : Nat × Nat) => (writeRange s e.1 (lenBytes s n m q e.2 stored)).1) s

/-- One template copied, filled in and appended to the work queue (R556 to R559). -/
def queueTemplate (n : Nat) (m : ModelPlan) (q : Live) (r : State × List W32) (t : Template) : State × List W32 :=
  queueOp n (writeLens r.1 n m q false t.lens, r.2) t

/-- The program that a channel runs of a model's: the one for its own columns, or the one for its partner's too (R28). -/
def progKey (s : State) (n : Nat) (m : ModelPlan) : Nat :=
  if m.chans.contains (partner n) && !(servers s m).contains (partner n) then 4 + n else n

/-- The templates of a step in a channel: of a prefill while nothing is counted, of a generation step after. -/
def stepTemplates (s : State) (n : Nat) (m : ModelPlan) (q : Live) : List Template :=
  let key := progKey s n m
  let prog := if q.counted = 0 then m.prefill else m.gener
  ((prog.find? fun e => e.1 == key).map (·.2)).getD []

/-- Entries of a work queue that may still be written (R559). -/
def queueRoom (s : State) (n : Nat) : Nat :=
  (fld s (Reg.chWqHead n) 11 0 + 4095 - fld s (Reg.chWqTail n) 11 0) % 4096

/-- Whether pages of a sequence are still to come from their shadow slots in a channel (R441). -/
def restoring (s : State) (n id : Nat) : Bool :=
  ((book s n).lost.any fun (p : PageRec) => p.seq == id) || (book s n).moving.any fun e => e.1 == id

/-- The next step of a sequence expanded in every channel that serves it (R440, R555, R556); without pages or room it
waits (R432), and so it does while pages are being restored (R441). -/
def expandStep (s : State) (id : Nat) : State :=
  match findLive s id with
  | none => s
  | some q =>
    match modelOf s q.model with
    | none => s
    | some m =>
      let chans := servers s m
      let ready := !(chans.any fun n => restoring s n id)
      let r := chans.foldl (fun (r : State × Bool) n => if r.2 then stepPages r.1 n m q else r) (s, ready)
      let room := chans.all fun n => (stepTemplates r.1 n m q).length ≤ queueRoom r.1 n
      if !r.2 || !room then putLive r.1 { (findLive r.1 id).getD q with waits := true }
      else
        let go := fun (a : State × List StepWork) (n : Nat) =>
          let ts := stepTemplates a.1 n m q
          let x := ts.foldl (queueTemplate n m q) (a.1, [])
          (x.1, a.2 ++ [⟨n, x.2, x.2.zip (ts.map (·.lens))⟩])
        let w := chans.foldl go (r.1, [])
        putLive (startWake w.1) { (findLive w.1 id).getD q with work := some w.2, waits := false, synced := [], parked := false }

/-- The steps that wait for pages are tried again, in the order of their admission (R432). -/
def retryWaits (s : State) : State :=
  (s.ref.live.filter (·.waits)).foldl (fun s (q : Live) => expandStep s q.id) s

/-- The tokens of a step counted in the length tables of the operation that comes next in a channel: those before it are complete,
which have stored them (R431). -/
def countStored (s : State) (n : Nat) (q : Live) : State :=
  match modelOf s q.model, q.work.bind fun w => w.find? (·.ch == n) with
  | some m, some x =>
    (match x.ops.head?.bind fun id => mfind' x.lens id with
    | some es => writeLens s n m q true es
    | none => s)
  | _, _ => s
where
  /-- The tables of an operation. -/
  mfind' (ls : List (W32 × List (Nat × Nat))) (id : W32) : Option (List (Nat × Nat)) := (ls.find? (·.1 == id)).map (·.2)

/-- The books follow the completion of an operation; a channel that has finished its part of a step asks for the sync
of R438. -/
def noteOpDone (s : State) (n : Nat) (id : W32) : State :=
  let hit := fun (q : Live) => match q.work with
    | some w => w.any fun (x : StepWork) => x.ch == n && x.ops.contains id
    | none => false
  if !s.ref.live.any hit then s
  else
    let cut := fun (x : StepWork) => if x.ch == n then { x with ops := x.ops.filter (· != id) } else x
    let one := fun (q : Live) => if hit q then { q with work := q.work.map fun w => w.map cut } else q
    let s := setRef s { s.ref with live := s.ref.live.map one }
    let s := ((s.ref.live.filter fun q => q.work.isSome).filter fun q => (q.work.getD []).any fun x =>
        x.ch == n && x.lens.any fun e => e.1 == id).foldl (fun s q => countStored s n q) s
    let s := if (storedSeqs s n).isEmpty || flag s (Reg.chKvSync n) 63 then s
      else askSync s n (fld s (Reg.chKvSync n) 31 0)
    retryWaits s

/-! ### Frames of the referee -/

/-- A response or status frame toward the host (R522, R524). -/
def hostFrameMsg (s : State) (q : Live) (fkind index code : Nat) (data : List Byte) : Msg :=
  ⟨word0 5 1 q.src (ownModule s) 7 data.length 0,
    BitVec.ofNat 64 (fkind * 2 ^ 60 + q.model % 256 * 2 ^ 52 + index % 2 ^ 32 * 2 ^ 20 + code % 16 * 16),
    BitVec.ofNat 64 (2 ^ 63 + q.htag.toNat),
    BitVec.ofNat 64 (q.id * 2 ^ 48 + q.gen % 256 * 2 ^ 40 + 2 ^ 39), data⟩

/-- A status frame for a request that has no identifier (R522, R555). -/
def statusMsg (s : State) (src model : Nat) (htag : W32) (code index : Nat) : Msg :=
  ⟨word0 5 1 src (ownModule s) 7 0 0,
    BitVec.ofNat 64 (9 * 2 ^ 60 + model % 256 * 2 ^ 52 + index % 2 ^ 32 * 2 ^ 20 + code % 16 * 16),
    BitVec.ofNat 64 (2 ^ 63 + htag.toNat), 0, []⟩

/-- RESPONSE_ISSUE (R438, R431, R524): the token of a step whose channels have all synced leaves; the step's tokens
are counted, and the next step is expanded, or the request is finished. -/
def opResponseIssue (seq : W16) (token : W32) (s : State) : State :=
  match findLive s seq.toNat with
  | none => s
  | some q =>
    match q.work with
    | none => s
    | some w =>
      let served := fun (x : StepWork) => x.ops.isEmpty && (q.synced.contains x.ch || flag s (Reg.chKvShadow x.ch) 62)
      if !w.all served then s
      else
        let s := emit s none none (hostFrameMsg s q 8 q.made 0 (leBytes 4 token.toNat))
        let s := count64 s Reg.glbRespTokenCount 1
        let kept := q.kept ++ [(q.made, token)]
        let q' := { q with work := none, synced := [], counted := q.counted + q.input.length, made := q.made + 1,
                           kept := kept.drop (kept.length - 256), input := [token] }
        let s := putLive s q'
        if q'.made < q'.maxNew then expandStep s q.id
        else emit s none none (hostFrameMsg s q' 9 0 0 [])

/-! ### Admission (R29, R555, R659) -/

/-- An identifier that is neither live nor retiring, from the next one on, and whose part of the key/value area no such sequence
holds (R430). -/
def freshId (s : State) : Nat :=
  let busy := fun (k : Nat) => (s.ref.live.any fun (q : Live) => q.id % 16384 == k % 16384)
    || s.ref.retiring.any fun e => e.1 % 16384 == k % 16384
  (((List.range 65536).map fun i => (s.ref.nextId + i) % 65536).find? fun k => !busy k).getD 0

/-- A request admitted: an identifier, a live sequence on every channel that holds its model, its first step. -/
def startSequence (s : State) (r : Request) : State :=
  let id := freshId s
  let toks := (r.parts.mergeSort fun a b => a.1 ≤ b.1).flatMap (·.2)
  let n := match modelOf s r.model with | some m => m.chans.headD 0 | none => 0
  let q : Live := ⟨id, kvGen s n id, r.model, r.htag, r.src, toks, 0, r.maxNew, 0, [], none, false, [], false, []⟩
  let s := setRef s { s.ref with live := s.ref.live ++ [q], nextId := (id + 1) % 65536 }
  let s := startWake (count64 s Reg.glbReqAdmitCount 1)
  expandStep s id

/-- Why a complete request is answered at once (R457, R555, R634, R659). -/
def refusal (s : State) (model : Nat) : Option Nat :=
  if !flag s Reg.glbStartStatus 31 || (modelOf s model).isNone then some 3
  else if (s.ref.job.map fun (j : Job) => j.job.model == model).getD false then some 1
  else if s.ref.models.any (fun e => e.1 == model && e.2 == .ready) then none
  else some 3

/-- A complete request taken in: answered, deferred or admitted (R555). -/
def takeRequest (s : State) (r : Request) : State :=
  match refusal s r.model with
  | some code => emit s (some r.port) none (statusMsg s r.src r.model r.htag code 0)
  | none =>
    if 16384 ≤ s.ref.live.length || !s.ref.deferred.isEmpty then
      count32 (setRef s { s.ref with deferred := s.ref.deferred ++ [r] }) Reg.glbReqDeferCount 1
    else startSequence s r

/-- DEFERRED_ADMIT (R555): the oldest deferred request, once an identifier is free. -/
def opDeferredAdmit (s : State) : State :=
  match s.ref.deferred with
  | [] => s
  | r :: rest => if 16384 ≤ s.ref.live.length then s else startSequence (setRef s { s.ref with deferred := rest }) r

/-! ### Ending a sequence -/

/-- The operations of a sequence's step cancelled (R258, R570). -/
def cancelSteps (s : State) (q : Live) : State :=
  ((q.work.getD []).flatMap fun (w : StepWork) => w.ops.map fun id => (w.ch, id)).foldl
    (fun s (e : Nat × W32) => cancelOp s e.1 e.2) s

/-- The step of a sequence cancelled and its books cleared of it; the sequence stays live. Its operations that are still queued are
kept in mind for its retire fence (R434). -/
def stopStep (s : State) (q : Live) : State :=
  let s := cancelSteps s q
  let ops := (q.work.getD []).flatMap fun (w : StepWork) => w.ops.map fun id => (w.ch, id)
  putLive s { q with work := none, waits := false, left := (q.left ++ ops).filter fun e => !opGone s e.1 e.2 }

/-- The request of a sequence ended early with a status code: its step is cancelled, and it generates no more
(R522, R570). -/
def endRequest (s : State) (q : Live) (code : Nat) : State :=
  let s := stopStep s q
  let s := putLive s { (findLive s q.id).getD q with maxNew := q.made }
  emit s none none (hostFrameMsg s q 9 0 code [])

/-! ### Restore and rerun (R441, R579, R583, R584) -/

/-- One lost page given a frame of the partner's pool, a slot of its shadow area, its header and its place in its list; its
fetch is queued as op 0x1 from the shadow slot (R441). A frame is marked absent before it is fetched (R342). -/
def issueRestore (s : State) (n : Nat) (p : PageRec) : Option State :=
  match modelFor s p.seq, p.away with
  | some mp, some src => (takeFrame s n p.pool false).map fun (f : Nat × Nat) =>
    let at_ := (listPages s n p.seq p.list).length
    let hdr := withSlot p.hdr f.2
    let s := if absent s n f.1 then s else count64 (markFrame s n f.1 false) (Reg.chMigDoneCount n) 1
    let s := (writeRange s (hdrAddr s n f.1) hdr).1
    let s := (writeRange s (listAddr s n mp p.seq p.list + 4 * at_) (leBytes 4 f.1)).1
    let b := book s n
    let s := setBook s n { b with pages := b.pages ++ [⟨p.seq, p.list, f.1, f.2, p.pool, none, hdr⟩],
                                  moving := b.moving ++ [(p.seq, f.1)] }
    startWake (s.setChan n { s.chan n with mig := (s.chan n).mig ++ [⟨1, false, false, f.1, src, 0, 0, false, false⟩] })
  | _, _ => some s

/-- Lost pages of a channel's partner issued, up to 64 fetches in flight (R441); one of a sequence that has ended is
dropped. -/
def issueRestores (n : Nat) : Nat → State → State
  | 0, s => s
  | k + 1, s =>
    let b := book s n
    match b.lost with
    | [] => s
    | p :: rest =>
      if 64 ≤ b.moving.length || 64 ≤ (s.chan n).mig.length then s
      else
        let u := setBook s n { b with lost := rest }
        match issueRestore u n p with
        | some u => issueRestores n k u
        | none => setBook u n { book u n with lost := p :: rest }

/-- The restore of a channel's pages taken on: fetches that have left the migration queue are done, others follow, and with
the last one the steps that wait for them are expanded (R441). -/
def settleRestore (n : Nat) (s : State) : State :=
  let b := book s n
  if b.lost.isEmpty && b.moving.isEmpty then s
  else
    let open_ := b.moving.filter fun e => (s.chan n).mig.any fun (c : MigCmd) => c.op == 1 && c.frame == e.2
    let s := setBook s n { b with moving := open_ }
    let s := issueRestores n (b.lost.length + 1) s
    if (book s n).lost.isEmpty && (book s n).moving.isEmpty then retryWaits s else s

/-- The header of a page's frame written again once the frame has been fetched (R441, R580). -/
def rewriteHeader (s : State) (n f : Nat) : State :=
  match (book s n).pages.find? fun (p : PageRec) => p.frame == f && p.away.isNone with
  | some p => (writeRange s (hdrAddr s n f) p.hdr).1
  | none => s

/-- FETCH_FROM_TIER_1 and MIGRATION_COMPLETE with what they let a restore do (R341, R342, R441). -/
def opTier1Fetch (n : Nat) (s : State) : State := settleRestore n (opFetchFromTier1 n s)
def opMigrationDone (n : Nat) (s : State) : State :=
  let t := opMigrationComplete n s
  let t := match (s.chan n).mig.find? (·.moved) with
    | some c => if c.op = 1 then rewriteHeader t n c.frame else t
    | none => t
  settleRestore n t

/-- A page of a lost channel as its partner takes it over (R441), with its place in its list: in the lists that the partner walks
for it, its shadow slot as the place it comes from, its header as the partner's copy of the key/value area has it, in the table or
saved. None where it has no slot or its sequence has ended. In the partner's shadow area it holds no slot yet. -/
def takenPage (s : State) (n : Nat) (p : PageRec) : Option PageRec :=
  (modelFor s p.seq).bind fun mp =>
    if p.slot = 0xFFFFFFFF then none
    else
      let i := (listPages s n p.seq p.list).findIdx (· == p)
      let a := if p.away.isSome then savedAddr s n mp p.seq p.list i else hdrAddr s n p.frame
      some { p with list := p.list + mp.lists.length, away := some (fld s (Reg.chKvShadow n) 47 0 + 32768 * p.slot),
                    slot := 0xFFFFFFFF, hdr := viewRange s (a - tier0Base n + tier0Base (partner n)) 32 }

/-- Steps cancelled and expanded again from their first operation. -/
def rerunWhere (s : State) (p : Live → Bool) : State :=
  (s.ref.live.filter p).foldl (fun s (q : Live) => expandStep (stopStep s q) q.id) s

/-- Whether a step has work in a channel. -/
def worksIn (n : Nat) (q : Live) : Bool := (q.work.getD []).any fun (w : StepWork) => w.ch == n

/-- The sequences of a channel taken over by its partner (R441, R583): the steps in flight are reissued at once, but for those
of sequences with lost pages, which wait; parked pages are booked, and the fetches of the live ones begin. -/
def takeOver (s : State) (n : Nat) : State :=
  let m := partner n
  let old := (book s n).pages
  let parked := (old.filter (·.away.isSome)).filterMap (takenPage s n)
  let lost := (old.filter (·.away.isNone)).filterMap (takenPage s n)
  let s := setBook s n { book s n with pages := [] }
  let s := setBook s m { book s m with pages := (book s m).pages ++ parked, lost := (book s m).lost ++ lost }
  let s := parked.foldl (fun s (p : PageRec) => saveHeader s m p p.hdr) s
  let s := rerunWhere s (worksIn n)
  settleRestore m s

/-! ### Retiring a sequence (R433, R434) -/

/-- The pages of a sequence in a channel given back: a sync, frames absent, headers invalid (R434). -/
def freePages (s : State) (n id : Nat) : State :=
  let ps := (book s n).pages.filter fun (p : PageRec) => p.seq == id
  if ps.isEmpty then s
  else
    let s := syncNow s n
    let s := ps.foldl (fun (s : State) (p : PageRec) =>
      if p.away.isSome then s
      else
        let s := count64 (markFrame s n p.frame false) (Reg.chMigDoneCount n) 1
        let a := hdrAddr s n p.frame
        let w := leNat (viewRange s a 8)
        (writeRange s a (leBytes 8 (w - w % 2))).1) s
    let b := book s n
    setBook s n { b with pages := b.pages.filter fun (p : PageRec) => p.seq != id }

/-- The pages of a sequence that still wait to be restored given up. -/
def dropLost (s : State) (n id : Nat) : State :=
  let b := book s n
  setBook s n { b with lost := b.lost.filter fun (p : PageRec) => p.seq != id }

/-- SEQUENCE_RETIRE (R433, R434): the generation advances once; once no operation and no migration command of the
sequence is left, its pages are freed and it is reported retired. -/
def opSequenceRetire (seq : W16) (s : State) : State :=
  let id := seq.toNat
  match findLive s id with
  | none => s
  | some q =>
    let chans := match modelOf s q.model with | some m => m.chans | none => []
    let gen := (q.gen + 1) % 256
    let s := if s.ref.retiring.any fun e => e.1 == id then s
      else
        let s := chans.foldl (fun s n => setFld s (Reg.chKvGen n (id / 8)) (id % 8 * 8 + 7) (id % 8 * 8) gen) s
        let s := (List.range 4).foldl (fun s n => dropLost s n id) s
        setRef s { s.ref with retiring := s.ref.retiring ++ [(id, gen)] }
    let busy := ((q.work.getD []).any fun (w : StepWork) => w.ops.any fun x => !opGone s w.ch x) ||
      q.left.any fun e => !opGone s e.1 e.2
    let moving := (List.range 4).any fun n => restoring s n id || (book s n).pages.any fun (p : PageRec) =>
      p.seq == id && (s.chan n).mig.any fun (c : MigCmd) => c.frame == p.frame
    if busy || moving then s
    else
      let s := (List.range 4).foldl (fun s n => freePages s n id) s
      let s := setRef s { s.ref with live := s.ref.live.filter (·.id != id),
                                     retiring := s.ref.retiring.filter fun e => e.1 != id }
      (List.range 4).foldl (fun s n => settleRestore n s) (post s 4 0x11 0 [(16, id), (8, gen)])

/-! ### The operations of a training step (R449 to R456)

The spec gives no form for the training programs of the run image. DESIGN CHOICE: a channel's program is a list of
templates; firmware leaves out what lies below the trained layers, and narrows the layouts of a masked operation to each
rectangle, whose descriptors it puts 1 KiB apart. -/

/-- Bytes of a descriptor replaced from an offset on. -/
def patch (bs : List Byte) (off : Nat) (new : List Byte) : List Byte :=
  bs.take off ++ new ++ bs.drop (off + new.length)

/-- A layout narrowed along a dimension to `count` elements from `first` on. -/
def narrowDim (bs : List Byte) (d : Option Nat) (first count : Nat) : List Byte :=
  match d with
  | none => bs
  | some d =>
    let l := parseLayout bs
    let w := l.format.width
    let by_ : Int := if d = 0 then ((if l.format.planar then first / 512 * 64 * w else first * w / 8 : Nat) : Int)
      else (first : Int) * l.strideBytes d
    patch (patch bs 0 (leBytes 6 ((l.base : Int) + by_).toNat)) (16 + 4 * d) (leBytes 4 count)

/-- A layout narrowed to a rectangle: first k, number of k, first n, number of n. -/
def Cut.narrow (c : Cut) (r : Nat × Nat × Nat × Nat) : List Byte :=
  narrowDim (narrowDim c.bytes c.kdim r.1 r.2.1) c.ndim r.2.2.1 r.2.2.2

/-- A descriptor's levels along M and N made to walk the extents of its result, and its grid no larger than they are. -/
def fitLevels (bs : List Byte) (result : Layout) : List Byte :=
  let op := parseOp bs
  let fit := fun (bs : List Byte) (p : Level × Nat) =>
    let d := p.1.dims.getD 3 7
    let st := (p.1.steps.getD 3 0).toNat
    if p.1.axis = 2 || 5 < d || st = 0 then bs
    else patch bs (0x100 + 40 * p.2) (leBytes 4 (max 1 (cdiv (result.extent d) st)))
  let bs := op.levels.zipIdx.foldl fit bs
  let new := parseOp bs
  let w := le64 bs 8
  patch bs 8 (leBytes 8 (w - bits w 43 24 * 2 ^ 24 + (min op.gridM (axisCount new 0) * 2 ^ 10 + min op.gridN (axisCount new 1)) * 2 ^ 24))

/-- A masked operation's descriptor for one rectangle, with the layouts it names (R452). -/
def rectTemplate (t : Template) (cuts : List Cut) (i : Nat) (r : Nat × Nat × Nat × Nat) : Template × List (Nat × List Byte) :=
  let at_ := t.place + 1024 * i
  let point := fun (bs : List Byte) (c : Cut × Nat) => patch bs (0x80 + 16 * c.1.slot) (leBytes 6 (at_ + 512 + 64 * c.2))
  let bs := cuts.zipIdx.foldl point t.bytes
  let bs := match cuts.find? (·.slot == 3) with
    | some c => fitLevels bs (parseLayout (c.narrow r))
    | none => bs
  ({ t with bytes := bs, place := at_ }, cuts.zipIdx.map fun c => (at_ + 512 + 64 * c.2, c.1.narrow r))

/-- The lowest trained layer, counted from the last (R451). -/
def lowestTrained (p : RunPlan) : Nat := (p.train.map (·.layer)).foldl max 0

/-- The operations of an item, with the layouts to be put in place: none below the lowest trained layer, nor for the
gradient of that layer's input (R449, R451); a masked one once per rectangle of its row, so that what is frozen is never
computed (R452). -/
def trainOps (p : RunPlan) : TrainOp → List (Template × List (Nat × List Byte))
  | .plain layer t => if layer ≤ lowestTrained p then [(t, [])] else []
  | .dataGrad layer input t => if layer < lowestTrained p || (layer = lowestTrained p && !input) then [(t, [])] else []
  | .attention layer bs => if layer ≤ lowestTrained p then bs.flatMap fun b => [(b.1, []), (b.2, [])] else []
  | .masked layer row t cuts =>
    if lowestTrained p < layer then []
    else match p.train[row]? with
      | none => []
      | some x => if x.mask = 0 then [(t, cuts.zipIdx.map fun c => (t.place + 512 + 64 * c.2, c.1.bytes))]
          else x.rects.zipIdx.map fun r => rectTemplate t cuts r.2 r.1

/-- A channel's share of a training step in order: the forward pass, the backward pass from the loss down, layer by layer,
and the update (R449 to R456). -/
def stepOps (p : RunPlan) (x : TrainProg) : List (Template × List (Nat × List Byte)) :=
  let layerOf := fun (o : TrainOp) => match o with
    | .plain l _ => l
    | .dataGrad l _ _ => l
    | .attention l _ => l
    | .masked l _ _ _ => l
  let down := x.backward.mergeSort fun a b => layerOf a ≤ layerOf b
  (x.forward.map fun t => (t, [])) ++ down.flatMap (trainOps p) ++ x.update.flatMap (trainOps p)

/-- What a channel queues for a job: the encodes of the backward copies before the first step, then its steps (R450,
R454). -/
def jobOps (s : State) (n : Nat) (m : ModelPlan) (begun : Bool) : List (Template × List (Nat × List Byte)) :=
  match s.plan, m.train.find? fun e => e.1 == progKey s n m with
  | some p, some (_, x) => if begun then stepOps p x else x.encode.map fun t => (t, [])
  | _, _ => []

/-- An operation of a step put in place with the layouts it names, and queued. -/
def queueTrain (n : Nat) (r : State × List W32) (t : Template × List (Nat × List Byte)) : State × List W32 :=
  queueOp n (t.2.foldl (fun s (e : Nat × List Byte) => (writeRange s e.1 e.2).1) r.1, r.2) t.1

/-- The present part of a job queued in every channel that serves its model, once their queues have room (R559). -/
def queueJob (s : State) : State :=
  match s.ref.job with
  | none => s
  | some j =>
    match modelOf s j.job.model with
    | none => s
    | some m =>
      let chans := servers s m
      if j.queued || !(chans.all fun n => decide ((jobOps s n m j.begun).length ≤ queueRoom s n)) then s
      else
        let go := fun (a : State × List StepWork) (n : Nat) =>
          let x := (jobOps s n m j.begun).foldl (queueTrain n) (a.1, [])
          (x.1, a.2 ++ [⟨n, x.2, []⟩])
        let w := chans.foldl go (s, [])
        let s := setRef w.1 { w.1.ref with job := some { j with queued := true, work := w.2 } }
        if w.2.all (·.ops.isEmpty) then s else startWake s

/-- A job goes on: its encodes are queued, or, where there are none, its first step (R451, R454). -/
def startJob (s : State) : State :=
  let s := queueJob s
  match s.ref.job with
  | some j =>
    if j.begun || !j.queued || !(j.work.all (·.ops.isEmpty)) then s
    else queueJob (setRef s { s.ref with job := some { j with begun := true, queued := false } })
  | none => s

/-- The operations of a job's present part cancelled (R258). -/
def cancelJob (s : State) (j : Job) : State :=
  (j.work.flatMap fun (w : StepWork) => w.ops.map fun id => (w.ch, id)).foldl
    (fun s (e : Nat × W32) => cancelOp s e.1 e.2) s

/-- A training step that works in a channel rerun whole, which rebuilds what it keeps (R579). -/
def rerunJob (s : State) (n : Nat) : State :=
  match s.ref.job with
  | none => s
  | some j =>
    if !(j.work.any fun (w : StepWork) => w.ch == n && !w.ops.isEmpty) then s
    else
      let s := cancelJob s j
      queueJob (setRef s { s.ref with job := some { j with queued := false, work := [] } })

/-- The steps that run in a channel, a training job's among them, cancelled and reissued from their first operation
(R579). -/
def rerunSteps (s : State) (n : Nat) : State := rerunJob (rerunWhere s (worksIn n)) n

/-- Operations of a channel cancelled and reissued: with their steps where they belong to one, else as entries appended to
the queue anew (R23, R583). -/
def replayWhere (s : State) (n : Nat) (p : LoadedOp → Bool) : State :=
  let hit := (s.chan n).ops.filter p
  let ids := hit.map (·.op.opId)
  let holds := fun (w : StepWork) => w.ch == n && ids.any w.ops.contains
  let inStep := fun (q : Live) => (q.work.getD []).any holds
  let inJob := s.ref.job.any fun j => j.work.any holds
  let owned := fun (id : W32) =>
    (s.ref.live.any fun q => (q.work.getD []).any fun w => w.ch == n && w.ops.contains id) ||
      s.ref.job.any fun j => j.work.any fun w => w.ch == n && w.ops.contains id
  let s := rerunWhere s inStep
  let s := if inJob then rerunJob s n else s
  (hit.filter fun l => !owned l.op.opId).foldl (fun s (l : LoadedOp) =>
    let s := cancelOp s n l.op.opId
    if queueRoom s n = 0 then s else appendEntry s n l.op.entry) s

/-- Whether an operation has met a word whose data are lost: a stream of it halted on an uncorrectable word of memory or of
a core store, or a task on one (R144, R254). -/
def lostData (s : State) (n : Nat) (id : W32) : Bool :=
  (s.streams.any fun e => e.1 / 4096 == n && e.2.used && e.2.opId == id && (e.2.halt == some 3 || e.2.halt == some 8)) ||
    s.cores.any fun e => e.1 / 800 == n && (
      (e.2.array.any fun a => a.opId == id && a.halted == some .data) ||
      (e.2.vec.any fun a => a.opId == id && a.halted == some .data) ||
      (e.2.fill.any fun a => a.opId == id && a.halted == some .data))

/-- Work with one operation taken out of it. -/
def withoutOp (n : Nat) (id : W32) (w : StepWork) : StepWork :=
  if w.ch == n then { w with ops := w.ops.filter (· != id) } else w

/-- What an operation whose cancel has been asked for belongs to done anew (R580): its step rerun whole, or, where it belongs
to none, its queue entry appended again. -/
def redoOp (s : State) (n : Nat) (l : LoadedOp) : State :=
  let id := l.op.opId
  let holds := fun (w : StepWork) => w.ch == n && w.ops.contains id
  match s.ref.live.find? fun q => (q.work.getD []).any holds, s.ref.job.filter fun j => j.work.any holds with
  | some q, _ => expandStep (stopStep s { q with work := q.work.map fun w => w.map (withoutOp n id) }) q.id
  | none, some j =>
    let s := cancelJob s { j with work := j.work.map (withoutOp n id) }
    queueJob (setRef s { s.ref with job := some { j with queued := false, work := [] } })
  | none, none => if queueRoom s n = 0 then s else appendEntry s n l.op.entry

/-- STREAM_CANCEL (R258, R570, R580): firmware's cancel of an operation whose stream has halted on malformed data cancels the
rest of its step and ends its request with status 0x4; the cancel of one whose data are lost has its step rerun. -/
def opStreamCancel (n : Nat) (v : W64) (s : State) : State :=
  let id := BitVec.ofNat 32 (bits v.toNat 31 0)
  let bad := s.streams.any fun e => e.1 / 4096 == n && e.2.used && e.2.opId == id && e.2.halt == some 5
  let owner := s.ref.live.find? fun (q : Live) =>
    (q.work.getD []).any fun (w : StepWork) => w.ch == n && w.ops.contains id
  let t := askCancel n v s
  if !bit v.toNat 63 || bits v.toNat 61 32 ≠ 0 then t
  else match owner, findOp s n id with
    | some q, some l =>
      if bad then endRequest t { q with work := q.work.map fun w => w.map (withoutOp n id) } 4
      else if lostData s n id then redoOp t n l
      else t
    | none, some l => if lostData s n id then redoOp t n l else t
    | _, none => t

/-! ### Training jobs (R446 to R460) -/

/-- The abort of a job with its cause: event 0x2C, the snapshot written back, the job ended (R448, R458, R459). -/
def abortJob (s : State) (cause : Nat) : State :=
  let s := setFld s Reg.glbTrainStatus 7 4 cause
  let s := match s.ref.job with
    | none => s
    | some j =>
      let s := cancelJob s j
      let back := fun (r : State × Nat) (t : Nat × Nat) => (moveMirrored r.1 r.2 t.1 t.2, r.2 + cdiv t.2 16 * 16)
      setRef ((j.job.tensors.foldl back (s, j.job.snapshot)).1) { s.ref with job := none }
  post (setFld s Reg.glbTrainStatus 3 0 0) 4 0x2C 0 [(4, cause)]
where
  /-- Bytes of the snapshot written back into a tensor, in both mirror copies (R458). -/
  moveMirrored (s : State) (src dst len : Nat) : State :=
    let s := moveBytes s src dst (cdiv len 16 * 16)
    match place dst with
    | .tier0 n off =>
      if mirrored s n off && !fenced s (partner n) then
        count64 (moveBytes s src (tier0Base (partner n) + off) (cdiv len 16 * 16)) (Reg.chMirrorWriteCount n) (cdiv len 16)
      else s
    | _ => s

/-- A loss during a job: it aborts at the next step boundary (R459). -/
def markAbort (s : State) (cause : Nat) : State :=
  match s.ref.job with
  | none => s
  | some j => if j.abort.isSome then s else setRef s { s.ref with job := some { j with abort := some cause } }

/-- Whether a plan's kept rows fit: each core's rows lie inside its store (R447, R448). -/
def planFits (s : State) (j : TrainJob) : Bool :=
  j.kept.all fun (e : Nat × Nat) => decide (e.1 / 1024 < 4) && decide (e.1 % 1024 < 768) &&
    (let n := e.1 / 1024
     let i := physOf s n (e.1 % 1024)
     let regions := (List.range 3).foldl (fun a k => a + fld s (Reg.coreTaskRegion n i k) 25 16) 0
     decide (regions + e.2 ≤ 512))

/-- TRAINING_JOB_START (R444, R448, R457, R458): a job that does not fit is refused with cause 0x5; otherwise every
trained tensor with its backward copy is copied into the snapshot, and the job runs. -/
def opTrainingJobStart (j : TrainJob) (s : State) : State :=
  if s.ref.job.isSome || (modelOf s j.model).isNone then s
  else if !planFits s j then
    post (setFld s Reg.glbTrainStatus 7 4 5) 4 0x2C 0 [(4, 5)]
  else
    let go := fun (r : State × Nat) (t : Nat × Nat) => (moveBytes r.1 t.1 r.2 (cdiv t.2 16 * 16), r.2 + cdiv t.2 16 * 16)
    let s := (j.tensors.foldl go (s, j.snapshot)).1
    startJob (setFld (setRef s { s.ref with job := some ⟨j, j.steps, false, false, [], none⟩ }) Reg.glbTrainStatus 3 0 2)

/-- The end of a job's present part: after the encodes the first step; a step is counted, a pending abort reverts the job,
the next step is queued, and after the last one the job commits and its snapshot is free (R451, R458 to R460). -/
def endPart (s : State) (j : Job) : State :=
  if !j.begun then queueJob (setRef s { s.ref with job := some { j with begun := true, queued := false, work := [] } })
  else
    let s := count64 s Reg.glbTrainStepCount 1
    let s := setRef s { s.ref with job := some { j with left := j.left - 1, queued := false, work := [] } }
    match j.abort with
    | some c => abortJob s c
    | none =>
      if 1 < j.left then queueJob s
      else setFld (setRef s { s.ref with job := none }) Reg.glbTrainStatus 3 0 0

/-- A job's books follow the completion of an operation: with the last one of its present part, that part ends. A part that
found no room in the queues is tried again. -/
def noteTrainStep (s : State) (n : Nat) (id : W32) : State :=
  match s.ref.job with
  | none => s
  | some j =>
    if !(j.work.any fun (w : StepWork) => w.ch == n && w.ops.contains id) then queueJob s
    else
      let cut := fun (w : StepWork) => if w.ch == n then { w with ops := w.ops.filter (· != id) } else w
      let j := { j with work := j.work.map cut }
      if j.work.all (·.ops.isEmpty) then endPart s j else setRef s { s.ref with job := some j }

/-- OPERATION_COMPLETE (R219, R565): with what follows from it in the books of the firmware (R432, R438, R458). -/
def opOperationComplete (n : Nat) (id : W32) (s : State) : State :=
  let t := completeOp n id s
  if (t.chan n).ops.length < (s.chan n).ops.length then noteTrainStep (noteOpDone t n id) n id else t

/-- A 2:4 mask that breaks R454 aborts a job before its first step. -/
def maskBroken (s : State) : State :=
  match s.ref.job with
  | some j => if j.begun then s else abortJob s 4
  | none => s

end Sys2Proof.Machine
end

