-- ==== Sys2Proof/Machine/Collect.lean ====
section
/-! DEFINITION. In-link reduction and parameter return (R529 to R547): the bucket table, the checks of type 0x6
messages, the adder, the return, and the digests. -/

namespace Sys2Proof.Machine

/-! ### The bucket table (R530) -/

/-- An entry of the bucket table. -/
structure Entry6 where
  en      : Bool
  ring    : Nat
  owner   : Nat
  members : Nat
  gen     : Nat
  state   : Nat
  segs    : Nat
  elems   : Nat
  epoch   : Nat
  contrib : Nat
  stage   : Nat
  result  : Nat
  ret     : Nat
  retSegs : Nat
  ascale  : Nat
deriving DecidableEq, Repr

def redBase (s : State) : Nat := fld s Reg.glbRedBase 47 0
def entryAddr (s : State) (tag : Nat) : Nat := redBase s + 64 * tag

/-- A 64-bit little-endian word as it stands in memory. -/
def word64 (s : State) (a : Nat) : Nat := leNat (viewRange s a 8)

/-- The entry of a tag; none while the base is 0, which disables reduction (R546). -/
def bucketEntry (s : State) (tag : Nat) : Option Entry6 :=
  if redBase s = 0 then none
  else
    let a := entryAddr s tag
    let w := word64 s a
    let x := word64 s (a + 0x28)
    some ⟨bit w 63, bits w 62 61, bits w 60 58, bits w 57 50, bits w 49 46, bits w 45 44, bits w 43 35, bits w 34 17,
      bits w 16 1, bits (word64 s (a + 0x08)) 47 0, bits (word64 s (a + 0x10)) 47 0, bits (word64 s (a + 0x18)) 47 0,
      bits (word64 s (a + 0x20)) 47 0, bits x 63 55, bits x 47 0⟩

/-- A field of an entry's first word written by the hardware. -/
def putEntry (s : State) (tag hi lo v : Nat) : State :=
  let a := entryAddr s tag
  (writeRange s a (leBytes 8 (putBits (word64 s a) hi lo v))).1
def setBucketState (s : State) (tag st : Nat) : State := putEntry s tag 45 44 st

/-- The chain of a bucket: its members in the ring's direction, from the first after the owner to the owner (R531). -/
def chainOf (e : Entry6) : List Nat :=
  let steps := (List.range 8).map fun k => if e.ring < 2 then (e.owner + 1 + k) % 8 else (e.owner + 7 - k) % 8
  steps.filter fun m => bit e.members m
/-- The member after one in a list. -/
def nextIn : List Nat → Nat → Option Nat
  | a :: b :: r, m => if a = m then some b else nextIn (b :: r) m
  | _, _ => none
/-- The member before one in a list. -/
def prevIn : List Nat → Nat → Option Nat
  | a :: b :: r, m => if b = m then some a else prevIn (b :: r) m
  | _, _ => none
/-- The chain of a return: from the owner to the member before it (R540). -/
def returnChain (e : Entry6) : List Nat := e.owner :: (chainOf e).filter (· != e.owner)

/-- Messages of agreed scales in a return (R540). -/
def scaleMsgs (e : Entry6) : Nat := cdiv (e.segs * 32) 2048

/-! ### Digests (R544) -/

/-- One bit of the CRC-64, most significant bit first. -/
def crcBit (c b : Nat) : Nat :=
  let top := (c / 2 ^ 63 + b) % 2
  let c := c * 2 % 2 ^ 64
  if top = 1 then c ^^^ 0x42F0E1EBA9EA3693 else c
/-- One byte of it. -/
def crcByte (c : Nat) (b : Byte) : Nat := (List.range 8).foldl (fun c i => crcBit c (b.toNat / 2 ^ (7 - i) % 2)) c
/-- A digest carried on over more bytes; initial value all ones and final inversion. -/
def crc64 (d : Nat) (bs : List Byte) : Nat := (bs.foldl crcByte (d ^^^ (2 ^ 64 - 1))) ^^^ (2 ^ 64 - 1)

/-- A digest of an entry updated: tx at 0x30, rx at 0x38. -/
def digest (s : State) (tag : Nat) (rx : Bool) (bs : List Byte) : State :=
  let a := entryAddr s tag + (if rx then 0x38 else 0x30)
  (writeRange s a (leBytes 8 (crc64 (word64 s a) bs))).1

/-! ### Commands (R537 to R541) -/

/-- A command of GLB_RED_CMD: its op and tag stand in the register, and go is clear once it is accepted. -/
def redCommand (s : State) (op tag : Nat) : State :=
  setFld (setFld (setFlag s Reg.glbRedCmd 63 false) Reg.glbRedCmd 62 60 op) Reg.glbRedCmd 59 48 tag
def cmdFault (s : State) : State := setFlag s Reg.glbRedStatus 0 true
def epochNow (s : State) : Nat := fld s Reg.glbGroupStatus 63 48

/-- READY (R538, R539). -/
def opReady (tag : Nat) (s : State) : State :=
  let s := redCommand s 1 tag
  match bucketEntry s tag with
  | none => cmdFault s
  | some e =>
    if !e.en || e.state ≠ 0 then cmdFault s
    else
      let s := (writeRange s (entryAddr s tag + 0x30) (leBytes 8 0 ++ leBytes 8 0)).1
      let s := setBucketState (putEntry s tag 16 1 (epochNow s)) tag 1
      s.setBucket tag { s.bucket tag with next := 0 }

/-- A type 0x6 message sent along the ring that the entry names (R531, R532). -/
def sendRed (s : State) (e : Entry6) (op tag to_ index : Nat) (bs : List Byte) : State :=
  let m : Msg := ⟨word0 6 3 to_ (ownModule s) 7 bs.length 0,
    BitVec.ofNat 64 (op * 2 ^ 60 + tag * 2 ^ 48 + e.gen * 2 ^ 44 + index * 2 ^ 36), 0, 0, bs⟩
  sendOn (digest s tag false bs) e.ring ⟨m, true, none⟩

/-- The return of a bucket is over at this module: gen advances, the entry is idle, event 0x2B (R539, R541). -/
def endReturn (s : State) (tag : Nat) (e : Entry6) : State :=
  let s := setBucketState (putEntry s tag 49 46 ((e.gen + 1) % 16)) tag 0
  let s := s.setBucket tag Bucket.reset
  post s 4 0x2B 0 [(12, tag)]

/-- The i-th scale message of a return: 2,048 bytes, or the rest in the last (R532). -/
def scaleLen (e : Entry6) (i : Nat) : Nat := min 2048 (e.segs * 32 - 2048 * i)

/-- RETURN (R539 to R541): the owner sends its parameters and scales. -/
def opReturn (tag : Nat) (s : State) : State :=
  let s := redCommand s 2 tag
  match bucketEntry s tag with
  | none => cmdFault s
  | some e =>
    if !e.en || e.state ≠ 2 || e.owner ≠ ownModule s then cmdFault s
    else
      let s := match nextIn (returnChain e) e.owner with
        | none => s
        | some t =>
          let s := (List.range e.retSegs).foldl (fun s i =>
            sendRed s e 2 tag t i (viewRange s (e.ret + 2048 * i) 2048)) s
          (List.range (scaleMsgs e)).foldl (fun s i =>
            sendRed s e 3 tag t i (viewRange s (e.ascale + 2048 * i) (scaleLen e i))) s
      endReturn s tag e

/-- RED_RESET (R539): idle from any state, gen unchanged and digests kept. -/
def opRedReset (tag : Nat) (s : State) : State :=
  let s := redCommand s 3 tag
  match bucketEntry s tag with
  | none => cmdFault s
  | some _ => (setBucketState s tag 0).setBucket tag Bucket.reset

/-! ### Receiving (R533, R604) -/

/-- A message dropped under R533: counted, flagged and posted. -/
def redDrop (s : State) (tag order : Nat) : State :=
  let s := count32 s (if order = 5 then Reg.glbRedDupCount else Reg.glbRedDropCount) 1
  post (setFlag s Reg.glbRedStatus 2 true) 4 0x28 0 [(12, tag), (4, order)]

/-- The outcome of the checks of R533: the order that failed, or the entry. -/
def redCheck (s : State) (m : Msg) : Except Nat Entry6 :=
  let tag := m.f1 59 48
  let own := ownModule s
  let index := m.f1 43 36
  let b := s.bucket tag
  match bucketEntry s tag with
  | none => .error 1
  | some e =>
    if isDormant s || !e.en || !bit e.members own then .error 1
    else if m.f1 47 44 ≠ e.gen then .error 2
    else
      let chain := if m.sub = 1 then chainOf e else returnChain e
      let limit := if m.sub = 1 then e.segs else if m.sub = 2 then e.retSegs else scaleMsgs e
      let seen := if m.sub = 1 then b.segs else if m.sub = 2 then b.rets else b.scales
      if prevIn chain own ≠ some m.src then .error 3
      else if limit ≤ index || e.state = 3 then .error 4
      else if seen.contains index then .error 5
      else .ok e

/-- A type 0x6 message of an op taken from a port and checked. -/
def redTake (s : State) (p op : Nat) (act : State → Msg → Entry6 → State) : State :=
  match takeFor s p 6 [op] with
  | none => s
  | some m =>
    match redCheck s m with
    | .error 2 => staleMsg s p m
    | .error k =>
      let s := redDrop (dropMsg s p m) (m.f1 59 48) k
      if isDormant s then startWake s else s
    | .ok e => act (dropMsg s p m) m e

/-- REDUCE_SEGMENT (R533, R534): staged, it waits for the adder. -/
def opReduceSegment (p : Nat) (s : State) : State :=
  redTake s p 1 fun s m e =>
    let tag := m.f1 59 48
    let s := (writeRange s (e.stage + 2048 * m.f1 43 36) m.data).1
    s.setBucket tag { s.bucket tag with segs := (s.bucket tag).segs ++ [m.f1 43 36] }

/-- A return message written at the same offset here and forwarded unchanged, but by the last member (R540). -/
def returnOn (s : State) (m : Msg) (e : Entry6) (area : Nat) : State :=
  let tag := m.f1 59 48
  let s := (writeRange s (area + 2048 * m.f1 43 36) m.data).1
  let s := digest s tag true m.data
  match nextIn (returnChain e) (ownModule s) with
  | some t => sendRed s e m.sub tag t (m.f1 43 36) m.data
  | none => s

/-- The last return message written advances the generation (R541). -/
def settleReturn (s : State) (tag : Nat) (e : Entry6) : State :=
  let b := s.bucket tag
  if b.rets.length = e.retSegs && b.scales.length = scaleMsgs e then endReturn s tag e else s

/-- RETURN_PARAMETERS (R533, R540). -/
def opReturnParameters (p : Nat) (s : State) : State :=
  redTake s p 2 fun s m e =>
    let tag := m.f1 59 48
    let s := returnOn s m e e.ret
    let s := s.setBucket tag { s.bucket tag with rets := (s.bucket tag).rets ++ [m.f1 43 36] }
    settleReturn s tag e

/-- RETURN_SCALES (R533, R540, R541). -/
def opReturnScales (p : Nat) (s : State) : State :=
  redTake s p 3 fun s m e =>
    let tag := m.f1 59 48
    let s := returnOn s m e e.ascale
    let s := s.setBucket tag { s.bucket tag with scales := (s.bucket tag).scales ++ [m.f1 43 36] }
    settleReturn s tag e

/-! ### The adder (R534, R535) -/

/-- Round to nearest even of a fraction. -/
def rne (neg : Bool) (a b : Nat) : Int :=
  let q := roundMag .nearest a b
  if neg then -(q : Int) else q
/-- round_ne(x · 2^k) of a number. -/
def scaledInt (x : Num) (k : Int) : Int :=
  match x with
  | .fin neg m e => let f := frac m (e + k); rne neg f.1 f.2
  | _ => 0
/-- round_ne(t ÷ 2^k). -/
def shiftRne (t : Int) (k : Nat) : Int := rne (decide (t < 0)) t.natAbs (2 ^ k)

/-- A block as it travels: scale, flags and 32 elements (R529). -/
structure Block6 where
  e     : Nat
  flags : Nat
  n     : List Int
deriving DecidableEq, Repr

/-- What a hop adds to the counters: k of a rescale, whether it saturated, whether it became NaN. -/
structure HopNote where
  k   : Nat
  sat : Bool
  nan : Bool
deriving DecidableEq, Repr

/-- The adder rule for one block (R534). -/
def hop (b : Block6) (x : List Num) : Block6 × HopNote :=
  if b.e = 0xFF || x.any (fun v => !v.isFin) then
    ({ b with e := 0xFF, n := List.replicate 32 0 }, ⟨0, false, true⟩)
  else
    let t := (List.range 32).map fun i =>
      (b.n.getD i 0) + scaledInt (x.getD i (Num.zero false)) (141 - (b.e : Int))
    let fits := fun (k : Nat) => t.all fun v => decide ((shiftRne v k).natAbs ≤ 32767)
    let k0 := ((List.range 512).find? fits).getD 512
    let big := decide (0xFE < b.e + k0)
    let k := if big then 0xFE - b.e else k0
    let n := t.map fun v => max (-32767) (min 32767 (shiftRne v k))
    let fl := b.flags ||| (if 0 < k then 1 else 0) ||| (if big then 2 else 0)
    (⟨b.e + k, fl, n⟩, ⟨k, big, false⟩)

/-- A block of a segment's bytes (R529). -/
def blockAt (bs : List Byte) (b : Nat) : Block6 :=
  ⟨(bs.getD (2 * b) 0).toNat, (bs.getD (2 * b + 1) 0).toNat,
    (List.range 32).map fun i => signed 16 (leNat ((bs.drop (64 + 64 * b + 2 * i)).take 2))⟩

/-- A segment's bytes from its 31 blocks. -/
def segBytes (bl : List Block6) : List Byte :=
  (bl.flatMap fun (b : Block6) => [BitVec.ofNat 8 b.e, BitVec.ofNat 8 b.flags]) ++ [0, 0] ++
  bl.flatMap fun (b : Block6) => b.n.flatMap fun v => leBytes 2 (unsigned 16 v)

/-- An element as the owner converts it: n · 2^(e − 141), or NaN (R529, R535). -/
def elemF32 (b : Block6) (i : Nat) : W32 :=
  if b.e = 0xFF then nan32 else toF32 ((Num.ofInt (b.n.getD i 0)).scale2 ((b.e : Int) - 141))

/-- The FP32 contribution of a bucket element, 0 beyond elems. -/
def contribOf (s : State) (e : Entry6) (x : Nat) : Num :=
  if x < e.elems then f32 (BitVec.ofNat 32 (leNat (viewRange s (e.contrib + 4 * x) 4))) else Num.zero false

/-- ADDER_SEGMENT (R534, R535, R539): the next segment in ascending order, once it is there and the entry reduces. -/
def opAdderSegment (tag : Nat) (s : State) : State :=
  match bucketEntry s tag with
  | none => s
  | some e =>
    let own := ownModule s
    let b := s.bucket tag
    let j := b.next
    let chain := chainOf e
    let first := chain.head? == some own
    if e.state ≠ 1 || !bit e.members own || e.segs ≤ j || !(first || b.segs.contains j) then s
    else
      let inb := viewRange s (e.stage + 2048 * j) 2048
      let blocks := (List.range 31).map fun k =>
        let start : Block6 := if first then
            ⟨(viewRange s (e.ascale + 32 * j + k) 1).headD 0 |>.toNat, 0, List.replicate 32 0⟩
          else blockAt inb k
        hop start ((List.range 32).map fun i => contribOf s e (992 * j + 32 * k + i))
      let outs := blocks.map (·.1)
      let notes := blocks.map (·.2)
      let s := if first then s else digest s tag true inb
      let s := count64 s Reg.glbRedSegCount 1
      let s := count32 s Reg.glbRedRescaleBlockCount (notes.filter fun (h : HopNote) => 0 < h.k).length
      let s := count64 s Reg.glbRedRescaleBitsCount (notes.foldl (fun a (h : HopNote) => a + h.k) 0)
      let s := count32 s Reg.glbRedSatCount (notes.filter fun (h : HopNote) => h.sat).length
      let s := if notes.any fun (h : HopNote) => h.nan then setFlag s Reg.glbRedStatus 1 true else s
      let s := s.setBucket tag { s.bucket tag with next := j + 1 }
      if own = e.owner then
        let vals := (List.range 992).map fun i => elemF32 (outs.getD (i / 32) ⟨0xFF, 0, []⟩) (i % 32)
        let live := vals.take (e.elems - 992 * j)
        let s := (writeRange s (e.result + 4 * 992 * j) (live.flatMap fun (v : W32) => leBytes 4 v.toNat)).1
        if j + 1 = e.segs then post (setBucketState s tag 2) 4 0x29 0 [(12, tag), (4, e.gen)] else s
      else
        let s := match nextIn chain own with
          | some t => sendRed s e 1 tag t j (segBytes outs)
          | none => s
        if j + 1 = e.segs then setBucketState s tag 2 else s

/-- A change of epoch fails every reducing or reduced entry of another epoch (R539). -/
def failBuckets (s : State) : State :=
  if redBase s = 0 then s
  else (List.range 4096).foldl (fun s tag =>
    match bucketEntry s tag with
    | none => s
    | some e =>
      if (e.state = 1 || e.state = 2) && e.epoch ≠ epochNow s then
        post ((setBucketState s tag 3).setBucket tag Bucket.reset) 4 0x2A 0 [(12, tag)]
      else s) s

end Sys2Proof.Machine
end

