-- ==== Sys2Proof/Machine/Ready.lean ====
section
/-! DEFINITION. The phases of start-up (R660), the header of a signed image (R626), and the cycle in which the module
becomes ready for service (R658). -/

namespace Sys2Proof.Machine

/-! ### Images -/

/-- A little-endian field of an image's header (R626). -/
def Image.field (i : Image) (off len : Nat) : Nat := leNat ((i.header.drop off).take len)
def Image.magic (i : Image) : Nat := i.field 0 4
def Image.kind (i : Image) : Nat := i.field 4 2
def Image.keySlot (i : Image) : Nat := i.field 6 1
def Image.flags (i : Image) : Nat := i.field 7 1
def Image.svn (i : Image) : Nat := i.field 8 4
def Image.len (i : Image) : Nat := i.field 0xC 4
def Image.bytesAt (i : Image) (off len : Nat) : List Byte := (i.header.drop off).take len

/-! ### Phases -/

def phase (s : State) : Nat := fld s Reg.glbStartStatus 30 27
def isReady (s : State) : Bool := flag s Reg.glbStartStatus 31

/-- A phase entered: elapsed takes the ms since reset release, and stops at ready (R660). -/
def setPhase (s : State) (p : Nat) : State :=
  if isReady s then s
  else
    let s := setFld s Reg.glbStartStatus 30 27 p
    setFld s Reg.glbStartStatus 22 0 (min 0x7FFFFF (timeNs s / 1000000))

/-- Start-up has failed: the module stays in RESET with a code in fail (R585, R629, R650, R660). -/
def failStart (s : State) (code : Nat) : State :=
  let s := setFld (setPhase s 0xF) Reg.glbStartStatus 26 23 code
  setFld s Reg.glbPwrStatus 31 29 2

/-! ### Ready for service (R628, R658) -/

/-- The state serves requests (R636, R658). -/
def stateServes (s : State) : Bool :=
  let c := fld s Reg.glbLcStatus 31 28
  c == 2 || c == 3 || c == 4

/-- A member of the view with its routes written, or a group of one. -/
def inGroup (s : State) : Bool :=
  fld s Reg.glbGroupStatus 31 28 == 1 || (s.ref.formed && bit (fld s Reg.glbGroupStatus 47 40) (ownModule s))

/-- Every model of the model table is ready or has failed its digest. -/
def modelsSettled (s : State) : Bool :=
  match s.plan with
  | none => false
  | some p => p.models.all fun (m : ModelPlan) =>
      s.ref.models.any fun e => e.1 == m.model && e.2 != ModelState.notReady

/-- Every channel in service runs in service mode. -/
def channelsServe (s : State) : Bool :=
  (List.range 4).all fun n => (s.chan n).out || fld s (Reg.chTimingMode n) 1 0 == 1

/-- The conditions of R658. -/
def readyNow (s : State) : Bool :=
  flag s Reg.glbLcStatus 23 && stateServes s && decide (5 ≤ phase s) && decide (phase s ≤ 8) && inGroup s &&
    modelsSettled s && channelsServe s

/-- The fused minimum of a kind raised to an image's version where it carries the commit flag (R628). -/
def commitSvn (s : State) : State :=
  let up := fun (i : Option Image) (m : Nat) => match i with
    | some i => if i.flags % 2 = 1 then max m i.svn else m
    | none => m
  { s with fuses := { s.fuses with minBoot := up s.sec.boot s.fuses.minBoot, minRun := up s.sec.run s.fuses.minRun } }

/-- The cycle in which every condition of R658 holds: ready is set and form cleared. -/
def tryReady (s : State) : State :=
  if isReady s || !readyNow s then s
  else
    let s := setPhase s 9
    commitSvn (setFlag (setFlag s Reg.glbStartStatus 31 true) Reg.glbStartCtrl 0 false)

end Sys2Proof.Machine
end

