-- ==== Sys2Proof/Machine/Group.lean ====
section
/-! DEFINITION. The group (R505 to R515, R527), its formation (R652 to R656), the port events that change its routes,
and the host link (R516 to R520). -/

namespace Sys2Proof.Machine

/-! ### The view (R506, R507, R511) -/

def groupSize (s : State) : Nat := fld s Reg.glbGroupStatus 31 28
def membersMask (s : State) : Nat := fld s Reg.glbGroupStatus 47 40
def captainOf (s : State) : Option Nat :=
  if flag s Reg.glbGroupStatus 36 then some (fld s Reg.glbGroupStatus 39 37) else none
def standbyOf (s : State) : Option Nat :=
  if flag s Reg.glbGroupStatus 32 then some (fld s Reg.glbGroupStatus 35 33) else none

/-- The module k places from m in a direction, modulo the group size. -/
def stepModule (size m k : Nat) (east : Bool) : Nat :=
  if size = 0 then m else if east then (m + k) % size else (m + size - k % size) % size
/-- Places from one module to another in a direction. -/
def placesTo (size m t : Nat) (east : Bool) : Nat :=
  if size = 0 then 0 else if east then (t + size - m % size) % size else (m + size - t % size) % size
/-- The next present module in a direction. -/
def nextPresent (size mask m : Nat) (east : Bool) : Option Nat :=
  ((List.range size).map fun k => stepModule size m (k + 1) east).find? fun t => bit mask t && t != m
/-- Present modules from m to t in a direction, t included (R512). -/
def arcLen (size mask m t : Nat) (east : Bool) : Nat :=
  ((List.range (placesTo size m t east)).filter fun k => bit mask (stepModule size m (k + 1) east)).length

/-- A ring port faces east (R461). -/
def facesEast (p : Nat) : Bool := decide (p < 2)
/-- Own neighbour in a port's direction. -/
def neighbour (s : State) (east : Bool) : Option Nat := nextPresent (groupSize s) (membersMask s) (ownModule s) east

/-- Whether a ring port leads to the segment of a module that rejoins: it lies no further than the neighbour. -/
def towardRejoin (s : State) (p : Nat) : Bool :=
  match s.ref.rejoin with
  | none => false
  | some j =>
    s.ref.formed && ringPort p && j != ownModule s &&
      (match neighbour s (facesEast p) with
       | none => true
       | some t => decide (placesTo (groupSize s) (ownModule s) j (facesEast p) ≤
           placesTo (groupSize s) (ownModule s) t (facesEast p)))

/-! ### Routes (R512) -/

/-- A port that a route may take. -/
def routable (s : State) (p : Nat) : Bool := linkUp s p && !towardRejoin s p

/-- The port and hops of the route to a present module. -/
def routeTo (s : State) (t : Nat) : Nat × Nat :=
  let size := groupSize s
  let mask := membersMask s
  let own := ownModule s
  match [4, 5, 6, 7].find? fun p => linkUp s p && fld s (linkReg p) 18 16 == t with
  | some p => (p, 1)
  | none =>
    let e := arcLen size mask own t true
    let w := arcLen size mask own t false
    let east := decide (e ≤ w)
    let ring := t % 2
    let at_ := fun (e' : Bool) (r : Nat) => if e' then r else 2 + r
    let hops := fun (p : Nat) => if p < 2 then e else w
    let choices := [at_ east ring, at_ east (1 - ring), at_ (!east) ring, at_ (!east) (1 - ring)]
    let p := (choices.find? (routable s)).getD (at_ east ring)
    (p, hops p)

/-- The referee rewrites its routes (R512). -/
def rewriteRoutes (s : State) : State :=
  (List.range 8).foldl (fun s t =>
    if bit (membersMask s) t && t != ownModule s then
      let r := routeTo s t
      wr s (Reg.glbRoute t) (BitVec.ofNat 64 (2 ^ 31 + r.1 * 2 ^ 28 + min 7 r.2 * 2 ^ 25))
    else wr s (Reg.glbRoute t) 0) s

/-! ### Link control messages (R509) -/

/-- Word 1 of a type 0x3 message. -/
def ctlWord (sub epoch members : Nat) (cap sb : Option Nat) (subject : Nat) : W64 :=
  let o := fun (x : Option Nat) (hi v : Nat) => match x with | some m => m % 8 * 2 ^ hi + 2 ^ v | none => 0
  BitVec.ofNat 64 (sub * 2 ^ 60 + epoch % 65536 * 2 ^ 44 + members % 256 * 2 ^ 36 + o cap 33 32 + o sb 29 28 +
    subject % 8 * 2 ^ 25)

/-- A control message sent to the partner of a port. -/
def sendCtl (s : State) (p : Nat) (w1 : W64) : State :=
  let t := fld s (linkReg p) 18 16
  if !linkUp s p || t = ownModule s then s
  else sendOn s p ⟨⟨word0 3 0 t (ownModule s) 7 0 0, w1, 0, 0, []⟩, true, none⟩

/-- A control message on every ring port but one (R507). -/
def flood (s : State) (skip : Option Nat) (w1 : W64) : State :=
  ([0, 1, 2, 3].filter fun p => some p != skip).foldl (fun s p => sendCtl s p w1) s

/-! ### Views adopted and issued (R507, R508, R513, R514, R656) -/

/-- The modules whose bypass round is still to come are none (R655). -/
def roundsDone (s : State) : Bool :=
  (List.range 8).all fun m => !bit (membersMask s) m || s.ref.rounds.contains m

/-- A status frame of the captain for the host (R524). -/
def tellHost (s : State) (code index : Nat) : State :=
  emit s none none (statusMsg s (ownModule s) 0 0 code index)

/-- A view adopted: the registers, the count, event 0x33, the routes, the buckets of another epoch, and, where a
neighbour has gone, the training job. A standby named captain in the place of a lost one tells the host so first
(R514); a captain tells it of every other change (R524). -/
def adoptView (s : State) (epoch mask : Nat) (cap sb : Option Nat) : State :=
  let oldCap := captainOf s
  let lost := [true, false].any fun e => match neighbour s e with | some t => !bit mask t | none => false
  let own := ownModule s
  let put := fun (s : State) (x : Option Nat) (hi v : Nat) =>
    setFlag (setFld s Reg.glbGroupStatus (hi + 2) hi (x.getD 0)) Reg.glbGroupStatus v x.isSome
  let s := setFld (setFld s Reg.glbGroupStatus 63 48 epoch) Reg.glbGroupStatus 47 40 mask
  let s := put (put s cap 37 36) sb 33 32
  let s := count32 s Reg.glbGroupEpochCount 1
  let s := post s 4 0x33 0 [(16, epoch), (8, mask)]
  let s := failBuckets (rewriteRoutes s)
  let s := if s.ref.formed && lost then markAbort s 3 else s
  let s :=
    if cap = some own && oldCap.isSome && oldCap ≠ some own then tellHost s 6 0
    else if cap = some own && oldCap = some own then tellHost s 7 mask
    else s
  let ends := !s.ref.formed && bit mask own &&
    (cap.isSome || phase s == 8 || (phase s == 6 && (groupSize s ≤ 2 || roundsDone s)))
  if ends then
    let s := setRef s { s.ref with formed := true, rejoin := none }
    let s := (List.range 8).foldl (fun (s : State) p => s.setPort p { s.port p with beat := timeNs s }) s
    tryReady (setPhase s 7)
  else s

/-- Captain-eligible modules of a mask, in ascending order (R505). -/
def eligibleOf (s : State) (mask : Nat) : List Nat :=
  match s.plan with
  | none => []
  | some p => (List.range 8).filter fun m => p.eligible.contains m && bit mask m

/-- The eligible module that follows another, around the group. -/
def nextEligible (s : State) (mask m : Nat) : Option Nat :=
  let l := (eligibleOf s mask).filter (· != m)
  (l.find? (m < ·)).orElse fun _ => l.head?

/-- Captain and standby under a new mask: a lost captain is followed by the standby, a missing standby by the next
eligible present module (R514). -/
def successors (s : State) (mask : Nat) : Option Nat × Option Nat :=
  let cap := (captainOf s).filter fun m => bit mask m
  let sb := (standbyOf s).filter fun m => bit mask m
  match cap, sb with
  | some c, some b => (some c, some b)
  | some c, none => (some c, nextEligible s mask c)
  | none, some b => (some b, nextEligible s mask b)
  | none, none => (none, none)

/-- An update issued: adopted here and flooded (R507). -/
def issueView (s : State) (epoch mask : Nat) (cap sb : Option Nat) : State :=
  let s := adoptView s epoch mask cap sb
  flood s none (ctlWord 2 epoch mask cap sb 0)

/-- A membership update without or with a module. -/
def issueUpdate (s : State) (mask : Nat) : State :=
  let c := successors s mask
  issueView s ((epochNow s + 1) % 65536) mask c.1 c.2

/-- The update of R656, which names the captain and the standby (R513). -/
def nameCaptain (s : State) : State :=
  let l := eligibleOf s (membersMask s)
  issueView s ((epochNow s + 1) % 65536) (membersMask s) l[0]? l[1]?

/-- The lowest present module. -/
def lowestPresent (s : State) : Option Nat := (List.range 8).find? fun m => bit (membersMask s) m

/-- The last bypass round is done, or there is none: the lowest present module makes the update of R656. -/
def endRounds (s : State) : State :=
  if !s.ref.formed && phase s == 6 && (groupSize s ≤ 2 || roundsDone s) && lowestPresent s == some (ownModule s) then
    nameCaptain s
  else s

/-- The direct training has settled: no Dorul port trains or relocks any more (R655). -/
def settle (s : State) : State :=
  if phase s = 5 && !s.ref.formed &&
      (List.range 8).all (fun p => hostPort s p || !(portState s p == 1 || portState s p == 4)) then
    endRounds (setPhase s 6)
  else s

/-- Ports in ACTIVE or DEGRADED send heartbeats once the group has formed, while a referee core is active (R510, R553,
R656). -/
def opHeartbeatSend (s : State) : State :=
  if !s.ref.formed || fld s Reg.glbRefStatus 31 30 = 0 then s
  else (List.range 8).foldl (fun s p =>
    if hostPort s p then s else sendCtl s p (ctlWord 1 (epochNow s) 0 (captainOf s) (standbyOf s) 0)) s

/-- HEARTBEAT (R509, R510): one is never stale. -/
def opHeartbeat (p : Nat) (s : State) : State :=
  match takeFor s p 3 [1] with
  | none => s
  | some m =>
    let s := dropMsg s p m
    s.setPort p { s.port p with beat := timeNs s }

/-- No heartbeat of a module for 100 µs on a port that faces it. -/
def silent (s : State) (t : Nat) : Bool :=
  (List.range 8).any fun p => linkUp s p && fld s (linkReg p) 18 16 == t &&
    decide ((s.port p).beat + 100000 ≤ timeNs s)

/-- NEIGHBOUR_HUNG (R510): the west neighbour of the hung module issues the update, or its east neighbour when the west
one is hung too. -/
def opNeighbourHung (p : Nat) (s : State) : State :=
  let t := fld s (linkReg p) 18 16
  let own := ownModule s
  let west := nextPresent (groupSize s) (membersMask s) t false
  let east := nextPresent (groupSize s) (membersMask s) t true
  let mine := west == some own || (east == some own && (match west with | some w => silent s w | none => false))
  if !s.ref.formed || !linkUp s p || t = own || !bit (membersMask s) t ||
      timeNs s < (s.port p).beat + 100000 || !mine then s
  else issueUpdate (post s 4 0x27 0 [(3, t)]) (membersMask s - 2 ^ t)

/-- Whether a control message is stale (R509). -/
def staleCtl (s : State) (m : Msg) : Bool := decide (m.f1 59 44 < epochNow s)
/-- An optional module of a control message. -/
def optField (m : Msg) (hi v : Nat) : Option Nat := if bit m.w1.toNat v then some (m.f1 (hi + 2) hi) else none

/-- MEMBERSHIP_UPDATE (R507, R508). -/
def opMembershipUpdate (p : Nat) (s : State) : State :=
  match takeFor s p 3 [2] with
  | none => s
  | some m =>
    if staleCtl s m then staleMsg s p m
    else
      let s := dropMsg s p m
      let mask := m.f1 43 36
      if m.f1 59 44 = epochNow s then
        if mask = membersMask s then s else issueUpdate s (mask &&& membersMask s)
      else
        let s := adoptView s (m.f1 59 44) mask (optField m 33 32) (optField m 29 28)
        flood s (some p) m.w1

/-- A rejoin message taken: the subject marked or cleared, and the message forwarded once. -/
def rejoinTake (s : State) (p sub : Nat) (fresh : State → Nat → Bool) (act : State → Nat → State) : State :=
  match takeFor s p 3 [sub] with
  | none => s
  | some m =>
    if staleCtl s m then staleMsg s p m
    else
      let s := dropMsg s p m
      let j := m.f1 27 25
      if fresh s j then act (flood s (some p) m.w1) j else s

/-- REJOIN_START (R527, R655): the neighbours of the module move their routes off its segment and relock their ports
toward it onto the direct set; during formation it changes neither membership nor routes. -/
def opRejoinStart (p : Nat) (s : State) : State :=
  rejoinTake s p 3 (fun s j => s.ref.rejoin != some j) fun s j =>
    let s := setRef s { s.ref with rejoin := some j }
    if !s.ref.formed then s
    else
      let s := rewriteRoutes s
      [0, 1, 2, 3].foldl (fun s q => if towardRejoin s q then opRelockDirect q s else s) s

/-- REJOIN_DONE (R527, R655). -/
def opRejoinDone (p : Nat) (s : State) : State :=
  rejoinTake s p 4 (fun s j => s.ref.rejoin == some j) fun s j =>
    if s.ref.formed then rewriteRoutes (setRef s { s.ref with rejoin := none })
    else endRounds (setRef s { s.ref with rejoin := none, rounds := s.ref.rounds ++ [j] })

/-! ### Bypass rounds (R655) -/

/-- BYPASS_ROUND: the lowest present module, or the one whose predecessor is done. -/
def opBypassRound (s : State) : State :=
  let own := ownModule s
  let turn := lowestPresent s == some own ||
    (match (((List.range own).filter fun m => bit (membersMask s) m).getLast?) with
     | some m => s.ref.rounds.contains m
     | none => false)
  if s.ref.formed || phase s ≠ 6 || groupSize s < 3 || s.ref.round ≠ 0 || s.ref.rounds.contains own || !turn ||
      s.ref.rejoin.isSome || !bit (membersMask s) own then s
  else
    let s := flood s none (ctlWord 3 (epochNow s) 0 none none own)
    setRef s { s.ref with round := 1, rejoin := some own }

/-- BYPASS_ROUND_CLOSE. -/
def opBypassRoundClose (s : State) : State :=
  if s.ref.round = 1 then setRef (setInsert s false) { s.ref with round := 2 } else s

/-- BYPASS_ROUND_INSERT. -/
def opBypassRoundInsert (s : State) : State :=
  if s.ref.round = 2 then setRef (setInsert s true) { s.ref with round := 3 } else s

/-- A round ends once the ring ports are up again: rejoin done with itself as subject. -/
def roundDone (s : State) : State :=
  if s.ref.round = 3 && (List.range 4).all (linkUp s) then
    let own := ownModule s
    let s := flood s none (ctlWord 4 (epochNow s) 0 none none own)
    endRounds (setRef s { s.ref with round := 0, rejoin := none, rounds := s.ref.rounds ++ [own] })
  else s

/-! ### Ports that come up or fail -/

/-- Lanes that a set names. -/
def laneCount (lanes : Nat) : Nat := ((List.range 4).filter fun l => bit lanes l).length

/-- The modules that a bypassed path passes by, from own module to the partner. -/
def passedBy (s : State) (p : Nat) : List Nat :=
  let t := fld s (linkReg p) 18 16
  let d := placesTo (groupSize s) (ownModule s) t (facesEast p)
  (List.range (d - 1)).map fun k => stepModule (groupSize s) (ownModule s) (k + 1) (facesEast p)

/-- The west neighbour of a lost module updates the view once its relock completes (R514). -/
def noteBypassed (s : State) (p : Nat) : State :=
  if !s.ref.formed || !facesEast p || !linkUp s p || !flag s (linkReg p) 24 then s
  else
    let gone := (passedBy s p).filter fun m => bit (membersMask s) m
    if gone.isEmpty then s else issueUpdate s (gone.foldl (fun a m => a - 2 ^ m) (membersMask s))

/-- The west neighbour of a module that rejoins ends the rejoin once its ports face it on their direct sets (R527). -/
def finishRejoin (s : State) : State :=
  match s.ref.rejoin with
  | none => s
  | some j =>
    if s.ref.formed && [0, 1].all (fun p => linkUp s p && fld s (linkReg p) 18 16 == j && !flag s (linkReg p) 24) &&
        !bit (membersMask s) j then
      let s := setRef s { s.ref with rejoin := none }
      let s := issueUpdate s (membersMask s + 2 ^ j)
      flood s none (ctlWord 4 (epochNow s) 0 none none j)
    else s

/-- What follows from a port's change of state (R512, R514, R527, R655). -/
def afterPort (s : State) (p : Nat) : State :=
  roundDone (settle (finishRejoin (noteBypassed (rewriteRoutes s) p)))

/-- Lanes of a port that see a signal: none of a ring port whose relay is closed (R497). -/
def litLanes (s : State) (p lanes : Nat) : Nat :=
  if ringPort p then lanes &&& (15 - fld s Reg.glbByeStatus (4 * (p % 2) + 3) (4 * (p % 2))) else lanes

/-- RELOCK_COMPLETE (R492, R497, R498, R504). -/
def opRelockComplete (p : Nat) (lanes : BitVec 4) (partner pport : Nat) (s : State) : State :=
  let lit := litLanes s p lanes.toNat
  if portState s p ≠ 4 || laneCount lit < 3 then s
  else
    let bypassed := !(s.port p).direct
    let s := count32 (comeUp s p lit partner pport bypassed) (Reg.chLinkRelockCount (p / 2) (p % 2)) 1
    afterPort s p

/-- Whether a trained port faces the port it should (R461, R506, R653). -/
def cablingOk (s : State) (p partner pport : Nat) : Bool :=
  let size := groupSize s
  let own := ownModule s
  if ringPort p then
    pport == (p ^^^ 2) && (partner == stepModule size own 1 (facesEast p) ||
      partner == stepModule size own 2 (facesEast p) || neighbour s (facesEast p) == some partner)
  else match s.plan with
    | none => true
    | some pl => pl.chords.any fun c => c == ((own, p), (partner, pport)) || c == ((partner, pport), (own, p))

/-- TRAINING_COMPLETE (R491, R492, R497, R506, R653). -/
def opTrainingComplete (p : Nat) (lanes : BitVec 4) (partner pport : Nat) (s : State) : State :=
  let lit := litLanes s p lanes.toNat
  if portState s p ≠ 1 || laneCount lit < 3 then s
  else
    let size := groupSize s
    let next := partner == stepModule size (ownModule s) 1 (facesEast p)
    let s := comeUp s p lit partner pport (ringPort p && !next)
    if cablingOk s p partner pport then
      let s := if ringPort p && next then setFlag s (linkReg p) 23 true
        else if ringPort p && decide (3 ≤ size) && partner == stepModule size (ownModule s) 2 (facesEast p) then
          setFlag s (linkReg p) 22 true
        else s
      afterPort s p
    else
      let s := setState (setFlag s (linkCtl p) 31 false) p 0 0
      afterPort (post s (p / 2) 0x26 0 [(3, p), (3, partner), (3, pport)]) p

/-- TRAINING_TIMEOUT (R491, R497, R654): in formation a ring port that sees no signal takes its neighbour out of the view. -/
def opTrainingTimeout (p : Nat) (seen : Bool) (s : State) : State :=
  let signalSeen := seen && litLanes s p 15 != 0
  if portState s p ≠ 1 then s
  else
    let s := failPort s p (if signalSeen then 2 else 1)
    let s := match neighbour s (facesEast p) with
      | some t =>
        if !s.ref.formed && ringPort p && !signalSeen && (phase s == 5 || phase s == 6) then
          issueUpdate s (membersMask s - 2 ^ t)
        else s
      | none => s
    afterPort s p

/-- LANE_LOSS (R493 to R496, R512). -/
def opLaneLoss (p lane other : Nat) (s : State) : State :=
  if !linkUp s p || !bit (fld s (linkReg p) 28 25) lane then s else rewriteRoutes (laneLost p lane other s)

/-- LOSS_OF_SIGNAL (R498, R512, R459): a neighbouring module lost from its direct path aborts a training job. -/
def opLossOfSignal (p : Nat) (s : State) : State :=
  if !linkUp s p then signalLost p s
  else
    let s := if s.ref.formed && ringPort p && !flag s (linkReg p) 24 then markAbort s 3 else s
    rewriteRoutes (signalLost p s)

/-! ### The host link (R516 to R520) -/

/-- HOST_LINK_UP (R517, R519): numbering restarts at 0 and the host's address is learned anew. -/
def opHostLinkUp (p : Nat) (s : State) : State :=
  if !hostPort s p || !flag s (linkCtl p) 31 then s
  else s.setPort p { s.port p with hup := true, hmac := none, htx := 0, hrx := 0, hun := [], hwait := [] }

/-- The messages of a host frame; none where they overrun the payload (R518). -/
def frameMsgs : Nat → List Byte → List Msg → Option (List Msg)
  | 0, _, acc => some acc
  | k + 1, bs, acc =>
    if bs.length < 32 then none
    else
      let total := cdiv (32 + bits (leNat (bs.take 8)) 43 32) 16 * 16
      if bs.length < total then none else frameMsgs k (bs.drop total) (acc ++ [Msg.ofBytes (bs.take total)])

/-- Class 1 credits of the messages in a receive buffer (R520). -/
def heldIn (ms : List Msg) : Nat := ((ms.filter (·.cls == 1)).map Msg.credits).foldl (· + ·) 0

/-- Frames acknowledged leave, and those that waited for room follow (R519). -/
def hostAck (s : State) (p hack : Nat) : State :=
  let x := s.port p
  let keep := x.hun.filter fun e => !decide ((hack + 65536 - e.1) % 65536 < 1024)
  let room := 1024 - keep.length
  let s := s.setPort p { x with hun := keep, hwait := x.hwait.drop room }
  (x.hwait.take room).foldl (fun s m => hostSend s p m) s

/-- A message of the host: its source becomes the captain; one that the host may not send is malformed (R520, R525). -/
def hostMsg (p : Nat) (s : State) (m : Msg) : State :=
  let m := m.setSrc (ownModule s)
  if m.ok && !(m.kind == 4 && m.sub == 5) then
    receive { s with ref := { s.ref with via := minsert s.ref.via (hostKey m) p } } p m
  else count32 s (Reg.chLinkBadmsgCount (p / 2) (p % 2)) 1

/-- HOST_FRAME (R516 to R520). -/
def opHostFrame (p : Nat) (f : HostFrame) (s : State) : State :=
  let drop := fun (s : State) => count32 s Reg.glbHostDropCount 1
  if !hostPort s p || !(s.port p).hup then s
  else if f.dstMac ≠ s.board.mac || f.tagged || 8336 < f.payload.length then drop s
  else if f.ethertype.toNat ≠ fld s Reg.glbHostCfg 31 16 then s
  else
    let h := leNat (f.payload.take 8)
    let n := bits h 47 32
    if f.payload.length < 16 || bits h 63 56 ≠ 1 || n < 1 || 4 < n then drop s
    else match frameMsgs n (f.payload.drop 16) [] with
      | none => drop s
      | some ms =>
        let x := s.port p
        let s := s.setPort p { x with hmac := some (x.hmac.getD f.srcMac) }
        let s := hostAck s p (bits h 15 0)
        let x := s.port p
        if bits h 31 16 ≠ x.hrx || 512 < heldIn x.rxq + heldIn ms then s
        else
          let s := s.setPort p { x with hrx := (x.hrx + 1) % 65536 }
          ms.foldl (hostMsg p) (count64 s Reg.glbHostRxFrameCount 1)

/-- The unacknowledged frames of a host port sent again, in order from the first (R519). -/
def hostResend (s : State) (p : Nat) : State :=
  let x := s.port p
  s.setPort p (x.hun.foldl (fun (y : Port) (f : Nat × Msg) => { y with hout := some (f.1, (y.hrx + 65535) % 65536, f.2) }) x)

/-- HOST_RESEND_TIMEOUT (R519). -/
def opHostResendTimeout (p : Nat) (s : State) : State :=
  if !hostPort s p || !(s.port p).hup || (s.port p).hun.isEmpty then s
  else count32 (hostResend s p) Reg.glbHostResendCount 1

end Sys2Proof.Machine
end

