-- ==== Sys2Proof/Machine/Power.lean ====
section
/-! DEFINITION. Power, clocks and temperature (R596 to R618) and the reset sources (R644 to R646, R688). -/

namespace Sys2Proof.Machine

/-! ### Power states -/

def powerState (s : State) : Nat := fld s Reg.glbPwrStatus 31 29
def setPower (s : State) (x : Nat) : State := setRelays (setFld s Reg.glbPwrStatus 31 29 x)
/-- The rails are up (R601). -/
def railsUp (s : State) : Bool := decide (2 ≤ powerState s)
/-- The module is out of reset. -/
def outOfReset (s : State) : Bool := decide (3 ≤ powerState s)

/-! ### Clocks (R607 to R611) -/

/-- The ceiling step that the host allows (R618). -/
def hostStep (s : State) : Nat := min 8 (fld s Reg.glbPwrCap 30 27)
def thermStep (s : State) (n : Nat) : Nat := s.board.therm.getD n 8
def stretchOf (s : State) (n : Nat) : Nat := fld s (Reg.chClkStatus n) 17 16

/-- The ceiling step in force (R607). -/
def ceilingOf (s : State) (n : Nat) : Nat :=
  let k := min (hostStep s) (min s.board.capStep (thermStep s n))
  if s.board.ilimit || s.board.vinLow then 0 else k

/-- The arithmetic frequency of a step and stretch level, in kHz (R607 to R609). -/
def freqKHz (k level : Nat) : Nat :=
  let f := 58750 * (8 + k)
  max 470000 (if level = 0 then f else if level = 1 then f * 4 / 5 else f / 2)

/-- CH_CLK_STATUS follows its sources (R611). A step that stands at 8 limits nothing. -/
def clockStatus (s : State) (n : Nat) : State :=
  let k := ceilingOf s n
  let l := stretchOf s n
  wr s (Reg.chClkStatus n) (BitVec.ofNat 64 (freqKHz k l / 1000 * 2 ^ 22 + k * 2 ^ 18 + l * 2 ^ 16 +
    b2n s.board.ilimit * 2 ^ 15 + b2n s.board.vinLow * 2 ^ 14 +
    b2n (decide (thermStep s n = k) && decide (thermStep s n < 8)) * 2 ^ 13 +
    b2n (decide (s.board.capStep = k) && decide (s.board.capStep < 8)) * 2 ^ 12))
def clockAll (s : State) : State := (List.range 4).foldl clockStatus s

/-- SUPPLY_SAG (R608, R610): the deepest level sensed applies at once. -/
def opSupplySag (n level : Nat) (s : State) : State :=
  if !outOfReset s || level ≤ stretchOf s n then s
  else clockStatus (count32 (setFld s (Reg.chClkStatus n) 17 16 level) (Reg.chClkStretchCount n) 1) n

/-- STRETCH_RELEASE (R610). -/
def opStretchRelease (n : Nat) (s : State) : State :=
  if stretchOf s n = 0 then s else clockStatus (setFld s (Reg.chClkStatus n) 17 16 (stretchOf s n - 1)) n

/-- INPUT_CURRENT_LIMIT (R598). -/
def opInputCurrentLimit (s : State) : State :=
  if s.board.ilimit || !railsUp s then s
  else clockAll (count32 { s with board := { s.board with ilimit := true } } Reg.glbIlimitCount 1)

/-- CURRENT_LIMIT_RELEASE (R598): the power cap loop raises the ceiling from the lowest step. -/
def opCurrentLimitRelease (s : State) : State :=
  if !s.board.ilimit then s
  else
    let k := if flag s Reg.glbPwrCap 31 then 0 else 8
    clockAll { s with board := { s.board with ilimit := false, capStep := k } }

/-- VIN_LOW (R597). -/
def opVinLow (low : Bool) (s : State) : State := clockAll { s with board := { s.board with vinLow := low } }

/-- POWER_CAP_UPDATE (R617). -/
def opPowerCapUpdate (watts : Nat) (s : State) : State :=
  let cap := max 800 (fld s Reg.glbPwrCap 11 0)
  let k := s.board.capStep
  let set := fun (s : State) (k : Nat) => clockAll { s with board := { s.board with capStep := k } }
  if !flag s Reg.glbPwrCap 31 then set s 8
  else if cap < watts then
    if k = 0 then s else count32 (set s (k - 1)) Reg.glbPwrCapStepCount 1
  else if 100 * watts < 97 * cap && k < hostStep s then set s (k + 1)
  else s

/-- CORE_CLOCK_GATE (R605): a core with no task loaded. -/
def opCoreClockGate (n i : Nat) (s : State) : State :=
  let c := s.core n i
  if !outOfReset s || c.array.isSome || c.behind.isSome || c.vec.isSome || c.fill.isSome || c.deck.isSome || !c.gather.isEmpty then s
  else s.setCore n i { c with gated := true }

/-! ### Reset (R644, R645) -/

/-- The registers that the board controller keeps (R645, R666). -/
def boardRegs : List RegRef :=
  [Reg.glbByeCtrl, Reg.glbByeStatus, Reg.glbPwrStatus, Reg.glbThermStatus, Reg.glbDieStatus, Reg.glbResetCause,
    Reg.glbResetCtrl, Reg.glbStartCtrl]

/-- A reset with its causes, into RESET with the rails up, or into AUX (R644 to R646). The board controller's
registers, fuses and flash are kept; insert is cleared and the relays close; the result of the last life-cycle
attempt outlives it (R643), and so does the knowledge of the cores that do not respond (R179). Memory is wiped: nothing can read it before the wipe of R642 ends. -/
def enterReset (causes : Nat) (toAux : Bool) (s : State) : State :=
  let keep := s.regs.filter fun e => boardRegs.any fun r => r.addr == e.1
  let b := { s.board with causes := causes, retained := false, capStep := 8, therm := [8, 8, 8, 8] }
  let t : State := { State.reset with pending := s.pending, regs := keep, board := b, fuses := s.fuses, flash := s.flash,
                                      draws := s.draws, out := s.out }
  let t := setFld t Reg.glbLcCmd 29 26 (fld s Reg.glbLcCmd 29 26)
  let t := (List.range 4).foldl (fun (t : State) n => t.setChan n { t.chan n with dead := (s.chan n).dead }) t
  let t := wr t Reg.glbDieStatus 0
  let t := wr t Reg.glbResetCause (BitVec.ofNat 64 causes)
  let t := wr t Reg.glbResetCtrl 0
  let t := setInsert (setFld t Reg.glbPwrStatus 31 29 (if toAux then 1 else 2)) false
  clockAll t

/-- The rails sequence up from AUX and the clocks lock (R647); the module then stands in RESET. -/
def sequenceUp (s : State) : State :=
  if powerState s = 1 && flag s Reg.glbPwrStatus 28 && !s.board.off && !s.board.held && !s.board.lockout then
    setPower s 2
  else s

/-- POWER_ON (R644, R647): VAUX and VIN good, from OFF or AUX. A module that waits under R615, or for the end of a
brownout, does not start. -/
def opPowerOn (s : State) : State :=
  if railsUp s && !s.board.off then s
  else
    let s := if s.board.off then { s with board := { Board.aux with mac := s.board.mac, held := s.board.held,
                                                                    tap := s.board.tap } } else s
    let s := setFlag s Reg.glbPwrStatus 27 true
    if s.board.lockout || (s.board.causes / 16) % 2 = 1 then s
    else
      let s := setFlag s Reg.glbPwrStatus 28 true
      sequenceUp (wr s Reg.glbResetCause 1)

/-- BROWNOUT (R597). -/
def opBrownout (s : State) : State :=
  if !flag s Reg.glbPwrStatus 28 then s
  else
    let up := railsUp s
    let s := setRelays (setFlag (setFlag s Reg.glbPwrStatus 28 false) Reg.glbPwrStatus 24 true)
    if up then enterReset 16 true s else s

/-- BROWNOUT_RESTART (R644): VIN good for 10 ms without a break. -/
def opBrownoutRestart (s : State) : State :=
  if s.board.off || flag s Reg.glbPwrStatus 28 || (s.board.causes / 16) % 2 = 0 then s
  else sequenceUp (setFlag { s with board := { s.board with causes := 0 } } Reg.glbPwrStatus 28 true)

/-- RAIL_FAULT (R600): pages 1 to 15 are rails (R619). -/
def opRailFault (page : Nat) (s : State) : State :=
  if !railsUp s || page = 0 || 15 < page then s
  else
    let s := setFld (setFlag s Reg.glbPwrStatus 25 true) Reg.glbPwrStatus 23 19 page
    enterReset 32 true { s with board := { s.board with lockout := true } }

/-- RESET_SIGNAL (R644, R686): a low of at least 1 µs holds the module in reset until the signal goes high. -/
def opResetSignal (high : Bool) (lowNs : Nat) (s : State) : State :=
  let hit := decide (1000 ≤ lowNs) && !s.board.held && railsUp s && !s.board.off
  let s := if hit then enterReset 2 false s else s
  let held := if high then false else s.board.held || decide (1000 ≤ lowNs)
  let s := { s with board := { s.board with held := held } }
  if high then sequenceUp s else s

/-- MANAGEMENT_RESET (R644): without rails there is nothing to reset. -/
def opManagementReset (s : State) : State := if railsUp s then enterReset 4 false s else s

/-- TAP_LEAVE_TEST_LOGIC_RESET (R688). -/
def opTapLeaveTestLogicReset (s : State) : State :=
  if s.board.tap.outside then s
  else
    let s := if railsUp s then enterReset 2 false s else s
    { s with board := { s.board with tap := { s.board.tap with outside := true } } }

/-- TAP_RETURN_TEST_LOGIC_RESET (R688). -/
def opTapReturnTestLogicReset (s : State) : State :=
  if !s.board.tap.outside then s
  else
    let s := { s with board := { s.board with tap := Tap.reset } }
    if railsUp s then setFlag s Reg.glbResetCause 1 true else s

/-- AUX_INPUT_LOSS (R497, R601): OFF keeps nothing but fuses and flash. -/
def opAuxInputLoss (s : State) : State :=
  let b := { Board.aux with off := true, mac := s.board.mac, held := s.board.held, tap := s.board.tap }
  let t : State := { State.reset with pending := s.pending, board := b, fuses := s.fuses, flash := s.flash,
                                      draws := s.draws, out := s.out }
  setFlag t Reg.glbPwrStatus 27 false

/-! ### Temperature (R612 to R616) -/

/-- Warn, throttle and trip points of a sensor class; the coolant outlet is reported only. -/
def tempPoints : Nat → Option (Int × Int × Int)
  | 1 => some (90, 100, 110) | 2 => some (95, 105, 115) | 3 => some (85, 95, 105) | 4 => some (85, 95, 105)
  | 5 => some (105, 115, 125) | _ => none

def warnOf (s : State) (x : Sensor) : Option Int :=
  if x.cls.val = 6 then s.plan.map (·.coolant) else (tempPoints x.cls.val).map (·.1)
def throttleOf (x : Sensor) : Option Int := (tempPoints x.cls.val).map (·.2.1)
def tripOf (x : Sensor) : Option Int := (tempPoints x.cls.val).map (·.2.2)

/-- Whether a sensor governs a channel's thermal step (R612). -/
def governs (x : Sensor) (n : Nat) : Bool :=
  match x.cls.val with
  | 1 => x.idx / 32 == n / 2
  | 2 => x.idx / 3 == n
  | 5 => true
  | _ => false

/-- A reading against a point. -/
def reaches (r : Sensor × Int) (p : Option Int) : Bool := match p with | some t => decide (t ≤ r.2) | none => false

/-- Every sensor reads below its warn point (R615). -/
def allCool (s : State) : Bool := s.board.temps.all fun r => !reaches r (warnOf s r.1)

/-- A module that waits under R615 starts again once its latched faults are cleared and it has cooled. -/
def tryUnlock (s : State) : State :=
  if s.board.lockout && !flag s Reg.glbPwrStatus 25 && !flag s Reg.glbThermStatus 0 && allCool s then
    sequenceUp { s with board := { s.board with lockout := false, causes := 0 } }
  else s

/-- Readings with new ones put in the place of the old. -/
def mergeTemps (old new : List (Sensor × Int)) : List (Sensor × Int) :=
  (old.filter fun r => !new.any fun x => x.1 == r.1) ++ new

/-- GLB_THERM_STATUS follows the readings (R616). -/
def thermStatus (s : State) : State :=
  let hot := s.board.temps.foldl (fun (a : Option (Sensor × Int)) r => match a with
    | some x => if x.2 < r.2 then some r else some x
    | none => some r) none
  let s := match hot with
    | some r => setFld (setFld s Reg.glbThermStatus 31 24 (unsigned 8 (max (-128) (min 127 r.2))))
        Reg.glbThermStatus 23 20 r.1.cls.val
    | none => s
  (List.range 5).foldl (fun s c => setFlag s Reg.glbThermStatus (c + 1)
    (s.board.temps.any fun r => r.1.cls.val == c + 1 && reaches r (throttleOf r.1))) s

/-- THERMAL_SENSOR_SAMPLE (R612, R614): a trip comes with a sensor's second sample in a row at its trip point. -/
def opThermalSensorSample (readings : List (Sensor × Int)) (s : State) : State :=
  let b := s.board
  let hot := (readings.filter fun r => reaches r (tripOf r.1)).map (·.1)
  let again := hot.find? fun x => b.hotOnce.contains x
  let others := b.hotOnce.filter fun x => !readings.any fun r => r.1 == x
  let warm := (readings.filter fun r => match throttleOf r.1 with
    | some t => decide (t - 3 < r.2)
    | none => false).map (·.1)
  let s := thermStatus { s with board := { b with temps := mergeTemps b.temps readings, hotOnce := others ++ hot,
                                                  warmed := b.warmed ++ warm.filter fun x => !b.warmed.contains x } }
  match again with
  | some x =>
    if railsUp s then
      let s := setFld (setFlag s Reg.glbThermStatus 0 true) Reg.glbThermStatus 19 16 x.cls.val
      enterReset 64 true { s with board := { s.board with lockout := true } }
    else s
  | none => tryUnlock s

/-- THERMAL_STEP_UPDATE (R613). -/
def opThermalStepUpdate (s : State) : State :=
  let step := fun (s : State) (n : Nat) =>
    let k := thermStep s n
    let put := fun (s : State) (k : Nat) => { s with board := { s.board with therm := s.board.therm.set n k } }
    if s.board.temps.any fun r => governs r.1 n && reaches r (throttleOf r.1) then
      if k = 0 then s else count32 (put s (k - 1)) Reg.glbThermThrottleCount 1
    else if s.board.warmed.any fun x => governs x n then s
    else put s (min 8 (k + 1))
  let s := (List.range 4).foldl step s
  clockAll { s with board := { s.board with warmed := [] } }

/-! ### DORMANT (R602, R603) -/

/-- What forbids an entry into DORMANT (R602). -/
def dormantBlocked (s : State) : Bool :=
  (List.range 4).any (fun n =>
    !(s.chan n).ops.isEmpty || fld s (Reg.chWqHead n) 11 0 != fld s (Reg.chWqTail n) 11 0 || !(s.chan n).mig.isEmpty ||
      !(s.chan n).sends.isEmpty || flag s (Reg.chTimingMode n) 2 || flag s (Reg.chKvSync n) 63) ||
  s.ref.live.any (fun (q : Live) => q.work.isSome || q.waits || decide (q.made < q.maxNew)) ||
  !s.ref.deferred.isEmpty || s.ref.job.isSome

/-- DORMANT (R602): refused, or the shadows are synced, the stores retained and the caches lost. -/
def opDormant (s : State) : State :=
  if powerState s ≠ 3 then s
  else if dormantBlocked s then setFlag s Reg.glbPwrStatus 26 true
  else
    let s := setFld s Reg.glbPwrCtrl 1 0 1
    let s := (List.range 4).foldl syncNow s
    let s := (List.range 4).foldl (fun (s : State) n => s.setChan n { s.chan n with cache := [] }) s
    setPower { s with board := { s.board with retained := true } } 4

/-- ACTIVE (R603): a wake begins. -/
def opActive (s : State) : State := startWake (setFld s Reg.glbPwrCtrl 1 0 0)

/-- WAKE_COMPLETE (R603): memory out of self-refresh, caches up empty, clocks at the ceiling in force. -/
def opWakeComplete (s : State) : State :=
  if powerState s ≠ 6 then s
  else
    let s := (List.range 4).foldl (fun (s : State) n => s.setChan n { s.chan n with cache := [] }) s
    clockAll (setPower { s with board := { s.board with retained := false } } 3)

end Sys2Proof.Machine
end

