-- ==== Sys2Proof/Machine/Clock.lean ====
section
/-! DEFINITION. What happens when no command waits: one tick of the 100 MHz reference clock, by which GLB_TIME
counts (R675). -/

namespace Sys2Proof.Machine

/-- Cycles of a channel's arithmetic clock between two times, at a frequency in kHz. -/
def cyclesIn (t0 t1 kHz : Nat) : Nat := t1 * kHz / 1000000 - t0 * kHz / 1000000

/-- The cycles that a channel runs at stretch level 1 or 2 (R622). -/
def stretchTick (t : Nat) (s : State) (n : Nat) : State :=
  if stretchOf s n = 0 then s
  else count64 s (Reg.chClkStretchCycles n) (cyclesIn t (t + 10) (freqKHz (ceilingOf s n) (stretchOf s n)))

/-- The cycles of a channel's arithmetic clock (R8, R50): at the ceiling and stretch in force. -/
def cycleTick (t : Nat) (s : State) (n : Nat) : State :=
  s.setChan n { s.chan n with
    cycles := (s.chan n).cycles + cyclesIn t (t + 10) (freqKHz (ceilingOf s n) (stretchOf s n)) }

/-- One reference tick: GLB_TIME rises by 10 ns, which count from reset release (R675); the arithmetic clocks stand still
in DORMANT, on the way into it and until it is left (R601 to R603). -/
def idleTick (s : State) : State :=
  if !outOfReset s then s
  else
    let t := timeNs s
    let s' := wr s Reg.glbTime (rd s Reg.glbTime + 10)
    if isDormant s then s'
    else
      let s := (List.range 4).foldl (cycleTick t) s'
      (List.range 4).foldl (stretchTick t) s

end Sys2Proof.Machine
end

