-- ==== Sys2Proof/Machine/Attention.lean ====
section
/-! DEFINITION. Prefill attention on the core grid, kind 0x1 (R396 to R404). The keys and values of a pass are read
from their pages, laid out as slot words and fed from them. The scores, the weights p, the preload and the slot words stand
in the tile at hand of the array task: the rules give them no rows of the core store (DESIGN CHOICE). -/

namespace Sys2Proof.Machine

/-! ### The tile -/

/-- Row blocks of slot 0. -/
def attnRowBlocks (op : Op) : Nat := max 1 (cdiv (match op.layout 0 with | some l => l.extent 2 | none => 0) 64)
/-- Key/value head, first row and query head of a tile (R402). -/
def attnHead (op : Op) (t : TileIx) : Nat := t.tm / attnRowBlocks op
def attnRow (op : Op) (t : TileIx) : Nat := t.tm % attnRowBlocks op * 64
def attnQuery (op : Op) (g : GridCore) (t : TileIx) : Nat := attnHead op t * attnGrp op + g.j

/-- The entries whose keys a tile takes: its head's, with rows that meet its own (R399). -/
def tileEntries (op : Op) (t : TileIx) (es : List (Nat × LenEntry)) : List (Nat × LenEntry) :=
  es.filter fun e => e.2.kvh == attnHead op t && decide (e.2.row < attnRow op t + 64) && decide (attnRow op t < e.2.row + e.2.q)

/-- The entry a row belongs to. -/
def rowEntry (es : List (Nat × LenEntry)) (row : Nat) : Option (Nat × LenEntry) :=
  es.find? fun e => decide (e.2.row ≤ row) && decide (row < e.2.row + e.2.q)

/-- An entry of the table by its index. -/
def entryAt (es : List (Nat × LenEntry)) (i : Nat) : Option LenEntry := mfind es i

/-- Whether some row of a tile sees a key of a block (R403). -/
def blockVisible (op : Op) (t : TileIx) (es : List (Nat × LenEntry)) (k : LenEntry) (first : Nat) : Bool :=
  (List.range 64).any fun r =>
    match rowEntry es (attnRow op t + r) with
    | none => false
    | some q => (List.range (attnBlock op)).any fun i => visible op q.2 (attnRow op t + r) k (first + i)

/-- All key blocks of a tile in order: entry index and first key (R399). -/
def tileBlocks (op : Op) (es : List (Nat × LenEntry)) : List (Nat × Nat) :=
  es.flatMap fun e => (List.range (cdiv e.2.kv (attnBlock op))).map fun b => (e.1, b * attnBlock op)

/-- The tile at hand set up: its blocks, those without a visible key taken out. -/
def AttnTile.init (op : Op) (t : TileIx) (es : List (Nat × LenEntry)) : AttnTile :=
  let mine := tileEntries op t es
  { block := 0
    keys := (tileBlocks op mine).filter fun b => match entryAt mine b.1 with
      | some k => blockVisible op t mine k b.2
      | none => false
    scores := [], p := [], carry := []
    states := List.replicate 64 (RowState.empty (attnDim op))
    phase := 0
    rowEnt := (List.range 64).map fun r => (rowEntry mine (attnRow op t + r)).map (·.1)
    slots := [], scales := [] }

/-- The key block of the pass group at hand. -/
def AttnTile.at (x : AttnTile) : Option (Nat × Nat) :=
  match x.phase with
  | 0 => x.keys[x.block]?
  | 1 => x.keys[x.block - 2]?
  | _ => x.keys[x.block - 1]?

/-- Passes of the group at hand (R396). -/
def AttnTile.passes (op : Op) (x : AttnTile) : Nat := if x.phase = 0 then attnBlock op / 32 else attnDim op / 32

/-! ### Page walks of the stream engine (R401) -/

/-- What stops a walk: an access, a page list entry beyond the frames, a page fault, a header fault or a format
fault. -/
inductive WalkStop where
  | access (e : Stop)
  | range
  | header (code frame : Nat)
  | format
deriving DecidableEq, Repr

/-- The pages of an entry up to a token count, list order (R371, R372, R426, R431). -/
def walkPages (n : Nat) (op : Op) (e : LenEntry) (upto : Nat) : Nat → State → Nat → Nat → List PageRun →
    State × List PageRun × Option WalkStop
  | 0, s, _, _, acc => (s, acc, none)
  | k + 1, s, ix, tok, acc =>
    if upto ≤ tok then (s, acc, none)
    else match readRange s (e.list + 4 * ix) 4 with
      | (s, .error x) => (s, acc, some (.access x))
      | (s, .ok w) =>
        let f := leNat w
        if frames ≤ f then (s, acc, some .range)
        else if absent s n f then (s, acc, some (.access (.page n (32768 * f) false)))
        else match readRange s (hdrAddr s n f) 32 with
          | (s, .error x) => (s, acc, some (.access x))
          | (s, .ok hb) =>
            let h := parseHdr hb
            match hdrFault op e h with
            | some 0 => (s, acc, some .format)
            | some c => (s, acc, some (.header c f))
            | none => walkPages n op e upto k s (ix + 1) (tok + 2 ^ h.ltok) (acc ++ [⟨f, h, tok⟩])

/-- A stream halted by what stopped a walk (R254, R372, R391, R426). -/
def haltWalk (s : State) (n k tile : Nat) (id : W32) (w : WalkStop) : State :=
  match w with
  | .access e => haltStop s n k tile 0 k e
  | .range => haltStream s n k tile 2 none
  | .header c f => haltStream (noteHdrFault s n c f id) n k tile 5 none
  | .format => haltStream (setFlag s (Reg.chFmtStatus n) 4 true) n k tile 4 none

/-! ### Feeding passes -/

/-- Values of the queries of a tile, row by row, for reduction element i. -/
def attnQueryValue (op : Op) (g : GridCore) (a : ArrayTask) (q : Nat) (t : TileIx) (r i : Nat) : Num :=
  match op.layout 0 with
  | none => .nan
  | some l =>
    if l.extent 2 ≤ attnRow op t + r then padNum op l
    else decodeScaled l.format 127 (keptPlace a op g 0 (unitIx op g 0 q 0) (r * l.extent 0 + i))

/-- The token and the element of its key or value that column c takes at reduction element k of a pass of the block from
`first` on (R401). -/
def kvAt (value : Bool) (first pass k c : Nat) : Nat × Nat :=
  if value then (first + k, 32 * pass + c) else (first + 32 * pass + c, k)

/-- The tokens whose keys or values a pass takes. -/
def kvToks (op : Op) (value : Bool) (first pass : Nat) : List Nat :=
  if value then (List.range (attnBlock op)).map (first + ·) else (List.range 32).map (first + 32 * pass + ·)

/-- The format of a page's keys or values, and the page's factor (R425). -/
def kvFmt (value : Bool) (r : PageRun) : Fmt := Fmt.ofWord (if value then r.hdr.vfmt else r.hdr.kfmt)
def kvFactor (value : Bool) (r : PageRun) : W32 := if value then r.hdr.vscale else r.hdr.kscale

/-- c_p of a pass: that of the widest format among its keys, or its block's values (R64, R396). -/
def kvCycles (value : Bool) (rs : List PageRun) (toks : List Nat) : Nat :=
  (toks.filterMap (runOf rs)).foldl (fun m r => max m (kvFmt value r).cycles) 1

/-- The 16-byte word of a slot (R401): bit 4c + q holds plane q, from the highest that slot t of an element takes, of column
c's element, which has a width and a code. -/
def slotWord (cols : List (Nat × Nat)) (t : Nat) : BitVec 128 :=
  BitVec.ofNat 128 (cols.zipIdx.foldl (fun acc p => (List.range 4).foldl (fun a q =>
    if 4 * t + q < p.1.1 && p.1.2.testBit (p.1.1 - 1 - (4 * t + q)) then a ||| 2 ^ (4 * p.2 + q) else a) acc) 0)

/-- The code of the element of column c at reduction element k, of a width, read back from the slot words. -/
def slotCode (ws : List (BitVec 128)) (cp k c width : Nat) : Nat :=
  (List.range width).foldl (fun acc b => 2 * acc + b2n ((ws.getD (k * cp + b / 4) 0).getLsbD (4 * c + b % 4))) 0

/-- The slot words of a pass, in slot order (R401). Keys beyond the entry's are padding: zeros. -/
def kvSlots (s : State) (n : Nat) (op : Op) (value : Bool) (e : LenEntry) (rs : List PageRun) (first pass : Nat) :
    List (BitVec 128) :=
  let cp := kvCycles value rs (kvToks op value first pass)
  (List.range (if value then attnBlock op else attnDim op)).flatMap fun k =>
    let cols := (List.range 32).map fun c =>
      let x := kvAt value first pass k c
      match (if x.1 < e.kv then runOf rs x.1 else none) with
      | some r => ((kvFmt value r).width, kvCode s n (attnDim op) value r x.1 x.2)
      | none => (0, 0)
    (List.range cp).map (slotWord cols)

/-- The block scales of a pass, token by token (R250, R401): every 32 elements of a key, the 32 of a value. -/
def kvScales (s : State) (n : Nat) (op : Op) (value : Bool) (e : LenEntry) (rs : List PageRun) (first pass : Nat) : List Byte :=
  let blocks := if value then [pass] else List.range (attnDim op / 32)
  (kvToks op value first pass).flatMap fun tok => blocks.map fun b =>
    match (if tok < e.kv then runOf rs tok else none) with
    | some r => if (kvFmt value r).isMX then kvScale s n (attnDim op) value r tok (32 * b) else 127
    | none => 127

/-- The weight of a column at reduction element k, as the edge reads it from the slot words (R401, R425). -/
def kvWeight (x : AttnTile) (op : Op) (value : Bool) (e : LenEntry) (rs : List PageRun) (first pass k c : Nat) : Num :=
  let a := kvAt value first pass k c
  match (if a.1 < e.kv then runOf rs a.1 else none) with
  | none => Num.zero false
  | some r =>
    let f := kvFmt value r
    let cp := kvCycles value rs (kvToks op value first pass)
    let sc := x.scales.getD (if value then k else c * (attnDim op / 32) + k / 32) 127
    Num.mul (f32 (kvFactor value r)) (decodeScaled f sc (slotCode x.slots cp k c f.width))

/-- A score pass (R396): the queries against 32 keys of the block. -/
def scorePass (op : Op) (g : GridCore) (a : ArrayTask) (x : AttnTile) (t : TileIx) (e : LenEntry) (rs : List PageRun)
    (first : Nat) : Pass :=
  (List.range (attnDim op)).foldl (fun p k =>
    p.feed 0 0 ((List.range 64).map fun r => attnQueryValue op g a a.seq t r k)
      ((List.range 32).map fun c => some (kvWeight x op false e rs first a.pass k c)))
    (Pass.start a.seq a.pass 64 false (List.replicate 2048 0))

/-- A value pass (R396): the weights p against 32 elements of the block's values, preloaded with state.o * c. -/
def valuePass (op : Op) (a : ArrayTask) (x : AttnTile) (e : LenEntry) (rs : List PageRun) (first : Nat) : Pass :=
  let d := attnDim op
  let kb := attnBlock op
  let pre := (List.range 2048).map fun i => x.carry.getD (i / 32 * d + 32 * a.pass + i % 32) 0
  (List.range kb).foldl (fun p k =>
    p.feed 0 0 ((List.range 64).map fun r => decodeElem (attnPFmt op) (x.p.getD (r * kb + k) 0).toNat)
      ((List.range 32).map fun c => some (kvWeight x op true e rs first a.pass k c)))
    (Pass.start a.seq a.pass 64 false pre)

/-- The array task with its attention tile replaced. -/
def putAttn (s : State) (n : Nat) (g : GridCore) (f : ArrayTask → ArrayTask) : State :=
  let c := s.core n g.phys
  s.setCore n g.phys { c with array := c.array.map f }

/-- The output and log-sum-exp of a finished tile written (R383, R384, R400, R404). True when they were. The results of padding
rows pass through store conversion, where each takes its draw, and are written nowhere (R73, R400). -/
def finishTile (s : State) (n : Nat) (l : LoadedOp) (g : GridCore) (t : TileIx) (x : AttnTile) : State × Bool :=
  let op := l.op
  let d := attnDim op
  let head := (attnQuery op g t : Int)
  let live := fun (r : Nat) => ((x.rowEnt[r]?).getD none).isSome
  let all := (List.range 64).map fun r => (r, (x.states.getD r (RowState.empty d)))
  let fin := all.filter fun p => live p.1
  let outs : List Res := all.flatMap fun (p : Nat × RowState) => p.2.final.1.zipIdx.map fun (q : W32 × Nat) =>
    ⟨if live p.1 then [(q.2 : Int), head, ((attnRow op t + p.1 : Nat) : Int), 0, 0, 0] else [-1], f32 q.1⟩
  match storeResults s n g 0 op 3 false outs with
  | (s, _, some _) => (s, false)
  | (s, ws, none) =>
    let lses : List Res := fin.map fun (p : Nat × RowState) =>
      ⟨[head, ((attnRow op t + p.1 : Nat) : Int), 0, 0, 0, 0], f32 p.2.final.2⟩
    let r := if attnLse op then storeResults s n g 0 op 4 false lses else (s, [], none)
    match r with
    | (s, _, some _) => (s, false)
    | (s, ws', none) =>
      let s := countFinal s n (fin.map (·.2))
      (arriveStore s n g.phys op.arrive (lowest (ws ++ ws')), true)

/-- The next tile of an array task after one is done. -/
def nextTile (s : State) (n : Nat) (l : LoadedOp) (g : GridCore) : State :=
  let s := putAttn s n g fun a => { a with seq := a.seq + 1, pass := 0, attn := none, cur := none, awaiting := [] }
  match (s.core n g.phys).array with
  | some a => if (workTiles l.op g).length ≤ a.seq then finishCore s n l.op.opId g.log else s
  | none => s

/-- Tiles opened from the present one on: a tile without an entry starts no pass, and a tile whose blocks are all
skipped is finalised at once (R399, R400, R403). Its skipped blocks are counted as it is opened, once. -/
def openTiles (n : Nat) (l : LoadedOp) (g : GridCore) : Nat → State → State
  | 0, s => s
  | k + 1, s =>
    match (s.core n g.phys).array with
    | none => s
    | some a =>
      match (workTiles l.op g)[a.seq]?, a.attn with
      | none, _ => s
      | some t, some x =>
        if !x.keys.isEmpty || a.halted.isSome then s
        else match finishTile s n l g t x with
          | (s, true) => openTiles n l g k (nextTile s n l g)
          | (s, false) => s
      | some t, none =>
        let es := tileEntries l.op t l.lx.entries
        if es.isEmpty then openTiles n l g k (nextTile s n l g)
        else
          let x := AttnTile.init l.op t l.lx.entries
          let skipped := (tileBlocks l.op es).length - x.keys.length
          let s := if skipped = 0 then s else count64 s (Reg.chAttnSkipBlockCount n) skipped
          openTiles n l g k (putAttn s n g fun a => { a with attn := some x, pass := 0 })

/-- Whether an operand of a tile is held whole. -/
def unitHeld (op : Op) (g : GridCore) (a : ArrayTask) (o q : Nat) : Bool :=
  !hasStream op o || decide (unitCount op g o ≤ keptPlaces a op g o (unitIx op g o q 0))

/-- The attention tile at hand advanced by one pass: its keys or values read through the shared cache, the pass fed
and drained to the store path (R396, R397, R401). The cores of a grid row share a stream tile, which is fetched and counted
once, for the row's first core, with the cycles for which they came late (R36, R221, R274, R401): tile by tile of 128 slot
words, numbered by the stream of slot 1 as it walks. -/
def feedAttention (s : State) (n : Nat) (l : LoadedOp) (g : GridCore) (late : Nat := 0) (cause : StallCause := .other) : State :=
  let s := takeTiles s n l g
  let op := l.op
  if l.lx.arrived < lenCount op then s
  else
    let s := openTiles n l g (2 * (workTiles op g).length + 1) s
    match (s.core n g.phys).array, streamOn s n g.log op.opId 1 with
    | some a, some k =>
      match a.attn, (workTiles op g)[a.seq]? with
      | some x, some t =>
        if (s.stream n k).halt.isSome || !unitHeld op g a 0 a.seq || !unitHeld op g a 5 a.seq
            || x.passes op ≤ a.pass || 2 ≤ a.awaiting.length then s
        else match x.at with
          | none => s
          | some (i, first) =>
            match entryAt l.lx.entries i with
            | none => s
            | some e =>
              let upto := min e.kv (first + attnBlock op)
              let was := s
              match walkPages n op e upto (upto / 16 + 1) s 0 0 [] with
              | (s, _, some w) => haltWalk s n k (i / 64) op.opId w
              | (s, rs, none) =>
                -- the list and the headers are read once for a key block, for all cores of the row
                let s := if g.j = 0 && x.phase = 0 && a.pass = 0 then s else was
                let value := x.phase != 0
                let toks := kvToks op value first a.pass
                let ws := ((toks.filter fun j => decide (j < e.kv)).flatMap fun j => match runOf rs j with
                  | some r => kvWords n (attnDim op) value r j
                  | none => []).dedup
                let s0 := s
                match readWordsOn true s ws with
                | (s, .error x) => haltStop s n k (i / 64) 0 k x
                | (s, .ok _) =>
                  let s := if g.j = 0 then cacheReads s n op.opId (governTag op 1 == 2) ws else s0
                  let y := { x with slots := kvSlots s n op value e rs first a.pass
                                    scales := kvScales s n op value e rs first a.pass }
                  let s := if g.j = 0 then walkTiles s n k (cdiv y.slots.length 128) late cause else s
                  let s := noteRaised s n { scaleNan := y.scales.any (· == 0xFF) }
                  let p := if value then valuePass op a y e rs first else scorePass op g a y t e rs first
                  putAttn s n g fun a => { a with awaiting := a.awaiting ++ [p], pass := a.pass + 1, attn := some y }
      | _, _ => s
    | _, _ => s

/-! ### The vector step (R378 to R380, R396) -/

/-- The vector step of a key block: logits of its scores, the new m, l and p of each row, and state.o * c. -/
def vectorStep (s : State) (n : Nat) (op : Op) (g : GridCore) (t : TileIx) (es : List (Nat × LenEntry)) (x : AttnTile)
    (e : LenEntry) (first : Nat) : AttnTile :=
  let kb := attnBlock op
  let d := attnDim op
  let pf := attnPFmt op
  let get := match op.layout 5 with | some b => slotByte s n op g 5 b | none => fun _ => 0
  let one := fun (r : Nat) =>
    let st := x.states.getD r (RowState.empty d)
    let row := attnRow op t + r
    let q := ((x.rowEnt[r]?).getD none).bind (entryAt es)
    let xs := (List.range kb).map fun j => match q with
      | some q => logitAt op get (attnQuery op g t) q row e (first + j) (x.scores.getD (j / 32 * 2048 + r * 32 + j % 32) 0)
      | none => negInf32
    if (f32 st.m).isNaN || xs.any badLogit then
      ((List.replicate kb (0 : W32)), List.replicate d nan32, RowState.nan d)
    else
      let m := nextMax st.m xs
      if m = negInf32 then (List.replicate kb 0, st.o, st)
      else
        let p := xs.map fun v => BitVec.ofNat 32 (storeElem pf .nearest 0 (f32 (expDiff v m))).1
        let c := expDiff st.m m
        let vals := p.map fun v => toF32 (decodeElem pf v.toNat)
        let sums := (List.range (kb / 32)).map fun k => laneSum ((vals.drop (32 * k)).take 32)
        let sum := match sums with
          | [] => 0
          | y :: r => r.foldl fadd y
        (p, st.o.map fun o => fmul o c, { st with m := m, l := fadd (fmul st.l c) sum })
  let all := (List.range 64).map one
  { x with p := all.flatMap (·.1), carry := all.flatMap (·.2.1), states := all.map (·.2.2), scores := [] }

/-! ### Commit -/

/-- What a drained pass leaves in the tile: scores, or 32 columns of the new o of the rows that see a key. -/
def AttnTile.take (x : AttnTile) (p : Pass) : AttnTile :=
  if x.phase = 0 then { x with scores := x.scores ++ p.cells.map (·.acc) }
  else
    { x with states := x.states.mapIdx fun r st =>
        if st.m = negInf32 then st
        else if (f32 st.m).isNaN then st
        else { st with o := st.o.mapIdx fun i v =>
          if 32 * p.pass ≤ i && i < 32 * p.pass + 32 then (p.cells.getD (r * 32 + (i - 32 * p.pass)) ⟨0, none, 0⟩).acc else v } }

/-- The cancellation monitor over a pass of attention: rows of the tile's entries (R130, R398, R400). -/
def monitorAttn (s : State) (n : Nat) (op : Op) (g : GridCore) (t : TileIx) (x : AttnTile) (p : Pass) : State :=
  p.cells.zipIdx.foldl (fun s q =>
    if ((x.rowEnt[q.2 / 32]?).getD none).isNone then s
    else match shortfall q.1.ex q.1.acc with
      | some sh => noteCancel s n g.log 0 (q.2 / 1024) 0 (q.2 / 32 % 32) (q.2 % 32) sh op.opId (tileIndex op t)
      | none => s) s

/-- The tile after the last pass of a group (R396, R397): the vector step, the next group, or the end of the tile. -/
def endGroup (s : State) (n : Nat) (l : LoadedOp) (g : GridCore) (t : TileIx) (x : AttnTile) : State :=
  let op := l.op
  let es := l.lx.entries
  let step := fun (x : AttnTile) (b : Nat) =>
    match x.keys[b]? with
    | some (i, first) => (match entryAt es i with
      | some e => vectorStep s n op g t es x e first
      | none => x)
    | none => x
  let put := fun (s : State) (x : AttnTile) => putAttn s n g fun a => { a with attn := some x, pass := 0 }
  let after := fun (x : AttnTile) => { x with phase := if x.block < x.keys.length then 0 else 2 }
  match x.phase with
  | 0 =>
    let x := { x with block := x.block + 1 }
    if x.block = 1 then put s (after (step x 0)) else put s { x with phase := 1 }
  | 1 => put s (after (step x (x.block - 1)))
  | _ =>
    match finishTile s n l g t x with
    | (s, true) => nextTile s n l g
    | (s, false) => s

/-- A drained pass of attention compared and committed (R101 to R103, R398). -/
def compareAttention (s : State) (n : Nat) (l : LoadedOp) (g : GridCore) (ds : List Disturb) : State :=
  match (s.core n g.phys).array with
  | none => s
  | some a =>
    match a.awaiting, a.attn, (workTiles l.op g)[a.seq]? with
    | p0 :: _, some x, some t =>
      let p := p0.disturb ds
      let k := if x.phase = 0 then attnDim l.op else attnBlock l.op
      let guard := fld s (Reg.chChkCtrl n) 7 4
      let fails := if flag s (Reg.chChkCtrl n) 0 then
          [0, 1].filterMap fun y => let f := p.failures guard k y; if f.1.isEmpty && f.2.isEmpty then none else some (y, f)
        else []
      match fails with
      | (y, f) :: _ =>
        -- the tile is replayed from its first key block; its skipped blocks stand counted
        putAttn (coreFault s n g l.op.opId y f.1 f.2) n g fun a =>
          { a with attn := some (AttnTile.init l.op t l.lx.entries), pass := 0 }
      | [] =>
        let s := monitorAttn s n l.op g t x p
        let x := x.take p
        let s := putAttn s n g fun a => { a with awaiting := a.awaiting.drop 1, attn := some x, halted := none }
        if p.pass + 1 = x.passes l.op then endGroup s n l g t x else s
    | [], some x, some t => if x.passes l.op ≤ a.pass then endGroup s n l g t x else s
    | _, _, _ => s

end Sys2Proof.Machine
end

