-- ==== Sys2Proof/Machine/Sparse.lean ====
section
/-! DEFINITION. Sparse by sparse: the intersection of kind 0xB and its consumer of kind 0x2 (R299 to R304, R310). -/

namespace Sys2Proof.Machine

/-! ### Tiles of an operand of an intersection -/

/-- The code of element e of a line of a compressed tile: none where it holds a zero (R278 to R280). -/
def codeAt (f : Fmt) (lines : Nat) (bs : List Byte) (line e : Nat) : Option Nat :=
  let h := parseTile bs
  let pay := bs.drop 16
  let w := f.width
  match h.form with
  | 0 => let c := planarCode w (pay.drop (64 * w * line)) e
         if (decodeElem { f with planes := 0, mid := false } c).isZero then none else some c
  | 1 =>
    if h.len != 0 && bit ((pay.getD (64 * line + e / 8) 0).toNat) (e % 8) then
      let before := popBytes (pay.take (64 * line + e / 8)) + popcount (bits (pay.getD (64 * line + e / 8) 0).toNat (e % 8) 0) - 1
      some (takeBits (pay.drop (64 * lines)) (before * w) w)
    else none
  | _ =>
    let ln := pay.drop (line * (64 + 32 * w))
    let m := bits (ln.getD (e / 8) 0).toNat (4 * (e / 4 % 2) + 3) (4 * (e / 4 % 2))
    if bit m (e % 4) then
      let el := e / 4 * 2 + popcount (m % 2 ^ (e % 4))
      let vs := ln.drop 64
      some ((List.range w).foldl (fun acc j => acc * 2 + b2n (bit ((vs.getD (32 * j + el / 8) 0).toNat) (el % 8))) 0)
    else none

/-- The Letrix stream of an operation's slot on a die. -/
def letrixStream (s : State) (n : Nat) (id : W32) (o die : Nat) : Option Nat :=
  (List.range 4096).find? fun k =>
    let x := s.stream n k
    x.used && x.opId == id && x.slot == o && (!x.letrix || x.die == die)

/-- A byte as a stream has delivered it. -/
def streamByte (s : State) (n : Nat) (id : W32) (o die a : Nat) : Option Byte :=
  (letrixStream s n id o die).bind fun k => (mfind (s.stream n k).held (a / 16)).map fun bs => bs.getD (a % 16) 0

/-- A byte as a unit of a die has it from its stream of a slot: as the stream delivered it (R302, R351, R358), else as memory
holds it. -/
def unitByte (s : State) (n : Nat) (id : W32) (o die a : Nat) : Byte := (streamByte s n id o die a).getD (deviceByte s a)

/-- A byte reader that shows a tile of the resident operand as if it lay in one piece at its offset. -/
def residentByte (get : Nat → Byte) (l : Layout) (off : Nat) (blocks : List Nat) (a : Nat) : Byte :=
  let i := a - (l.base + 16 * off)
  if a < l.base + 16 * off || (l.base + 16 * off) % 2048 != 0 then get a
  else match blocks[i / 2048]? with
    | some b => get (b * 2048 + i % 2048)
    | none => get a

/-- A tile read for an intersection, through the reader of its stream: its bytes, or the code of the fault it raises (R301, R310).
A resident tile lies where R301 asks when its blocks follow the rule and its stack is that of the block's first tile. -/
def isectTile (s : State) (rd : Nat → Byte) (l : Layout) (m : SparseMap) (lines g st off : Nat) : Except Nat (List Byte) :=
  let hd := parseTile ((List.range 16).map fun i => rd (l.base + 16 * off + i))
  let resident := lines == 8
  let blocks := if resident then residentBlocks s l m.total off (16 + hd.len) else some []
  let stack := fun (o : Nat) => stackOf s ((l.base + 16 * o) % tier0Size)
  let first := (List.range m.ksteps).findSome? fun x => dirEntry (deviceByte s) m g x
  let placed := if resident then some (blocks.isSome && first.all fun o => stack o == stack off) else none
  let get := if resident then residentByte rd l off (blocks.getD []) else rd
  match tileFault get l m.total g st lines false true placed off with
  | some c => .error c
  | none => .ok ((List.range (16 + hd.len)).map fun i => get (l.base + 16 * off + i))

/-- A pair record (R303). -/
def pairRecord (aLine pLine aCode pCode : Nat) : W64 :=
  BitVec.ofNat 64 (aLine * 2 ^ 59 + pLine * 2 ^ 54 + aCode * 2 ^ 16 + pCode)

/-- The pair records of a block and step, in ascending k (R302 to R304). -/
def isectPairs (fa fp : Fmt) (ta tp : List Byte) : List W64 :=
  (List.range 512).flatMap fun e => (List.range 8).flatMap fun i =>
    match codeAt fa 8 ta i e with
    | none => []
    | some x => (List.range 32).filterMap fun j => (codeAt fp 32 tp j e).map fun y => pairRecord i j x y

/-! ### The consumer -/

/-- The loaded producer of a consumer. -/
def producerOf (s : State) (n : Nat) (op : Op) : Option LoadedOp := findOp s n (BitVec.ofNat 32 (bits (op.kword 0) 63 32))

/-- The array task of a core that runs a consumer, with its operation and grid core. -/
def consumerAt (s : State) (n log : Nat) : Option (ArrayTask × LoadedOp × GridCore) :=
  let i := arrayCore s n log
  (s.core n i).array.bind fun a => (findOp s n a.opId).bind fun l =>
    if l.op.kind != 2 || l.stopped || a.halted.isSome || !l.started.contains log then none
    else (l.grid.find? (·.phys == i)).map fun g => (a, l, g)

/-- Whether every record of a tile has come: its blocks are all intersected and no pair is outstanding. -/
def tileSettled (s : State) (n : Nat) (op : Op) (a : ArrayTask) (t : TileIx) : Bool :=
  (a.pair.all fun p => p.2.2.isEmpty) && (match producerOf s n op with
    | none => true
    | some p => (isectWork s p.op).all fun w => w.1 / 8 != t.tm || p.lx.blocks.contains w)

/-- The pass of the present tile started on its preload where it has none: loaded into the swap registers, and entered in the
scoreboard as any dot-mode pass (R84, R144, R153, R304). -/
def openPairs (s : State) (n : Nat) (l : LoadedOp) (g : GridCore) : State :=
  if (s.core n g.phys).array.any (·.cur.isSome) then s else startPass (loadSwap s n l g) n l g

/-- Tiles whose records have all come drain into the store path, in order, two at most (R90, R304). -/
def settlePairs (n : Nat) (l : LoadedOp) (g : GridCore) : Nat → State → State
  | 0, s => s
  | k + 1, s =>
    match (s.core n g.phys).array with
    | none => s
    | some a =>
      match (workTiles l.op g)[a.seq]? with
      | none => s
      | some t =>
        if a.halted.isSome || 2 ≤ a.awaiting.length || !tileSettled s n l.op a t then s
        else
          let s := openPairs s n l g
          match (s.core n g.phys).array.bind (·.cur) with
          | none => s
          | some p => settlePairs n l g k
              (putAttn s n g fun a => { a with cur := none, awaiting := a.awaiting ++ [p], seq := a.seq + 1, pair := none })

/-- A producer has finished once all its blocks are intersected, their pairs taken, and the passes they went into written:
a pass that fails its checksums takes its pairs anew (R103, R219, R303). -/
def settleProducer (s : State) (n : Nat) (l : LoadedOp) : State :=
  match producerOf s n l.op with
  | none => s
  | some p =>
    let idle := fun (a : ArrayTask) =>
      a.opId != l.op.opId || (a.cur.isNone && a.awaiting.isEmpty && a.pair.all fun q => q.2.2.isEmpty)
    let taken := l.grid.all fun g =>
      (s.core n g.phys).array.all idle && (s.core n g.phys).behind.all fun b => idle b.1
    if taken && (isectWork s p.op).all (p.lx.blocks.contains ·) then finishCore s n p.op.opId p.op.first else s

/-- The blocks of the tiles that a failed pass discards, and of those after it, are intersected again (R103, R303). -/
def replayPairs (s : State) (n : Nat) (l : LoadedOp) (g : GridCore) : State :=
  match producerOf s n l.op, (s.core n g.phys).array with
  | some p, some a =>
    let lost := ((workTiles l.op g).drop a.seq).map (·.tm)
    putOp s n p.op.opId { p with lx := { p.lx with blocks := p.lx.blocks.filter fun w => !lost.contains (w.1 / 8) } }
  | _, _ => s

/-- Whether a unit's stream of a slot is held: present and not halted. -/
def streamGood (s : State) (n : Nat) (id : W32) (o die : Nat) : Bool :=
  match letrixStream s n id o die with
  | some k => (s.stream n k).halt.isNone
  | none => false

/-- Whether a stream's first tiles are in. -/
def streamHolds (s : State) (n : Nat) (id : W32) (o die tiles : Nat) : Bool :=
  match letrixStream s n id o die with
  | some k => (s.stream n k).halt.isNone && decide (min tiles (s.stream n k).length ≤ (s.stream n k).full)
  | none => false

/-- The stream tile of a slot of an intersection that a block and step stand in: of the resident operand's stream its first
block's, of the probe's the first of the step's, of a map's that of the directory entry (R301, R302, R310). -/
def isectPlace (s : State) (op : Op) (slot die : Nat) (w : Nat × Nat) : Nat :=
  match op.map with
  | none => 0
  | some a =>
    if slot = 0 then ((dieBlocks s op 0 die).findIdx (· == (workBlocks s op w).headD 0)) / 32
    else if slot = 1 then
      let l := (op.layout 1).map (·.base)
      (((probeSteps s op).filter fun st => decide (st < w.2)).map fun st =>
        match op.map2.bind fun p => dirEntry (deviceByte s) p 0 st with
        | some off => max 1 (compTiles (parseTile ((List.range 16).map fun i => deviceByte s (l.getD 0 + 16 * off + i))))
        | none => 0).foldl (· + ·) 0
    else
      let words := (isectTiles s op slot).flatten
      let at_ := if slot = 6 then a.base + a.dirOff + 4 * (w.1 * a.ksteps + w.2)
        else op.map2.elim 0 fun p => p.base + p.dirOff + 4 * w.2
      (words.findIdx (· == at_ / 16)) / 128

/-- A structure fault of an intersection halts the stream of the slot at fault, at the stream tile at fault (R78, R310): for
0x8, that of the map's directory entry. -/
def isectFault (s : State) (n : Nat) (p : LoadedOp) (operand die code pos : Nat) (w : Nat × Nat) : State :=
  let slot := if code = 8 then 6 + operand else operand
  match letrixStream s n p.op.opId slot die with
  | some k =>
    let tile := isectPlace s p.op slot die w
    if code = 0 then haltStream (setFlag s (Reg.chFmtStatus n) 4 true) n k tile 4 none
    else structFault s n k tile code slot pos
  | none => s

/-- Whether the streams of a producer have brought what a block and step need: the probe and the maps whole, and the blocks
of the resident tile (R302). -/
def isectHeld (s : State) (n : Nat) (op : Op) (die : Nat) (w : Nat × Nat) : Bool :=
  let last := (workBlocks s op w).getLastD 0
  ([1, 6, 7].all fun o => streamHolds s n op.opId o die 0xFFFFFFFF) &&
    streamHolds s n op.opId 0 die (((dieBlocks s op 0 die).findIdx (· == last)) / 32 + 1)

/-- A record of the pair stream written into its ring (R238, R303): behind those of the stream tile at hand, which is full with
256 records or with an end record. The records of a tile are counted in the stream's `walked`. -/
def recordIn (s : State) (n : Nat) (g : GridCore) (id : W32) (r : W64) : State :=
  match streamOn s n g.log id 0 with
  | none => s
  | some k =>
    let x := s.stream n k
    let off := ((mfind x.rings g.log).getD 0 + 4 * (x.full % (x.lead + 1))) * 512 + 8 * x.walked
    let s := (byteWrites off (leBytes 8 r.toNat)).foldl (fun s w => csWrite s n g.phys 3 (w.1 / 32) (w.1 % 32) w.2.1 w.2.2) s
    let ends := x.walked = 255 || bits r.toNat 63 62 == 1
    s.setStream n k (if ends then { x with walked := 0, full := x.full + 1 } else { x with walked := x.walked + 1 })

/-- BLOCK (R302, R303, R304): the next block and step of a die whose pairs follow, both tiles checked as their streams brought
them. -/
def opBlock (n log : Nat) (r : W64) (s : State) : State :=
  match consumerAt s n log with
  | none => s
  | some (a, l, g) =>
    match producerOf s n l.op, (workTiles l.op g)[a.seq]? with
    | some p, some t =>
      let id := p.op.opId
      let b := bits r.toNat 61 32
      let st := bits r.toNat 31 8
      let die := workStack s p.op (b, st)
      let todo := (isectWork s p.op).filter fun w => !p.lx.blocks.contains w && workStack s p.op w == die
      if bits r.toNat 63 62 != 3 || bits r.toNat 7 0 != 0 || todo.head? != some (b, st) || b / 8 != t.tm
          || !isectHeld s n p.op die (b, st) || p.stopped || !(a.pair.all fun q => q.2.2.isEmpty) then s
      else match p.op.map, p.op.map2, p.op.layout 0, p.op.layout 1 with
        | some ma, some mp, some la, some lp =>
          let offA := (dirEntry (unitByte s n id 6 die) ma b st).getD 0
          let offP := (dirEntry (unitByte s n id 7 die) mp 0 st).getD 0
          match isectTile s (unitByte s n id 0 die) la ma 8 b st offA, isectTile s (unitByte s n id 1 die) lp mp 32 0 st offP with
          | .error c, _ => isectFault s n p 0 die c (b * ma.ksteps + st) (b, st)
          | _, .error c => isectFault s n p 1 die c st (b, st)
          | .ok ta, .ok tp =>
            let s := openPairs s n l g
            match (s.core n g.phys).array.bind (·.cur) with
            | none => s
            | some _ =>
              let prs := isectPairs la.format lp.format ta tp
              let s := putOp s n id { p with lx := { p.lx with blocks := p.lx.blocks ++ [(b, st)] } }
              let s := recordIn (putAttn s n g fun a => { a with pair := some (b, st, prs) }) n g l.op.opId r
              let s := portUp (portDown s (dieNo n die) 4) (dieNo n die) 8
              let s := unitsAsk s n id
              settleProducer (settlePairs n l g ((workTiles l.op g).length + 1) s) n l
        | _, _, _, _ => s
    | _, _ => s

/-- The cell of a pair record. -/
def recordCell (r : W64) : Nat × Nat := (bits r.toNat 61 59, bits r.toNat 58 54)

/-- The exact product of a pair of block b added to its cell and to its checksum cells (R303, R304). -/
def pairTaken (op : Op) (b : Nat) (r : W64) (p : Pass) : Pass :=
  let fa := Fmt.ofWord (bits (op.kword 0) 31 16)
  let fp := Fmt.ofWord (bits (op.kword 0) 15 0)
  let v := Num.mul (decodeElem fa (bits r.toNat 31 16)) (decodeElem fp (bits r.toNat 15 0))
  let row := 8 * (b % 8) + (recordCell r).1
  let col := (recordCell r).2
  let add := fun (cs : List Cell) (i : Nat) => cs.mapIdx fun j c => if j = i then c.addTerm p.isInt v else c
  { p with cells := add p.cells (row * 32 + col), rowChk := add p.rowChk (32 * (row / 32) + col), colChk := add p.colChk row }

/-- A record of the pair stream crosses the port of the die that a block and step fall to. -/
def recordUp (s : State) (n : Nat) (l : LoadedOp) (w : Option (Nat × Nat)) : State :=
  match producerOf s n l.op with
  | some q => portUp s (dieNo n (workStack s q.op (w.getD (q.lx.blocks.getLastD (0, 0))))) 8
  | none => s

/-- PAIR (R303, R304): the exact product of the pair added to its cell and to its checksum cells. The record is the
next of its cell in ascending k. -/
def opPair (n log : Nat) (r : W64) (s : State) : State :=
  match consumerAt s n log with
  | none => s
  | some (a, l, g) =>
    match a.pair, a.cur with
    | some (b, st, todo), some p =>
      if bits r.toNat 63 62 != 0 || bits r.toNat 53 32 != 0 || (todo.find? fun x => recordCell x == recordCell r) != some r then s
      else
        let s := putAttn s n g fun a => { a with cur := some (pairTaken l.op b r p), pair := some (b, st, todo.erase r) }
        let s := count64 (recordUp (recordIn s n g l.op.opId r) n l (some (b, st))) (Reg.chIsectPairCount n) 1
        settleProducer (settlePairs n l g ((workTiles l.op g).length + 1) s) n l
    | _, _ => s

/-- END (R303): the pair stream's tile is closed early. The record carries no die: its bytes count at the port of the die that
sent the last block (DESIGN CHOICE). -/
def opEnd (n log : Nat) (r : W64) (s : State) : State :=
  match consumerAt s n log with
  | none => s
  | some (_, l, g) =>
    if r != BitVec.ofNat 64 (2 ^ 62) then s
    else
      settleProducer (settlePairs n l g ((workTiles l.op g).length + 1) (recordUp (recordIn s n g l.op.opId r) n l none)) n l

end Sys2Proof.Machine
end

