-- ==== Sys2Proof/Machine/Letrix.lean ====
section
/-! DEFINITION. The Letrix engines: the matrix-vector product (R356 to R360), gather and scatter (R305 to R309, R361 to
R364), decode attention and its export (R370 to R372, R388 to R390, R405 to R414). -/

namespace Sys2Proof.Machine

/-! ### What the kinds share -/

/-- The loaded operation of a channel, unless a cancel of it runs. -/
def liveOp (s : State) (n : Nat) (id : W32) : Option LoadedOp :=
  (findOp s n id).bind fun l => if l.stopped then none else some l

/-- What a Letrix operation holds replaced. -/
def putLx (s : State) (n : Nat) (l : LoadedOp) (w : LxWork) : State :=
  s.setChan n { s.chan n with ops := (s.chan n).ops.map fun x => if x.op.opId = l.op.opId then { x with lx := w } else x }

/-- The combining core (R360, R409). -/
def combiner (l : LoadedOp) : GridCore := l.grid.headD ⟨0, 0, 0, 0, 0, 0, 0⟩

/-! ### The matrix-vector product, kind 0x8 -/

/-- Whether a die's stack holds an element of the weights: the block of its first plane (R355). -/
def dieHolds (s : State) (l : Layout) (d : Nat) (x : List Int) : Bool :=
  match elemBits l x 1 with
  | (a, _) :: _ => stackOf s (a / 8 % tier0Size) == d
  | [] => false

/-- Bytes of the combining core's store written by the units, and read back through its decoder (R143, R144). -/
def putCombine (s : State) (n phys off : Nat) (bs : List Byte) : State :=
  (byteWrites off bs).foldl (fun s w => csWrite s n phys 3 (w.1 / 32) (w.1 % 32) w.2.1 w.2.2) s
def entryWords (off len : Nat) : List (Nat × Nat) := (wordsOf off len).map fun q => (q / 32, q % 32)

/-- Where entry i of the two at the top of the combining core's array task region stands (R360, R409). -/
def entryAtTop (l : LoadedOp) (i : Nat) : Nat :=
  ((combiner l).base + (combiner l).len) * 512 - 2 * l.lx.entry + i % 2 * l.lx.entry

/-- The weights' bytes as a die has them from its two streams: elements, and block scales (R355, R358). -/
def weightByte (s : State) (n : Nat) (id : W32) (d a : Nat) : Byte :=
  (streamByte s n id 1 d a).getD (unitByte s n id (scaleSlot 1) d a)

/-- A die's sum of a column for a row, over the elements its blocks hold, in ascending k, with its largest exponent (R119,
R130, R358). -/
def dieSum (s : State) (n : Nat) (l : LoadedOp) (d m c : Nat) : Cell :=
  let op := l.op
  match op.layout 0, op.layout 1 with
  | some la, some lw =>
    let isI := accInt op
    (List.range (lw.extent 0)).foldl (fun (acc : Cell) (k : Nat) =>
      if dieHolds s lw d [(k : Int), (c : Int), 0, 0, 0, 0] then
        acc.step isI op.mode 0 (valueAt op (unitByte s n op.opId 0 d) la (op.scale 0) [(k : Int), (m : Int), 0, 0, 0, 0])
          (valueAt op (weightByte s n op.opId d) lw (op.scale 1) [(k : Int), (c : Int), 0, 0, 0, 0])
      else acc) (Cell.start isI (defaultAcc isI op.mode))
  | _, _ => ⟨0, none, 0⟩

/-- Weight elements of a chunk that a die holds. -/
def dieElems (s : State) (op : Op) (d h : Nat) : Nat :=
  match op.layout 1 with
  | some lw => ((List.range (chunkCols op h)).map fun c =>
      ((List.range (lw.extent 0)).filter fun (k : Nat) => dieHolds s lw d [(k : Int), ((512 * h + c : Nat) : Int), 0, 0, 0, 0]).length).foldl (· + ·) 0
  | none => 0

/-- A scale byte 0xFF among the blocks of the activations, or of a chunk's weights that a die holds (R74, R194). -/
def chunkScaleNan (s : State) (n : Nat) (l : LoadedOp) (d h : Nat) : Bool :=
  let op := l.op
  let ff := fun (o : Nat) (y : Layout) (x : List Int) => y.format.isMX && inside y x && (match op.scale o with
    | some sl => scaleAt (unitByte s n op.opId (if o = 1 then scaleSlot 1 else o) d) (some sl) (y.blockX x) == 0xFF
    | none => false)
  match op.layout 0, op.layout 1 with
  | some la, some lw =>
    let ks := (List.range (cdiv (lw.extent 0) 32)).map fun b => 32 * b
    (ks.any fun (k : Nat) => (List.range (mvRows op)).any fun (m : Nat) => ff 0 la [(k : Int), (m : Int), 0, 0, 0, 0])
      || (ks.any fun (k : Nat) => (List.range (chunkCols op h)).any fun (c : Nat) =>
        let x : List Int := [(k : Int), ((512 * h + c : Nat) : Int), 0, 0, 0, 0]
        dieHolds s lw d x && ff 1 lw x)
  | _, _ => false

/-- Where the sums of a die for a row stand in the combine entry of chunk h: 2 KiB a row, die by die (R359, R360; the order within
an entry is a DESIGN CHOICE). -/
def sumPlace (l : LoadedOp) (h d m : Nat) : Nat := entryAtTop l h + (d * mvRows l.op + m) * 2048

/-- Tiles of the weights' block scales that a die waits for: its own stream's up to the chunk, or the channel's stream whole. -/
def scaleTilesFor (s : State) (op : Op) (d h : Nat) : Nat :=
  if (letrixStreams op).contains (scaleSlot 1, true) then chunkScaleTiles s op d h else 0xFFFFFFFF

/-- SUM_CHUNK_SEND (R358 to R360): a die that has passed the last element of its next chunk sends the chunk's sums into a
combine entry of the combining core, after the cycles it was stopped on full entries. -/
def opSumChunkSend (k : Nat) (id : W32) (waited : Nat) (s : State) : State :=
  let n := k / 3
  let d := k % 3
  match liveOp s n id with
  | none => s
  | some l =>
    let op := l.op
    let h := l.lx.next.getD d 0
    if op.kind != 8 || mvChunks op ≤ h || l.lx.done + 2 ≤ h || !streamHolds s n id 1 d (chunkTiles s op d h)
        || !streamHolds s n id 0 d (0xFFFFFFFF)
        || ((op.scale 1).isSome && !streamHolds s n id (scaleSlot 1) d (scaleTilesFor s op d h)) then s
    else
      let m := mvRows op
      let sums := (List.range m).flatMap fun r => (List.range (chunkCols op h)).map fun c => dieSum s n l d r (512 * h + c)
      let s := count64 s (Reg.lxMvMacCount k) (m * dieElems s op d h)
      let s := if waited = 0 then s else count64 s (Reg.lxSumWaitCycles k) waited
      let s := portUp s k (2048 * m)
      let s := (List.range m).foldl (fun s r =>
        let row := ((sums.drop (r * chunkCols op h)).take (chunkCols op h)).flatMap fun c => leBytes 4 c.acc.toNat
        putCombine s n (combiner l).phys (sumPlace l h d r) (row ++ List.replicate (2048 - row.length) 0)) s
      let s := noteRaised s n { scaleNan := chunkScaleNan s n l d h }
      putLx s n l { l.lx with next := l.lx.next.set d (h + 1), sums := minsert l.lx.sums (3 * h + d) sums }

/-- The preload of a column for a row, with what its load raises (R67, R74, R115, R116). -/
def chunkPreload (s : State) (n : Nat) (l : LoadedOp) (h m c : Nat) : Option (W32 × Raised) :=
  let op := l.op
  match op.preEn, op.layout 2 with
  | true, some y =>
    let isI := accInt op
    let x : List Int := [((512 * h + c : Nat) : Int), (m : Int), 0, 0, 0, 0]
    let pad := !inside y x
    let sc : Byte := match op.scale 2 with
      | some sl => scaleAt (unitByte s n op.opId 2 0) (some sl) (y.blockX x)
      | none => 127
    let v := wordValue op y pad sc (if pad then 0 else readCode (unitByte s n op.opId 2 0) y x)
    some (if isI then accAdd true 0 v else toF32 v,
      if pad || isI then {} else { overflow := loadOverflows v, scaleNan := y.format.isMX && sc == 0xFF })
  | _, _ => none

/-- The combined cell of a column (R123): the preload, then the sums of the three dies in order. Its largest exponent is that
of every partial sum of the dies and of the combine (R130). -/
def chunkCell (s : State) (n : Nat) (l : LoadedOp) (sums : List (List Cell)) (h m c : Nat) : Cell :=
  let op := l.op
  let parts := sums.map fun x => x.getD (m * chunkCols op h + c) ⟨0, none, 0⟩
  let pre := ((chunkPreload s n l h m c).map fun p => (p.1, (0 : W32))).toList
  let r := combineElem (accInt op) op.mode (pre ++ parts.map fun x => (x.acc, (0 : W32)))
  { r with ex := parts.foldl (fun e x => maxExpo e x.ex) r.ex }

/-- The sums of a die as its combine entry holds them; what the cancellation monitor keeps of them beside (R130). -/
def heldSums (s : State) (n : Nat) (l : LoadedOp) (h d : Nat) : List Cell :=
  let w := chunkCols l.op h
  ((mfind l.lx.sums (3 * h + d)).getD []).mapIdx fun i c =>
    { c with acc := BitVec.ofNat 32 (leNat (csBytes s n (combiner l).phys (sumPlace l h d (i / w) + 4 * (i % w)) 4)) }

/-- The words of chunk h's combine entry. -/
def sumWords (l : LoadedOp) (h : Nat) : List (Nat × Nat) :=
  entryWords (sumPlace l h 0 0) (3 * mvRows l.op * 2048)

/-- The cells of a chunk of a matrix-vector operation, combined from the sums of the three dies (R123). -/
def chunkCells (s : State) (n : Nat) (l : LoadedOp) (h : Nat) : List (Nat × Nat × Cell) :=
  let sums := (List.range 3).map fun d => heldSums s n l h d
  (List.range (mvRows l.op)).flatMap fun m => (List.range (chunkCols l.op h)).map fun c =>
    (m, c, chunkCell s n l sums h m c)

/-- The store of a chunk: converted with its scales and written; the words written, and why they stopped. -/
def chunkStore (s : State) (n : Nat) (l : LoadedOp) (h : Nat) : State × List (Nat × Nat × Nat) × Option Stop :=
  let op := l.op
  let isI := accInt op
  let raw := (op.layout 3).any (rawWords op)
  let scaled := fun (c : Nat) (x : Cell) => match (op.slot 5).en, op.layout 5 with
    | true, some l5 => Num.mul (accNum isI x.acc) (valueAt op (unitByte s n op.opId 5 0) l5 none [((512 * h + c : Nat) : Int), 0, 0, 0, 0, 0])
    | _, _ => accNum isI x.acc
  storeResults s n (combiner l) 3 op 3 raw ((chunkCells s n l h).map fun (q : Nat × Nat × Cell) =>
    ⟨[((512 * h + q.2.1 : Nat) : Int), (q.1 : Int), 0, 0, 0, 0], scaled q.2.1 q.2.2⟩)

/-- A store of the combining core stopped: its halt stays with the operation until a later store succeeds (R24, R144, R162,
R338). -/
def lxHalt (s : State) (n : Nat) (id : W32) (e : Stop) : State :=
  match findOp s n id with
  | some l => putLx s n l { l.lx with halted := some e.halt }
  | none => s

/-- Bytes of the combining core read by its vector unit: the halt of the operation where a word is uncorrectable (R144). -/
def entryRead (s : State) (n : Nat) (l : LoadedOp) (ws : List (Nat × Nat)) : State × Bool :=
  match csRead s n (combiner l).phys ws with
  | (s, none) => (s, true)
  | (s, some (r, j)) =>
    let e := Stop.word n (combiner l).phys r j
    (lxHalt (stopEvent s l.op.opId e) n l.op.opId e, false)

/-- COMBINE_CHUNK (R123, R130, R131, R163, R360): the sums of the three dies combined, converted and written. A counted
result is recorded with its row m and its column modulo 32: the rules say neither for a Letrix sum (R133; DESIGN CHOICE). -/
def opCombineChunk (n : Nat) (id : W32) (s : State) : State :=
  match liveOp s n id with
  | none => s
  | some l =>
    let op := l.op
    let h := l.lx.done
    if op.kind != 8 || mvChunks op ≤ h || l.lx.halted.isSome
        || ((List.range 3).any fun d => (mfind l.lx.sums (3 * h + d)).isNone) then s
    else match entryRead s n l (sumWords l h) with
    | (s, false) => s
    | (s, true) => match chunkStore s n l h with
      | (s, _, some e) => lxHalt s n id e
      | (u, ws, none) =>
        let cells := chunkCells s n l h
        let u := if op.mode != 0 || accInt op then u
          else cells.foldl (fun (u : State) (q : Nat × Nat × Cell) =>
            if !liveResult op 3 [((512 * h + q.2.1 : Nat) : Int), (q.1 : Int), 0, 0, 0, 0] then u
            else match shortfall q.2.2.ex q.2.2.acc with
            | some sh => noteCancel u n (combiner l).log 0 0 0 q.1 q.2.1 sh op.opId h
            | none => u) u
        let u := noteRaised u n (cells.foldl (fun (r : Raised) (q : Nat × Nat × Cell) =>
          r.join ((chunkPreload s n l h q.1 q.2.1).elim {} Prod.snd)) {})
        let u := arriveStore u n (combiner l).phys op.arrive (lowest ws)
        let u := putLx u n l { l.lx with done := h + 1, sums := l.lx.sums.filter (fun e => e.1 / 3 != h), halted := none }
        let u := unitsAsk u n id
        if h + 1 = mvChunks op then finishCore u n id (combiner l).log else u

/-- A core that stands for no core: what a Letrix unit writes comes from outside every core. -/
def outsider : GridCore := ⟨0, 800, 0, 0, 0, 0, 0⟩

/-- Which of the three works of R361. -/
def gsWork (op : Op) : Nat := bits (op.kword 0) 63 62
/-- The table and the rows operand with their slots. -/
def gsTable (op : Op) : Nat := if gsWork op = 0 then 0 else 3
def gsRows (op : Op) : Nat := if gsWork op = 0 then 3 else 0
/-- Indices of the operand. -/
def gsCount (op : Op) : Nat := match op.layout 1 with | some l => l.extent 0 | none => 0
/-- An index (R305). -/
def gsIndex (s : State) (n : Nat) (l : LoadedOp) (e : Nat) : Int :=
  match l.op.layout 1 with
  | some y => signed 32 (readCode (unitByte s n l.op.opId 1 0) y [(e : Int), 0, 0, 0, 0, 0])
  | none => -1

/-- A run of bits that a copy moves: where it is read, where it is written (bit addresses), and how many bits. -/
structure Piece where
  src : Nat
  dst : Nat
  len : Nat
deriving DecidableEq, Repr

/-- The pieces of row i of one tensor as row j of another: element by element at the destination's places, through the store
transform, within both tensors' extents (R183, R197, R201); and the scale byte of each block (R186, R362). -/
def rowPieces (op : Op) (from_ i to_ j : Nat) : List Piece :=
  match op.layout from_, op.layout to_ with
  | some a, some b =>
    let at_ := fun (e : Nat) => permuted (op.slot to_).xform [(e : Int), (j : Int), 0, 0, 0, 0]
    let cols := (List.range (b.extent (if bits (op.slot to_).xform 2 0 = 1 then 1 else 0))).filter fun (e : Nat) =>
      inside a [(e : Int), (i : Int), 0, 0, 0, 0] && inside b (at_ e)
    let data := cols.flatMap fun (e : Nat) =>
      ((elemBits a [(e : Int), (i : Int), 0, 0, 0, 0] a.format.width).zip (elemBits b (at_ e) b.format.width)).map fun p =>
        ⟨p.1.1, p.2.1, p.1.2⟩
    let scales := match op.scale from_, op.scale to_ with
      | some x, some y => (cols.filter fun (e : Nat) => e % 32 == 0).map fun (e : Nat) =>
          let c := a.blockX [(e : Int), (i : Int), 0, 0, 0, 0]
          (⟨8 * (rowStart x (c.set 0 0) + (c.getD 0 0).toNat / 32),
            8 * (rowStart y ((at_ e).set 0 0) + ((at_ e).getD 0 0).toNat / 32), 8⟩ : Piece)
      | _, _ => []
    data ++ scales
  | _, _ => []

/-- Bits at a bit address as a byte reader shows them: device memory, a mapped store, or a stream's tiles. -/
def bitsFrom (get : Nat → Byte) (a n : Nat) : Nat :=
  leNat ((List.range (cdiv (a % 8 + n) 8)).map fun i => get (a / 8 + i)) / 2 ^ (a % 8) % 2 ^ n
def bitsAt (s : State) (a n : Nat) : Nat := bitsFrom (deviceByte s) a n

/-- The code of the padding value of a tensor (R194). -/
def padCode (op : Op) (l : Layout) : Nat :=
  match l.padKind with
  | 3 => l.padValue % 2 ^ l.format.width
  | _ => (storeElem l.format .nearest 0 (padNum op l)).1

/-- Bit writes carried out by a unit outside the cores (R162, R338). -/
def unitWrite (s : State) (n : Nat) (id : W32) (bs : List (Nat × Nat × Nat)) : State × Option Stop :=
  storeWords s n outsider 3 id (gatherBits bs)

/-- Bit writes of the units of dies into their own stacks: they cross no port of those dies (R373). -/
def dieWrite (s : State) (n : Nat) (id : W32) (dies : List Nat) (bs : List (Nat × Nat × Nat)) : State × Option Stop :=
  let r := unitWrite s n id bs
  (dies.foldl (fun t k => wr t (Reg.lxPortDownBytes k) (rd s (Reg.lxPortDownBytes k))) r.1, r.2)

/-- A free order of a list's elements. -/
def freeOrder : Nat → Nat → List Nat → List Nat
  | 0, _, xs => xs
  | k + 1, r, xs =>
    match xs with
    | [] => []
    | _ :: _ =>
      let i := r % xs.length
      xs.getD i 0 :: freeOrder k (r / xs.length) (xs.eraseIdx i)

/-- The duplicates of an index summed in an order the spec leaves open, and the sum added to the destination row's
elements that a die holds, converted once (R308). -/
def addGroup (s : State) (n : Nat) (op : Op) (d : Nat) (grp : W32 × List Nat) : State × Option Stop :=
  match op.layout 0, op.layout 3 with
  | some src, some dst =>
    let at_ := fun (j : Nat) => permuted (op.slot 3).xform [(j : Int), (grp.1.toNat : Int), 0, 0, 0, 0]
    let cols := (List.range (src.extent 0)).filter fun (j : Nat) => inside dst (at_ j) && dieHolds s dst d (at_ j)
    let reads := (cols.flatMap fun (j : Nat) => elemWords dst (at_ j) dst.format.width).eraseDups
    match readWordsOn true s reads with
    | (s, .error x) => (s, some x)
    | (s, .ok _) =>
    let pick := drawFree s 308 [grp.1.toNat]
    let s := pick.2
    let es := freeOrder grp.2.length pick.1.toNat grp.2
    let out := cols.map fun (j : Nat) =>
      let vals := es.map fun (e : Nat) => toF32 (valueAt op (unitByte s n op.opId 0 d) src none [(j : Int), (e : Int), 0, 0, 0, 0])
      let sum := match vals with | [] => 0 | v :: r => r.foldl fadd v
      let old := toF32 (valueAt op (deviceByte s) dst none (at_ j))
      let r := storeElem dst.format (dst.format.rounding ((Config.openValue 73 [s.draws, j]).toNat % 65536)) 0 (f32 (fadd old sum))
      (codeBits dst (at_ j) r.1, r.2)
    match dieWrite s n op.opId [dieNo n d] (out.flatMap (·.1)) with
    | (s, some e) => (s, some e)
    | (s, none) => (noteRaised s n ((out.map (·.2)).foldl Raised.join {}), none)
  | _, _ => (s, none)

/-- The pieces of an element's row that lie on a die, by the table's side of each (R363). -/
def indexPieces (s : State) (op : Op) (d row e : Nat) : List Piece :=
  (if gsWork op = 0 then rowPieces op 0 row 3 e else rowPieces op 0 e 3 row).filter fun p =>
    stackOf s ((if gsWork op = 0 then p.src else p.dst) / 8 % tier0Size) == d

/-- A row of a plain scatter written on a die: the words of the element latest in index order, as the stream of the source rows
delivered them (R309, R363, R364). -/
def scatterRow (s : State) (n : Nat) (op : Op) (d : Nat) (grp : W32 × List Nat) : State × Option Stop :=
  let mine := indexPieces s op d grp.1.toNat (grp.2.getLastD 0)
  unitWrite s n op.opId (mine.map fun p => (p.dst, p.len, bitsFrom (unitByte s n op.opId 0 d) p.src p.len))

/-- Groups of a scatter served in turn, until one stops: the groups left, and why it stopped. -/
def addGroups (n : Nat) (op : Op) (d : Nat) : List (W32 × List Nat) → State → State × List (W32 × List Nat) × Option Stop
  | [], s => (s, [], none)
  | g :: r, s =>
    match (if gsWork op = 2 then addGroup s n op d g else scatterRow s n op d g) with
    | (s, some e) => (s, g :: r, some e)
    | (s, none) => addGroups n op d r s

/-- An element put into the groups of a scatter; a plain scatter keeps the latest of a repeated index (R364). -/
def joinGroup (add : Bool) (gs : List (W32 × List Nat)) (ix : W32) (e : Nat) : List (W32 × List Nat) :=
  if gs.any (·.1 == ix) then gs.map fun g => if g.1 = ix then (g.1, if add then g.2 ++ [e] else [e]) else g else gs ++ [(ix, [e])]

/-- The index counted, flagged, and recorded where it halts (R306, R314, R364). -/
def badIndex (s : State) (n : Nat) (op : Op) (e : Nat) (halts : Bool) : State :=
  let s := count32 s (Reg.chSparseBadIndexCount n) 1
  let s := setFlag s (Reg.chSparseStatus n) (if gsWork op = 0 then 0 else 1) true
  if !halts || flag s (Reg.chSparseFault n) 63 then s
  else
    let s := wr s (Reg.chSparseFault n) (BitVec.ofNat 64 (2 ^ 63 + 0xA * 2 ^ 59 + 1 * 2 ^ 56 + op.opId.toNat))
    wr s (Reg.chSparseFaultPos n) (BitVec.ofNat 64 (e % 2 ^ 32))

/-- A die's work on an index moved on: its window with the index and its row, its groups, its next element (R307). -/
def passIndex (s : State) (n : Nat) (l : LoadedOp) (d e : Nat) (ix : W32) (row : List (Nat × Nat))
    (groups : List (W32 × List Nat)) : State :=
  let win := ((ix, row) :: l.lx.window.getD d []).take 64
  putLx s n l { l.lx with next := l.lx.next.set d (e + 1), window := l.lx.window.set d win,
                          groups := l.lx.groups.set d groups }

/-- Every die has served every index, and no group waits; the units ask for the index tiles they need next. -/
def settleIndices (s : State) (n : Nat) (id : W32) : State :=
  let s := unitsAsk s n id
  match findOp s n id with
  | some l => if l.lx.next.all (gsCount l.op ≤ ·) && l.lx.groups.all List.isEmpty then finishCore s n id (combiner l).log else s
  | none => s

/-- The padding that the die of stack 0 writes for a gathered row (R194, R306): the whole row of an invalid index, and, for
a valid one, the elements beyond the table's. -/
def indexPad (op : Op) (e : Nat) (whole : Bool) : List (Nat × Nat × Nat) :=
  match op.layout 0, op.layout 3 with
  | some t, some o =>
    let at_ := fun (j : Nat) => permuted (op.slot 3).xform [(j : Int), (e : Int), 0, 0, 0, 0]
    let cols := (List.range (o.extent (if bits (op.slot 3).xform 2 0 = 1 then 1 else 0))).filter fun (j : Nat) =>
      inside o (at_ j) && (whole || decide (t.extent 0 ≤ j))
    (cols.flatMap fun (j : Nat) => codeBits o (at_ j) (padCode op t)) ++
      (match op.scale 3 with
      | some y => (cols.filter fun (j : Nat) => j % 32 == 0).map fun (j : Nat) =>
          (8 * (rowStart y ((at_ j).set 0 0) + ((at_ j).getD 0 0).toNat / 32), 8, 127)
      | none => [])
  | _, _ => []

/-- Tiles of the source rows' stream that a scattered element needs. -/
def sourceTiles (op : Op) (e : Nat) : Nat :=
  match op.layout 0 with
  | some y => cdiv (rowStart y [0, (e : Int), 0, 0, 0, 0] + cdiv (rowBits y) 8 - (streamSpan op 0).1) 2048
  | none => 0

/-- An element counted: coalesced with one of the window, or a row of the die (R307, R364). -/
def noteIndex (s : State) (n k : Nat) (again none_ : Bool) : State :=
  if again then count64 s (Reg.chGatherCoalesceCount n) 1
  else if none_ then s else count64 s (Reg.lxGatherRowCount k) 1

/-- The row of the table that a gather delivers: from the window where it is held, else read (R306, R307, R363): bit address
and bits of each piece, and why a read stopped. -/
def gatherRow (s : State) (kept : Option (List (Nat × Nat))) (mine : List Piece) : State × Except Stop (List (Nat × Nat)) :=
  match kept with
  | some row => (s, .ok row)
  | none =>
    match readWordsOn true s (mine.flatMap fun p => wordsOf (p.src / 8) (cdiv (p.src % 8 + p.len) 8)).eraseDups with
    | (s, .error x) => (s, .error x)
    | (s, .ok _) => (s, .ok (mine.map fun p => (p.src, bitsAt s p.src p.len)))

/-- A gathered row sent up and written to its place in the output row, with the padding that falls to the die (R363). -/
def moveIndex (s : State) (n k : Nat) (id : W32) (row : List (Nat × Nat)) (mine : List Piece) (pad : List (Nat × Nat × Nat)) :
    State × Option Stop :=
  let s := portUp s k (cdiv ((mine.map (·.len)).foldl (· + ·) 0) 8)
  unitWrite s n id ((mine.map fun p => (p.dst, p.len, (mfind row p.src).getD 0)) ++ pad)

/-- The stream that an access of a die's unit to the table or the rows halts, as its own: the die's stream of the table, or the
index stream where it has none; with the issuer number of R340. -/
def gsStream (s : State) (n : Nat) (id : W32) (d st : Nat) : Nat × Nat :=
  match letrixStream s n id 0 d with
  | some k => if (s.stream n k).letrix then (k, (issuerOf (s.stream n k) k).2) else (st, d * 256)
  | none => (st, d * 256)

/-- A stopped access of a die's unit (R237, R338, R340, R353). The tile recorded is that of the index stream at hand (DESIGN
CHOICE). -/
def gsHalt (s : State) (n : Nat) (id : W32) (d st e : Nat) (x : Stop) : State :=
  let q := gsStream s n id d st
  haltStop s n q.1 (e / 512) 2 q.2 x

/-- Whether the index stream lets a die serve its next element: it is not halted, or it is halted at a later invalid index, which
every die comes to (R364). -/
def indexRuns (s : State) (n st : Nat) : Bool := (s.stream n st).halt.all (· == 6)

/-- The end of the index stream at a die: the groups that wait are written or added. -/
def endIndices (s : State) (n : Nat) (id : W32) (l : LoadedOp) (d st e : Nat) : State :=
  match addGroups n l.op d (l.lx.groups.getD d []) s with
  | (s, left, some x) => gsHalt (putLx s n l { l.lx with groups := l.lx.groups.set d left }) n id d st e x
  | (s, _, none) => settleIndices (putLx s n l { l.lx with groups := l.lx.groups.set d [] }) n id

/-- An invalid index at a die (R306, R364): the die of stack 0 alone counts it, and halts the stream for all three where the
operation asks for it; else a gather's die of stack 0 writes the padding row. -/
def invalidIndex (s : State) (n : Nat) (id : W32) (l : LoadedOp) (d st e : Nat) (w : W32) : State :=
  let op := l.op
  if op.haltIdx then (if d = 0 then haltStream (badIndex s n op e true) n st (e / 512) 6 none else s)
  else
    let s := if d = 0 then badIndex s n op e false else s
    match unitWrite s n id (if d = 0 && gsWork op = 0 then indexPad op e true else []) with
    | (s, some x) => gsHalt s n id d st e x
    | (s, none) => settleIndices (passIndex s n l d e w [] (l.lx.groups.getD d [])) n id

/-- GATHER_INDEX (R305 to R309, R363, R364): the next element of the index stream at a die's unit. A scatter's element waits
until its index leaves the window. -/
def opGatherIndex (k : Nat) (id : W32) (s : State) : State :=
  let n := k / 3
  let d := k % 3
  match liveOp s n id with
  | none => s
  | some l =>
    let op := l.op
    let e := l.lx.next.getD d 0
    match letrixStream s n id 1 d with
    | none => s
    | some st =>
      if op.kind != 10 || !indexRuns s n st || (s.stream n (gsStream s n id d st).1).halt.any (· != 6) then s
      else if gsCount op ≤ e then endIndices s n id l d st e
      else if (s.stream n st).full ≤ e / 512 || (gsWork op != 0 && !streamHolds s n id 0 d (sourceTiles op e)) then s
      else
        let ix := gsIndex s n l e
        let rows := match op.layout (gsTable op) with | some t => t.extent 1 | none => 0
        let w := BitVec.ofNat 32 (unsigned 32 ix)
        if ix < 0 || (rows : Int) ≤ ix then invalidIndex s n id l d st e w
        else
          let kept := ((l.lx.window.getD d []).find? (·.1 == w)).map Prod.snd
          let mine := indexPieces s op d ix.toNat e
          let note := fun (s : State) => noteIndex s n k kept.isSome mine.isEmpty
          if gsWork op != 0 then
            let gs := l.lx.groups.getD d []
            let win := (w :: (l.lx.window.getD d []).map Prod.fst).take 64
            let stay := gs.filter fun g => win.contains g.1
            match addGroups n op d (gs.filter fun g => !win.contains g.1) s with
            | (s, left, some x) => gsHalt (putLx s n l { l.lx with groups := l.lx.groups.set d (left ++ stay) }) n id d st e x
            | (s, _, none) =>
              let s := if gsWork op = 2 then portDown s k (cdiv ((mine.map (·.len)).foldl (· + ·) 0) 8) else s
              settleIndices (passIndex (note s) n l d e w [] (joinGroup (gsWork op == 2) stay w e)) n id
          else
            match gatherRow s kept mine with
            | (s, .error x) => gsHalt s n id d st e x
            | (s, .ok row) =>
              match moveIndex s n k id row mine (if d = 0 then indexPad op e false else []) with
              | (s, some x) => gsHalt s n id d st e x
              | (s, none) => settleIndices (passIndex (note s) n l d e w row (l.lx.groups.getD d [])) n id

/-! ### The length table, kinds 0x1 and 0x9 -/

/-- The first stream of an operation's slot. -/
def firstStream (s : State) (n : Nat) (id : W32) (o : Nat) : Option Nat :=
  (List.range 4096).find? fun k => (s.stream n k).used && (s.stream n k).opId == id && (s.stream n k).slot == o

/-- Bytes of the packed states of a row (R408, R409). -/
def stateBytes (op : Op) : Nat := 16 * cdiv (8 + 4 * attnDim op) 16
/-- Rows of an entry. -/
def entryRows (op : Op) (e : LenEntry) : Nat := attnGrp op * e.q

/-- The states of an entry that no key has reached. -/
def freshRows (op : Op) (e : LenEntry) : List RowState := List.replicate (entryRows op e) (RowState.empty (attnDim op))

/-- The queries of an entry sent down every die's port into its query buffer (R406). -/
def sendQueries (s : State) (n : Nat) (op : Op) (e : LenEntry) : State :=
  let width := match op.layout 0 with | some q => q.format.width | none => 0
  (List.range 3).foldl (fun s d => portDown s (dieNo n d) (cdiv (entryRows op e * attnDim op * width) 8)) s

/-- The query head and row of row r of an entry. -/
def queryAt (op : Op) (e : LenEntry) (r : Nat) : Nat × Nat :=
  (e.kvh * attnGrp op + r % max 1 (attnGrp op), e.row + r / max 1 (attnGrp op))

/-- The codes of an entry's queries, row by row, as the stream of slot 0 delivered them: what the query buffer holds (R406). -/
def queryCodes (s : State) (n : Nat) (op : Op) (e : LenEntry) : List Nat :=
  match op.layout 0 with
  | none => []
  | some l => (List.range (entryRows op e)).flatMap fun r => (List.range (attnDim op)).map fun i =>
      readCode (unitByte s n op.opId 0 0) l [(i : Int), ((queryAt op e r).1 : Int), ((queryAt op e r).2 : Int), 0, 0, 0]

/-- The query buffer with the queries of the entry that is walked, taken before its first key; those of the entry before leave it
(R406). -/
def holdQueries (s : State) (n : Nat) (op : Op) (w : LxWork) (i : Nat) (e : LenEntry) : LxWork :=
  if (mfind w.queries i).isSome then w
  else { w with queries := minsert (w.queries.filter fun q => q.1 + 1 == i) i (queryCodes s n op e) }

/-- A state packed as m, l and o in FP32, filled up to a multiple of 16 bytes. -/
def packState (op : Op) (st : RowState) : List Byte :=
  let bs := (st.m :: st.l :: st.o).flatMap fun v => leBytes 4 v.toNat
  bs ++ List.replicate (stateBytes op - bs.length) 0
/-- A state from its packing. -/
def unpackState (op : Op) (bs : List Byte) : RowState :=
  let w := fun (i : Nat) => BitVec.ofNat 32 (le32 bs (4 * i))
  ⟨w 0, w 1, (List.range (attnDim op)).map fun i => w (i + 2)⟩

/-- Where the states of a die stand in the merge entry of the work item at place i of the walk (R409; the order within an entry is
a DESIGN CHOICE). -/
def statePlace (l : LoadedOp) (e : LenEntry) (i d : Nat) : Nat :=
  entryAtTop l i + d * entryRows l.op e * stateBytes l.op

/-- The states of a die as the merge entry holds them. -/
def heldStates (s : State) (n : Nat) (l : LoadedOp) (e : LenEntry) (i d : Nat) : List RowState :=
  (List.range (entryRows l.op e)).map fun r =>
    unpackState l.op (csBytes s n (combiner l).phys (statePlace l e i d + r * stateBytes l.op) (stateBytes l.op))

/-- Entries that are walked to their end send their states while a merge entry is free; a die that finds both held
stops (R408, R409). -/
def settleWalk (n : Nat) (id : W32) : Nat → State → State
  | 0, s => s
  | k + 1, s =>
    match findOp s n id with
    | none => s
    | some l =>
      let w := l.lx
      match w.entries[w.walking]? with
      | none => s
      | some (i, e) =>
        if w.tokens < e.kv then s
        else if w.done + 2 ≤ w.walking then
          if w.stopAt.isSome then s else putLx s n l { w with stopAt := some (cycleNow s n) }
        else
          let rows := (List.range 3).map fun d => w.rows.getD d (freshRows l.op e)
          let s := match w.stopAt with
            | some c => (List.range 3).foldl (fun s d => count64 s (Reg.lxAttnWaitCycles (dieNo n d)) (cycleNow s n - c)) s
            | none => s
          let s := (List.range 3).foldl (fun s d => portUp s (dieNo n d) (entryRows l.op e * stateBytes l.op)) s
          let st := (List.range 3).foldl (fun m d => minsert m (3 * i + d) (rows.getD d [])) w.states
          let s := (List.range 3).foldl (fun s d => putCombine s n (combiner l).phys (statePlace l e w.walking d)
            ((rows.getD d []).flatMap (packState l.op))) s
          -- the query buffer holds two entries: that of the entry after the next one to run comes free
          let s := match w.entries[w.walking + 2]? with
            | some q => sendQueries s n l.op q.2
            | none => s
          settleWalk n id k (putLx s n l { w with states := st, walking := w.walking + 1, page := 0, tokens := 0, pages := [],
                                                  rows := [], stopAt := none })

/-- Device address of entry i's states of an exported part, and the bytes of all states (R412). -/
def exportBytes (op : Op) (es : List (Nat × LenEntry)) : Nat := (es.map fun e => entryRows op e.2 * stateBytes op).foldl (· + ·) 0

/-- An entry's rows finalised and written (R383, R384, R409): row r is query row r div G, head r mod G of the group. -/
def writeEntry (s : State) (n : Nat) (l : LoadedOp) (e : LenEntry) (rows : List RowState) : State × Option Stop :=
  let op := l.op
  let grp := max 1 (attnGrp op)
  let at_ := fun (r : Nat) => ((((e.kvh * attnGrp op + r % grp : Nat)) : Int), ((e.row + r / grp : Nat) : Int))
  let outs : List Res := rows.zipIdx.flatMap fun (p : RowState × Nat) => p.1.final.1.zipIdx.map fun (q : W32 × Nat) =>
    ⟨[(q.2 : Int), (at_ p.2).1, (at_ p.2).2, 0, 0, 0], f32 q.1⟩
  let lses : List Res := rows.zipIdx.map fun (p : RowState × Nat) => ⟨[(at_ p.2).1, (at_ p.2).2, 0, 0, 0, 0], f32 p.1.final.2⟩
  match storeResults s n (combiner l) 3 op 3 false outs with
  | (s, _, some x) => (lxHalt s n op.opId x, some x)
  | (s, ws, none) =>
    let r := if attnLse op then storeResults s n (combiner l) 3 op 4 false lses else (s, [], none)
    match r with
    | (s, _, some x) => (lxHalt s n op.opId x, some x)
    | (s, ws', none) => (arriveStore (countFinal s n rows) n (combiner l).phys op.arrive (lowest (ws ++ ws')), none)

/-- The parts and the part of an exported decode. -/
def xParts (op : Op) : Nat := bits (op.kword 3) 63 62
def xPart (op : Op) : Nat := bits (op.kword 3) 61 60
def xAddr (op : Op) : Nat := bits (op.kword 3) 47 0

/-- The end of a decode (R219, R412): every entry merged. A part other than 0 then stores its states as one arrival;
part 0 of an export still waits for the other parts. -/
def settleDecode (s : State) (n : Nat) (id : W32) : State :=
  match findOp s n id with
  | none => s
  | some l =>
    let op := l.op
    let w := l.lx
    if w.arrived < lenCount op || w.done < w.entries.length || opDone l || w.halted.isSome then s
    else if xParts op = 0 then finishCore s n id (combiner l).log
    else if xPart op = 0 then s
    else
      let bs := w.entries.flatMap fun e => ((mfind w.held e.1).getD []).flatMap (packState op)
      let a := xAddr op + (xPart op - 1) * exportBytes op w.entries
      match storeWords s n (combiner l) 3 id (byteWrites a bs) with
      | (s, some e) => lxHalt (haltStore s n (combiner l) 3 id e) n id e
      | (s, none) => finishCore (arriveStore s n (combiner l).phys true (some a)) n id (combiner l).log

/-- LENGTH_TABLE_ENTRY (R388 to R390): the next entry of the length table of a kind 0x1 or 0x9 operation arrives. -/
def opLengthTableEntry (n : Nat) (id : W32) (s : State) : State :=
  match liveOp s n id with
  | none => s
  | some l =>
    let op := l.op
    let i := l.lx.arrived
    match firstStream s n id 1, op.layout 1 with
    | some k, some t =>
      let x := s.stream n k
      if (op.kind != 1 && op.kind != 9) || lenCount op ≤ i || x.halt.isSome || x.full < min x.length (i / 64 + 1) then s
      else
        let base := if t.space then storeBase n (combiner l).phys + (combiner l).base * 512 + t.base else t.base
        -- a decode takes the entry as its stream delivered it
        match (if op.kind = 9 then (s, Except.ok ((List.range 32).map fun b => unitByte s n id 1 0 (base + 32 * i + b)))
          else readRange s (base + 32 * i) 32) with
        | (s, .error e) => haltStop s n k (i / 64) 0 k e
        | (s, .ok bs) =>
          let e := parseLen bs
          if e.gen != kvGen s n e.seq then
            let s := count32 s (Reg.chAttnStaleItemCount n) 1
            let s := putLx s n l { l.lx with arrived := i + 1 }
            if op.kind = 1 then s else settleDecode (unitsAsk s n id) n id
          else match lenFault n op (l.lx.entries.map (·.2)) e with
            | some c => haltStream (noteLenFault s n c i id) n k (i / 64) 5 none
            | none =>
              let s := putLx s n l { l.lx with arrived := i + 1, entries := l.lx.entries ++ [(i, e)] }
              if op.kind = 1 then s
              else
                let s := if l.lx.entries.length ≤ l.lx.walking + 1 then sendQueries s n op e else s
                settleWalk n id (lenCount op + 1) (unitsAsk s n id)
    | _, _ => s
/-! ### The page walker (R370 to R372, R405, R426) -/

/-- The walking streams of a decode halted, each by its own record (R372). -/
def haltWalkers (s : State) (n : Nat) (id : W32) (f : State → Nat → State) : State :=
  (List.range 3).foldl (fun s d => match letrixStream s n id 9 d with
    | some k => f s k
    | none => s) s

/-- Whether the three walking streams run. -/
def walkersRun (s : State) (n : Nat) (id : W32) : Bool := (List.range 3).all fun d => streamGood s n id 9 d

/-- The issuer number of a walking stream (R340, R353). -/
def walkIssuer (s : State) (n k : Nat) : Nat := (issuerOf (s.stream n k) k).2

/-- PAGE_LIST_ENTRY (R371, R372, R431): the next entry of the list being walked. -/
def opPageListEntry (n : Nat) (id : W32) (s : State) : State :=
  match liveOp s n id with
  | none => s
  | some l =>
    let w := l.lx
    match w.entries[w.walking]? with
    | none => s
    | some (_, e) =>
      let i := w.pages.length
      if l.op.kind != 9 || !walkersRun s n id || w.page != i || e.kv ≤ w.tokens then s
      else
        let a := e.list + 4 * i
        match readWordsOn true s (wordsOf a 4) with
        | (s, .error x) => haltWalkers s n id fun s k => haltStop s n k i 2 (walkIssuer s n k) x
        | (s, .ok ws) =>
          let f := leNat (((ws.flatMap (·.2)).drop (a % 16)).take 4)
          let s := if i % 16 = 0 then
              let s := portBytes s true a 64
              (List.range 3).foldl (fun s d => portDown s (dieNo n d) 64) s
            else s
          if frames ≤ f then haltWalkers s n id fun s k => haltStream s n k i 2 none
          else if absent s n f then
            haltWalkers s n id fun s k => haltStop s n k i 2 (walkIssuer s n k) (.page n (32768 * f) false)
          else putLx s n l { w with pages := w.pages ++ [f] }

/-- The tokens of a page that a die's blocks hold, and that it reads: the block holds a key visible to some row
(R405). -/
def dieTokens (s : State) (op : Op) (e : LenEntry) (r : PageRun) (d : Nat) : List Nat :=
  let dim := attnDim op
  let count := min (2 ^ r.hdr.ltok) (e.kv - r.first)
  let toks := (List.range count).map (r.first + ·)
  let seen := fun (tok : Nat) => (List.range e.q).any fun q => visible op e (e.row + q) e tok
  let blocks := (List.range 16).filter fun b =>
    stackOf s (32768 * r.frame + b * 2048) == d && toks.any fun t => (tokenPlace dim r.hdr (t - r.first)).1 == b && seen t
  toks.filter fun t => blocks.contains (tokenPlace dim r.hdr (t - r.first)).1

/-- One key applied to all rows of an entry by a die's attention unit, against the queries in its buffer (R378, R379, R387, R405
to R407). -/
def decodeToken (s : State) (n : Nat) (op : Op) (qs : List Nat) (e : LenEntry) (r : PageRun) (tok : Nat) (rows : List RowState) :
    List RowState :=
  let d := attnDim op
  let keys := (List.range d).map fun i => kvElem s n d false r tok i
  let vals := (List.range d).map fun i => kvElem s n d true r tok i
  rows.zipIdx.map fun (p : RowState × Nat) =>
    let at_ := queryAt op e p.2
    let score := keys.zipIdx.foldl (fun (acc : W32) (q : Num × Nat) => match op.layout 0 with
      | some l => accAdd false acc (Num.mul (decodeScaled l.format 127 (qs.getD (p.2 * d + q.2) 0)) q.1)
      | none => acc) 0
    p.1.decodeKey (logitAt op (unitByte s n op.opId 5 0) at_.1 e at_.2 e tok score) vals

/-- The keys and values of a page's tokens read by the three dies, each its own; whether all were read. -/
def dieReads (s : State) (n : Nat) (id : W32) (op : Op) (page : Nat) (r : PageRun) (toks : List (List Nat)) : State × Bool :=
  (List.range 3).foldl (fun (acc : State × Bool) d =>
    let ws := ((toks.getD d []).flatMap fun t => kvWords n (attnDim op) false r t ++ kvWords n (attnDim op) true r t).dedup
    match readWordsOn true acc.1 ws with
    | (s, .error x) => ((match letrixStream s n id 9 d with
        | some k => haltStop s n k page 2 (walkIssuer s n k) x
        | none => s), false)
    | (s, .ok _) => (s, acc.2)) (s, true)

/-- The blocks of a page that a die has read pass through its walking stream: 32 of them are a Letrix stream tile, counted as its
first block is read, with its lateness (R274, R275, R351, R407). -/
def walkBlocks (s : State) (n : Nat) (id : W32) (op : Op) (r : PageRun) (d late : Nat) (cause : StallCause) (toks : List Nat) : State :=
  match letrixStream s n id 9 d with
  | none => s
  | some k =>
    let x := s.stream n k
    let new := x.walked + ((toks.map fun t => (tokenPlace (attnDim op) r.hdr (t - r.first)).1).eraseDups).length
    let s := count64 s (Reg.chStreamFetchCount n) (cdiv new 32 - cdiv x.walked 32)
    let s := lateAs s n (inService s n) id k (x.walked / 32) late cause
    s.setStream n k { s.stream n k with walked := new }

/-- A page whose keys have been read is worked on: counted at every die, its tokens taken into the running states. -/
def passPage (s : State) (n : Nat) (id : W32) (l : LoadedOp) (i : Nat) (e : LenEntry) (r : PageRun) (toks : List (List Nat))
    (late : List (Nat × StallCause)) : State :=
  let s := (List.range 3).foldl (fun s d =>
    walkBlocks s n id l.op r d (late.getD d (0, .other)).1 (late.getD d (0, .other)).2 (toks.getD d [])) s
  let w := holdQueries s n l.op l.lx i e
  let qs := (mfind w.queries i).getD []
  let s := (List.range 3).foldl (fun s d => count64 (count64 s (Reg.lxWalkPageCount (dieNo n d)) 1)
    (Reg.lxAttnTokenCount (dieNo n d)) (toks.getD d []).length) s
  let bad := toks.flatten.any fun t => kvScaleNan s n (attnDim l.op) false r t || kvScaleNan s n (attnDim l.op) true r t
  let s := noteRaised s n { scaleNan := bad }
  let rows := (List.range 3).map fun d =>
    (toks.getD d []).foldl (fun rs t => decodeToken s n l.op qs e r t rs) (w.rows.getD d (freshRows l.op e))
  let s := putLx s n l { w with rows := rows, page := w.page + 1, tokens := w.tokens + 2 ^ r.hdr.ltok }
  settleWalk n id (lenCount l.op + 1) s

/-- PAGE_HEADER (R371, R391, R405, R426): the header of the next page of the walk is checked, and each die then takes
the keys of the page that its own blocks hold, with the cycles for which they were late at each die and why (R36, R275). -/
def opPageHeader (n : Nat) (id : W32) (s : State) (late : List (Nat × StallCause) := []) : State :=
  match liveOp s n id with
  | none => s
  | some l =>
    let op := l.op
    let w := l.lx
    match w.entries[w.walking]?, w.pages[w.page]? with
    | some (i, e), some f =>
      if op.kind != 9 || !walkersRun s n id || e.kv ≤ w.tokens || !streamHolds s n id 0 0 0xFFFFFFFF
          || (attnBias op && !streamHolds s n id 5 0 0xFFFFFFFF) then s
      else match readRange s (hdrAddr s n f) 32 with
        | (s, .error x) => haltWalkers s n id fun s k => haltStop s n k w.page 2 (walkIssuer s n k) x
        | (s, .ok hb) =>
          let h := parseHdr hb
          match hdrFault op e h with
          | some 0 => haltWalkers (setFlag s (Reg.chFmtStatus n) 4 true) n id fun s k => haltStream s n k w.page 4 none
          | some c => haltWalkers (noteHdrFault s n c f id) n id fun s k => haltStream s n k w.page 5 none
          | none =>
            let r : PageRun := ⟨f, h, w.tokens⟩
            let toks := (List.range 3).map fun d => dieTokens s op e r d
            -- the channel stream engine forwards the header to the three dies
            let s := (List.range 3).foldl (fun s d => portDown s (dieNo n d) 32) s
            match dieReads s n id op w.page r toks with
            | (s, false) => s
            | (s, true) => passPage s n id l i e r toks late
    | _, _ => s

/-- ATTENTION_STATES_MERGE (R382, R409, R412, R413): the next entry's states from the three dies merged in order, and
finalised and written, or held for an export. -/
def opAttentionStatesMerge (n : Nat) (id : W32) (s : State) : State :=
  match liveOp s n id with
  | none => s
  | some l =>
    let w := l.lx
    match w.entries[w.done]? with
    | none => settleDecode s n id
    | some (i, e) =>
      if l.op.kind != 9 || w.halted.isSome || (List.range 3).any fun d => (mfind w.states (3 * i + d)).isNone then s
      else match entryRead s n l (entryWords (statePlace l e w.done 0) (3 * entryRows l.op e * stateBytes l.op)) with
        | (s, false) => s
        | (s, true) =>
          let part := fun (d : Nat) => heldStates s n l e w.done d
          let rows := (((part 0).zip (part 1)).zip (part 2)).map fun (p : (RowState × RowState) × RowState) =>
            (p.1.1.merge p.1.2).merge p.2
          let w' := { w with done := w.done + 1, states := w.states.filter fun x => x.1 / 3 != i,
                             held := if xParts l.op = 0 then w.held else minsert w.held i rows, halted := none }
          let r := if xParts l.op = 0 then writeEntry s n l e rows else (s, none)
          match r with
          | (s, some _) => s
          | (s, none) => settleDecode (settleWalk n id (lenCount l.op + 1) (putLx s n l w')) n id

/-- The states of an entry as part 0 holds them, merged with those of the exported parts, which stand at byte offset `off` of
each (R412, R413). -/
def exportRows (s : State) (l : LoadedOp) (off i : Nat) : List RowState :=
  let op := l.op
  ((mfind l.lx.held i).getD []).zipIdx.map fun (p : RowState × Nat) => (List.range (xParts op)).foldl (fun st q =>
    let a := xAddr op + q * exportBytes op l.lx.entries + off + p.2 * stateBytes op
    st.merge (unpackState op ((List.range (stateBytes op)).map fun b => deviceByte s (a + b)))) p.1

/-- Entries merged with the exported parts and written, in table order, from the one that comes next (R413); each is written, and
its rows are counted, once. -/
def mergeExports (n : Nat) (id : W32) : Nat → State → State × Option Stop
  | 0, s => (s, none)
  | k + 1, s =>
    match findOp s n id with
    | none => (s, none)
    | some l =>
      match l.lx.entries[l.lx.merged]? with
      | none => (s, none)
      | some (i, e) =>
        match writeEntry s n l e (exportRows s l (exportBytes l.op (l.lx.entries.take l.lx.merged)) i) with
        | (s, some x) => (s, some x)
        | (s, none) => mergeExports n id k (putLx s n l { l.lx with merged := l.lx.merged + 1, halted := none })

/-- EXPORT_MERGE (R144, R413): part 0 merges the parts once its window's counter shows them all, finalises and writes. -/
def opExportMerge (n : Nat) (id : W32) (s : State) : State :=
  match liveOp s n id with
  | none => s
  | some l =>
    let op := l.op
    let w := l.lx
    if op.kind != 9 || xParts op = 0 || xPart op != 0 || w.arrived < lenCount op || w.done < w.entries.length || opDone l
        || w.halted.isSome then s
    else match place (xAddr op) with
      | .store m i off =>
        match windowOf s m i off 1 with
        | none => s
        | some k =>
          let c := fld s (Reg.coreRecvWindow m i k) 28 26
          if !reached s m i c (w.exported + BitVec.ofNat 32 (xParts op)) then s
          else match csRead s m i (entryWords off (xParts op * exportBytes op w.entries)) with
            | (s, some (r, j)) => lxHalt (stopEvent s id (.word m i r j)) n id (.word m i r j)
            | (s, none) => match mergeExports n id (w.entries.length + 1) s with
              | (s, some _) => s
              | (s, none) => finishCore s n id (combiner l).log
      | _ => s

end Sys2Proof.Machine
end

