-- ==== Sys2Proof/Machine/Codec.lean ====
section
/-! DEFINITION. Compression and decompression, kind 0xC (R281, R365 to R369): the codec runs once the fetches of its
source are complete, tile after tile in directory order. -/

namespace Sys2Proof.Machine

/-! ### Encoding a tile -/

/-- The plane rows of a line of codes, the top plane first, each of `n` elements (R61, R278). -/
def planarLine (w n : Nat) (codes : List Nat) : List Byte :=
  (List.range w).flatMap fun j => (List.range (n / 8)).map fun b =>
    BitVec.ofNat 8 ((List.range 8).foldl (fun acc i => acc + bits (codes.getD (8 * b + i) 0) (w - 1 - j) (w - 1 - j) * 2 ^ i) 0)

/-- Codes packed one after another, filled up to whole bytes (R63). -/
def packCodes (w : Nat) (codes : List Nat) : List Byte :=
  leBytes (cdiv (codes.length * w) 8) (codes.zipIdx.foldl (fun acc p => acc + p.1 % 2 ^ w * 2 ^ (w * p.2)) 0)

/-- A bitmap of 512 codes. -/
def bitmapOf (zero : Nat → Bool) (codes : List Nat) : List Byte :=
  (List.range 64).map fun b =>
    BitVec.ofNat 8 ((List.range 8).foldl (fun acc i => acc + (if zero (codes.getD (8 * b + i) 0) then 0 else 2 ^ i)) 0)

/-- The code of a format that decodes to zero. -/
def zeroCode (f : Fmt) (c : Nat) : Bool := (decodeElem { f with planes := 0, mid := false } c).isZero

/-- A tile's header (R277). -/
def tileHeader (f : Fmt) (form nnz len g s : Nat) : List Byte :=
  leBytes 8 ((f.fmt + 16 * f.owid) * 2 ^ 48 + form * 2 ^ 46 + nnz * 2 ^ 17 + len) ++ leBytes 8 (g * 2 ^ 32 + s * 2 ^ 8)

/-- A line in 2:4 form (R280): mask and values; none where a group holds three or four non-zeros (R368). -/
def halfLine (f : Fmt) (codes : List Nat) : Option (List Byte) :=
  let w := f.width
  let groups := (List.range 128).map fun q =>
    (List.range 4).filter fun i => !zeroCode f (codes.getD (4 * q + i) 0)
  if groups.any fun g => decide (2 < g.length) then none
  else
    let mask := (List.range 64).map fun b => BitVec.ofNat 8
      ((groups.getD (2 * b) []).foldl (fun a i => a + 2 ^ i) 0 + 16 * (groups.getD (2 * b + 1) []).foldl (fun a i => a + 2 ^ i) 0)
    let vals := groups.zipIdx.flatMap fun (p : List Nat × Nat) =>
      let c := p.1.map fun i => codes.getD (4 * p.2 + i) 0
      [c.getD 0 0, c.getD 1 0]
    some (mask ++ planarLine w 256 vals)

/-- The tile of 32 lines written by the encoder: none for a fault, an empty list for a tile that is absent (R281,
R367, R368). -/
def encodeTile (f : Fmt) (half : Bool) (g s : Nat) (lines : List (List Nat)) : Option (List Byte) :=
  let w := f.width
  let nz := lines.map fun l => l.filter fun c => !zeroCode f c
  let nnz := (nz.map List.length).foldl (· + ·) 0
  if nnz = 0 then some []
  else if half then
    ((lines.map (halfLine f)).mapM id).map fun bs =>
      let pay := bs.flatten
      tileHeader f 2 nnz pay.length g s ++ pay
  else
    let bitmap := 2048 + cdiv (nnz * w) 8
    if bitmap < 2048 * w then
      some (tileHeader f 1 nnz bitmap g s ++ lines.flatMap (bitmapOf (zeroCode f)) ++ packCodes w nz.flatten)
    else some (tileHeader f 0 nnz (2048 * w) g s ++ lines.flatMap (planarLine w 512))

/-! ### The two directions -/

/-- Whether a kind 0xC operation decodes. -/
def decodes (op : Op) : Bool := bit (op.kword 0) 63
/-- Groups and steps of the compressed operand; `turn` for the dense source of an encode whose store transform exchanges
dimensions 0 and 1 (R197). -/
def codecGroups (l : Layout) (turn : Bool := false) : Nat := cdiv (l.extent (if turn then 0 else 1)) 32
def codecSteps (l : Layout) (turn : Bool := false) : Nat := cdiv (l.extent (if turn then 1 else 0)) 512

/-- Whether an encode's store transform exchanges dimensions 0 and 1, the one change that its rank leaves it (R197). -/
def codecTurns (op : Op) : Bool := !decodes op && bits (op.slot 3).xform 2 0 == 1

/-- A byte of a codec's source or map, as its stream delivered it: a dense source's by the die that holds it (R367, R369). -/
def codecByte (s : State) (n : Nat) (op : Op) (o a : Nat) : Byte := unitByte s n op.opId o (stackOf s (a % tier0Size)) a

/-- Where a line's group of 512 elements begins in the dense operand, its coordinates permuted as a store does. -/
def groupAddr (l : Layout) (xform line st : Nat) : Nat :=
  let y := permuted xform [((512 * st : Nat) : Int), (line : Int), 0, 0, 0, 0]
  rowStart l y + 64 * l.format.width * ((y.getD 0 0).toNat / 512)

/-- The line groups of the dense operand that a tile (g, st) of the compressed one answers for: its own 32 lines, or, where an
encode exchanges the dimensions, each line group once, with the first tile that takes of it. Line and group. -/
def tileGroups (l : Layout) (turn : Bool) (lines g st : Nat) : List (Nat × Nat) :=
  if turn then
    if g % 16 = 0 then ((List.range 512).map fun e => (512 * st + e, g / 16)).filter fun q => decide (q.1 < l.extent 1) else []
  else (List.range (min 32 (lines - 32 * g))).map fun i => (32 * g + i, st)

/-- Line groups counted at the dies that hold them (R376). -/
def countGroups (s : State) (n : Nat) (l : Layout) (xform : Nat) (qs : List (Nat × Nat)) : State :=
  qs.foldl (fun s q =>
    count64 s (Reg.lxCodecGroupCount (dieNo n (stackOf s (groupAddr l xform q.1 q.2 % tier0Size)))) 1) s

/-- Bytes of each line group that cross the ports of the dies that hold the groups (R367, R369, R373). -/
def crossGroups (s : State) (n : Nat) (up : Bool) (l : Layout) (xform : Nat) (qs : List (Nat × Nat)) (bytes : Nat × Nat → Nat) : State :=
  qs.foldl (fun s q =>
    let k := dieNo n (stackOf s (groupAddr l xform q.1 q.2 % tier0Size))
    if up then portUp s k (bytes q) else portDown s k (bytes q)) s

/-- Bytes of a line record (R367): the bitmap, the count, whose size the rule leaves open, and the packed values. -/
def recordBytes (f : Fmt) (codes : List Nat) : Nat :=
  64 + (Config.openValue 367 []).toNat + cdiv ((codes.filter fun c => !zeroCode f c).length * f.width) 8

/-- Bytes of a line's group as a decode sends it (R369): the line's part of the tile. The rule does not say how a group
crosses; a bitmap line is taken with its values filled up to whole bytes (DESIGN CHOICE). -/
def groupBytes (f : Fmt) (tile : Option (List Byte)) (i : Nat) : Nat :=
  match tile with
  | none => 0
  | some bs =>
    match (parseTile bs).form with
    | 0 => 64 * f.width
    | 2 => 64 + 32 * f.width
    | _ => 64 + cdiv (((List.range 512).filter fun e => (codeAt f 32 bs i e).isSome).length * f.width) 8

/-- The stream of a codec's slot on a die, on which its halts are recorded. -/
def codecStream (s : State) (n : Nat) (id : W32) (o die : Nat) : Nat := (letrixStream s n id o die).getD 0

/-- Where an encode's group stands in the streams of its source: the die's stream and the tile that brought its block
(R367, R368). -/
def groupSpot (s : State) (n : Nat) (op : Op) (a : Nat) : Nat × Nat :=
  let die := stackOf s (a % tier0Size)
  (codecStream s n op.opId 0 die, (dieBlocks s op 0 die).findIdx (· == a / 2048) / 32)

/-- What a codec's step leaves: the work moved on by one tile, or stopped. -/
structure CodecStep where
  s    : State
  stop : Bool

/-- One tile encoded, its elements those of the source at the places that the store transform takes there (R197, R367, R368). -/
def encodeStep (s : State) (n : Nat) (l : LoadedOp) (src dst map : Layout) (g st : Nat) : CodecStep :=
  let op := l.op
  let f := src.format
  let turn := codecTurns op
  let get := codecByte s n op 0
  let code := fun (x : List Int) => if inside src x then readCode get src x else 0
  let from_ := fun (i e : Nat) => permuted (op.slot 3).xform [((512 * st + e : Nat) : Int), ((32 * g + i : Nat) : Int), 0, 0, 0, 0]
  let lines := (List.range 32).map fun i => (List.range 512).map fun e => code (from_ i e)
  let spot := fun (i : Nat) => let x := from_ i 0
    groupSpot s n op (groupAddr src straight (x.getD 1 0).toNat ((x.getD 0 0).toNat / 512))
  let pos := g * codecSteps src turn + st
  let half := bits (op.kword 0) 62 61 == 1
  match encodeTile f half g st lines with
  | none =>
    let i := lines.findIdx fun c => (halfLine f c).isNone
    let at_ := spot i
    ⟨maskBroken (structFault s n at_.1 at_.2 5 0 pos), true⟩
  | some bs =>
    let off := cdiv l.lx.offset 16
    let ws := (if bs.isEmpty then [] else byteWrites (dst.base + 16 * off) bs) ++
      byteWrites (map.base + 64 + 4 * pos) (leBytes 4 (if bs.isEmpty then 0xFFFFFFFF else off))
    match storeWords s n outsider 3 op.opId ws with
    | (s, some e) =>
      let at_ := spot 0
      ⟨haltStop s n at_.1 at_.2 0 at_.1 e, true⟩
    | (s, none) =>
      let w := { l.lx with done := l.lx.done + 1, offset := if bs.isEmpty then l.lx.offset else 16 * off + bs.length }
      let qs := tileGroups src turn (src.extent 1) g st
      let s := crossGroups s n true src straight qs fun q =>
        recordBytes f ((List.range 512).map fun e => code [((512 * q.2 + e : Nat) : Int), (q.1 : Int), 0, 0, 0, 0])
      ⟨putLx (countGroups s n src straight qs) n l w, false⟩

/-- The map header written at the end of an encode (R367). -/
def encodeEnd (s : State) (n : Nat) (l : LoadedOp) (src map : Layout) : State :=
  let turn := codecTurns l.op
  let hd := leBytes 4 (codecGroups src turn) ++ leBytes 4 (codecSteps src turn) ++ leBytes 4 64 ++ leBytes 4 0 ++ leBytes 4 0
    ++ leBytes 4 l.lx.offset ++ List.replicate 40 0
  match storeWords s n outsider 3 l.op.opId (byteWrites map.base hd) with
  | (s, some e) =>
    let k := codecStream s n l.op.opId 0 0
    haltStop s n k ((s.stream n k).length - 1) 0 k e
  | (s, none) => finishCore s n l.op.opId (combiner l).log

/-- One tile decoded (R369, R310). -/
def decodeStep (s : State) (n : Nat) (l : LoadedOp) (src dst : Layout) (m : SparseMap) (g st : Nat) : CodecStep :=
  let op := l.op
  let f := src.format
  let k := codecStream s n op.opId 0 0
  let pos := g * m.ksteps + st
  let entry := dirEntry (codecByte s n op 6) m g st
  let tileNo := 16 * entry.getD 0 / 2048
  let coords := (List.range 32).flatMap fun i => (List.range 512).map fun e => (i, e)
  let at_ := fun (p : Nat × Nat) => permuted (op.slot 3).xform
    [((512 * st + p.2 : Nat) : Int), ((32 * g + p.1 : Nat) : Int), 0, 0, 0, 0]
  let tile : Except Nat (Option (List Byte)) := match entry with
    | none => .ok none
    | some off => match tileFault (codecByte s n op 0) src m.total g st 32 false true none off with
      | some c => .error c
      | none =>
        let h := parseTile ((List.range 16).map fun i => codecByte s n op 0 (src.base + 16 * off + i))
        .ok (some ((List.range (16 + h.len)).map fun i => codecByte s n op 0 (src.base + 16 * off + i)))
  match tile with
  | .error 0 => ⟨haltStream (setFlag s (Reg.chFmtStatus n) 4 true) n k tileNo 4 none, true⟩
  | .error 8 => ⟨structFault s n (codecStream s n op.opId 6 0) ((m.dirOff + 4 * pos) / 2048) 8 6 pos, true⟩
  | .error c => ⟨structFault s n k tileNo c 0 pos, true⟩
  | .ok t =>
    let code := fun (p : Nat × Nat) => match t with
      | none => 0
      | some bs => if (parseTile bs).form = 0 then planarCode f.width ((bs.drop 16).drop (64 * f.width * p.1)) p.2
          else (codeAt f 32 bs p.1 p.2).getD 0
    let data := (coords.filter fun p => inside dst (at_ p)).flatMap fun p => codeBits dst (at_ p) (code p)
    let scale := match t, op.scale 3 with
      | some bs, some sl => if (parseTile bs).smode = 1 then
          (coords.filter fun p => (at_ p).getD 0 0 % 32 == 0 && inside dst (at_ p)).map fun p =>
            (8 * (rowStart sl ((at_ p).set 0 0) + ((at_ p).getD 0 0).toNat / 32), 8, (parseTile bs).tscale)
        else []
      | _, _ => []
    -- the dies expand and write the elements; the channel stream engine writes the scales
    let r := match dieWrite s n op.opId ((List.range 3).map (dieNo n)) data with
      | (s, none) => unitWrite s n op.opId scale
      | r => r
    match r with
    | (s, some e) => ⟨haltStop s n k tileNo 0 k e, true⟩
    | (s, none) =>
      let qs := tileGroups dst false (src.extent 1) g st
      let s := crossGroups s n false dst (op.slot 3).xform qs fun q => groupBytes f t (q.1 - 32 * g)
      ⟨putLx (countGroups s n dst (op.slot 3).xform qs) n l { l.lx with done := l.lx.done + 1 }, false⟩

/-- The codec's tiles from the present one on, in directory order, g major (R367, R369). -/
def codecRun (n : Nat) (id : W32) : Nat → State → State
  | 0, s => s
  | k + 1, s =>
    match liveOp s n id with
    | none => s
    | some l =>
      match l.op.layout 0 with
      | none => s
      | some d =>
        let turn := codecTurns l.op
        let total := codecGroups d turn * codecSteps d turn
        let g := l.lx.done / max 1 (codecSteps d turn)
        let st := l.lx.done % max 1 (codecSteps d turn)
        if decodes l.op then
          match l.op.layout 0, l.op.map with
          | some src, some m =>
            if total ≤ l.lx.done then finishCore s n id (combiner l).log
            else
              let r := decodeStep s n l src d m g st
              if r.stop then r.s else codecRun n id k r.s
          | _, _ => s
        else
          match l.op.layout 3, l.op.layout 6 with
          | some dst, some mp =>
            if total ≤ l.lx.done then encodeEnd s n l d mp
            else
              let r := encodeStep s n l d dst mp g st
              if r.stop then r.s else codecRun n id k r.s
          | _, _ => s

/-- Whether every stream of an operation has delivered all its tiles and none is halted. -/
def allDelivered (s : State) (n : Nat) (id : W32) : Bool :=
  s.streams.all fun e => !(e.1 / 4096 == n && e.2.opId == id) || (e.2.halt.isNone && decide (e.2.length ≤ e.2.full))

/-- A fetch that completes the source of a codec starts it, or takes it on after a halt. -/
def runCodec (s : State) (n : Nat) (id : W32) : State :=
  match liveOp s n id with
  | some l =>
    if l.op.kind = 12 && !opDone l && allDelivered s n id then
      match l.op.layout 0 with
      | some d => codecRun n id (codecGroups d (codecTurns l.op) * codecSteps d (codecTurns l.op) + 1) s
      | none => s
    else s
  | none => s

/-- FETCH_COMPLETE with what the fetch lets a codec do (R34, R241, R367, R369). -/
def opFetchDone (n k tile lateBy : Nat) (cause : StallCause) (upsets : List Upset) (s : State) : State :=
  let id := (s.stream n k).opId
  let codec := (s.stream n k).used && (s.stream n k).inflight.contains tile &&
    (findOp s n id).any fun l => l.op.kind == 12
  let s := opFetchComplete n k tile lateBy cause upsets s
  if codec then runCodec s n id else s

end Sys2Proof.Machine
end

