-- ==== Sys2Proof/Machine/Faults.lean ====
section
/-! DEFINITION. Losses of units and their recoveries (R570 to R592): stacks and Letrix dies, cores, Thader dies, and
the patrol scrub. The recovery bit (R37) stands while a recovery waits for a further command: from a core fault to the
core's retirement, from a neighbour's loss to the relock. A recovery that is one command begins and ends within it. -/

namespace Sys2Proof.Machine

/-! ### Stacks and Letrix dies (R581 to R583) -/

/-- The operations that a loss stops: cancelled (R258, R583). -/
def cancelWhere (s : State) (n : Nat) (p : LoadedOp → Bool) : State :=
  ((s.chan n).ops.filter p).foldl (fun s (l : LoadedOp) => cancelOp s n l.op.opId) s

/-- Whether an operand of an operation lies in a channel's tier 0. -/
def touchesTier0 (n : Nat) (op : Op) : Bool :=
  (usedSlots op).any fun o => (op.layout o).any fun l => !l.space && (match place l.base with
    | .tier0 m _ => m == n
    | _ => false)

/-- What follows a fence (R441, R459, R583): the operations in flight that touched the fenced tier 0 cancelled and reissued, the
channel's Letrix kinds among them; then its sequences taken over by the partner; a training job aborted. -/
def afterFence (s : State) (n : Nat) : State :=
  let s := (List.range 4).foldl (fun s m => replayWhere s m fun (l : LoadedOp) =>
    (m == n && letrixKind l.op.kind) || touchesTier0 n l.op) s
  markAbort (takeOver s n) 2

/-- T0_FENCE_WRITE with what a fence that firmware sets leads to (R335, R441). -/
def opFenceWrite (n : Nat) (v : W64) (s : State) : State :=
  let t := opT0FenceWrite n v s
  if fenced s n || !fenced t n then t else afterFence t n

/-- Loss of a stack or Letrix die of a channel (R40, R335, R441, R459, R582, R583): the fence, and what follows it; the pages
that the partner takes over come once service has resumed. -/
def loseStack (s : State) (n unit : Nat) (die : Bool) : State :=
  if fenced s n then s
  else
    let s := fence s n unit die
    let s := if die then s.setDie (3 * n + unit) { s.die (3 * n + unit) with lost := true } else s
    afterFence s n

/-- STACK_LOSS (R574, R582): 16 uncorrectable words of one stack within 1 ms are counted by the state itself. -/
def opStackLoss (n unit : Nat) (die : Bool) (cause : LossCause) (s : State) : State :=
  let recent := ((s.chan n).ues.filter fun e => e.1 == unit && decide (timeNs s < e.2 + 1000000)).length
  if cause = .words16 && recent < 16 then s else loseStack s n unit die

/-! ### Cores (R575 to R579) -/

/-- A spare that a retirement may take (R578). -/
def spareOk (s : State) (n k : Nat) : Bool :=
  decide (k < 800) && (logOf s n k).isNone && !(s.chan n).retired.contains k && !(s.chan n).dead.contains k

/-- The registers of a core page that move with its core (R576): task regions, receive windows, arrival counters. -/
def movedRegs (n i : Nat) : List RegRef :=
  ((List.range 3).map fun k => Reg.coreTaskRegion n i k) ++ ((List.range 8).map fun k => Reg.coreRecvWindow n i k) ++
    (List.range 8).map fun k => Reg.coreArrival n i k

/-- A physical core as the wipe leaves it: store, registers and tasks. -/
def wipeCore (s : State) (n i : Nat) : State :=
  let s := wipeKeys s (storeBase n i) (storeBase n i + 0x40000)
  let s := wipeKeys s (spareKey n i 0 0) (spareKey n i 8 0)
  let lo := (Reg.coreTaskRegion n i 0).addr
  { s.setCore n i Core.idle with regs := s.regs.filter fun e => decide (e.1 < lo) || decide (lo + 0x1000 ≤ e.1) }

/-- The tasks of a core as its spare restarts them: the array task at its first discarded pass, the vector task at its
first tile not yet stored, the fill and copy task at its current command; scoreboard and gather buffer empty (R576). -/
def Core.moved (c : Core) : Core :=
  { c with
    array := c.array.map fun (a : ArrayTask) => { a.discard with halted := none }
    behind := c.behind.map fun (b : ArrayTask × W32 × Nat) => ({ b.1.discard with halted := none }, b.2)
    rot := c.rot.map fun (r : Rot) => { r with halt := none }
    vec := c.vec.map fun (v : VecTask) => { v with pc := 0, halted := none }
    fill := c.fill.map fun (f : FillTask) => { f with halted := none }
    gather := [], score := [], wb := [] }

/-- The loaded operations with one physical core in the place of another (R577), and the operands of a Letrix operation in its
window at the other's. -/
def moveGrid (s : State) (n a b : Nat) : State :=
  let one := fun (g : GridCore) => if g.phys == a then { g with phys := b } else g
  let lay := fun (x : Layout) => match place x.base with
    | .store m i off => if m == n && i == a then { x with base := storeBase n b + off } else x
    | _ => x
  let ops := fun (op : Op) => if letrixKind op.kind then
      { op with layouts := op.layouts.map (Option.map lay), scales := op.scales.map (Option.map lay) }
    else op
  s.setChan n { s.chan n with ops := (s.chan n).ops.map fun (l : LoadedOp) => { l with op := ops l.op, grid := l.grid.map one } }

/-- A core's rows in service copied to the same rows of another core: whether a word was uncorrectable (R576). -/
def copyStore (s : State) (n a b : Nat) : State × Bool :=
  let rows := (List.range 512).filter fun r => rowPowered s n a r
  let bad := rows.any fun r => (List.range 32).any fun j => decodeWord s (csWord s n a r j) == .bad
  (rows.foldl (fun s r => copyRow s n (csWord s n a r 0) (csWord s n b r 0)) s, bad)

/-- Whether a fetch in flight of a stream reads the window of a physical core by its device address. -/
def flightInto (s : State) (n i : Nat) (e : Nat × Stream) : Bool :=
  (flightWords s e).any fun w => match place (16 * w) with
    | .store m j _ => m == n && j == i
    | _ => false

/-- Accesses in flight to the window of a retired core are dropped, and the operations that issued them replayed (R23). -/
def dropFlights (s : State) (n i : Nat) : State :=
  let hit := s.streams.filter (flightInto s n i)
  (List.range 4).foldl (fun s m => replayWhere s m fun (l : LoadedOp) =>
    hit.any fun e => e.1 / 4096 == m && e.2.opId == l.op.opId) s

/-- A retirement carried out (R576, R577, R579): the map rewritten, the store copied unless it cannot be read, the core
moved, the old one wiped, counted and recorded. -/
def retireCore (s : State) (n log spare : Nat) (readable : Bool) : State :=
  let old := physOf s n log
  let r := if readable then copyStore s n old spare else (s, false)
  let s := r.1
  let vals := (movedRegs n old).map fun x => rd s x
  let s := ((movedRegs n spare).zip vals).foldl (fun s (p : RegRef × W64) => wr s p.1 p.2) s
  let s := s.setCore n spare (s.core n old).moved
  let s := dropFlights (moveGrid s n old spare) n old
  let s := setFld s (Reg.chCoreMap n log) 9 0 spare
  let s := setFld (wipeCore s n old) (Reg.coreCsPower n old) 3 1 0
  let s := s.setChan n { s.chan n with retired := (s.chan n).retired ++ [old] }
  let s := count32 s (Reg.chCoreRetireCount n) 1
  let s := recordField s 2 n (old * 2 ^ 18)
  let s := endRecovery s n (.core log)
  let st := if !readable then 2 else if r.2 then 1 else 0
  setFld (setFlag (setFlag s (Reg.chCoreRetire n) 63 false) (Reg.chCoreRetire n) 62 false) (Reg.chCoreRetire n) 61 60 st

/-- A channel leaves service: event 0x32, and its partner serves its columns (R28, R553, R578). -/
def channelOut (s : State) (n : Nat) : State :=
  if (s.chan n).out then s
  else
    let s := s.setChan n { s.chan n with out := true }
    tryReady (takeOver (post s 4 0x32 0 [(2, n)]) n)

/-- A core retired without a spare: one core fewer in service, and the channel leaves service; accesses in flight to its
window are dropped (R23, R81, R578). -/
def retireWithout (s : State) (n log : Nat) : State :=
  let old := physOf s n log
  let s := setFld s (Reg.chCoreCaps n) 37 28 (fld s (Reg.chCoreCaps n) 37 28 - 1)
  let s := s.setChan n { s.chan n with retired := (s.chan n).retired ++ [old] }
  let s := setFld (wipeCore s n old) (Reg.coreCsPower n old) 3 1 0
  let s := recordField (count32 s (Reg.chCoreRetireCount n) 1) 2 n (old * 2 ^ 18)
  channelOut (rerunSteps (endRecovery (dropFlights s n old) n (.core log)) n) n

/-- A core replaced without its store: the steps of the channel that used it are reissued (R579). -/
def replaceCore (s : State) (n log spare : Nat) : State :=
  let s := retireCore s n log spare false
  let s := cancelWhere s n fun (l : LoadedOp) => l.grid.any fun g => g.phys == spare
  rerunSteps s n

/-- CORE_RETIRE (R575 to R579): a write of CH_CORE_RETIRE. A core that no longer responds is replaced without its
store. -/
def opCoreRetire (n : Nat) (v : W64) (s : State) : State :=
  let w := v.toNat
  if bits w 39 0 ≠ 0 then s
  else
    let r := Reg.chCoreRetire n
    let s := setFld (setFld s r 59 50 (bits w 59 50)) r 49 40 (bits w 49 40)
    if !bit w 63 then s
    else if 767 < bits w 59 50 || !spareOk s n (bits w 49 40) then setFld (setFlag s r 63 false) r 61 60 3
    else if (s.chan n).dead.contains (physOf s n (bits w 59 50)) then replaceCore s n (bits w 59 50) (bits w 49 40)
    else retireCore s n (bits w 59 50) (bits w 49 40) true

/-- CORE_UNRESPONSIVE (R571, R579): the core is replaced without its store and the steps of the channel are reissued;
with no spare left the channel leaves service. While a recovery of the core runs, no second one starts (R573): the
retirement that ends it finds the core unresponsive. -/
def opCoreUnresponsive (n log spare : Nat) (s : State) : State :=
  let old := physOf s n log
  if !outOfReset s || (s.chan n).retired.contains old then s
  else if (s.chan n).recov.contains (.core log) then
    s.setChan n { s.chan n with dead := (s.chan n).dead ++ [old] }
  else if spareOk s n spare then
    let s := s.setChan n { s.chan n with dead := (s.chan n).dead ++ [old] }
    let r := Reg.chCoreRetire n
    let s := setFld (setFld s r 59 50 log) r 49 40 spare
    replaceCore s n log spare
  else if (List.range 800).any (spareOk s n) then s
  else retireWithout (s.setChan n { s.chan n with dead := (s.chan n).dead ++ [old] }) n log

/-- A core fault with no spare left: the core is retired without one (R578). -/
def settleSpares (n : Nat) (s : State) : State :=
  if (List.range 800).any (spareOk s n) then s
  else (s.chan n).recov.foldl (fun (s : State) x => match x with
    | .core log => retireWithout s n log
    | .port _ => s) s

/-! ### Thader dies (R584, R585) -/

/-- What a channel of a lost die held: gone. -/
def dropChannel (s : State) (n : Nat) : State :=
  let s := setRecov s n []
  let s := s.setChan n { s.chan n with out := true, ops := [], mig := [], sends := [], cache := [], sync := none, cancel := none }
  let s := { s with streams := s.streams.filter fun e => e.1 / 4096 != n,
                    cores := s.cores.filter fun e => e.1 / 800 != n }
  [0, 1, 2].foldl (fun (s : State) k => s.setDie (3 * n + k) { s.die (3 * n + k) with lost := true }) s

/-- A port of a lost die carries nothing any more. -/
def dropPort (s : State) (p : Nat) : State := (setState s p 0 0).setPort p { s.port p with hup := false }

/-- Whether an operation depends on a channel: an operand of it lies in a tier or a core store of that channel (R584). -/
def dependsOn (n : Nat) (op : Op) : Bool :=
  (usedSlots op).any fun o => (op.layout o).any fun l => !l.space && (match place l.base with
    | .tier0 m _ => m == n
    | .tier1 m _ => m == n
    | .store m _ _ => m == n
    | .none => false)

/-- Loss of Thader 1 (R584). An active referee core of that die is lost with it. -/
def opThaderLoss (s : State) : State :=
  if !outOfReset s || flag s Reg.glbDieStatus 1 || flag s Reg.glbDieStatus 0 then s
  else
    let s := setFlag s Reg.glbDieStatus 1 true
    let s := [2, 3].foldl (fun s n => post (dropChannel s n) 4 0x32 0 [(2, n)]) s
    let s := [2, 3].foldl (fun s n => if fenced s n then s else wr s (Reg.chT0Fence n) (BitVec.ofNat 64 (2 ^ 31))) s
    let s := [2, 3].foldl loseTier1 s
    let s := setFlag s Reg.glbRefStatus 28 true
    let s := if fld s Reg.glbRefStatus 31 30 = 2 then setFld s Reg.glbRefStatus 31 30 0 else s
    let s := [4, 5, 6, 7].foldl dropPort s
    let s := if captainOf s = some (ownModule s) && s.ref.formed then
        let s := setFlag s Reg.glbHostCfg 2 false
        let cap := standbyOf s
        let others := (eligibleOf s (membersMask s)).filter fun m => m != ownModule s && some m != cap
        let next := ((others.find? fun m => match cap with | some c => decide (c < m) | none => true).orElse fun _ => others.head?)
        issueView s ((epochNow s + 1) % 65536) (membersMask s) cap next
      else rewriteRoutes s
    let s := [0, 1].foldl (fun s n => replayWhere s n fun (l : LoadedOp) => dependsOn 2 l.op || dependsOn 3 l.op) s
    markAbort ([2, 3].foldl takeOver s) 2

/-- Loss of Thader 0 (R585): the standby referee takes over at once, insert is cleared, and the module withdraws. The takeover
is counted and posted as any is, with reason 0, since the loss is neither of the two reasons listed (R549, R554; DESIGN
CHOICE). -/
def opThader0Loss (s : State) : State :=
  if !outOfReset s || flag s Reg.glbDieStatus 0 then s
  else
    let s := setFlag (setFlag s Reg.glbDieStatus 0 true) Reg.glbDieStatus 3 true
    let takes := fld s Reg.glbRefStatus 31 30 == 1
    let s := setFld (setFlag s Reg.glbRefStatus 29 true) Reg.glbRefStatus 31 30 (if flag s Reg.glbRefStatus 28 then 0 else 2)
    let s := if takes then post (count32 (setFld s Reg.glbRefStatus 27 24 0) Reg.glbCcTakeoverCount 1) 4 0x30 0 [(1, 1), (4, 0)]
      else s
    let s := [0, 1].foldl (fun s n => post (dropChannel s n) 4 0x32 0 [(2, n)]) s
    let s := (List.range 8).foldl dropPort s
    setInsert s false

/-- DIE_TRANSFER_UNCORRECTABLE (R581): the transfer is resent once; a second one on the same port within 1 ms is the
loss of the Letrix die, or of the far Thader die. The bridge is noted under die 12. -/
def opDieTransferUncorrectable (path : DiePath) (s : State) : State :=
  let k := match path with | .letrix k => k.val | .bridge _ => 12
  let again := match (s.die k).portUe with | some t => decide (timeNs s ≤ t + 1000000) | none => false
  let s := s.setDie k { s.die k with portUe := some (timeNs s) }
  if !again then s
  else match path with
    | .letrix k => loseStack s (k.val / 3) (k.val % 3) true
    | .bridge far => if far.val = 1 then opThaderLoss s else opThader0Loss s

/-! ### Scrubbing (R587 to R589) -/

/-- Words of the state that hold a symbol error. -/
def errWords (s : State) : List Nat := (s.errs.map fun e => e.1 / 18).eraseDups

/-- One word scrubbed: a corrected one is counted and rewritten at once, an uncorrectable one counted; both note their
DRAM row (R143, R347, R587, R589). -/
def scrubWord (s : State) (w : Nat) : State :=
  let a := 16 * w
  match decodeWord s w with
  | .clean => s
  | .corrected _ _ => rewriteWord (noteCeWord (match ceReg a with | some r => count32 s r 1 | none => s) a) w
  | .bad => noteUeWord (match ueReg a with | some r => count32 s r 1 | none => s) a

/-- The channel, core and row of a core store's cell, a spare row's included. A spare row that is not in service counts
as the row that its map register names, whatever its valid bit says: the spec does not name the row there (DESIGN
CHOICE). -/
def storeCell (s : State) (a : Nat) : Option (Nat × Nat × Nat) :=
  if 2 ^ 50 ≤ a then none
  else if 2 ^ 48 ≤ a then
    let k := (a - 2 ^ 48) / 512
    let i := k / 8
    some (i / 800, i % 800, fld s (Reg.coreRowMap (i / 800) (i % 800) (k % 8)) 8 0)
  else match place a with
    | .store n i off => some (n, i, off / 512)
    | _ => none

/-- One word of a core store scrubbed: row and count noted as a task's read would (R143, R177); an uncorrectable one raises
the fault that a reader of it would raise (R144, R587). -/
def scrubStore (s : State) (w : Nat) : State :=
  match storeCell s (16 * w) with
  | some (n, i, row) =>
    (match decodeWord s w with
     | .clean => s
     | .corrected _ _ => noteCeRow (rewriteWord (count32 s (Reg.chCsCeCount n) 1) w) n i row
     | .bad => storeFaultEvent (count32 s (Reg.chCsUeCount n) 1) n i 0 row (w % 32))
  | none => s

/-- Whether a word belongs to a target of a channel. -/
def scrubbed (s : State) (n : Nat) (t : ScrubTarget) (w : Nat) : Bool :=
  match t, place (16 * w) with
  | .tier0, .tier0 m _ => m == n
  | .tier1, .tier1 m _ => m == n
  | .coreStores, _ => (storeCell s (16 * w)).map (·.1) == some n
  | _, _ => false

/-- The interval that CH_SCRUB_CTRL gives a target; 0 stops it (R588). -/
def scrubInterval (s : State) (n : Nat) : ScrubTarget → Nat
  | .tier0 => fld s (Reg.chScrubCtrl n) 31 24
  | .tier1 => fld s (Reg.chScrubCtrl n) 23 16
  | _ => fld s (Reg.chScrubCtrl n) 15 0

/-- One word of a shared cache line scrubbed (R143, R580, R587): corrected in place, or its line invalidated. -/
def scrubCached (n : Nat) (s : State) (w : Nat) : State :=
  match decodeWord s (cachedWord w) with
  | .bad => dropLine s n (w / 128)
  | _ => freshCached s w 1

/-- SCRUB_PASS (R587 to R589): a whole pass over one target of a channel. -/
def opScrubPass (n : Nat) (t : ScrubTarget) (ups : List Upset) (s : State) : State :=
  let s := strike s ups
  if scrubInterval s n t = 0 || s.board.retained || !outOfReset s || (t = .tier0 && fenced s n) ||
      (t = .tier1 && (s.chan n).t1Out) then s
  else
    let ws := (errWords s).filter (scrubbed s n t)
    match t with
    | .coreStores => ws.foldl scrubStore s
    | .sharedCache => (cachedBad s n).foldl (scrubCached n) s
    | _ =>
      let s := ws.foldl scrubWord s
      let kind := if t = .tier0 then 3 else 4
      let s := s.setChan n { s.chan n with rowCe := (s.chan n).rowCe.filter fun e => e.1 / 2 ^ 28 != kind }
      count32 s (if t = .tier0 then Reg.chT0ScrubPassCount n else Reg.chT1ScrubPassCount n) 1

end Sys2Proof.Machine
end

