-- ==== Sys2Proof/Machine/Pmbus.lean ====
section
/-! DEFINITION. The PMBus commands of the board controller (R619 to R621). An answer stands in `out.pmbus`. -/

namespace Sys2Proof.Machine

/-- An answer; OFF, nothing answers. -/
def answer (s : State) (bs : List Byte) : State := if s.board.off then s else { s with out := { s.out with pmbus := bs } }
/-- An answer of a word. -/
def answerWord (s : State) (v : Nat) : State := answer s (leBytes 2 (v % 65536))
/-- The communication bit set: an unsupported command, or a write that is ignored. -/
def commFault (s : State) : State := if s.board.off then s else { s with board := { s.board with comm := true } }

/-- A write that takes effect only where its checking byte is right and the board controller runs. -/
def guarded (s : State) (pecOk : Bool) (f : State → State) : State :=
  if s.board.off then s else if pecOk then f s else commFault s

/-- PAGE: 0 to 16. -/
def opPage (write : Option Byte) (pecOk : Bool) (s : State) : State :=
  match write with
  | none => answer s [BitVec.ofNat 8 s.board.page]
  | some b => guarded s pecOk fun s =>
      if 16 < b.toNat then commFault s else { s with board := { s.board with page := b.toNat } }

/-- CLEAR_FAULTS: latched faults are cleared, which may end the wait of R615. -/
def opClearFaults (pecOk : Bool) (s : State) : State :=
  guarded s pecOk fun s =>
    let s := setFlag (setFlag s Reg.glbPwrStatus 25 false) Reg.glbPwrStatus 24 false
    let s := setFlag s Reg.glbThermStatus 0 false
    tryUnlock { s with board := { s.board with comm := false } }

/-- VOUT_MODE: Linear16 with exponent −12. -/
def opVoutMode (s : State) : State := answer s [0x14]

/-! ### Status: the bit places are PMBus 1.3's (PRESUMED) -/

/-- Whether a recorded voltage fault was above its limit: the spec records no direction. -/
def faultHigh (page : Nat) : Bool := (Config.openValue 620 [page]).toNat % 2 == 1

def voutByte (s : State) : Nat :=
  if flag s Reg.glbPwrStatus 25 && fld s Reg.glbPwrStatus 23 19 == s.board.page then
    (if faultHigh s.board.page then 0x80 else 0x10) else 0
def inputByte (s : State) : Nat :=
  if s.board.page ≠ 0 then 0
  else (if flag s Reg.glbPwrStatus 24 then (if faultHigh 0 then 0x80 else 0x10) else 0) +
    (if s.board.ilimit then 4 else 0)
def tempByte (s : State) : Nat :=
  (if flag s Reg.glbThermStatus 0 then 0x80 else 0) + (if allCool s then 0 else 0x40)

/-- STATUS_WORD of the page. -/
def statusWord (s : State) : Nat :=
  b2n (voutByte s ≠ 0) * 2 ^ 15 + b2n (inputByte s ≠ 0) * 2 ^ 13 + b2n (voutByte s == 0x80) * 2 ^ 5 +
    b2n (bit (inputByte s) 4) * 2 ^ 3 + b2n (tempByte s ≠ 0) * 2 ^ 2 + b2n s.board.comm * 2

def opStatusWord (s : State) : State := answerWord s (statusWord s)
def opStatusVout (s : State) : State := answer s [BitVec.ofNat 8 (voutByte s)]
/-- No output current fault is described, so none is reported. -/
def opStatusIout (s : State) : State := answer s [0]
def opStatusInput (s : State) : State := answer s [BitVec.ofNat 8 (inputByte s)]
def opStatusTemperature (s : State) : State := answer s [BitVec.ofNat 8 (tempByte s)]

/-- The alert signal as STATUS_WORD drives it (R621). -/
def statusAlert (s : State) : Bool := decide (statusWord s ≠ 0)

/-! ### Telemetry -/

/-- A reading in thousandths times a power of two, to the nearest. -/
def scaledMilli (milli : Nat) (e : Int) : Nat :=
  if e ≤ 0 then (milli * 2 ^ e.natAbs * 2 + 1000) / 2000 else (milli * 2 + 1000 * 2 ^ e.toNat) / (2000 * 2 ^ e.toNat)
/-- Linear11: a 5-bit exponent and an 11-bit mantissa, both in two's complement. -/
def linear11 (e : Int) (mant : Int) : Nat := unsigned 5 e * 2 ^ 11 + unsigned 11 mant
/-- An exponent for a reading whose exponent the spec does not show: any of those that hold it, from the least. -/
def anyExponent (code milli : Nat) : Int :=
  let fits := fun (k : Nat) => decide (scaledMilli milli ((k : Int) - 16) ≤ 1023)
  let k := ((List.range 31).find? fits).getD 31
  ((min 31 (k + (Config.openValue 620 [code]).toNat % 4) : Nat) : Int) - 16
def milli11 (milli : Nat) (e : Int) : Nat := linear11 e (scaledMilli milli e)

/-- A telemetry read on the pages that have it; on others the command is not supported. -/
def onPages (s : State) (ok : Nat → Bool) (v : Nat) : State :=
  if ok s.board.page then answerWord s v else answer (commFault s) []

def inputPage (p : Nat) : Bool := p == 0 || p == 16
def railPage (p : Nat) : Bool := decide (1 ≤ p) && decide (p ≤ 15)

def opReadVin (milli : Nat) (s : State) : State := onPages s inputPage (milli11 milli (-4))
def opReadIin (milli : Nat) (s : State) : State := onPages s inputPage (milli11 milli (-3))
/-- Linear16 with exponent −12. -/
def opReadVout (milli : Nat) (s : State) : State := onPages s railPage (scaledMilli milli (-12))
def opReadIout (milli : Nat) (s : State) : State := onPages s railPage (milli11 milli (anyExponent 0x8C milli))
def opReadTemperature1 (s : State) : State :=
  let t := signed 8 (fld s Reg.glbThermStatus 31 24)
  let e := anyExponent 0x8D (1000 * t.natAbs)
  let m := (scaledMilli (1000 * t.natAbs) e : Int)
  answerWord s (linear11 e (if t < 0 then -m else m))
def opReadPout (milli : Nat) (s : State) : State := onPages s railPage (milli11 milli (anyExponent 0x96 milli))
def opReadPin (milli : Nat) (s : State) : State := onPages s (· == 0) (milli11 milli 1)

/-! ### Identity and board registers -/

def ascii (t : String) : List Byte := t.toList.map fun c => BitVec.ofNat 8 c.toNat
def opPmbusRevision (s : State) : State := answer s [0x33]
/-- A block answer begins with its length. -/
def opMfrId (s : State) : State := answer s (6 :: ascii "CAEROX")
def opMfrModel (s : State) : State := answer s (7 :: ascii "ZS-1240")

/-- A read of half a register, or a write to it. -/
def mfrWord (r : RegRef) (hi : Bool) (write : Option W16) (pecOk : Bool) (put : W16 → State → State) (s : State) : State :=
  match write with
  | none => answerWord s (if hi then fld s r 31 16 else fld s r 15 0)
  | some w => guarded s pecOk (put w)

/-- The W1C bits of a register written as 1 are cleared. -/
def clearBits (s : State) (r : RegRef) (mask w : Nat) : State :=
  wr s r (BitVec.ofNat 64 ((rd s r).toNat - ((rd s r).toNat &&& mask &&& w)))

def opMfrPwrStatusLo (write : Option W16) (pecOk : Bool) (s : State) : State :=
  mfrWord Reg.glbPwrStatus false write pecOk (fun _ s => s) s
def opMfrPwrStatusHi (write : Option W16) (pecOk : Bool) (s : State) : State :=
  mfrWord Reg.glbPwrStatus true write pecOk
    (fun w s => tryUnlock (clearBits s Reg.glbPwrStatus 0x7000000 (w.toNat * 65536))) s
def opMfrThermStatusLo (write : Option W16) (pecOk : Bool) (s : State) : State :=
  mfrWord Reg.glbThermStatus false write pecOk (fun w s => tryUnlock (clearBits s Reg.glbThermStatus 1 w.toNat)) s
def opMfrThermStatusHi (write : Option W16) (pecOk : Bool) (s : State) : State :=
  mfrWord Reg.glbThermStatus true write pecOk (fun _ s => s) s
def opMfrByeCtrl (write : Option W16) (pecOk : Bool) (s : State) : State :=
  mfrWord Reg.glbByeCtrl false write pecOk (fun w s => opByeInsertWrite (BitVec.ofNat 64 w.toNat) s) s
def opMfrByeStatus (write : Option W16) (pecOk : Bool) (s : State) : State :=
  mfrWord Reg.glbByeStatus false write pecOk (fun w s => clearBits s Reg.glbByeStatus 0xFF00 w.toNat) s
/-- Form is written under R663: a reserved bit refuses the write. -/
def opMfrStartCtrl (write : Option W16) (pecOk : Bool) (s : State) : State :=
  mfrWord Reg.glbStartCtrl false write pecOk
    (fun w s => if w.toNat < 2 then setFlag s Reg.glbStartCtrl 0 (bit w.toNat 0) else s) s
def opMfrResetCause (s : State) : State := answerWord s (fld s Reg.glbResetCause 15 0)
def opMfrDieStatus (s : State) : State := answerWord s (fld s Reg.glbDieStatus 15 0)
def opMfrModuleReset (pecOk : Bool) (s : State) : State := guarded s pecOk opManagementReset

/-- PMBUS_UNSUPPORTED: no answer data, and the communication bit. -/
def opPmbusUnsupported (_code : Byte) (s : State) : State := answer (commFault s) []

end Sys2Proof.Machine
end

