-- ==== Sys2Proof/Machine/Control.lean ====
section
/-! DEFINITION. Control cores (R548 to R554), the event queues as firmware and host use them (R564 to R568), and the
alert signal (R567, R621). -/

namespace Sys2Proof.Machine

/-! ### Control cores: pairs 0 to 3 of the channels, 4 the referee -/

def ccStatus (k : Nat) : RegRef := if k < 4 then Reg.chCcStatus k else Reg.glbRefStatus
def ccBeat (k : Nat) : RegRef := if k < 4 then Reg.chCcHeartbeat k else Reg.glbRefHeartbeat

/-- The active core of a pair is taken over (R549, R552, R553): it stays failed, its standby starts where there is one,
and event 0x30 is posted; a channel whose last core fails leaves service. The standby resumes the recoveries that the
journal shows under way (R551, R573). -/
def ccTakeover (s : State) (k reason : Nat) : State :=
  let r := ccStatus k
  let act := fld s r 31 30
  if act = 0 then s
  else
    let s := setFlag s r (if act = 1 then 29 else 28) true
    let left := if act = 1 then (if flag s r 28 then 0 else 2) else 0
    let s := setFld (setFld (setFld s r 31 30 left) r 27 24 reason) r 1 0 0
    let s := count32 s Reg.glbCcTakeoverCount 1
    let s := post s k 0x30 0 [(1, b2n (decide (k = 4))), (4, reason)]
    let s := if k < 4 && left ≠ 0 then setRecov s k (JRec.running (s.chan k).book.journal) else s
    if left = 0 && k < 4 then channelOut s k else s

/-- WATCHDOG_INTERVAL (R549): 10 µs of a pair end; two without a heartbeat take the active core over. -/
def opWatchdogInterval (k : Nat) (s : State) : State :=
  if !outOfReset s || fld s (ccStatus k) 31 30 = 0 then s
  else if s.beats.contains k then { s with beats := s.beats.filter (· != k) }
  else if fld s (ccStatus k) 1 0 + 1 < 2 then setFld s (ccStatus k) 1 0 (fld s (ccStatus k) 1 0 + 1)
  else ccTakeover s k 1

/-- MACHINE_CHECK (R549). -/
def opMachineCheck (k : Nat) (s : State) : State := if outOfReset s then ccTakeover s k 2 else s

/-- HEARTBEAT_WRITE (R549, R550): only the active core's write counts, whatever its value; others are refused. -/
def opHeartbeatWrite (k : Nat) (seat : Seat) (v : W64) (s : State) : State :=
  if seat ≠ .active || fld s (ccStatus k) 31 30 = 0 then s
  else
    let s := setFld (setFld s (ccBeat k) 31 0 (bits v.toNat 31 0)) (ccStatus k) 1 0 0
    { s with beats := if s.beats.contains k then s.beats else s.beats ++ [k] }

/-! ### Event queues -/

/-- EVENT_QUEUE_HEAD_WRITE (R565, R663): a queue that gains room takes its waiting records. -/
def opEventQueueHeadWrite (q : Nat) (v : W64) (s : State) : State :=
  if bits v.toNat 63 10 ≠ 0 then s else evRoom (setFld s (eqHead q) 9 0 (bits v.toNat 9 0)) q

/-- A base that a queue may take (R565). -/
def eqBaseOk (q a : Nat) : Bool :=
  a == 0 || (a % 64 == 0 && (match place a, place (a + 32767) with
    | .tier1 n _, .tier1 m _ => n == m && (q == 4 || n == q)
    | _, _ => false))

/-- Whether the whole ring lies in tier 1: for the global queue it may span channels, whose ranges adjoin. -/
def globalRingOk (a : Nat) : Bool :=
  a % 64 == 0 && (match place a, place (a + 32767) with
    | .tier1 _ _, .tier1 _ _ => true
    | _, _ => false)

/-- EVENT_QUEUE_BASE_WRITE (R565, R663). -/
def opEventQueueBaseWrite (q : Nat) (v : W64) (s : State) : State :=
  let a := bits v.toNat 47 0
  if bits v.toNat 63 48 ≠ 0 || !(eqBaseOk q a || (q == 4 && globalRingOk a)) then s
  else evRoom (setFld s (eqBase q) 47 0 a) q

/-- The bytes of a global-queue record by its seq; none when it has not been posted or has been overwritten (R568). -/
def globalRecord (s : State) (q : Nat) : Option (List Byte) :=
  let d := (s.geq.seq + 2 ^ 32 - q % 2 ^ 32) % 2 ^ 32
  if fld s Reg.glbEqBase 47 0 = 0 || d = 0 || 1024 < d then none
  else some (viewRange s (fld s Reg.glbEqBase 47 0 + 32 * ((fld s Reg.glbEqTail 9 0 + 1024 - d) % 1024)) 32)

/-- The seqs of the records not yet looked at for forwarding. -/
def unforwarded (s : State) : List Nat :=
  let d := min 1023 ((s.geq.seq + 2 ^ 32 - s.geq.fwd) % 2 ^ 32)
  (List.range d).map fun i => (s.geq.seq + 2 ^ 32 - d + i) % 2 ^ 32

/-- The message that carries records to the host, through the captain (R520, R525, R567). -/
def noticeMsg (s : State) (captain : Nat) (rs : List (List Byte)) : Msg :=
  ⟨word0 4 1 captain (ownModule s) 7 (32 * rs.length) 0, BitVec.ofNat 64 (5 * 2 ^ 60 + rs.length * 2 ^ 52),
    BitVec.ofNat 64 (2 ^ 63), 0, rs.flatten⟩

/-- EVENT_FORWARD (R567): up to 64 records with host set leave in seq order; a fault-class one sets pending. -/
def opEventForward (s : State) : State :=
  match captainOf s with
  | none => s
  | some c =>
    let all := (unforwarded s).filterMap fun q => (globalRecord s q).map fun r => (q, r)
    let mine := (all.filter fun e => bit (leNat (e.2.take 8)) 52).take 64
    match mine.getLast? with
    | none => { s with geq := { s.geq with fwd := s.geq.seq } }
    | some last =>
      let s := { s with geq := { s.geq with fwd := (last.1 + 1) % 2 ^ 32 } }
      let s := emit s none none (noticeMsg s c (mine.map (·.2)))
      let s := count64 s Reg.glbEvtNoticeCount mine.length
      if mine.any fun e => bit (leNat (e.2.take 8)) 53 then setFlag s Reg.glbEvtStatus 0 true else s

/-- EVENT_ACKNOWLEDGE (R567, R568): 1 written to pending. -/
def opEventAcknowledge (s : State) : State := setFlag s Reg.glbEvtStatus 0 false

/-- The alert signal of the management connector (R567, R621). -/
def alertSignal (s : State) : Bool := flag s Reg.glbEvtStatus 0 || statusAlert s

end Sys2Proof.Machine
end

