-- ==== Sys2Proof/Machine/Engine.lean ====
section
/-! DEFINITION. The commands of a core that several engines share: core store accesses, checksum comparisons, waits, and
fill and copy (R90, R100 to R106, R140 to R159, R167, R697, R698). -/

namespace Sys2Proof.Machine

/-- The operation and grid core of a physical core's array task, if it has started and is not cancelled. -/
def arrayAt (s : State) (n i : Nat) : Option (LoadedOp × GridCore) :=
  (s.core n i).array.bind fun a => (liveOp s n a.opId).bind fun l =>
    (l.grid.find? (·.phys == i)).bind fun g => if l.started.contains g.log then some (l, g) else none

/-- The array task goes on with what its rings now hold, if it is not halted; the tiles of an attention pass come with the
cycles for which they are late and why (R275). -/
def feedTask (s : State) (n i : Nat) (late : Nat := 0) (cause : StallCause := .other) : State :=
  if !taskRuns (s.core n i) 0 then s
  else match arrayAt s n i with
    | some (l, g) =>
      if l.op.kind = 1 then feedAttention s n l g late cause
      else if l.op.kind = 0 then feedArrays s n l g
      else if l.op.kind = 2 then settlePairs n l g ((workTiles l.op g).length + 1) (takeTiles s n l g)
      else s
    | none => s

/-- A command's effect on the array task that drains behind the present one (R272), with that task's own draws; the store
path compares and writes its passes first. A core fault there stops the whole core. -/
def withBehind (n i : Nat) (f : State → State) (s : State) : State :=
  let c := s.core n i
  match c.behind with
  | none => f s
  | some (a, seed, draws) =>
    let s := f (s.setCore n i { c with array := some a, behind := none, seed := seed, draws := draws })
    let d := s.core n i
    let ended := fun (b : ArrayTask) => (findOp s n b.opId).all fun l =>
      (l.grid.find? (·.phys == i)).all fun g => l.finished.contains g.log
    let left := d.array.bind fun b => if ended b then none else some (b, d.seed, d.draws)
    let faulted := left.any fun b => b.1.halted == some .data && b.1.awaiting.isEmpty && !a.awaiting.isEmpty
    let front := if faulted then c.array.map fun x => { x.discard with halted := some .data } else c.array
    s.setCore n i { d with array := front, behind := left, seed := c.seed, draws := c.draws }

/-- Whether the task that drains behind the array task has passes to start again, after a core fault (R103, R272): they come
before those of the array task. -/
def behindDue (s : State) (n i : Nat) : Bool := (s.core n i).behind.any fun b => !passesFed s n i b.1

/-- A command's effect on the array task of a core that takes operands: that which drains behind, where it is due. -/
def withFeeding (n i : Nat) (f : State → State) (s : State) : State := if behindDue s n i then withBehind n i f s else f s

/-- CORE_STORE_ACCESS (R85 to R87, R140 to R156, R177): one access through the port, after the cycles it waited on the
scoreboard. An access of the array edge or the sparse unit brings operands, and the array task goes on; a key or value tile of
attention may have come late (R274, R275, R401). -/
def opCoreStoreAccess (n i : Nat) (a : CsAccess) (waited : Nat) (ups : List Upset) (s : State) (late : Nat := 0)
    (cause : StallCause := .other) : State :=
  let s := strike s ups
  let t := userTask a.user
  if !accOk a.column a.row a.word a.count || !taskRuns (s.core n i) t then s
  else
    let s := if t < 3 && decide (0 < waited) then count64 s (Reg.chSbWaitCycles n) waited else s
    let s := csAccess s n i a
    if t = 0 then withFeeding n i (fun s => feedTask s n i late cause) s else s

/-- The pass at the front of a core's store path compared, and committed or failed (R100 to R106, R398); a failed pass of
kind 0x2 takes its pairs anew (R103, R303). -/
def compareFront (n i : Nat) (ds : List Disturb) (s : State) : State :=
  match arrayAt s n i with
  | none => s
  | some (l, g) =>
    if l.op.kind = 1 then compareAttention s n l g ds
    else
      let s := comparePass s n l g ds
      if l.op.kind ≠ 2 then s
      else if (s.core n i).array.any fun a => a.halted.isSome && a.awaiting.isEmpty then replayPairs s n l g
      else settleProducer (settlePairs n l g ((workTiles l.op g).length + 1) s) n l

/-- CHECKSUM_COMPARE: first the passes that drain behind the array task, then its own (R90, R272). A core fault that finds
no spare left takes the core out at once (R578). -/
def opChecksumCompare (n log : Nat) (ds : List Disturb) (s : State) : State :=
  let i := arrayCore s n log
  let s := if (s.core n i).behind.any fun b => !b.1.awaiting.isEmpty || b.1.attn.isSome then withBehind n i (compareFront n i ds) s
    else compareFront n i ds s
  settleSpares n s

/-- COMBINE on the task that drains behind the present one, or on that one (R122, R272). -/
def opCombineNext (n log : Nat) (s : State) : State := withBehind n (arrayCore s n log) (opCombine n log) s

/-- STORE_PATH_WAIT (R36, R90, R698): cycles for which a pass waits: for a free entry of the store path, or, as a part's
store, for the combine that reads its entry of the part area; for attention, cycles for which value passes that are due
wait for a vector step (R397). -/
def opStorePathWait (n log cycles : Nat) (s : State) : State :=
  let i := arrayCore s n log
  match arrayAt s n i, (s.core n i).array with
  | some (l, g), some a =>
    let old := ((s.core n i).behind.map (·.1.awaiting)).getD []
    let owner := if old.isEmpty then some l else (s.core n i).behind.bind fun b => findOp s n b.1.opId
    let part : Bool := match old ++ a.awaiting, owner with
      | p :: _, some o => decide (1 < o.op.parts) && decide (combinedOf (s.core n (partCore o g).phys) o.op.opId + 2 ≤ p.seq)
      | _, _ => false
    let step : Bool := l.op.kind = 1 && a.awaiting.isEmpty && a.attn.any fun x => x.phase != 0 && a.pass = 0
    if part then count64 s (Reg.chStallOther n) cycles
    else if 2 ≤ old.length + a.awaiting.length || step then lateNoStream s n log l.op.opId cycles .other
    else s
  | _, _ => s

/-- The remote operands of a task whose windows' counters have reached their next target take one more arrival
(R167, R211). -/
def takeArrivals (s : State) (n : Nat) (op : Op) (g : GridCore) (rem : List (Nat × W32 × Nat)) : List (Nat × W32 × Nat) :=
  rem.map fun (r : Nat × W32 × Nat) =>
    match op.layout r.1 with
    | none => r
    | some l =>
      match windowOf s n g.phys (g.base * 512 + l.base) 1 with
      | none => r
      | some k =>
        let c := fld s (Reg.coreRecvWindow n g.phys k) 28 26
        if reached s n g.phys c (r.2.1 + BitVec.ofNat 32 (r.2.2 + 1)) then (r.1, r.2.1, r.2.2 + 1) else r

/-- The tasks of a physical core that wait on an arrival counter go on once it reaches their target. -/
def resumeOn (n : Nat) (s : State) (i : Nat) : State :=
  let c := s.core n i
  let grid := fun (id : W32) => (liveOp s n id).bind fun l => (l.grid.find? (·.phys == i)).map fun g => (l, g)
  let arr := c.array.map fun a => match grid a.opId with
    | some (l, g) => { a with remote := takeArrivals s n l.op g a.remote }
    | none => a
  let vec := c.vec.map fun v => match grid v.opId with
    | some (l, g) => { v with remote := takeArrivals s n l.op g v.remote }
    | none => v
  s.setCore n i { c with array := arr, vec := vec }

/-- ARRIVAL_WAIT_RESUME (R167, R211, R218): the tasks of a logical core, on each physical core that its loaded operations
stand on. -/
def opArrivalWaitResume (n log : Nat) (s : State) : State := (coresOf s n log).eraseDups.foldl (resumeOn n) s

/-! ### Fill and copy (R157 to R159, R697) -/

/-- The fill and copy task of a core with its next command, where that is of the asked kind. -/
def nextFill (s : State) (n log : Nat) (copy : Bool) : Option (FillTask × LoadedOp × GridCore × FillCmd) :=
  let i := fillCore s n log
  (s.core n i).fill.bind fun f => (liveOp s n f.opId).bind fun l => (l.grid.find? (·.phys == i)).bind fun g =>
    (l.cmds[f.pos]?).bind fun c =>
      if c.copy == copy && f.halted.isNone && l.started.contains g.log then some (f, l, g, c) else none

/-- The words of a byte range of a region: row and word of each. -/
def regionWords (g : GridCore) (off len : Nat) : List (Nat × Nat) :=
  (List.range (len / 16)).map fun k => ((g.base * 512 + off) / 16 + k) |> fun w => (w / 32, w % 32)

/-- Whether a range of the store waits on another task's entries (R154): it is accessed row by row. -/
def rangeWaits (s : State) (n : Nat) (g : GridCore) (write : Bool) (ws : List (Nat × Nat)) : Bool :=
  wordsWait (s.core n g.phys) 2 write ws

/-- A command carried out: the next one, or the end of the core's work in the operation. -/
def fillDone (s : State) (n : Nat) (l : LoadedOp) (g : GridCore) (f : FillTask) : State :=
  let c := s.core n g.phys
  let s := s.setCore n g.phys { c with fill := c.fill.map fun x => { x with pos := x.pos + 1 } }
  if f.pos + 1 = l.cmds.length then finishCore s n l.op.opId g.log else s

/-- FILL (R157, R697): the pattern written to every word of the range. -/
def opFill (n log : Nat) (s : State) : State :=
  match nextFill s n log false with
  | none => s
  | some (f, l, g, c) =>
    let ws := regionWords g c.dst c.len
    if rangeWaits s n g true ws then scoreHeld s n
    else
      let s := ws.foldl (fun (s : State) (w : Nat × Nat) => csWrite s n g.phys 2 w.1 w.2 c.pattern.toNat (2 ^ 128 - 1)) s
      fillDone s n l g f

/-- COPY (R157, R158, R697): the destination takes the source as it stood before the copy. -/
def opCopy (n log : Nat) (s : State) : State :=
  match nextFill s n log true with
  | none => s
  | some (f, l, g, c) =>
    let src := regionWords g c.src c.len
    let dst := regionWords g c.dst c.len
    if rangeWaits s n g false src || rangeWaits s n g true dst then scoreHeld s n
    else match taskRead s n g.phys 2 src with
      | (s, false) => s
      | (s, true) =>
        let data := src.map fun w => csView s n g.phys w.1 w.2
        let s := (dst.zip data).foldl (fun (s : State) (w : (Nat × Nat) × Nat) =>
          csWrite s n g.phys 2 w.1.1 w.1.2 w.2 (2 ^ 128 - 1)) s
        fillDone s n l g f

end Sys2Proof.Machine
end

