-- ==== Sys2Proof/Machine/Security.lean ====
section
/-! DEFINITION. Secure boot, identity, measurement, attestation and life cycle (R623 to R643). Signatures and digests
are the standards' functions, opaque in `Config`. -/

namespace Sys2Proof.Machine

/-! ### Life-cycle state and roots (R623, R636, R640) -/

/-- The life-cycle state (R640): the later one only when both words hold it. The second word is burned last, so it always
holds the state in force. -/
def lifeState (s : State) : Nat := s.fuses.state1

/-- The owner slot in use: the last one enrolled, unless it is revoked. -/
def ownerSlot (f : Fuses) : Option Nat :=
  match (List.range 4).reverse.find? fun i => ((f.owner[i]?).join).isSome with
  | some i => if f.ownerRev.getD i false then none else some i
  | none => none

/-- GLB_LC_STATUS follows the fuses; the debug port is open in BLANK and VENDOR_TEST (R636). -/
def lcStatus (s : State) : State :=
  let s := setFld s Reg.glbLcStatus 31 28 (lifeState s)
  let s := setFlag s Reg.glbLcStatus 24 (decide (lifeState s ≤ 1))
  let o := ownerSlot s.fuses
  setFlag (setFld s Reg.glbLcStatus 27 26 (o.getD 0)) Reg.glbLcStatus 25 o.isSome

/-- The vendor key of a slot, unless it is revoked. -/
def vendorKey (f : Fuses) (k : Nat) : Option (BitVec 512) := if f.vendorRev.getD k true then none else f.vendor[k]?
/-- The owner key in the current slot. -/
def ownerKey (f : Fuses) (k : Nat) : Option (BitVec 512) :=
  if ownerSlot f = some k then (f.owner[k]?).join else none

/-! ### Identity (R631, R632) -/

/-- Bytes cut or padded with zeros to a length. -/
def fit (n : Nat) (bs : List Byte) : List Byte := (bs ++ List.replicate n 0).take n
/-- A digest as bytes, and a number's little-endian bytes. -/
def digestBytes (d : BitVec 512) : List Byte := leBytes 64 d.toNat

/-- The identity public key. -/
def identityKey (s : State) : List Byte := match s.sec.key with | some k => fit 2592 (Config.publicKey k) | none => []
/-- The device ID; without an identity the spec names none. -/
def deviceId (s : State) : List Byte :=
  (digestBytes (match s.sec.key with
    | some _ => Config.sha3 (identityKey s)
    | none => Config.openDigest 632 [])).take 16

/-! ### Images (R626, R627, R629) -/

/-- Whether an image of a kind is accepted in the present state. -/
def imageOk (s : State) (kind : Nat) (i : Image) : Bool :=
  let st := lifeState s
  let key := if kind = 2 && st == 3 then ownerKey s.fuses i.keySlot
    else if st == 1 || st == 2 || st == 3 || st == 4 then vendorKey s.fuses i.keySlot else none
  let pk := Config.sha3 (i.bytesAt 0x60 2592)
  let bind := i.bytesAt 0x10 16
  i.magic == 0x4D49535A && i.kind == kind && i.keySlot < 4 && key == some pk &&
    Config.verify pk (i.bytesAt 0 0xA80) (i.bytesAt 0xA80 4627) && decide (i.svn ≤ 63) &&
    decide ((if kind = 1 then s.fuses.minBoot else s.fuses.minRun) ≤ i.svn) &&
    (bind == List.replicate 16 0 || bind == deviceId s) && i.len == i.payload.length &&
    decide (i.len + 0x2000 ≤ (if kind = 1 then 2 else 28) * 0x100000) &&
    i.bytesAt 0x20 64 == digestBytes (Config.sha3 i.payload)

/-- The digest field of an image's header. -/
def Image.digest (i : Image) : BitVec 512 := BitVec.ofNat 512 (i.field 0x20 64)

/-! ### Measurements (R633) -/

/-- A register of several slots as a number, and written. -/
def wide (s : State) (r : Nat → RegRef) (n : Nat) : Nat :=
  (List.range n).foldl (fun a k => a + (rd s (r k)).toNat * 2 ^ (64 * k)) 0
def setWide (s : State) (r : Nat → RegRef) (n v : Nat) : State :=
  (List.range n).foldl (fun s k => wr s (r k) (BitVec.ofNat 64 (v / 2 ^ (64 * k)))) s

def meas (i : Nat) : Nat → RegRef := fun k => Reg.glbSecMeas (8 * i + k)

/-- An entry of the measurement log. The kind of item and its information are not given: free values. -/
def logEntry (s : State) (i : Nat) (d : BitVec 512) : List Byte :=
  let kind := (Config.openValue 633 [i, s.sec.log.length]).toNat % 256
  let info := (Config.openValue 633 [i, s.sec.log.length, 1]).toNat
  [BitVec.ofNat 8 i, BitVec.ofNat 8 kind] ++ List.replicate 6 0 ++ leBytes 8 info ++ digestBytes d

/-- A measurement register extended with a digest. -/
def extend (s : State) (i : Nat) (d : BitVec 512) : State :=
  let m := leBytes 64 (wide s (meas i) 8) ++ digestBytes d
  let e := logEntry s i d
  let s := setWide s (meas i) 8 (Config.sha3 m).toNat
  if 64 ≤ s.sec.log.length then setFlag s Reg.glbLcStatus 21 true
  else { s with sec := { s.sec with log := s.sec.log ++ [e] } }

/-- What GLB_SEC_MEAS2 is extended with; how the items are laid out is not given. -/
def stateDigest (s : State) : BitVec 512 :=
  Config.openDigest 633 [2, lifeState s, (ownerSlot s.fuses).getD 0, s.fuses.minBoot, s.fuses.minRun,
    b2n (flag s Reg.glbLcStatus 24)]

/-! ### Attestation (R635) -/

/-- Bytes of a window of registers. -/
def windowBytes (s : State) (r : Nat → RegRef) (off n : Nat) : List Byte :=
  (List.range n).map fun i => BitVec.ofNat 8 ((rd s (r ((off + i) / 8))).toNat / 2 ^ (8 * ((off + i) % 8)))

/-- Bytes written into a window of registers. -/
def setWindow (s : State) (r : Nat → RegRef) (bs : List Byte) : State :=
  (List.range (cdiv bs.length 8)).foldl (fun s k =>
    wr s (r k) (BitVec.ofNat 64 (leNat ((bs.drop (8 * k)).take 8)))) s

/-- The signed part of a report. -/
def reportBody (s : State) (count : Nat) : List Byte :=
  leBytes 4 1 ++
  [BitVec.ofNat 8 (fld s Reg.glbLcStatus 31 28), BitVec.ofNat 8 (fld s Reg.glbLcStatus 27 26),
    BitVec.ofNat 8 (fld s Reg.glbLcStatus 24 24), BitVec.ofNat 8 (fld s Reg.glbLcStatus 23 23)] ++
  leBytes 8 count ++ deviceId s ++ windowBytes s Reg.glbAttNonce 0 64 ++ leBytes 4 s.fuses.minBoot ++
  leBytes 4 s.fuses.minRun ++ leBytes 8 0 ++ windowBytes s Reg.glbSecMeas 0 512 ++ identityKey s

/-- ATTESTATION_REQUEST (R635): a write of go; the report is signed with the identity key. -/
def opAttestationRequest (s : State) : State :=
  match s.sec.key with
  | none => s
  | some k =>
    let n := s.sec.count + 1
    let body := reportBody s n
    let bs := fit 8192 (body ++ fit 4627 (Config.sign k body))
    let s := { s with sec := { s.sec with count := n } }
    setFlag (setFlag (setWindow s Reg.glbAttReport bs) Reg.glbAttCmd 31 false) Reg.glbAttCmd 29 true

/-! ### Tokens (R637 to R641, R643) -/

/-- Who must sign a transition. -/
inductive Authority where
  | vendor | owner | newOwner
deriving DecidableEq, Repr

/-- The rows of R637. -/
def transition : Nat → Nat → Option Authority
  | 0, 1 => some .vendor
  | 1, 2 => some .vendor
  | 2, 3 => some .newOwner
  | 4, 3 => some .newOwner
  | 3, 4 => some .owner
  | 2, 5 => some .vendor
  | 4, 5 => some .vendor
  | 3, 5 => some .owner
  | _, _ => none

def token (s : State) (off n : Nat) : List Byte := windowBytes s Reg.glbLcToken off n
def tokenNat (s : State) (off n : Nat) : Nat := leNat (token s off n)

/-- The key that a token's authority names, where the token holds it; an enrolment proves possession of a new one. -/
def authorityKey (s : State) (a : Authority) : Option (BitVec 512) :=
  let slot := tokenNat s 1 1
  let pk := Config.sha3 (token s 0x60 2592)
  let named := BitVec.ofNat 512 (tokenNat s 0x20 64)
  let fused := match a with
    | .vendor => if slot < 4 then vendorKey s.fuses slot else none
    | .owner => ownerKey s.fuses slot
    | .newOwner => some pk
  if fused = some pk && named = (if a = .newOwner then pk else 0) then some pk else none

/-- The result of a token's checks: 0 where all hold (R643). -/
def tokenResult (s : State) (a : Option Authority) : Nat :=
  match a with
  | none => 4
  | some a =>
    match authorityKey s a with
    | none => 6
    | some pk =>
      if !Config.verify pk (token s 0 0xA80) (token s 0xA80 4627) then 1
      else if tokenNat s 8 8 ≠ (rd s Reg.glbLcNonce).toNat then 2
      else if token s 0x10 16 ≠ deviceId s then 3
      else if a = .newOwner && !s.fuses.owner.contains none then 5
      else 0

/-- An attempt that ends without a reset: its result, go and busy clear, a fresh nonce (R639, R641). -/
def endAttempt (s : State) (result : Nat) (nonce : W64) : State :=
  let s := setFld (setFlag (setFlag s Reg.glbLcCmd 31 false) Reg.glbLcCmd 30 false) Reg.glbLcCmd 29 26 result
  wr s Reg.glbLcNonce nonce

/-- A seed fuse copy after a burn: no fuse returns to unburned (R623). -/
def burnSeed (fuses seed : List Byte) : List Byte := (List.range 32).map fun i => fuses.getD i 0 ||| seed.getD i 0

/-- A reset or the loss of power while the second state word is burned (R640): only the first holds the new state. -/
def cutBurn (s : State) (to_ : Nat) (c : BurnCut) : State :=
  let s := { s with fuses := { s.fuses with state0 := to_ } }
  match c with
  | .signal => enterReset 2 false s
  | .management => enterReset 4 false s
  | .power => enterReset 16 true s

/-- The action of a transition's row, on fuses and flash (R637). -/
def transitionAct (s : State) (to_ : Nat) (seed : List Byte) : State :=
  let f := s.fuses
  let erased := { s.flash with run := [none, none] }
  match to_ with
  | 2 => { s with fuses := { f with seed0 := burnSeed f.seed0 seed, seed1 := burnSeed f.seed1 seed } }
  | 3 =>
    let k := (f.owner.findIdx? (· == none)).getD 0
    { s with fuses := { f with owner := f.owner.set k (some (Config.sha3 (token s 0x60 2592))) } }
  | 4 =>
    let f := match ownerSlot f with
      | some k => { f with ownerRev := f.ownerRev.set k true }
      | none => f
    { s with fuses := f, flash := erased }
  | 5 => { s with fuses := { f with seed0 := List.replicate 32 0xFF, seed1 := List.replicate 32 0xFF }, flash := erased }
  | _ => s

/-- LC_TRANSITION (R631, R637 to R640, R643): a write of go without dbg. `seedBack` is what is burned into the second
copy of the seed, against `seed` in the first; `cut` a reset or loss of power before the second state word is burned. -/
def opLcTransition (seed seedBack : List Byte) (nonce : W64) (cut : Option BurnCut) (s : State) : State :=
  let to_ := tokenNat s 0 1
  let r := tokenResult s (transition (lifeState s) to_)
  if r ≠ 0 then endAttempt s r nonce
  else
    match cut with
    | some c => cutBurn s to_ c
    | none =>
      let f := s.fuses
      let copies := (burnSeed f.seed0 seed, burnSeed f.seed1 seedBack)
      if to_ = 2 && copies.1 ≠ copies.2 then
        endAttempt { s with fuses := { f with seed0 := copies.1, seed1 := copies.2 } } 7 nonce
      else
        let s := transitionAct s to_ seed
        let s := { s with fuses := { s.fuses with state0 := to_, state1 := to_ } }
        enterReset 8 false (endAttempt s 0 nonce)

/-- DEBUG_TOKEN (R641): a write of go with dbg set. -/
def opDebugToken (nonce : W64) (s : State) : State :=
  let allowed := lifeState s == 4 && tokenNat s 0 1 == 0xD
  let r := tokenResult s (if allowed then some .vendor else none)
  let s := setFlag s Reg.glbLcCmd 25 true
  if r ≠ 0 then endAttempt s r nonce
  else
    let s := setFlag s Reg.glbLcStatus 24 true
    endAttempt (extend s 2 (stateDigest s)) 0 nonce

/-! ### Weight digests (R27, R634, R657) -/

/-- The digests of the 2 MiB units of a part. -/
def unitDigests (s : State) (n off len : Nat) : List Byte :=
  (List.range (cdiv len 0x200000)).flatMap fun u =>
    digestBytes (Config.sha3 (viewRange s (tier0Base n + off + 0x200000 * u) (min 0x200000 (len - 0x200000 * u))))

/-- A model's weight digest. -/
def weightDigest (s : State) (m : ModelPlan) : BitVec 512 :=
  let homes := m.homes.mergeSort fun a b => a.1 ≤ b.1
  Config.sha3 (homes.flatMap fun e => (e.2.mergeSort fun a b => a.1 ≤ b.1).flatMap fun p => unitDigests s e.1 p.1 p.2)

/-- Every frame of a model's primary copy is present. -/
def weightsPresent (s : State) (m : ModelPlan) : Bool :=
  m.homes.all fun e => e.2.all fun p => !(s.chan e.1).absent.any fun v =>
    decide (v.1 * 32768 < p.1 + p.2) && decide (p.1 < (v.2 + 1) * 32768)

/-- MODEL_WEIGHT_DIGEST (R634, R657): once the weights are there and until its digest has failed, a model is hashed,
measured, and marked ready or failed. -/
def opModelWeightDigest (model : Nat) (s : State) : State :=
  match modelOf s model with
  | none => s
  | some m =>
    if !(s.ref.models.contains (model, ModelState.notReady)) || !weightsPresent s m then s
    else
      let d := weightDigest s m
      let st := if d = m.digest then ModelState.ready else ModelState.failed
      let s := extend s 3 d
      let s := setRef s { s.ref with models := s.ref.models.map fun e => if e.1 == model then (model, st) else e }
      tryReady s

end Sys2Proof.Machine
end

