-- ==== Sys2Proof/Machine/Startup.lean ====
section
/-! DEFINITION. Reset release to ready for service (R647 to R658): boot ROM, memory training, wipe, boot firmware, and
the write of service mode. -/

namespace Sys2Proof.Machine

/-! ### Rows of the register map -/

/-- The bits of the fields of a row that meet a condition. -/
def fieldMask (fs : List Field) (p : Field → Bool) : Nat :=
  (fs.filter p).foldl (fun a f => a ||| ((2 ^ (f.hi + 1 - f.lo) - 1) * 2 ^ f.lo)) 0

/-- The bits of a slot that no written value may set: reserved fields, and bits that the row gives no field (R10,
R661, R663). -/
def reservedBits (fs : List Field) : Nat := (2 ^ 64 - 1) ^^^ fieldMask fs fun f => !f.resv

/-- A row has a field that a write can change. -/
def hasWritable (fs : List Field) : Bool := fs.any fun f => !f.resv && (f.acc == .rw || f.acc == .w1c)

/-- Whether a write of a value to a row is not refused (R663). -/
def rowAccepts (r : RegRow) (v : Nat) : Bool := hasWritable r.fields && (v &&& reservedBits r.fields) == 0

/-- The value of a register after a plain write: RW bits replaced, W1C bits cleared where 1 is written (R9, R663). -/
def writtenValue (r : RegRow) (old v : Nat) : Nat :=
  let rw := fieldMask r.fields fun f => !f.resv && f.acc == .rw
  let w1 := fieldMask r.fields fun f => !f.resv && f.acc == .w1c
  (old &&& ((2 ^ 64 - 1) ^^^ (rw ||| (v &&& w1)))) ||| (v &&& rw)

/-- The reference of the register at an address. -/
def refAt (r : RegRow) (a : Nat) : RegRef := ⟨a, BitVec.ofNat 64 (fieldsReset r.fields)⟩

/-- A write of a register by firmware: refused, and so discarded, where a bit of a reserved field is 1 (R663). -/
def firmwareWrite (s : State) (r : RegRef) (v : W64) : State :=
  match regRow r.addr with
  | some x => if rowAccepts x v.toNat then wr s r (BitVec.ofNat 64 (writtenValue x (rd s r).toNat v.toNat)) else s
  | none => s

/-! ### The boot ROM (R647 to R649) -/

/-- The maps that the fuse record holds (R172, R669). -/
def loadFuses (s : State) : State :=
  let s := (s.fuses.coreMap.take 4).zipIdx.foldl (fun s (p : List Nat × Nat) =>
    (p.1.take 768).zipIdx.foldl (fun s (q : Nat × Nat) => setFld s (Reg.chCoreMap p.2 q.2) 9 0 q.1) s) s
  s.fuses.rowMap.foldl (fun s (e : Nat × Nat × Nat × Nat) =>
    if e.1 < 4 && e.2.1 < 800 && e.2.2.1 < 8 then
      setFld (setFlag s (Reg.coreRowMap e.1 e.2.1 e.2.2.1) 31 true) (Reg.coreRowMap e.1 e.2.1 e.2.2.1) 8 0 e.2.2.2
    else s) s

/-- An image fault: the module stays in RESET (R629). -/
def imageFault (s : State) : State := failStart (setFlag s Reg.glbLcStatus 22 true) 1

/-- The boot ROM accepts boot firmware from slot A, else from slot B (R629), and measures it (R633). In BLANK and RETIRED
nothing runs. -/
def bootRom (s : State) : State :=
  let st := lifeState s
  if st = 0 || 5 ≤ st then setPhase s 1
  else
    let s := { s with sec := { s.sec with key := some s.fuses.seed0 } }
    match (s.flash.boot.filterMap id).find? (imageOk s 1) with
    | none => imageFault s
    | some i =>
      let s := { s with sec := { s.sec with boot := some i } }
      setPhase (extend (extend s 0 (Config.openDigest 633 [0])) 0 i.digest) 1

/-- RESET_RELEASE (R505, R645, R647, R648): the module number is read from the strapping, a fresh nonce drawn, and the
boot ROM runs on the primary or on its standby. -/
def opResetRelease (straps : Nat) (primaryStarts : Bool) (nonce : W64) (s : State) : State :=
  if powerState s ≠ 2 || s.board.held || s.board.tap.outside || phase s ≠ 0 then s
  else
    let s := setPower { s with board := { s.board with straps := straps, causes := 0 } } 3
    let s := setFld s Reg.glbGroupStatus 27 25 straps
    let s := wr s Reg.glbLcNonce nonce
    let s := if primaryStarts then s
      else setFld (setFlag s Reg.glbRefStatus 29 true) Reg.glbRefStatus 31 30 2
    bootRom (loadFuses (lcStatus s))

/-- MEMORY_TRAINING_DONE (R585, R648, R649). -/
def opMemoryTrainingDone (deadT0 deadT1 : List Nat) (t0Dead t1Dead : Bool) (s : State) : State :=
  if phase s ≠ 1 then s
  else if t0Dead then failStart (opThader0Loss s) 3
  else
    let s := if t1Dead then opThaderLoss s else s
    let s := deadT0.foldl (fun s k => fence s (k / 3) (k % 3) false) s
    let s := deadT1.foldl (fun s k => if (s.chan (k / 6)).t1Out then s else loseTier1 s (k / 6)) s
    setPhase s 2

/-! ### The run image (R325, R428, R446, R629) -/

/-- The run image slots in the order of preference: higher svn first, slot A on a tie. -/
def runSlots (s : State) : List Image :=
  ((s.flash.run.filterMap id).filter (imageOk s 2)).mergeSort fun a b => decide (b.svn ≤ a.svn)

/-- A range register's extent in bytes (R332, R423), and a pool's (R427). -/
def rangeBytes (v : W64) : Option (Nat × Nat) :=
  if bit v.toNat 63 then
    some (bits v.toNat 16 0 * 0x200000, (bits v.toNat 16 0 + bits v.toNat 47 29) * 0x200000)
  else none
def poolBytes (v : W64) : Option (Nat × Nat) :=
  if bit v.toNat 63 then some (bits v.toNat 22 0 * 32768, (bits v.toNat 22 0 + bits v.toNat 45 23) * 32768) else none

/-- Whether two extents overlap. -/
def crosses (a b : Nat × Nat) : Bool := decide (a.1 < b.2) && decide (b.1 < a.2)

/-- Whether a channel's pools overlap one another, a mirrored range or the key/value area (R428). -/
def poolsClash (c : ChanPlan) : Bool :=
  let ps := c.pools.filterMap poolBytes
  let others := c.mirrors.filterMap rangeBytes ++ ([c.kvArea].filterMap rangeBytes)
  ps.zipIdx.any fun p => others.any (crosses p.1) || ps.zipIdx.any fun q => decide (p.2 < q.2) && crosses p.1 q.1

/-- Frames of a pool. -/
def poolFrames (c : ChanPlan) (j : Nat) : Nat :=
  let v := (c.pools.getD j 0).toNat
  if bit v 63 then bits v 45 23 else 0

/-- Whether the limits of R428 fail for a channel and its partner. -/
def limitsBad (p : RunPlan) (n : Nat) : Bool :=
  match p.chans[n]?, p.chans[partner n]? with
  | some c, some d => (List.range 4).any fun j =>
      let both := c.limits.getD j 0 + d.limits.getD j 0
      decide (poolFrames c j < both) || decide (poolFrames d j < both) ||
        decide ((c.shadows.getD j (0, 0)).2 < c.limits.getD j 0)
  | _, _ => true

/-- Whether a row of the training table is legal (R444, R446, R455). -/
def trainRowOk (t : TrainRow) : Bool :=
  decide (t.layer < 4) && !t.frozen && decide (t.role < 5) && decide (t.mask < 3) && (t.mask == 0 || t.role == 0) &&
    decide (1 ≤ t.rects.length) && decide (t.rects.length ≤ 256) &&
    (t.rects.all fun r => r.1 % 32 == 0 && r.2.1 % 32 == 0 && r.2.2.1 % 32 == 0 && r.2.2.2 % 32 == 0) &&
    decide (1 ≤ t.optim) && decide (t.optim ≤ 3) && decide (t.tier < 2) && (t.rnd == 0 || t.rnd == 2)

/-- Whether a channel's shadow area and pairwise identical ranges are as R332, R423 and R435 ask. -/
def chanPlanOk (p : RunPlan) (n : Nat) : Bool :=
  match p.chans[n]?, p.chans[partner n]? with
  | some c, some d =>
    let w := c.shadow.toNat
    let base := bits w 47 0
    let slots := c.shadows.foldl (fun a e => max a (e.1 + e.2)) 0
    let area := (rangeBytes c.kvArea).all fun a => (c.mirrors.filterMap rangeBytes).any fun r => decide (r.1 ≤ a.1) && decide (a.2 ≤ r.2)
    c.mirrors == d.mirrors && c.kvArea == d.kvArea && area && (!bit w 63 ||
      (base % 32768 == 0 && (match place base with | .tier1 m _ => m == partner n | _ => false) &&
        decide (base + 32768 * slots ≤ tier1Base (partner n) + tier1Size)))
  | _, _ => false

/-- Whether a run image passes the checks of R324, R332, R423, R428, R435 and R446. -/
def planOk (p : RunPlan) : Bool :=
  p.chans.length == 4 && p.keys.length == 6 &&
    ((p.keys.zipIdx).all fun k => decide (k.1.toNat < 2 ^ (if k.2 = 0 then 25 else 23))) &&
    (List.range 4).all (chanPlanOk p) && !(p.chans.any poolsClash) && !((List.range 4).any (limitsBad p)) &&
    decide (p.train.length ≤ 64) && p.train.all trainRowOk && decide (1 ≤ p.size) && decide (p.size ≤ 8)

/-! ### Boot firmware (R650, R652) -/

/-- Step 2: the configuration written from the run image, then locked. A word with a reserved bit set is not written
(R663). -/
def writeConfig (p : RunPlan) (s : State) : State :=
  let s := p.keys.zipIdx.foldl (fun s (k : W32 × Nat) => firmwareWrite s (Reg.glbIlKey k.2) (BitVec.ofNat 64 k.1.toNat)) s
  let s := (p.chans.take 4).zipIdx.foldl (fun s (e : ChanPlan × Nat) =>
    let n := e.2
    let s := (e.1.mirrors.take 16).zipIdx.foldl (fun s (m : W64 × Nat) => firmwareWrite s (Reg.chMirror n m.2) m.1) s
    let s := firmwareWrite s (Reg.chKvArea n) e.1.kvArea
    let s := (e.1.pools.take 4).zipIdx.foldl (fun s (m : W64 × Nat) => firmwareWrite s (Reg.chKvPool n m.2) m.1) s
    firmwareWrite s (Reg.chKvShadow n) e.1.shadow) s
  let s := firmwareWrite s Reg.glbHostCfg p.hostCfg
  let cfg := (rd s Reg.glbHostCfg).toNat
  let s := if bit cfg 2 then
      let s := if bit cfg 0 then setFlag s (linkReg 6) 12 true else s
      if bit cfg 0 && bit cfg 1 then setFlag s (linkReg 7) 12 true else s
    else s
  let s := setFld s Reg.glbGroupStatus 31 28 p.size
  setFlag s Reg.glbIlCtrl 0 true

/-- Whether an entry of the field record is valid (R590). -/
def entryOk (e : FieldEntry) : Bool :=
  let v := e.toNat
  let kind := bits v 127 120
  e == fieldEntry kind (bits v 119 118) (bits v 117 90) && decide (1 ≤ kind) && decide (kind ≤ 4)

/-- The lowest spare of a channel that a retirement may take. -/
def freeSpare (s : State) (n : Nat) : Option Nat := (List.range 800).find? (spareOk s n)

/-- One entry of the field record applied (R591). -/
def applyEntry (s : State) (e : FieldEntry) : State :=
  let v := e.toNat
  let n := bits v 119 118
  let pl := bits v 117 90
  match bits v 127 120 with
  | 1 =>
    let i := pl / 2 ^ 18
    let row := pl / 2 ^ 9 % 2 ^ 9
    (match (List.range 8).find? fun k => !flag s (Reg.coreRowMap n i k) 31 with
     | some k => opRowMapWrite n i k (BitVec.ofNat 64 (2 ^ 31 + row)) s
     | none => s)
  | 2 =>
    (match logOf s n (pl / 2 ^ 18), freeSpare s n with
     | some c, some k => retireCore s n c k true
     | some c, none => retireWithout s n c
     | none, _ => s)
  | 3 => holdRow s n pl
  | _ => s
where
  /-- The frames of a recorded row withheld, and the row known to have failed. -/
  holdRow (s : State) (n pl : Nat) : State :=
    let c := s.chan n
    let fs := ((dramRowOffsets s pl).map (· / 32768)).eraseDups
    s.setChan n { c with held := c.held ++ fs.filter fun f => !c.held.contains f }

/-- Step 3: the field record applied, and its status (R591). -/
def applyRecord (s : State) : State :=
  let es := s.flash.record.filter entryOk
  let s := setFld s Reg.glbFieldStatus 11 0 (min 0xFFF es.length)
  let s := setFlag s Reg.glbFieldStatus 12 (decide (4096 ≤ s.flash.record.length))
  es.foldl applyEntry s

/-- Step 4: every pool frame and every weight frame absent (R429, R526). -/
def markAllAbsent (p : RunPlan) (s : State) : State :=
  (p.chans.take 4).zipIdx.foldl (fun s (e : ChanPlan × Nat) =>
    let pools := (e.1.pools.filterMap poolBytes).filterMap fun x =>
      if x.1 < x.2 then some (x.1 / 32768, x.2 / 32768 - 1) else none
    s.setChan e.2 { s.chan e.2 with absent := pools ++ e.1.weights }) s

/-- Step 5: work and event queues of every channel and of the referee. -/
def setQueues (p : RunPlan) (s : State) : State :=
  let s := (p.chans.take 4).zipIdx.foldl (fun s (e : ChanPlan × Nat) =>
    let s := setFld s (Reg.chWqBase e.2) 47 0 e.1.wq
    opEventQueueBaseWrite e.2 (BitVec.ofNat 64 e.1.eq) s) s
  opEventQueueBaseWrite 4 (BitVec.ofNat 64 p.geq) s

/-- Step 6 (R652, R654): insert set first when form is 1; every Dorul port and, on an eligible module, every host port
enabled. In formation the view starts at epoch 1 with every module of the group size. -/
def bringUpLinks (p : RunPlan) (s : State) : State :=
  let form := flag s Reg.glbStartCtrl 0
  let s := if form then setInsert s true else s
  let s := if form then
      setFld (setFld s Reg.glbGroupStatus 63 48 1) Reg.glbGroupStatus 47 40 (2 ^ p.size - 1)
    else s
  let s := (List.range 8).foldl (fun s q => opLinkEnable q (BitVec.ofNat 64 (2 ^ 31)) s) s
  rewriteRoutes (setPhase s (if form then 5 else 8))

/-- The steps of boot firmware (R650). -/
def bootFirmware (s : State) : State :=
  match (runSlots s).head? with
  | none => imageFault s
  | some i =>
    let s := { s with sec := { s.sec with run := some i } }
    let s := extend (extend s 1 i.digest) 2 (stateDigest s)
    match i.plan with
    | none => imageFault s
    | some p =>
      if !planOk p then imageFault s
      else
        let s := setPhase s 4
        let s := setQueues p (markAllAbsent p (applyRecord (writeConfig p s)))
        let s := setRef s { s.ref with models := p.models.map fun (m : ModelPlan) => (m.model, ModelState.notReady) }
        bringUpLinks p s

/-- Whether a register is one that the wipe of the core stores clears (R179): task regions, CORE_CS_POWER, receive windows
and arrival counters of any core page. -/
def wipedReg (a : Nat) : Bool :=
  let o := (a - chBlock 0) % 0x1000000
  decide (chBlock 0 ≤ a) && decide (a < chBlock 4) && decide (0x800000 ≤ o) && decide (o % 0x1000 < 0xC0) && o % 0x1000 != 0x20

/-- The wipe (R179, R642): memory and stores zero with valid check bits, gather buffers and scoreboards empty, the cores'
regions, windows and counters clear, and every quarter powered but those of a core that does not respond. -/
def wipeAll (s : State) : State :=
  let s := { s with mem := [], errs := [], regs := s.regs.filter fun e => !wipedReg e.1 }
  let s := s.cores.foldl (fun (s : State) e =>
    { s with cores := mset Core.idle s.cores e.1 { e.2 with gather := [], score := [], wb := [] } }) s
  (List.range 4).foldl (fun s n => (s.chan n).dead.foldl (fun s i => setFld s (Reg.coreCsPower n i) 3 1 0) s) s

/-- WIPE_COMPLETE (R179, R642, R648, R650): the stores are wiped, wiped is set, and boot firmware takes over; in BLANK and
RETIRED nothing runs. -/
def opWipeComplete (s : State) : State :=
  if phase s ≠ 2 then s
  else
    let s := setFlag (wipeAll s) Reg.glbLcStatus 23 true
    if s.sec.boot.isNone then setFld (setPhase s 0xF) Reg.glbStartStatus 26 23 2
    else bootFirmware (setPhase s 3)

/-! ### Service mode (R35, R37, R651, R658) -/

/-- The stall counters of a channel (R38). -/
def stallRegs (n : Nat) : List RegRef :=
  [Reg.chStallFault n, Reg.chStallRefresh n, Reg.chStallDebug n, Reg.chStallCredit n, Reg.chStallArbiter n,
    Reg.chStallD2d n, Reg.chStallOther n]

/-- TIMING_MODE_WRITE: before ready, firmware reads the stall counters just before it writes service mode; the write
completes ready for service. -/
def opTimingModeWrite (n : Nat) (v : W64) (s : State) : State :=
  if bits v.toNat 63 3 ≠ 0 then s
  else
    let m := bits v.toNat 1 0
    let s := if m = 1 && !isReady s then
        let totals := (stallRegs n).map fun r => (rd s r).toNat
        let s := s.setChan n { s.chan n with book := { (s.chan n).book with stalls := totals } }
        (stallRegs n).foldl (fun s r => wr s r 0) s
      else s
    let s := if inTest s n && m ≠ 2 then setFlag s (Reg.chChkCtrl n) 0 true else s
    tryReady (setFld s (Reg.chTimingMode n) 1 0 m)

end Sys2Proof.Machine
end

