-- ==== Sys2Proof/Machine/RegAccess.lean ====
section
/-! DEFINITION. Reads and writes over the register fabric (R46, R550, R661 to R666, R672 to R675, R695): what a slot
reads as, which writes are refused, and what each write does. -/

namespace Sys2Proof.Machine

/-- A counter that a read clears (R9). -/
def clearsOnRead (r : RegRow) : Bool := r.fields.any fun f => f.acc == .rc

/-! ### Units an address names -/

/-- The channel of a register address; 4, whose block is no register range, for one outside the channel blocks. -/
def regChan (a : Nat) : Nat := if a < chBlock 4 then (a - chBlock 0) / 0x01000000 else 4
/-- The physical core of an address in a core page, with the offset in the page. -/
def regCore (a : Nat) : Option (Nat × Nat) :=
  let o := (a - chBlock 0) % 0x01000000
  if a < chBlock 0 || chBlock 4 ≤ a || o < 0x800000 then none
  else some ((o - 0x800000) / 0x1000, (o - 0x800000) % 0x1000)
/-- The block of a lost Letrix die: it reads as zero and refuses writes (R676). -/
def deadLetrix (s : State) (a : Nat) : Bool :=
  decide (lxBlock 0 ≤ a) && decide (a < lxBlock 12) && (s.die ((a - lxBlock 0) / 0x00100000)).lost

/-! ### Values that follow other state -/

/-- CH_STREAM_CTX and CH_STREAM_CTX_OP of the selected context (R672). -/
def ctxValue (s : State) (n : Nat) : Nat :=
  let x := s.stream n (fld s (Reg.chStreamSel n) 11 0)
  let st := if (s.chan n).ops.any (fun (l : LoadedOp) => l.op.opId == x.opId && l.stopped) then 3
    else if x.halt.isSome then 1 else if x.deck then 2 else 0
  if x.used then
    2 ^ 63 + st * 2 ^ 61 + b2n x.letrix * 2 ^ 60 + x.lead % 16 * 2 ^ 56 + x.period % 2 ^ 24 * 2 ^ 32 + x.next % 2 ^ 32
  else 0
def ctxOp (s : State) (n : Nat) : Nat :=
  let x := s.stream n (fld s (Reg.chStreamSel n) 11 0)
  if x.used then x.opId.toNat else 0

/-- One CORE_RING register (R243): a stream's ring, or that of the rotation (R266). The ring of an operation that waits on
deck is its own until it starts on the core. -/
def ringValue (s : State) (n i j : Nat) : Nat :=
  let c := s.core n i
  match c.ring[j]? with
  | none => 0
  | some r =>
    let log := (logOf s n i).getD 0
    let mk := fun (owner slot slots head full inflight : Nat) =>
      2 ^ 31 + owner * 2 ^ 29 + slot % 8 * 2 ^ 26 + slots % 16 * 2 ^ 22 + head % 8 * 2 ^ 19 + full % 16 * 2 ^ 15 +
        inflight % 8 * 2 ^ 12 + r.row % 512
    if r.stream < 4096 then
      let x := s.stream n r.stream
      let asked := askedOf x log
      let owner := if c.deck == some r.opId then 2 else if (c.vec.map (·.opId)) == some r.opId then 1 else 0
      mk owner x.slot (x.lead + 1) ((asked - 1) % (x.lead + 1)) (x.full - asked) x.inflight.length
    else
      let o := r.stream - 4096
      match (findOp s n r.opId).bind fun l => ((l.grid.find? (·.phys == i)).bind fun g =>
          (l.op.rot.find? (·.slot == o)).map fun e => (l, g, e)) with
      | none => mk 3 o 2 0 0 0
      | some (l, g, e) =>
        let tiles := rotCount s n r.opId g o
        let used := (shardsUsed s n l e g).getD 0
        mk 3 o 2 ((used - 1) % 2) (tiles / max 1 e.shard - used) (b2n (decide (tiles % max 1 e.shard ≠ 0)))

/-- CH_FAULT_SUMMARY (R673). -/
def chSummary (s : State) (n : Nat) : Nat :=
  let v := fun (r : RegRef) => flag s r 63
  let bs : List Bool :=
    [ rd s (Reg.chFmtStatus n) != 0, v (Reg.chDeadlineWorst n), v (Reg.chStreamHalt n), v (Reg.chChkLast n),
      v (Reg.chCancelMonLast n), v (Reg.chLoadFault n), v (Reg.chSparseFault n) || rd s (Reg.chSparseStatus n) != 0,
      v (Reg.chPageFault n), v (Reg.chHotLast n), v (Reg.chAttnFault n), v (Reg.chKvHdrFault n), fenced s n,
      flag s (Reg.chCcStatus n) 29 || flag s (Reg.chCcStatus n) 28 ]
  bs.zipIdx.foldl (fun a b => a + b2n b.1 * 2 ^ b.2) 0

/-- GLB_FAULT_SUMMARY (R675). -/
def glbSummary (s : State) : Nat :=
  let bs : List Bool := (List.range 4).map (fun n => chSummary s n != 0) ++
    [ flag s Reg.glbEvtStatus 0, rd s Reg.glbRedStatus != 0, fld s Reg.glbThermStatus 5 0 != 0,
      fld s Reg.glbByeStatus 15 8 != 0, rd s Reg.glbDieStatus != 0 ]
  bs.zipIdx.foldl (fun a b => a + b2n b.1 * 2 ^ b.2) 0

/-- Spares of a core's rows still free: CORE_CS_STATUS.spares_free (R172, R176). -/
def sparesFree (s : State) (n i : Nat) : Nat :=
  ((List.range 8).filter fun k => !flag s (Reg.coreRowMap n i k) 31).length

/-- The first word of a base that an address lies in, as the word's index, where it is one of `count` slots. -/
def slotOf (base count a : Nat) : Option Nat :=
  if base ≤ a && decide (a < base + 8 * count) then some ((a - base) / 8) else none

/-- The measurement log as GLB_ATT_LOG shows it (R633). -/
def logWord (s : State) (j : Nat) : Nat := leNat (((s.sec.log.flatten).drop (8 * j)).take 8)

/-- The value of a channel register, of those that follow other state. -/
def chValue (s : State) (a : Nat) (v : W64) : Nat :=
  let n := regChan a
  if a = (Reg.chStreamCtx n).addr then ctxValue s n
  else if a = (Reg.chStreamCtxOp n).addr then ctxOp s n
  else if a = (Reg.chMigStatus n).addr then putBits v.toNat 6 0 (64 - (s.chan n).mig.length)
  else if a = (Reg.chLinkSendStatus n).addr then putBits v.toNat 6 0 (64 - (s.chan n).sends.length)
  else if a = (Reg.chFaultSummary n).addr then chSummary s n
  else if a = (Reg.chKvShadowDirty n).addr then (s.chan n).dirty.length
  else match regCore a with
    | none => v.toNat
    | some (i, _) =>
      if a = (Reg.coreCsStatus n i).addr then
        putBits (putBits v.toNat 23 20 (sparesFree s n i)) 31 31 (b2n (flag s Reg.glbLcStatus 23))
      else match slotOf (Reg.coreRing n i 0).addr 8 a with
        | some j => ringValue s n i j
        | none => v.toNat

/-- The value of a global register, of those that follow other state. -/
def glbValue (s : State) (a : Nat) (v : W64) : Nat :=
  if a = Reg.glbFaultSummary.addr then glbSummary s
  else match slotOf (Reg.glbEvtRec 0).addr 4 a with
    | some j => leNat ((((globalRecord s (fld s Reg.glbEvtSel 31 0)).getD []).drop (8 * j)).take 8)
    | none => match slotOf (Reg.glbRedDigest 0).addr 2 a with
      | some j =>
        if redBase s = 0 then 0
        else word64 s (entryAddr s (fld s Reg.glbRedDigestSel 11 0) + (if j = 0 then 0x38 else 0x30))
      | none => match slotOf (Reg.glbAttLog 0).addr 640 a with
        | some j => logWord s j
        | none => v.toNat

/-- What a slot holds at this moment; one that no register owns reads as zero (R662). -/
def regValue (s : State) (a : Nat) : W64 :=
  match regRow a with
  | none => 0
  | some r =>
    let v := rd s (refAt r a)
    if deadLetrix s a then 0
    else if a < chBlock 4 then BitVec.ofNat 64 (chValue s a v)
    else if a < lxBlock 0 then BitVec.ofNat 64 (glbValue s a v)
    else v

/-! ### Reads -/

/-- The registers of several slots (R665): lowest slot and number of slots of the one an address lies in. -/
def multiSlot (a : Nat) : Option (Nat × Nat) :=
  let e := (Reg.glbEvtRec 0).addr
  let d := (Reg.glbRedDigest 0).addr
  let m := (Reg.glbSecMeas 0).addr
  if (slotOf e 4 a).isSome then some (e, 4)
  else if (slotOf d 2 a).isSome then some (d, 2)
  else (slotOf m 64 a).map fun j => (m + j / 8 * 64, 8)

/-- A read over the fabric: the value, and the state after it (R9, R662, R665). -/
def readReg (s : State) (a : Nat) : State × W64 :=
  let v := regValue s a
  match multiSlot a with
  | some (base, n) =>
    if a = base then
      let others := s.cap.filter fun e => !(decide (base ≤ e.1) && decide (e.1 < base + 8 * n))
      let taken := (List.range (n - 1)).map fun k => (base + 8 * (k + 1), regValue s (base + 8 * (k + 1)))
      ({ s with cap := others ++ taken }, v)
    else (s, ((s.cap.find? fun e => e.1 == a).map (·.2)).getD v)
  | none => match regRow a with
    | some r => if clearsOnRead r && !deadLetrix s a then (wr s (refAt r a) 0, v) else (s, v)
    | none => (s, v)

/-- RC_COUNTER_READ (R9, R666): a counter read; an increment of the same cycle leaves a count of 1. -/
def opRcCounterRead (a : Nat) (increment : Bool) (s : State) : State :=
  match regRow a with
  | none => s
  | some r =>
    if !clearsOnRead r || deadLetrix s a then s
    else
      let x := readReg s a
      let s := if increment then wr x.1 (refAt r a) 1 else x.1
      { s with out := { s.out with fabric := x.2 } }

/-! ### Writes -/

/-- Whether the registers of R325, R332, R423, R427, R435 and R521 that locked protects hold an address. -/
def lockedReg (a : Nat) : Bool :=
  let n := regChan a
  (slotOf (Reg.glbIlKey 0).addr 6 a).isSome || a == Reg.glbHostCfg.addr || (slotOf (Reg.chMirror n 0).addr 16 a).isSome ||
    a == (Reg.chKvArea n).addr || (slotOf (Reg.chKvPool n 0).addr 4 a).isSome || a == (Reg.chKvShadow n).addr

/-- A command of GLB_RED_CMD (R537, R538): ops other than 1 to 3 are not commands. -/
def redWrite (v : Nat) (s : State) : State :=
  let tag := bits v 59 48
  if !bit v 63 then setFld (setFld s Reg.glbRedCmd 62 60 (bits v 62 60)) Reg.glbRedCmd 59 48 tag
  else match bits v 62 60 with
    | 1 => opReady tag s
    | 2 => opReturn tag s
    | 3 => opRedReset tag s
    | o => cmdFault (redCommand s o tag)

/-- Free bytes of a seed, and a free value, drawn. -/
def drawSeed (s : State) (rule : Nat) : State × List Byte :=
  (List.range 4).foldl (fun (r : State × List Byte) i =>
    let d := drawFree r.1 rule [i]
    (d.2, r.2 ++ leBytes 8 d.1.toNat)) (s, [])

/-- A write of GLB_LC_CMD (R637, R641): the seed and the next nonce are random. -/
def lcWrite (v : Nat) (s : State) : State :=
  if !bit v 31 then setFlag s Reg.glbLcCmd 25 (bit v 25)
  else
    let d := drawFree s 639 []
    if bit v 25 then opDebugToken d.1 d.2
    else
      let a := drawSeed (setFlag d.2 Reg.glbLcCmd 25 false) 631
      let b := drawSeed a.1 640
      opLcTransition a.2 b.2 d.1 none b.1

/-- What a write of a channel register starts, where it is more than a change of its fields. -/
def chEffect (a : Nat) (v : W64) (s : State) : Option State :=
  let n := regChan a
  if a = (Reg.chTimingMode n).addr then some (opTimingModeWrite n v s)
  else if a = (Reg.chChkCtrl n).addr then
    some (setFlag (setFld s (Reg.chChkCtrl n) 7 4 (bits v.toNat 7 4)) (Reg.chChkCtrl n) 0 (bit v.toNat 0 || !inTest s n))
  else if a = (Reg.chHotCtrl n).addr && !bit v.toNat 31 then
    some ((wr s (Reg.chHotCtrl n) v).setChan n { s.chan n with hot := none })
  else if a = (Reg.chT0Fence n).addr then some (opT0FenceWrite n v s)
  else if a = (Reg.chCoreRetire n).addr then some (opCoreRetire n v s)
  else if a = (Reg.chKvSync n).addr then some (opShadowSyncRequest n v s)
  else if a = (Reg.chStreamResume n).addr then some (opStreamResume n v s)
  else if a = (Reg.chStreamCancel n).addr then some (opStreamCancel n v s)
  else if a = (Reg.chWqTail n).addr then some (opWorkQueueTailWrite n v s)
  else if a = (Reg.chEqBase n).addr then some (opEventQueueBaseWrite n v s)
  else if a = (Reg.chEqHead n).addr then some (opEventQueueHeadWrite n v s)
  else if a = (Reg.chLinkSendCmd3 n).addr then some (opSendCommand n v s)
  else if a = (Reg.chLinkCtrl n 0).addr then some (opLinkEnable (2 * n) v s)
  else if a = (Reg.chLinkCtrl n 1).addr then some (opLinkEnable (2 * n + 1) v s)
  else if a = (Reg.chDeadlineWorst n).addr then
    some (if bit v.toNat 63 then wr s (Reg.chDeadlineWorst n) 0 else s)
  else match slotOf (Reg.chCoreMap n 0).addr 768 a with
    | some c => some (opCoreMapWrite n c v s)
    | none => (regCore a).bind fun (p : Nat × Nat) =>
      let i := p.1
      if a = (Reg.coreCsPower n i).addr then some (opCoreCsPowerWrite n i v s)
      else match slotOf (Reg.coreRecvWindow n i 0).addr 8 a with
        | some k => some (opRecvWindowWrite n i k v s)
        | none => match slotOf (Reg.coreArrival n i 0).addr 8 a with
          | some k => some (opArrivalCounterWrite n i k v 0 s)
          | none => (slotOf (Reg.coreRowMap n i 0).addr 8 a).map fun k => opRowMapWrite n i k v s

/-- What a write of a global register starts. `plain` is the state with its fields changed. -/
def glbEffect (a : Nat) (v : W64) (plain s : State) : Option State :=
  let w := v.toNat
  if a = Reg.glbEqBase.addr then some (opEventQueueBaseWrite 4 v s)
  else if a = Reg.glbEqHead.addr then some (opEventQueueHeadWrite 4 v s)
  else if a = Reg.glbResetCtrl.addr then some (if bit w 31 then opManagementReset s else s)
  else if a = Reg.glbIlCtrl.addr then some (opIlLockWrite v s)
  else if a = Reg.glbByeCtrl.addr then some (opByeInsertWrite v s)
  else if a = Reg.glbRedCmd.addr then some (redWrite w s)
  else if a = Reg.glbPwrCtrl.addr then
    some (if bits w 1 0 = 0 then opActive s else if bits w 1 0 = 1 then opDormant s else s)
  else if a = Reg.glbPwrCap.addr then some (clockAll plain)
  else if a = Reg.glbLcCmd.addr then some (lcWrite w s)
  else if a = Reg.glbAttCmd.addr then
    let s := if bit w 29 then setFlag s Reg.glbAttCmd 29 false else s
    some (if bit w 31 then opAttestationRequest s else s)
  else if a = Reg.glbPwrStatus.addr || a = Reg.glbThermStatus.addr then some (tryUnlock plain)
  else none

/-- The pair whose heartbeat register an address is (R550). -/
def beatPair (a : Nat) : Option Nat :=
  if a = Reg.glbRefHeartbeat.addr then some 4
  else if a = (Reg.chCcHeartbeat (regChan a)).addr then some (regChan a) else none

/-- Whether a base written to an event queue is one it may take (R565). -/
def queueBaseRefused (a : Nat) (v : W64) : Bool :=
  let n := regChan a
  let b := bits v.toNat 47 0
  (a == (Reg.chEqBase n).addr && !eqBaseOk n b) || (a == Reg.glbEqBase.addr && !(eqBaseOk 4 b || globalRingOk b))

/-- A write over the fabric: the state after it, and whether it was accepted (R325, R341, R550, R565, R642, R662,
R663). -/
def writeReg (s : State) (seat : Seat) (a : Nat) (v : W64) : State × Bool :=
  match regRow a with
  | none => (s, false)
  | some r =>
    let n := regChan a
    if deadLetrix s a || (seat == .management && !flag s Reg.glbLcStatus 23) then (s, false)
    else match beatPair a with
      | some k => if seat = .active then (opHeartbeatWrite k seat v s, true) else (s, false)
      | none =>
        if a = (Reg.chMigCmd3 n).addr then if v = 0 then (migEnqueue n s, true) else (s, false)
        else if !rowAccepts r v.toNat || queueBaseRefused a v then (s, false)
        else if lockedReg a && flag s Reg.glbIlCtrl 0 then (s, true)
        else
          let plain := wr s (refAt r a) (BitVec.ofNat 64 (writtenValue r (regValue s a).toNat v.toNat))
          let eff := if a < chBlock 4 then chEffect a v s else glbEffect a v plain s
          (eff.getD plain, true)

/-- PLAIN_REGISTER_WRITE (R661 to R664): a write by any seat; a refused one is discarded. -/
def opPlainRegisterWrite (seat : Seat) (a : Nat) (v : W64) (s : State) : State := (writeReg s seat a v).1

/-! ### The debug port (R46, R80) -/

/-- Tiles that a core's array task is late by an access of the debug port. -/
def debugDelay (s : State) (n i cycles : Nat) : State :=
  match (s.core n i).array with
  | some a => lateNoStream s n ((logOf s n i).getD 0) a.opId cycles .debug
  | none => s

/-- DEBUG_PORT_ACCESS (R46, R641, R689): only while the debug port is open. `cycles` is what the access holds a core
store port for against its tasks. -/
def opDebugPortAccess (acc : DebugAccess) (cycles : Nat) (s : State) : State :=
  if !flag s Reg.glbLcStatus 24 then s
  else match acc with
    | .regRead a =>
      let x := readReg s a
      { x.1 with out := { x.1.out with fabric := x.2 } }
    | .regWrite a v => (writeReg s .debug a v).1
    | .store ch core x => debugDelay (csAccess s ch.val core.val { x with user := .debug }) ch.val core.val cycles

end Sys2Proof.Machine
end

