-- ==== Sys2Proof/Machine/Host.lean ====
section
/-! DEFINITION. The messages between the host and the modules (R520 to R526): management reads and writes, transfers,
requests, and the frames that leave for the host. -/

namespace Sys2Proof.Machine

/-! ### Management messages (R525) -/

/-- A reply toward the host, by the port its request came by where that is a host port. -/
def mgmtReply (s : State) (p : Nat) (m : Msg) (result : Nat) (data : List Byte) : State :=
  emit s (some p) none ⟨word0 4 1 m.src (ownModule s) 7 data.length m.stag,
    BitVec.ofNat 64 (3 * 2 ^ 60 + result * 2 ^ 56), BitVec.ofNat 64 (2 ^ 63), 0, data⟩

/-- An address that a management message may name: a multiple of 8 in the register ranges (R525). -/
def mgmtAddrOk (a : Nat) : Bool := a % 8 == 0 && inRegRange a

/-- Reads of consecutive slots up to the first address outside the register ranges: data so far and result. -/
def mgmtRead : Nat → Nat → List Byte → State → State × Nat × List Byte
  | 0, _, acc, s => (s, 0, acc)
  | k + 1, a, acc, s =>
    if mgmtAddrOk a then
      let r := readReg s a
      mgmtRead k (a + 8) (acc ++ leBytes 8 r.2.toNat) r.1
    else (s, 1, acc)

/-- Writes in address order up to the first refused register. -/
def mgmtWrite : Nat → Nat → List Byte → State → State × Nat
  | 0, _, _, s => (s, 0)
  | k + 1, a, bs, s =>
    if mgmtAddrOk a then
      match writeReg s .management a (BitVec.ofNat 64 (leNat (bs.take 8))) with
      | (s, true) => mgmtWrite k (a + 8) (bs.drop 8) s
      | (s, false) => (s, 2)
    else (s, 1)

/-- REGISTER_READ (R525, R659, R665): served once wiped is set. -/
def opRegisterRead (p : Nat) (s : State) : State :=
  match takeFor s p 4 [1] with
  | none => s
  | some m =>
    if !flag s Reg.glbLcStatus 23 then s
    else
      let r := mgmtRead (m.f1 59 48) (m.f1 47 0) [] (dropMsg s p m)
      mgmtReply r.1 p m r.2.1 r.2.2

/-- REGISTER_WRITE (R525, R642, R659, R663): served once wiped is set. -/
def opRegisterWrite (p : Nat) (s : State) : State :=
  match takeFor s p 4 [2] with
  | none => s
  | some m =>
    if !flag s Reg.glbLcStatus 23 then s
    else
      let r := mgmtWrite (m.f1 59 48) (m.f1 47 0) m.data (dropMsg s p m)
      mgmtReply r.1 p m r.2 []

/-- A message bound for the host leaves by the host port; it waits while none is up (R520). One that is not bound for
the host ends here. -/
def toHost (s : State) (p : Nat) (m : Msg) : State :=
  if !m.toh then dropMsg s p m
  else match hostPick s none m with
    | none => s
    | some q => hostSend (dropMsg s p m) q m

/-- REPLY (R520, R525). -/
def opReply (p : Nat) (s : State) : State := match takeFor s p 4 [3] with | none => s | some m => toHost s p m

/-- EVENT_NOTICE (R520, R525, R567). -/
def opEventNotice (p : Nat) (s : State) : State := match takeFor s p 4 [5] with | none => s | some m => toHost s p m

/-! ### Transfers (R526) -/

/-- The transfer of a number, begun in the lowest free slot where it is new; none where a 65th slot is needed. -/
def xferOf (s : State) (n : Nat) (x : W32) : Option Xfer :=
  match (book s n).xfers.find? (·.xfer == x) with
  | some t => some t
  | none =>
    let slots := min 64 (((planOf s n).map fun (c : ChanPlan) => c.slots.length).getD 0)
    (lowestFree 0 slots fun k => (book s n).xfers.any fun (t : Xfer) => t.slot == k).map fun k => ⟨x, k, []⟩

/-- The address of a transfer slot. -/
def slotAddr (s : State) (n k : Nat) : Nat := ((planOf s n).map fun (c : ChanPlan) => c.slots.getD k 0).getD 0

/-- TRANSFER_DATA (R526). -/
def opTransferData (p : Nat) (s : State) : State :=
  match takeFor s p 4 [4] with
  | none => s
  | some m =>
    let s := dropMsg s p m
    let n := m.f1 55 54
    let piece := m.f1 59 56
    let x := BitVec.ofNat 32 (m.f1 31 0)
    match xferOf s n x with
    | none => mgmtReply (count32 s Reg.glbHostDropCount 1) p m 2 []
    | some t =>
      let s := (writeRange s (slotAddr s n t.slot + 2048 * piece) m.data).1
      let t := { t with pieces := if t.pieces.contains piece then t.pieces else t.pieces ++ [piece] }
      let b := book s n
      setBook s n { b with xfers := (b.xfers.filter fun (e : Xfer) => e.xfer != x) ++ [t] }

/-! ### Requests (R29, R522 to R524) -/

/-- Token identifiers of a message's data. -/
def tokensOf (m : Msg) : List W32 :=
  (List.range (m.len / 4)).map fun i => BitVec.ofNat 32 (leNat ((m.data.drop (4 * i)).take 4))

def Msg.htag (m : Msg) : W32 := BitVec.ofNat 32 (bits m.w2.toNat 31 0)
def Msg.maxNew (m : Msg) : Nat := bits m.w2.toNat 47 32
def Msg.model (m : Msg) : Nat := m.f1 59 52
def Msg.index (m : Msg) : Nat := m.f1 51 20

/-- Every part of a request has arrived. -/
def Request.complete (r : Request) : Bool := (List.range r.nparts).all fun k => r.parts.any fun e => e.1 == k

/-- Whether a part is the next that the referee takes: none that waits arrived before it, or in its cycle by a port of a
lower number (R29). -/
def arrivedFirst (s : State) (p : Nat) (m : Msg) : Bool :=
  let held := s.ref.arrived.filter fun (a : Arrived) => (s.port a.port).rxq.contains a.msg
  match held.find? fun a => a.port == p && a.msg == m with
  | none => true
  | some x => held.all fun a => decide (x.at_ < a.at_) || (x.at_ == a.at_ && decide (p ≤ a.port))

/-- REQUEST (R29, R522, R555): a part arrives; a request that is complete is answered, deferred or admitted. -/
def opRequest (p : Nat) (s : State) : State :=
  match takeFor s p 5 [1] with
  | none => s
  | some m =>
    if !arrivedFirst s p m then s
    else
    let s := dropMsg s p m
    let mine := fun (r : Request) => r.src == m.src && r.htag == m.htag
    let old := (s.ref.partial_.find? mine).getD ⟨m.src, p, m.model, m.htag, m.f1 19 8 + 1, m.maxNew, []⟩
    let parts := (old.parts.filter fun e => e.1 != m.index) ++ [(m.index, tokensOf m)]
    let r := { old with port := p, parts := parts.filter fun e => decide (e.1 < old.nparts) }
    let others := s.ref.partial_.filter fun x => !mine x
    if r.complete then takeRequest (setRef s { s.ref with partial_ := others }) r
    else setRef s { s.ref with partial_ := others ++ [r] }

/-- REQUEST_INCOMPLETE_TIMEOUT (R522). -/
def opRequestIncompleteTimeout (htag : W32) (s : State) : State :=
  match s.ref.partial_.find? (·.htag == htag) with
  | none => s
  | some r =>
    let s := setRef s { s.ref with partial_ := s.ref.partial_.erase r }
    emit s (some r.port) none (statusMsg s r.src r.model r.htag 5 0)

/-- The live sequence that a frame with sv names, where its generation is current (R433, R523). -/
def currentSeq (s : State) (m : Msg) : Option Live :=
  (findLive s m.seq).filter fun q =>
    m.sgen == kvGen s (match modelOf s q.model with | some x => x.chans.headD 0 | none => 0) m.seq

/-- A frame of an fkind that names a sequence: stale, it is answered with status 0x2 (R523). -/
def onSequence (s : State) (p fkind : Nat) (act : State → Msg → Live → State) : State :=
  match takeFor s p 5 [fkind] with
  | none => s
  | some m => match currentSeq s m with
    | none => emit (dropMsg s p m) (some p) none (statusMsg s m.src m.model m.htag 2 0)
    | some q => act s m q

/-- CONTINUE_SEQUENCE (R522, R523, R440, R457): once the sequence is between steps, its frame's tokens join those not
yet run, and it generates as many more. -/
def opContinueSequence (p : Nat) (s : State) : State :=
  onSequence s p 2 fun s m q =>
    if q.work.isSome || q.waits then s
    else match refusal s q.model with
      | some code => emit (dropMsg s p m) (some p) none (statusMsg s m.src m.model m.htag code 0)
      | none =>
        let s := putLive (dropMsg s p m)
          { q with htag := m.htag, src := m.src, input := q.input ++ tokensOf m, maxNew := q.made + m.maxNew }
        expandStep (startWake s) q.id

/-- CANCEL (R522, R570): the sequence stays live until it is retired. -/
def opCancel (p : Nat) (s : State) : State := onSequence s p 3 fun s m q => endRequest (dropMsg s p m) q 4

/-- REPLAY (R524). -/
def opReplay (p : Nat) (s : State) : State :=
  onSequence s p 4 fun s m q =>
    (q.kept.filter fun e => decide (m.index ≤ e.1)).foldl (fun s e =>
      emit s (some p) none (hostFrameMsg s q 8 e.1 0 (leBytes 4 e.2.toNat))) (dropMsg s p m)

/-- RESPONSE and STATUS (R520, R522, R524): at the captain they leave for the host. -/
def opResponse (p : Nat) (s : State) : State := match takeFor s p 5 [8] with | none => s | some m => toHost s p m
def opStatus (p : Nat) (s : State) : State := match takeFor s p 5 [9] with | none => s | some m => toHost s p m

end Sys2Proof.Machine
end

