-- ==== Sys2Proof/Machine/Commands.lean ====
section
/-! DEFINITION. The meaning of every command: each answers the next state that its operation computes. The operations
stand in the files of their families, with the rules they follow. -/

namespace Sys2Proof.Machine

/-- A command's effect leaves the queue of waiting commands as it was: the queue is the model's own. -/
def keepQueue (s t : State) : State := { t with pending := s.pending }

/-- POWER_ON. -/
def execPowerOn (s : State) : Host.Outcome State Fault Refusal :=
  .next (keepQueue s (opPowerOn s))

/-- RESET_RELEASE. -/
def execResetRelease (straps : Fin 8) (primaryStarts : Bool) (nonce : W64) (s : State) : Host.Outcome State Fault Refusal :=
  .next (keepQueue s (opResetRelease straps.val primaryStarts nonce s))

/-- MEMORY_TRAINING_DONE. -/
def execMemoryTrainingDone (deadStacks : List (Fin 12)) (deadPackages : List (Fin 24)) (t0Dead t1Dead : Bool) (s : State) : Host.Outcome State Fault Refusal :=
  .next (keepQueue s (opMemoryTrainingDone (deadStacks.map (·.val)) (deadPackages.map (·.val)) t0Dead t1Dead s))

/-- WIPE_COMPLETE. -/
def execWipeComplete (s : State) : Host.Outcome State Fault Refusal :=
  .next (keepQueue s (opWipeComplete s))

/-- BYPASS_ROUND. -/
def execBypassRound (s : State) : Host.Outcome State Fault Refusal :=
  .next (keepQueue s (opBypassRound s))

/-- BYPASS_ROUND_CLOSE. -/
def execBypassRoundClose (s : State) : Host.Outcome State Fault Refusal :=
  .next (keepQueue s (opBypassRoundClose s))

/-- BYPASS_ROUND_INSERT. -/
def execBypassRoundInsert (s : State) : Host.Outcome State Fault Refusal :=
  .next (keepQueue s (opBypassRoundInsert s))

/-- MODEL_WEIGHT_DIGEST. -/
def execModelWeightDigest (model : Nat) (s : State) : Host.Outcome State Fault Refusal :=
  .next (keepQueue s (opModelWeightDigest model s))

/-- TIMING_MODE_WRITE. -/
def execTimingModeWrite (ch : Fin 4) (value : W64) (s : State) : Host.Outcome State Fault Refusal :=
  .next (keepQueue s (opTimingModeWrite ch.val value s))

/-- BROWNOUT. -/
def execBrownout (s : State) : Host.Outcome State Fault Refusal :=
  .next (keepQueue s (opBrownout s))

/-- BROWNOUT_RESTART. -/
def execBrownoutRestart (s : State) : Host.Outcome State Fault Refusal :=
  .next (keepQueue s (opBrownoutRestart s))

/-- INPUT_CURRENT_LIMIT. -/
def execInputCurrentLimit (s : State) : Host.Outcome State Fault Refusal :=
  .next (keepQueue s (opInputCurrentLimit s))

/-- CURRENT_LIMIT_RELEASE. -/
def execCurrentLimitRelease (s : State) : Host.Outcome State Fault Refusal :=
  .next (keepQueue s (opCurrentLimitRelease s))

/-- RAIL_FAULT. -/
def execRailFault (page : Fin 17) (s : State) : Host.Outcome State Fault Refusal :=
  .next (keepQueue s (opRailFault page.val s))

/-- THERMAL_SENSOR_SAMPLE. -/
def execThermalSensorSample (readings : List (Sensor × Int)) (s : State) : Host.Outcome State Fault Refusal :=
  .next (keepQueue s (opThermalSensorSample readings s))

/-- THERMAL_STEP_UPDATE. -/
def execThermalStepUpdate (s : State) : Host.Outcome State Fault Refusal :=
  .next (keepQueue s (opThermalStepUpdate s))

/-- POWER_CAP_UPDATE. -/
def execPowerCapUpdate (watts : Nat) (s : State) : Host.Outcome State Fault Refusal :=
  .next (keepQueue s (opPowerCapUpdate watts s))

/-- SUPPLY_SAG. -/
def execSupplySag (ch : Fin 4) (level : Fin 3) (s : State) : Host.Outcome State Fault Refusal :=
  .next (keepQueue s (opSupplySag ch.val level.val s))

/-- STRETCH_RELEASE. -/
def execStretchRelease (ch : Fin 4) (s : State) : Host.Outcome State Fault Refusal :=
  .next (keepQueue s (opStretchRelease ch.val s))

/-- RESET_SIGNAL. -/
def execResetSignal (high : Bool) (lowNs : Nat) (s : State) : Host.Outcome State Fault Refusal :=
  .next (keepQueue s (opResetSignal high lowNs s))

/-- MANAGEMENT_RESET. -/
def execManagementReset (s : State) : Host.Outcome State Fault Refusal :=
  .next (keepQueue s (opManagementReset s))

/-- TAP_LEAVE_TEST_LOGIC_RESET. -/
def execTapLeaveTestLogicReset (s : State) : Host.Outcome State Fault Refusal :=
  .next (keepQueue s (opTapLeaveTestLogicReset s))

/-- TAP_RETURN_TEST_LOGIC_RESET. -/
def execTapReturnTestLogicReset (s : State) : Host.Outcome State Fault Refusal :=
  .next (keepQueue s (opTapReturnTestLogicReset s))

/-- DORMANT. -/
def execDormant (s : State) : Host.Outcome State Fault Refusal :=
  .next (keepQueue s (opDormant s))

/-- ACTIVE. -/
def execActive (s : State) : Host.Outcome State Fault Refusal :=
  .next (keepQueue s (opActive s))

/-- CORE_CLOCK_GATE. -/
def execCoreClockGate (ch : Fin 4) (core : Fin 800) (s : State) : Host.Outcome State Fault Refusal :=
  .next (keepQueue s (opCoreClockGate ch.val core.val s))

/-- LC_TRANSITION. -/
def execLcTransition (seed seedBack : List Byte) (nonce : W64) (s : State) (cut : Option BurnCut := none) :
    Host.Outcome State Fault Refusal :=
  .next (keepQueue s (opLcTransition seed seedBack nonce cut s))

/-- DEBUG_TOKEN. -/
def execDebugToken (nonce : W64) (s : State) : Host.Outcome State Fault Refusal :=
  .next (keepQueue s (opDebugToken nonce s))

/-- ATTESTATION_REQUEST. -/
def execAttestationRequest (s : State) : Host.Outcome State Fault Refusal :=
  .next (keepQueue s (opAttestationRequest s))

/-- PRODUCT. -/
def execProduct (ch : Fin 4) (s : State) : Host.Outcome State Fault Refusal :=
  .next (keepQueue s (opProduct ch.val s))

/-- PREFILL_ATTENTION. -/
def execPrefillAttention (ch : Fin 4) (s : State) : Host.Outcome State Fault Refusal :=
  .next (keepQueue s (opPrefillAttention ch.val s))

/-- SPARSE_BY_SPARSE. -/
def execSparseBySparse (ch : Fin 4) (s : State) : Host.Outcome State Fault Refusal :=
  .next (keepQueue s (opSparseBySparse ch.val s))

/-- VECTOR_OPERATION. -/
def execVectorOperation (ch : Fin 4) (s : State) : Host.Outcome State Fault Refusal :=
  .next (keepQueue s (opVectorOperation ch.val s))

/-- FILL_AND_COPY. -/
def execFillAndCopy (ch : Fin 4) (s : State) : Host.Outcome State Fault Refusal :=
  .next (keepQueue s (opFillAndCopy ch.val s))

/-- MATRIX_VECTOR. -/
def execMatrixVector (ch : Fin 4) (s : State) : Host.Outcome State Fault Refusal :=
  .next (keepQueue s (opMatrixVector ch.val s))

/-- DECODE_ATTENTION. -/
def execDecodeAttention (ch : Fin 4) (s : State) : Host.Outcome State Fault Refusal :=
  .next (keepQueue s (opDecodeAttention ch.val s))

/-- GATHER. -/
def execGather (ch : Fin 4) (s : State) : Host.Outcome State Fault Refusal :=
  .next (keepQueue s (opGather ch.val s))

/-- SCATTER. -/
def execScatter (ch : Fin 4) (s : State) : Host.Outcome State Fault Refusal :=
  .next (keepQueue s (opScatter ch.val s))

/-- SCATTER_ADD. -/
def execScatterAdd (ch : Fin 4) (s : State) : Host.Outcome State Fault Refusal :=
  .next (keepQueue s (opScatterAdd ch.val s))

/-- INDEX_INTERSECTION. -/
def execIndexIntersection (ch : Fin 4) (s : State) : Host.Outcome State Fault Refusal :=
  .next (keepQueue s (opIndexIntersection ch.val s))

/-- ENCODE. -/
def execEncode (ch : Fin 4) (s : State) : Host.Outcome State Fault Refusal :=
  .next (keepQueue s (opEncode ch.val s))

/-- DECODE. -/
def execDecode (ch : Fin 4) (s : State) : Host.Outcome State Fault Refusal :=
  .next (keepQueue s (opDecode ch.val s))

/-- OPERATION_HELD_LOAD. -/
def execOperationHeldLoad (ch : Fin 4) (heldCycles : Nat) (s : State) : Host.Outcome State Fault Refusal :=
  .next (keepQueue s (opOperationHeldLoad ch.val heldCycles s))

/-- WORK_QUEUE_TAIL_WRITE. -/
def execWorkQueueTailWrite (ch : Fin 4) (value : W64) (s : State) : Host.Outcome State Fault Refusal :=
  .next (keepQueue s (opWorkQueueTailWrite ch.val value s))

/-- OPERATION_START. -/
def execOperationStart (ch : Fin 4) (core : Fin 768) (s : State) : Host.Outcome State Fault Refusal :=
  .next (keepQueue s (opOperationStart ch.val core.val s))

/-- OPERATION_COMPLETE. -/
def execOperationComplete (ch : Fin 4) (opId : W32) (s : State) : Host.Outcome State Fault Refusal :=
  .next (keepQueue s (opOperationComplete ch.val opId s))

/-- OPERATION_DEADLINE_MISS. -/
def execOperationDeadlineMiss (ch : Fin 4) (opId : W32) (s : State) : Host.Outcome State Fault Refusal :=
  .next (keepQueue s (opOperationDeadlineMiss ch.val opId s))

/-- TILE_REQUEST. -/
def execTileRequest (ch : Fin 4) (core : Fin 768) (slot : Fin 8) (s : State) : Host.Outcome State Fault Refusal :=
  .next (keepQueue s (opTileRequest ch.val core.val slot.val s))

/-- FETCH_ISSUE. -/
def execFetchIssue (ch : Fin 4) (s : State) : Host.Outcome State Fault Refusal :=
  .next (keepQueue s (opFetchIssue ch.val s))

/-- FETCH_COMPLETE. -/
def execFetchComplete (ch : Fin 4) (stream : Fin 4096) (tile late : Nat) (cause : StallCause) (upsets : List Upset) (s : State) : Host.Outcome State Fault Refusal :=
  .next (keepQueue s (opFetchDone ch.val stream.val tile late cause upsets s))

/-- DRAM_WRITE_BACK. -/
def execDramWriteBack (word : Nat) (s : State) : Host.Outcome State Fault Refusal :=
  .next (keepQueue s (opDramWriteBack word s))

/-- STREAM_RESUME. -/
def execStreamResume (ch : Fin 4) (value : W64) (s : State) : Host.Outcome State Fault Refusal :=
  .next (keepQueue s (opStreamResume ch.val value s))

/-- STREAM_CANCEL. -/
def execStreamCancel (ch : Fin 4) (value : W64) (s : State) : Host.Outcome State Fault Refusal :=
  .next (keepQueue s (opStreamCancel ch.val value s))

/-- CANCEL_COMPLETE. -/
def execCancelComplete (ch : Fin 4) (s : State) : Host.Outcome State Fault Refusal :=
  .next (keepQueue s (opCancelComplete ch.val s))

/-- SCALE; the tile it makes full is not late where no lateness is named. -/
def execScale (ch : Fin 4) (core : Fin 768) (stream : Fin 4096) (tile : Nat) (half : Fin 8) (s : State) (late : Nat := 0)
    (cause : StallCause := .other) : Host.Outcome State Fault Refusal :=
  .next (keepQueue s (opScale ch.val core.val stream.val tile half.val late cause s))

/-- PAGE_LIST. -/
def execPageList (ch : Fin 4) (core : Option (Fin 768)) (pages : List W32) (s : State) : Host.Outcome State Fault Refusal :=
  .next (keepQueue s (opPageList ch.val (core.map (·.val)) pages s))

/-- COUNTER. -/
def execCounter (ch : Fin 4) (pairs : List (Nat × W32)) (s : State) : Host.Outcome State Fault Refusal :=
  .next (keepQueue s (opCounter ch.val pairs s))

/-- ARRIVAL_NOTICE. -/
def execArrivalNotice (ch : Fin 4) (core : Fin 768) (window : Fin 8) (s : State) : Host.Outcome State Fault Refusal :=
  .next (keepQueue s (opArrivalNotice ch.val core.val window.val s))

/-- CANCEL_NOTICE. -/
def execCancelNotice (ch : Fin 4) (core : Fin 768) (opId : W32) (s : State) : Host.Outcome State Fault Refusal :=
  .next (keepQueue s (opCancelNotice ch.val core.val opId s))

/-- ROTATION_FORWARD; late for no cause of the list where none is named (R38). -/
def execRotationForward (ch : Fin 4) (core : Fin 768) (slot : Fin 8) (late : Nat) (s : State)
    (cause : StallCause := .other) : Host.Outcome State Fault Refusal :=
  .next (keepQueue s (opRotationForward ch.val core.val slot.val late cause s))

/-- CHECKSUM_COMPARE. -/
def execChecksumCompare (ch : Fin 4) (core : Fin 768) (disturb : List Disturb) (s : State) : Host.Outcome State Fault Refusal :=
  .next (keepQueue s (opChecksumCompare ch.val core.val disturb s))

/-- STORE_PATH_WAIT. -/
def execStorePathWait (ch : Fin 4) (core : Fin 768) (cycles : Nat) (s : State) : Host.Outcome State Fault Refusal :=
  .next (keepQueue s (opStorePathWait ch.val core.val cycles s))

/-- COMBINE. -/
def execCombine (ch : Fin 4) (core : Fin 768) (s : State) : Host.Outcome State Fault Refusal :=
  .next (keepQueue s (opCombineNext ch.val core.val s))

/-- ARRIVAL_WAIT_RESUME. -/
def execArrivalWaitResume (ch : Fin 4) (core : Fin 768) (s : State) : Host.Outcome State Fault Refusal :=
  .next (keepQueue s (opArrivalWaitResume ch.val core.val s))

/-- CORE_STORE_ACCESS; `late` are the cycles for which a key or value tile of attention came late. -/
def execCoreStoreAccess (ch : Fin 4) (core : Fin 800) (acc : CsAccess) (waited : Nat) (upsets : List Upset) (s : State)
    (late : Nat := 0) (cause : StallCause := .other) : Host.Outcome State Fault Refusal :=
  .next (keepQueue s (opCoreStoreAccess ch.val core.val acc waited upsets s late cause))

/-- CORE_STORE_WRITE_BACK. -/
def execCoreStoreWriteBack (ch : Fin 4) (core : Fin 800) (s : State) : Host.Outcome State Fault Refusal :=
  .next (keepQueue s (opCoreStoreWriteBack ch.val core.val s))

/-- FILL. -/
def execFill (ch : Fin 4) (core : Fin 768) (s : State) : Host.Outcome State Fault Refusal :=
  .next (keepQueue s (opFill ch.val core.val s))

/-- COPY. -/
def execCopy (ch : Fin 4) (core : Fin 768) (s : State) : Host.Outcome State Fault Refusal :=
  .next (keepQueue s (opCopy ch.val core.val s))

/-- CORE_CS_POWER_WRITE. -/
def execCoreCsPowerWrite (ch : Fin 4) (core : Fin 800) (value : W64) (s : State) : Host.Outcome State Fault Refusal :=
  .next (keepQueue s (opCoreCsPowerWrite ch.val core.val value s))

/-- ROW_MAP_WRITE. -/
def execRowMapWrite (ch : Fin 4) (core : Fin 800) (k : Fin 8) (value : W64) (s : State) : Host.Outcome State Fault Refusal :=
  .next (keepQueue s (opRowMapWrite ch.val core.val k.val value s))

/-- RECV_WINDOW_WRITE. -/
def execRecvWindowWrite (ch : Fin 4) (core : Fin 800) (k : Fin 8) (value : W64) (s : State) : Host.Outcome State Fault Refusal :=
  .next (keepQueue s (opRecvWindowWrite ch.val core.val k.val value s))

/-- ARRIVAL_COUNTER_WRITE. -/
def execArrivalCounterWrite (ch : Fin 4) (core : Fin 800) (k : Fin 8) (value : W64) (arrivals : Nat) (s : State) : Host.Outcome State Fault Refusal :=
  .next (keepQueue s (opArrivalCounterWrite ch.val core.val k.val value arrivals s))

/-- CORE_MAP_WRITE. -/
def execCoreMapWrite (ch : Fin 4) (c : Fin 768) (value : W64) (s : State) : Host.Outcome State Fault Refusal :=
  .next (keepQueue s (opCoreMapWrite ch.val c.val value s))

/-- DRAM_REFRESH. -/
def execDramRefresh (ch : Fin 4) (tier1 : Bool) (device : Fin 6) (pc : Fin 32) (bank : Option (Fin 16)) (s : State) : Host.Outcome State Fault Refusal :=
  .next (keepQueue s (opDramRefresh ch.val tier1 device.val pc.val (bank.map (·.val)) s))

/-- HOT_CHANNEL_SAMPLE. -/
def execHotChannelSample (ch : Fin 4) (occupancy : List Nat) (s : State) : Host.Outcome State Fault Refusal :=
  .next (keepQueue s (opHotChannelSample ch.val occupancy s))

/-- FETCH_FROM_TIER_1. -/
def execFetchFromTier1 (ch : Fin 4) (s : State) : Host.Outcome State Fault Refusal :=
  .next (keepQueue s (opTier1Fetch ch.val s))

/-- COPY_TO_TIER_1. -/
def execCopyToTier1 (ch : Fin 4) (s : State) : Host.Outcome State Fault Refusal :=
  .next (keepQueue s (opCopyToTier1 ch.val s))

/-- FETCH_FROM_HOST. -/
def execFetchFromHost (ch : Fin 4) (s : State) : Host.Outcome State Fault Refusal :=
  .next (keepQueue s (opFetchFromHost ch.val s))

/-- MARK_ABSENT. -/
def execMarkAbsent (ch : Fin 4) (s : State) : Host.Outcome State Fault Refusal :=
  .next (keepQueue s (opMarkAbsent ch.val s))

/-- MARK_PRESENT. -/
def execMarkPresent (ch : Fin 4) (s : State) : Host.Outcome State Fault Refusal :=
  .next (keepQueue s (opMarkPresent ch.val s))

/-- EVICT. -/
def execEvict (ch : Fin 4) (s : State) : Host.Outcome State Fault Refusal :=
  .next (keepQueue s (opEvict ch.val s))

/-- REPAIR_BLOCK_FROM_MIRROR. -/
def execRepairBlockFromMirror (ch : Fin 4) (s : State) : Host.Outcome State Fault Refusal :=
  .next (keepQueue s (opRepairBlockFromMirror ch.val s))

/-- MIGRATION_COMPLETE. -/
def execMigrationComplete (ch : Fin 4) (s : State) : Host.Outcome State Fault Refusal :=
  .next (keepQueue s (opMigrationDone ch.val s))

/-- T0_FENCE_WRITE. -/
def execT0FenceWrite (ch : Fin 4) (value : W64) (s : State) : Host.Outcome State Fault Refusal :=
  .next (keepQueue s (opFenceWrite ch.val value s))

/-- STACK_LOSS. -/
def execStackLoss (ch : Fin 4) (unit : Fin 3) (die : Bool) (cause : LossCause) (s : State) : Host.Outcome State Fault Refusal :=
  .next (keepQueue s (opStackLoss ch.val unit.val die cause s))

/-- DIE_TRANSFER_UNCORRECTABLE. -/
def execDieTransferUncorrectable (path : DiePath) (s : State) : Host.Outcome State Fault Refusal :=
  .next (keepQueue s (opDieTransferUncorrectable path s))

/-- IL_LOCK_WRITE. -/
def execIlLockWrite (value : W64) (s : State) : Host.Outcome State Fault Refusal :=
  .next (keepQueue s (opIlLockWrite value s))

/-- COMBINE_CHUNK. -/
def execCombineChunk (ch : Fin 4) (opId : W32) (s : State) : Host.Outcome State Fault Refusal :=
  .next (keepQueue s (opCombineChunk ch.val opId s))

/-- SUM_CHUNK_SEND. -/
def execSumChunkSend (die : Fin 12) (opId : W32) (waited : Nat) (s : State) : Host.Outcome State Fault Refusal :=
  .next (keepQueue s (opSumChunkSend die.val opId waited s))

/-- LENGTH_TABLE_ENTRY. -/
def execLengthTableEntry (ch : Fin 4) (opId : W32) (s : State) : Host.Outcome State Fault Refusal :=
  .next (keepQueue s (opLengthTableEntry ch.val opId s))

/-- PAGE_HEADER. -/
def execPageHeader (ch : Fin 4) (opId : W32) (s : State) (late : List (Nat × StallCause) := []) : Host.Outcome State Fault Refusal :=
  .next (keepQueue s (opPageHeader ch.val opId s late))

/-- PAGE_LIST_ENTRY. -/
def execPageListEntry (ch : Fin 4) (opId : W32) (s : State) : Host.Outcome State Fault Refusal :=
  .next (keepQueue s (opPageListEntry ch.val opId s))

/-- ATTENTION_STATES_MERGE. -/
def execAttentionStatesMerge (ch : Fin 4) (opId : W32) (s : State) : Host.Outcome State Fault Refusal :=
  .next (keepQueue s (opAttentionStatesMerge ch.val opId s))

/-- EXPORT_MERGE. -/
def execExportMerge (ch : Fin 4) (opId : W32) (s : State) : Host.Outcome State Fault Refusal :=
  .next (keepQueue s (opExportMerge ch.val opId s))

/-- GATHER_INDEX. -/
def execGatherIndex (die : Fin 12) (opId : W32) (s : State) : Host.Outcome State Fault Refusal :=
  .next (keepQueue s (opGatherIndex die.val opId s))

/-- PAIR. -/
def execPair (ch : Fin 4) (core : Fin 768) (record : W64) (s : State) : Host.Outcome State Fault Refusal :=
  .next (keepQueue s (withFeeding ch.val (arrayCore s ch.val core.val) (opPair ch.val core.val record) s))

/-- BLOCK. -/
def execBlock (ch : Fin 4) (core : Fin 768) (record : W64) (s : State) : Host.Outcome State Fault Refusal :=
  .next (keepQueue s (withFeeding ch.val (arrayCore s ch.val core.val) (opBlock ch.val core.val record) s))

/-- END. -/
def execEnd (ch : Fin 4) (core : Fin 768) (record : W64) (s : State) : Host.Outcome State Fault Refusal :=
  .next (keepQueue s (withFeeding ch.val (arrayCore s ch.val core.val) (opEnd ch.val core.val record) s))

/-- SHADOW_BLOCK_COPY. -/
def execShadowBlockCopy (ch : Fin 4) (block : Nat) (s : State) : Host.Outcome State Fault Refusal :=
  .next (keepQueue s (opShadowBlockCopy ch.val block s))

/-- SHADOW_SYNC_REQUEST. -/
def execShadowSyncRequest (ch : Fin 4) (value : W64) (s : State) : Host.Outcome State Fault Refusal :=
  .next (keepQueue s (opShadowSyncRequest ch.val value s))

/-- SHADOW_SYNC_COMPLETE. -/
def execShadowSyncComplete (ch : Fin 4) (s : State) : Host.Outcome State Fault Refusal :=
  .next (keepQueue s (opShadowSyncComplete ch.val s))

/-- SEQUENCE_RETIRE. -/
def execSequenceRetire (seq : W16) (s : State) : Host.Outcome State Fault Refusal :=
  .next (keepQueue s (opSequenceRetire seq s))

/-- RESPONSE_ISSUE. -/
def execResponseIssue (seq : W16) (token : W32) (s : State) : Host.Outcome State Fault Refusal :=
  .next (keepQueue s (opResponseIssue seq token s))

/-- DEFERRED_ADMIT. -/
def execDeferredAdmit (s : State) : Host.Outcome State Fault Refusal :=
  .next (keepQueue s (opDeferredAdmit s))

/-- DATA_FLIT. -/
def execDataFlit (port : Fin 8) (flit : Flit) (check : FlitCheck) (s : State) (struck : List Nat := []) :
    Host.Outcome State Fault Refusal :=
  .next (keepQueue s (opDataFlit port.val flit check struck s))

/-- IDLE_FLIT. -/
def execIdleFlit (port : Fin 8) (flit : Flit) (check : FlitCheck) (s : State) : Host.Outcome State Fault Refusal :=
  .next (keepQueue s (opIdleFlit port.val flit check s))

/-- NAK_FLIT. -/
def execNakFlit (port : Fin 8) (flit : Flit) (check : FlitCheck) (s : State) : Host.Outcome State Fault Refusal :=
  .next (keepQueue s (opNakFlit port.val flit check s))

/-- REPLAY_TIMEOUT. -/
def execReplayTimeout (port : Fin 8) (s : State) : Host.Outcome State Fault Refusal :=
  .next (keepQueue s (opReplayTimeout port.val s))

/-- NAK_RESEND_TIMEOUT. -/
def execNakResendTimeout (port : Fin 8) (s : State) : Host.Outcome State Fault Refusal :=
  .next (keepQueue s (opNakResendTimeout port.val s))

/-- MESSAGE_FORWARD. -/
def execMessageForward (port : Fin 8) (cls : Fin 4) (s : State) : Host.Outcome State Fault Refusal :=
  .next (keepQueue s (opMessageForward port.val cls.val s))

/-- MESSAGE_AGE_DROP. -/
def execMessageAgeDrop (port : Fin 8) (cls : Fin 4) (s : State) : Host.Outcome State Fault Refusal :=
  .next (keepQueue s (opMessageAgeDrop port.val cls.val s))

/-- WINDOW_WRITE. -/
def execWindowWrite (port : Fin 8) (dataBad : Bool) (s : State) : Host.Outcome State Fault Refusal :=
  .next (keepQueue s (opWindowWrite port.val dataBad s))

/-- REJECT. -/
def execReject (port : Fin 8) (s : State) : Host.Outcome State Fault Refusal :=
  .next (keepQueue s (opReject port.val s))

/-- HEARTBEAT. -/
def execHeartbeat (port : Fin 8) (s : State) : Host.Outcome State Fault Refusal :=
  .next (keepQueue s (opHeartbeat port.val s))

/-- HEARTBEAT_SEND. -/
def execHeartbeatSend (s : State) : Host.Outcome State Fault Refusal :=
  .next (keepQueue s (opHeartbeatSend s))

/-- NEIGHBOUR_HUNG. -/
def execNeighbourHung (port : Fin 8) (s : State) : Host.Outcome State Fault Refusal :=
  .next (keepQueue s (opNeighbourHung port.val s))

/-- MEMBERSHIP_UPDATE. -/
def execMembershipUpdate (port : Fin 8) (s : State) : Host.Outcome State Fault Refusal :=
  .next (keepQueue s (opMembershipUpdate port.val s))

/-- REJOIN_START. -/
def execRejoinStart (port : Fin 8) (s : State) : Host.Outcome State Fault Refusal :=
  .next (keepQueue s (opRejoinStart port.val s))

/-- REJOIN_DONE. -/
def execRejoinDone (port : Fin 8) (s : State) : Host.Outcome State Fault Refusal :=
  .next (keepQueue s (opRejoinDone port.val s))

/-- REGISTER_READ. -/
def execRegisterRead (port : Fin 8) (s : State) : Host.Outcome State Fault Refusal :=
  .next (keepQueue s (opRegisterRead port.val s))

/-- REGISTER_WRITE. -/
def execRegisterWrite (port : Fin 8) (s : State) : Host.Outcome State Fault Refusal :=
  .next (keepQueue s (opRegisterWrite port.val s))

/-- REPLY. -/
def execReply (port : Fin 8) (s : State) : Host.Outcome State Fault Refusal :=
  .next (keepQueue s (opReply port.val s))

/-- TRANSFER_DATA. -/
def execTransferData (port : Fin 8) (s : State) : Host.Outcome State Fault Refusal :=
  .next (keepQueue s (opTransferData port.val s))

/-- EVENT_NOTICE. -/
def execEventNotice (port : Fin 8) (s : State) : Host.Outcome State Fault Refusal :=
  .next (keepQueue s (opEventNotice port.val s))

/-- REQUEST. -/
def execRequest (port : Fin 8) (s : State) : Host.Outcome State Fault Refusal :=
  .next (keepQueue s (opRequest port.val s))

/-- CONTINUE_SEQUENCE. -/
def execContinueSequence (port : Fin 8) (s : State) : Host.Outcome State Fault Refusal :=
  .next (keepQueue s (opContinueSequence port.val s))

/-- CANCEL. -/
def execCancel (port : Fin 8) (s : State) : Host.Outcome State Fault Refusal :=
  .next (keepQueue s (opCancel port.val s))

/-- REPLAY. -/
def execReplay (port : Fin 8) (s : State) : Host.Outcome State Fault Refusal :=
  .next (keepQueue s (opReplay port.val s))

/-- RESPONSE. -/
def execResponse (port : Fin 8) (s : State) : Host.Outcome State Fault Refusal :=
  .next (keepQueue s (opResponse port.val s))

/-- STATUS. -/
def execStatus (port : Fin 8) (s : State) : Host.Outcome State Fault Refusal :=
  .next (keepQueue s (opStatus port.val s))

/-- REQUEST_INCOMPLETE_TIMEOUT. -/
def execRequestIncompleteTimeout (htag : W32) (s : State) : Host.Outcome State Fault Refusal :=
  .next (keepQueue s (opRequestIncompleteTimeout htag s))

/-- HOST_FRAME. -/
def execHostFrame (port : Fin 8) (frame : HostFrame) (s : State) : Host.Outcome State Fault Refusal :=
  .next (keepQueue s (opHostFrame port.val frame s))

/-- HOST_RESEND_TIMEOUT. -/
def execHostResendTimeout (port : Fin 8) (s : State) : Host.Outcome State Fault Refusal :=
  .next (keepQueue s (opHostResendTimeout port.val s))

/-- LANE_LOSS. -/
def execLaneLoss (port : Fin 8) (lane partnerLane : Fin 4) (s : State) : Host.Outcome State Fault Refusal :=
  .next (keepQueue s (opLaneLoss port.val lane.val partnerLane.val s))

/-- LOSS_OF_SIGNAL. -/
def execLossOfSignal (port : Fin 8) (s : State) : Host.Outcome State Fault Refusal :=
  .next (keepQueue s (opLossOfSignal port.val s))

/-- RELOCK_COMPLETE. -/
def execRelockComplete (port : Fin 8) (lanes : BitVec 4) (partner : Fin 8) (partnerPort : Fin 8) (s : State) : Host.Outcome State Fault Refusal :=
  .next (keepQueue s (opRelockComplete port.val lanes partner.val partnerPort.val s))

/-- RELOCK_TIMEOUT. -/
def execRelockTimeout (port : Fin 8) (s : State) : Host.Outcome State Fault Refusal :=
  .next (keepQueue s (opRelockTimeout port.val s))

/-- TRAINING_COMPLETE. -/
def execTrainingComplete (port : Fin 8) (lanes : BitVec 4) (partner : Fin 8) (partnerPort : Fin 8) (s : State) : Host.Outcome State Fault Refusal :=
  .next (keepQueue s (opTrainingComplete port.val lanes partner.val partnerPort.val s))

/-- TRAINING_TIMEOUT. -/
def execTrainingTimeout (port : Fin 8) (signalSeen : Bool) (s : State) : Host.Outcome State Fault Refusal :=
  .next (keepQueue s (opTrainingTimeout port.val signalSeen s))

/-- LINK_ENABLE. -/
def execLinkEnable (port : Fin 8) (value : W64) (s : State) : Host.Outcome State Fault Refusal :=
  .next (keepQueue s (opLinkEnable port.val value s))

/-- RETRAIN. -/
def execRetrain (port : Fin 8) (s : State) : Host.Outcome State Fault Refusal :=
  .next (keepQueue s (opRetrain port.val s))

/-- RELOCK_DIRECT. -/
def execRelockDirect (port : Fin 8) (s : State) : Host.Outcome State Fault Refusal :=
  .next (keepQueue s (opRelockDirect port.val s))

/-- BYE_INSERT_WRITE. -/
def execByeInsertWrite (value : W64) (s : State) : Host.Outcome State Fault Refusal :=
  .next (keepQueue s (opByeInsertWrite value s))

/-- BYE_FAULT. -/
def execByeFault (relay : Fin 8) (sensedClosed : Bool) (s : State) : Host.Outcome State Fault Refusal :=
  .next (keepQueue s (opByeFault relay.val sensedClosed s))

/-- SEND_COMMAND. -/
def execSendCommand (ch : Fin 4) (value : W64) (s : State) : Host.Outcome State Fault Refusal :=
  .next (keepQueue s (opSendCommand ch.val value s))

/-- SEND_START. -/
def execSendStart (ch : Fin 4) (s : State) : Host.Outcome State Fault Refusal :=
  .next (keepQueue s (opSendStart ch.val s))

/-- SEND_COMPLETE. -/
def execSendComplete (ch : Fin 4) (s : State) : Host.Outcome State Fault Refusal :=
  .next (keepQueue s (opSendComplete ch.val s))

/-- READY. -/
def execReady (tag : Fin 4096) (s : State) : Host.Outcome State Fault Refusal :=
  .next (keepQueue s (opReady tag.val s))

/-- RETURN. -/
def execReturn (tag : Fin 4096) (s : State) : Host.Outcome State Fault Refusal :=
  .next (keepQueue s (opReturn tag.val s))

/-- RED_RESET. -/
def execRedReset (tag : Fin 4096) (s : State) : Host.Outcome State Fault Refusal :=
  .next (keepQueue s (opRedReset tag.val s))

/-- REDUCE_SEGMENT. -/
def execReduceSegment (port : Fin 8) (s : State) : Host.Outcome State Fault Refusal :=
  .next (keepQueue s (opReduceSegment port.val s))

/-- ADDER_SEGMENT. -/
def execAdderSegment (tag : Fin 4096) (s : State) : Host.Outcome State Fault Refusal :=
  .next (keepQueue s (opAdderSegment tag.val s))

/-- RETURN_PARAMETERS. -/
def execReturnParameters (port : Fin 8) (s : State) : Host.Outcome State Fault Refusal :=
  .next (keepQueue s (opReturnParameters port.val s))

/-- RETURN_SCALES. -/
def execReturnScales (port : Fin 8) (s : State) : Host.Outcome State Fault Refusal :=
  .next (keepQueue s (opReturnScales port.val s))

/-- WATCHDOG_INTERVAL. -/
def execWatchdogInterval (pair : Fin 5) (s : State) : Host.Outcome State Fault Refusal :=
  .next (keepQueue s (opWatchdogInterval pair.val s))

/-- MACHINE_CHECK. -/
def execMachineCheck (pair : Fin 5) (s : State) : Host.Outcome State Fault Refusal :=
  .next (keepQueue s (opMachineCheck pair.val s))

/-- HEARTBEAT_WRITE. -/
def execHeartbeatWrite (pair : Fin 5) (seat : Seat) (value : W64) (s : State) : Host.Outcome State Fault Refusal :=
  .next (keepQueue s (opHeartbeatWrite pair.val seat value s))

/-- EVENT_QUEUE_HEAD_WRITE. -/
def execEventQueueHeadWrite (queue : Fin 5) (value : W64) (s : State) : Host.Outcome State Fault Refusal :=
  .next (keepQueue s (opEventQueueHeadWrite queue.val value s))

/-- EVENT_QUEUE_BASE_WRITE. -/
def execEventQueueBaseWrite (queue : Fin 5) (value : W64) (s : State) : Host.Outcome State Fault Refusal :=
  .next (keepQueue s (opEventQueueBaseWrite queue.val value s))

/-- EVENT_FORWARD. -/
def execEventForward (s : State) : Host.Outcome State Fault Refusal :=
  .next (keepQueue s (opEventForward s))

/-- EVENT_ACKNOWLEDGE. -/
def execEventAcknowledge (s : State) : Host.Outcome State Fault Refusal :=
  .next (keepQueue s (opEventAcknowledge s))

/-- CORE_UNRESPONSIVE. -/
def execCoreUnresponsive (ch : Fin 4) (core : Fin 768) (spare : Fin 800) (s : State) : Host.Outcome State Fault Refusal :=
  .next (keepQueue s (opCoreUnresponsive ch.val core.val spare.val s))

/-- CORE_RETIRE. -/
def execCoreRetire (ch : Fin 4) (value : W64) (s : State) : Host.Outcome State Fault Refusal :=
  .next (keepQueue s (opCoreRetire ch.val value s))

/-- THADER_LOSS. -/
def execThaderLoss (s : State) : Host.Outcome State Fault Refusal :=
  .next (keepQueue s (opThaderLoss s))

/-- THADER_0_LOSS. -/
def execThader0Loss (s : State) : Host.Outcome State Fault Refusal :=
  .next (keepQueue s (opThader0Loss s))

/-- SCRUB_PASS. -/
def execScrubPass (ch : Fin 4) (target : ScrubTarget) (upsets : List Upset) (s : State) : Host.Outcome State Fault Refusal :=
  .next (keepQueue s (opScrubPass ch.val target upsets s))

/-- PAGE. -/
def execPage (write : Option Byte) (pecOk : Bool) (s : State) : Host.Outcome State Fault Refusal :=
  .next (keepQueue s (opPage write pecOk s))

/-- CLEAR_FAULTS. -/
def execClearFaults (pecOk : Bool) (s : State) : Host.Outcome State Fault Refusal :=
  .next (keepQueue s (opClearFaults pecOk s))

/-- VOUT_MODE. -/
def execVoutMode (s : State) : Host.Outcome State Fault Refusal :=
  .next (keepQueue s (opVoutMode s))

/-- STATUS_WORD. -/
def execStatusWord (s : State) : Host.Outcome State Fault Refusal :=
  .next (keepQueue s (opStatusWord s))

/-- STATUS_VOUT. -/
def execStatusVout (s : State) : Host.Outcome State Fault Refusal :=
  .next (keepQueue s (opStatusVout s))

/-- STATUS_IOUT. -/
def execStatusIout (s : State) : Host.Outcome State Fault Refusal :=
  .next (keepQueue s (opStatusIout s))

/-- STATUS_INPUT. -/
def execStatusInput (s : State) : Host.Outcome State Fault Refusal :=
  .next (keepQueue s (opStatusInput s))

/-- STATUS_TEMPERATURE. -/
def execStatusTemperature (s : State) : Host.Outcome State Fault Refusal :=
  .next (keepQueue s (opStatusTemperature s))

/-- READ_VIN. -/
def execReadVin (milli : Nat) (s : State) : Host.Outcome State Fault Refusal :=
  .next (keepQueue s (opReadVin milli s))

/-- READ_IIN. -/
def execReadIin (milli : Nat) (s : State) : Host.Outcome State Fault Refusal :=
  .next (keepQueue s (opReadIin milli s))

/-- READ_VOUT. -/
def execReadVout (milli : Nat) (s : State) : Host.Outcome State Fault Refusal :=
  .next (keepQueue s (opReadVout milli s))

/-- READ_IOUT. -/
def execReadIout (milli : Nat) (s : State) : Host.Outcome State Fault Refusal :=
  .next (keepQueue s (opReadIout milli s))

/-- READ_TEMPERATURE_1. -/
def execReadTemperature1 (s : State) : Host.Outcome State Fault Refusal :=
  .next (keepQueue s (opReadTemperature1 s))

/-- READ_POUT. -/
def execReadPout (milli : Nat) (s : State) : Host.Outcome State Fault Refusal :=
  .next (keepQueue s (opReadPout milli s))

/-- READ_PIN. -/
def execReadPin (milli : Nat) (s : State) : Host.Outcome State Fault Refusal :=
  .next (keepQueue s (opReadPin milli s))

/-- PMBUS_REVISION. -/
def execPmbusRevision (s : State) : Host.Outcome State Fault Refusal :=
  .next (keepQueue s (opPmbusRevision s))

/-- MFR_ID. -/
def execMfrId (s : State) : Host.Outcome State Fault Refusal :=
  .next (keepQueue s (opMfrId s))

/-- MFR_MODEL. -/
def execMfrModel (s : State) : Host.Outcome State Fault Refusal :=
  .next (keepQueue s (opMfrModel s))

/-- MFR_PWR_STATUS_LO. -/
def execMfrPwrStatusLo (write : Option W16) (pecOk : Bool) (s : State) : Host.Outcome State Fault Refusal :=
  .next (keepQueue s (opMfrPwrStatusLo write pecOk s))

/-- MFR_PWR_STATUS_HI. -/
def execMfrPwrStatusHi (write : Option W16) (pecOk : Bool) (s : State) : Host.Outcome State Fault Refusal :=
  .next (keepQueue s (opMfrPwrStatusHi write pecOk s))

/-- MFR_THERM_STATUS_LO. -/
def execMfrThermStatusLo (write : Option W16) (pecOk : Bool) (s : State) : Host.Outcome State Fault Refusal :=
  .next (keepQueue s (opMfrThermStatusLo write pecOk s))

/-- MFR_THERM_STATUS_HI. -/
def execMfrThermStatusHi (write : Option W16) (pecOk : Bool) (s : State) : Host.Outcome State Fault Refusal :=
  .next (keepQueue s (opMfrThermStatusHi write pecOk s))

/-- MFR_BYE_CTRL. -/
def execMfrByeCtrl (write : Option W16) (pecOk : Bool) (s : State) : Host.Outcome State Fault Refusal :=
  .next (keepQueue s (opMfrByeCtrl write pecOk s))

/-- MFR_BYE_STATUS. -/
def execMfrByeStatus (write : Option W16) (pecOk : Bool) (s : State) : Host.Outcome State Fault Refusal :=
  .next (keepQueue s (opMfrByeStatus write pecOk s))

/-- MFR_START_CTRL. -/
def execMfrStartCtrl (write : Option W16) (pecOk : Bool) (s : State) : Host.Outcome State Fault Refusal :=
  .next (keepQueue s (opMfrStartCtrl write pecOk s))

/-- MFR_RESET_CAUSE. -/
def execMfrResetCause (s : State) : Host.Outcome State Fault Refusal :=
  .next (keepQueue s (opMfrResetCause s))

/-- MFR_DIE_STATUS. -/
def execMfrDieStatus (s : State) : Host.Outcome State Fault Refusal :=
  .next (keepQueue s (opMfrDieStatus s))

/-- MFR_MODULE_RESET. -/
def execMfrModuleReset (pecOk : Bool) (s : State) : Host.Outcome State Fault Refusal :=
  .next (keepQueue s (opMfrModuleReset pecOk s))

/-- PMBUS_UNSUPPORTED. -/
def execPmbusUnsupported (code : Byte) (s : State) : Host.Outcome State Fault Refusal :=
  .next (keepQueue s (opPmbusUnsupported code s))

/-- PLAIN_REGISTER_WRITE. -/
def execPlainRegisterWrite (seat : Seat) (addr : Nat) (value : W64) (s : State) : Host.Outcome State Fault Refusal :=
  .next (keepQueue s (opPlainRegisterWrite seat addr value s))

/-- LD. -/
def execLd (ch : Fin 4) (core : Fin 768) (s : State) : Host.Outcome State Fault Refusal :=
  .next (keepQueue s (opLd ch.val core.val s))

/-- ST. -/
def execSt (ch : Fin 4) (core : Fin 768) (s : State) : Host.Outcome State Fault Refusal :=
  .next (keepQueue s (opSt ch.val core.val s))

/-- BCAST. -/
def execBcast (ch : Fin 4) (core : Fin 768) (s : State) : Host.Outcome State Fault Refusal :=
  .next (keepQueue s (opBcast ch.val core.val s))

/-- ADD. -/
def execAdd (ch : Fin 4) (core : Fin 768) (s : State) : Host.Outcome State Fault Refusal :=
  .next (keepQueue s (opAdd ch.val core.val s))

/-- SUB. -/
def execSub (ch : Fin 4) (core : Fin 768) (s : State) : Host.Outcome State Fault Refusal :=
  .next (keepQueue s (opSub ch.val core.val s))

/-- MUL. -/
def execMul (ch : Fin 4) (core : Fin 768) (s : State) : Host.Outcome State Fault Refusal :=
  .next (keepQueue s (opMul ch.val core.val s))

/-- FMA. -/
def execFma (ch : Fin 4) (core : Fin 768) (s : State) : Host.Outcome State Fault Refusal :=
  .next (keepQueue s (opFma ch.val core.val s))

/-- MIN. -/
def execMin (ch : Fin 4) (core : Fin 768) (s : State) : Host.Outcome State Fault Refusal :=
  .next (keepQueue s (opMin ch.val core.val s))

/-- MAX. -/
def execMax (ch : Fin 4) (core : Fin 768) (s : State) : Host.Outcome State Fault Refusal :=
  .next (keepQueue s (opMax ch.val core.val s))

/-- ABS. -/
def execAbs (ch : Fin 4) (core : Fin 768) (s : State) : Host.Outcome State Fault Refusal :=
  .next (keepQueue s (opAbs ch.val core.val s))

/-- NEG. -/
def execNeg (ch : Fin 4) (core : Fin 768) (s : State) : Host.Outcome State Fault Refusal :=
  .next (keepQueue s (opNeg ch.val core.val s))

/-- COPYSIGN. -/
def execCopysign (ch : Fin 4) (core : Fin 768) (s : State) : Host.Outcome State Fault Refusal :=
  .next (keepQueue s (opCopysign ch.val core.val s))

/-- CMP. -/
def execCmp (ch : Fin 4) (core : Fin 768) (s : State) : Host.Outcome State Fault Refusal :=
  .next (keepQueue s (opCmp ch.val core.val s))

/-- SEL. -/
def execSel (ch : Fin 4) (core : Fin 768) (s : State) : Host.Outcome State Fault Refusal :=
  .next (keepQueue s (opSel ch.val core.val s))

/-- DIV. -/
def execDiv (ch : Fin 4) (core : Fin 768) (s : State) : Host.Outcome State Fault Refusal :=
  .next (keepQueue s (opDiv ch.val core.val s))

/-- SQRT. -/
def execSqrt (ch : Fin 4) (core : Fin 768) (s : State) : Host.Outcome State Fault Refusal :=
  .next (keepQueue s (opSqrt ch.val core.val s))

/-- RECIP. -/
def execRecip (ch : Fin 4) (core : Fin 768) (s : State) : Host.Outcome State Fault Refusal :=
  .next (keepQueue s (opRecip ch.val core.val s))

/-- RSQRT. -/
def execRsqrt (ch : Fin 4) (core : Fin 768) (s : State) : Host.Outcome State Fault Refusal :=
  .next (keepQueue s (opRsqrt ch.val core.val s))

/-- EXP2. -/
def execExp2 (ch : Fin 4) (core : Fin 768) (s : State) : Host.Outcome State Fault Refusal :=
  .next (keepQueue s (opExp2 ch.val core.val s))

/-- LOG2. -/
def execLog2 (ch : Fin 4) (core : Fin 768) (s : State) : Host.Outcome State Fault Refusal :=
  .next (keepQueue s (opLog2 ch.val core.val s))

/-- EXP. -/
def execExp (ch : Fin 4) (core : Fin 768) (s : State) : Host.Outcome State Fault Refusal :=
  .next (keepQueue s (opExp ch.val core.val s))

/-- LN. -/
def execLn (ch : Fin 4) (core : Fin 768) (s : State) : Host.Outcome State Fault Refusal :=
  .next (keepQueue s (opLn ch.val core.val s))

/-- TANH. -/
def execTanh (ch : Fin 4) (core : Fin 768) (s : State) : Host.Outcome State Fault Refusal :=
  .next (keepQueue s (opTanh ch.val core.val s))

/-- SIGMOID. -/
def execSigmoid (ch : Fin 4) (core : Fin 768) (s : State) : Host.Outcome State Fault Refusal :=
  .next (keepQueue s (opSigmoid ch.val core.val s))

/-- ERF. -/
def execErf (ch : Fin 4) (core : Fin 768) (s : State) : Host.Outcome State Fault Refusal :=
  .next (keepQueue s (opErf ch.val core.val s))

/-- GELU. -/
def execGelu (ch : Fin 4) (core : Fin 768) (s : State) : Host.Outcome State Fault Refusal :=
  .next (keepQueue s (opGelu ch.val core.val s))

/-- SILU. -/
def execSilu (ch : Fin 4) (core : Fin 768) (s : State) : Host.Outcome State Fault Refusal :=
  .next (keepQueue s (opSilu ch.val core.val s))

/-- LSUM. -/
def execLsum (ch : Fin 4) (core : Fin 768) (s : State) : Host.Outcome State Fault Refusal :=
  .next (keepQueue s (opLsum ch.val core.val s))

/-- LMAX. -/
def execLmax (ch : Fin 4) (core : Fin 768) (s : State) : Host.Outcome State Fault Refusal :=
  .next (keepQueue s (opLmax ch.val core.val s))

/-- LMIN. -/
def execLmin (ch : Fin 4) (core : Fin 768) (s : State) : Host.Outcome State Fault Refusal :=
  .next (keepQueue s (opLmin ch.val core.val s))

/-- IADD. -/
def execIadd (ch : Fin 4) (core : Fin 768) (s : State) : Host.Outcome State Fault Refusal :=
  .next (keepQueue s (opIadd ch.val core.val s))

/-- ISUB. -/
def execIsub (ch : Fin 4) (core : Fin 768) (s : State) : Host.Outcome State Fault Refusal :=
  .next (keepQueue s (opIsub ch.val core.val s))

/-- IMUL. -/
def execImul (ch : Fin 4) (core : Fin 768) (s : State) : Host.Outcome State Fault Refusal :=
  .next (keepQueue s (opImul ch.val core.val s))

/-- SHL. -/
def execShl (ch : Fin 4) (core : Fin 768) (s : State) : Host.Outcome State Fault Refusal :=
  .next (keepQueue s (opShl ch.val core.val s))

/-- SHR. -/
def execShr (ch : Fin 4) (core : Fin 768) (s : State) : Host.Outcome State Fault Refusal :=
  .next (keepQueue s (opShr ch.val core.val s))

/-- AND. -/
def execAnd (ch : Fin 4) (core : Fin 768) (s : State) : Host.Outcome State Fault Refusal :=
  .next (keepQueue s (opAnd ch.val core.val s))

/-- OR. -/
def execOr (ch : Fin 4) (core : Fin 768) (s : State) : Host.Outcome State Fault Refusal :=
  .next (keepQueue s (opOr ch.val core.val s))

/-- XOR. -/
def execXor (ch : Fin 4) (core : Fin 768) (s : State) : Host.Outcome State Fault Refusal :=
  .next (keepQueue s (opXor ch.val core.val s))

/-- ICMP. -/
def execIcmp (ch : Fin 4) (core : Fin 768) (s : State) : Host.Outcome State Fault Refusal :=
  .next (keepQueue s (opIcmp ch.val core.val s))

/-- POPCNT. -/
def execPopcnt (ch : Fin 4) (core : Fin 768) (s : State) : Host.Outcome State Fault Refusal :=
  .next (keepQueue s (opPopcnt ch.val core.val s))

/-- CLZ. -/
def execClz (ch : Fin 4) (core : Fin 768) (s : State) : Host.Outcome State Fault Refusal :=
  .next (keepQueue s (opClz ch.val core.val s))

/-- CVT. -/
def execCvt (ch : Fin 4) (core : Fin 768) (s : State) : Host.Outcome State Fault Refusal :=
  .next (keepQueue s (opCvt ch.val core.val s))

/-- RAND. -/
def execRand (ch : Fin 4) (core : Fin 768) (s : State) : Host.Outcome State Fault Refusal :=
  .next (keepQueue s (opRand ch.val core.val s))

/-- SORT. -/
def execSort (ch : Fin 4) (core : Fin 768) (s : State) : Host.Outcome State Fault Refusal :=
  .next (keepQueue s (opSort ch.val core.val s))

/-- VEC_END. -/
def execVecEnd (ch : Fin 4) (core : Fin 768) (s : State) : Host.Outcome State Fault Refusal :=
  .next (keepQueue s (opVecEnd ch.val core.val s))

/-- AUX_INPUT_LOSS. -/
def execAuxInputLoss (s : State) : Host.Outcome State Fault Refusal :=
  .next (keepQueue s (opAuxInputLoss s))

/-- VIN_LOW. -/
def execVinLow (low : Bool) (s : State) : Host.Outcome State Fault Refusal :=
  .next (keepQueue s (opVinLow low s))

/-- HOST_LINK_UP. -/
def execHostLinkUp (port : Fin 8) (s : State) : Host.Outcome State Fault Refusal :=
  .next (keepQueue s (opHostLinkUp port.val s))

/-- WAKE_COMPLETE. -/
def execWakeComplete (s : State) : Host.Outcome State Fault Refusal :=
  .next (keepQueue s (opWakeComplete s))

/-- DEBUG_PORT_ACCESS. -/
def execDebugPortAccess (acc : DebugAccess) (cycles : Nat) (s : State) : Host.Outcome State Fault Refusal :=
  .next (keepQueue s (opDebugPortAccess acc cycles s))

/-- RC_COUNTER_READ. -/
def execRcCounterRead (addr : Nat) (increment : Bool) (s : State) : Host.Outcome State Fault Refusal :=
  .next (keepQueue s (opRcCounterRead addr increment s))

/-- TRAINING_JOB_START. -/
def execTrainingJobStart (job : TrainJob) (s : State) : Host.Outcome State Fault Refusal :=
  .next (keepQueue s (opTrainingJobStart job s))

end Sys2Proof.Machine
end

