-- ==== Sys2Proof/Machine/Dispatch.lean ====
section
/-! DEFINITION. The effect of every command on everything but the queue: one arm per constructor. -/

namespace Sys2Proof.Machine

def exec (i : Instr) (s : State) : Host.Outcome State Fault Refusal :=
  match i with
  | .powerOn => Sys2Proof.Machine.execPowerOn s
  | .resetRelease straps primaryStarts nonce => Sys2Proof.Machine.execResetRelease straps primaryStarts nonce s
  | .memoryTrainingDone deadStacks deadPackages t0Dead t1Dead => Sys2Proof.Machine.execMemoryTrainingDone deadStacks deadPackages t0Dead t1Dead s
  | .wipeComplete => Sys2Proof.Machine.execWipeComplete s
  | .bypassRound => Sys2Proof.Machine.execBypassRound s
  | .bypassRoundClose => Sys2Proof.Machine.execBypassRoundClose s
  | .bypassRoundInsert => Sys2Proof.Machine.execBypassRoundInsert s
  | .modelWeightDigest model => Sys2Proof.Machine.execModelWeightDigest model s
  | .timingModeWrite ch value => Sys2Proof.Machine.execTimingModeWrite ch value s
  | .brownout => Sys2Proof.Machine.execBrownout s
  | .brownoutRestart => Sys2Proof.Machine.execBrownoutRestart s
  | .inputCurrentLimit => Sys2Proof.Machine.execInputCurrentLimit s
  | .currentLimitRelease => Sys2Proof.Machine.execCurrentLimitRelease s
  | .railFault page => Sys2Proof.Machine.execRailFault page s
  | .thermalSensorSample readings => Sys2Proof.Machine.execThermalSensorSample readings s
  | .thermalStepUpdate => Sys2Proof.Machine.execThermalStepUpdate s
  | .powerCapUpdate watts => Sys2Proof.Machine.execPowerCapUpdate watts s
  | .supplySag ch level => Sys2Proof.Machine.execSupplySag ch level s
  | .stretchRelease ch => Sys2Proof.Machine.execStretchRelease ch s
  | .resetSignal high lowNs => Sys2Proof.Machine.execResetSignal high lowNs s
  | .managementReset => Sys2Proof.Machine.execManagementReset s
  | .tapLeaveTestLogicReset => Sys2Proof.Machine.execTapLeaveTestLogicReset s
  | .tapReturnTestLogicReset => Sys2Proof.Machine.execTapReturnTestLogicReset s
  | .dormant => Sys2Proof.Machine.execDormant s
  | .active => Sys2Proof.Machine.execActive s
  | .coreClockGate ch core => Sys2Proof.Machine.execCoreClockGate ch core s
  | .lcTransition seed seedBack nonce cut => Sys2Proof.Machine.execLcTransition seed seedBack nonce s cut
  | .debugToken nonce => Sys2Proof.Machine.execDebugToken nonce s
  | .attestationRequest => Sys2Proof.Machine.execAttestationRequest s
  | .product ch => Sys2Proof.Machine.execProduct ch s
  | .prefillAttention ch => Sys2Proof.Machine.execPrefillAttention ch s
  | .sparseBySparse ch => Sys2Proof.Machine.execSparseBySparse ch s
  | .vectorOperation ch => Sys2Proof.Machine.execVectorOperation ch s
  | .fillAndCopy ch => Sys2Proof.Machine.execFillAndCopy ch s
  | .matrixVector ch => Sys2Proof.Machine.execMatrixVector ch s
  | .decodeAttention ch => Sys2Proof.Machine.execDecodeAttention ch s
  | .gather ch => Sys2Proof.Machine.execGather ch s
  | .scatter ch => Sys2Proof.Machine.execScatter ch s
  | .scatterAdd ch => Sys2Proof.Machine.execScatterAdd ch s
  | .indexIntersection ch => Sys2Proof.Machine.execIndexIntersection ch s
  | .encode ch => Sys2Proof.Machine.execEncode ch s
  | .decode ch => Sys2Proof.Machine.execDecode ch s
  | .operationHeldLoad ch heldCycles => Sys2Proof.Machine.execOperationHeldLoad ch heldCycles s
  | .workQueueTailWrite ch value => Sys2Proof.Machine.execWorkQueueTailWrite ch value s
  | .operationStart ch core => Sys2Proof.Machine.execOperationStart ch core s
  | .operationComplete ch opId => Sys2Proof.Machine.execOperationComplete ch opId s
  | .operationDeadlineMiss ch opId => Sys2Proof.Machine.execOperationDeadlineMiss ch opId s
  | .tileRequest ch core slot => Sys2Proof.Machine.execTileRequest ch core slot s
  | .fetchIssue ch => Sys2Proof.Machine.execFetchIssue ch s
  | .fetchComplete ch stream tile late cause upsets => Sys2Proof.Machine.execFetchComplete ch stream tile late cause upsets s
  | .dramWriteBack word => Sys2Proof.Machine.execDramWriteBack word s
  | .streamResume ch value => Sys2Proof.Machine.execStreamResume ch value s
  | .streamCancel ch value => Sys2Proof.Machine.execStreamCancel ch value s
  | .cancelComplete ch => Sys2Proof.Machine.execCancelComplete ch s
  | .scale ch core stream tile half late cause => Sys2Proof.Machine.execScale ch core stream tile half s late cause
  | .pageList ch core pages => Sys2Proof.Machine.execPageList ch core pages s
  | .counter ch pairs => Sys2Proof.Machine.execCounter ch pairs s
  | .arrivalNotice ch core window => Sys2Proof.Machine.execArrivalNotice ch core window s
  | .cancelNotice ch core opId => Sys2Proof.Machine.execCancelNotice ch core opId s
  | .rotationForward ch core slot late cause => Sys2Proof.Machine.execRotationForward ch core slot late s cause
  | .checksumCompare ch core disturb => Sys2Proof.Machine.execChecksumCompare ch core disturb s
  | .storePathWait ch core cycles => Sys2Proof.Machine.execStorePathWait ch core cycles s
  | .combine ch core => Sys2Proof.Machine.execCombine ch core s
  | .arrivalWaitResume ch core => Sys2Proof.Machine.execArrivalWaitResume ch core s
  | .coreStoreAccess ch core acc waited upsets late cause => Sys2Proof.Machine.execCoreStoreAccess ch core acc waited upsets s late cause
  | .coreStoreWriteBack ch core => Sys2Proof.Machine.execCoreStoreWriteBack ch core s
  | .fill ch core => Sys2Proof.Machine.execFill ch core s
  | .copy ch core => Sys2Proof.Machine.execCopy ch core s
  | .coreCsPowerWrite ch core value => Sys2Proof.Machine.execCoreCsPowerWrite ch core value s
  | .rowMapWrite ch core k value => Sys2Proof.Machine.execRowMapWrite ch core k value s
  | .recvWindowWrite ch core k value => Sys2Proof.Machine.execRecvWindowWrite ch core k value s
  | .arrivalCounterWrite ch core k value arrivals => Sys2Proof.Machine.execArrivalCounterWrite ch core k value arrivals s
  | .coreMapWrite ch c value => Sys2Proof.Machine.execCoreMapWrite ch c value s
  | .dramRefresh ch tier1 device pc bank => Sys2Proof.Machine.execDramRefresh ch tier1 device pc bank s
  | .hotChannelSample ch occupancy => Sys2Proof.Machine.execHotChannelSample ch occupancy s
  | .fetchFromTier1 ch => Sys2Proof.Machine.execFetchFromTier1 ch s
  | .copyToTier1 ch => Sys2Proof.Machine.execCopyToTier1 ch s
  | .fetchFromHost ch => Sys2Proof.Machine.execFetchFromHost ch s
  | .markAbsent ch => Sys2Proof.Machine.execMarkAbsent ch s
  | .markPresent ch => Sys2Proof.Machine.execMarkPresent ch s
  | .evict ch => Sys2Proof.Machine.execEvict ch s
  | .repairBlockFromMirror ch => Sys2Proof.Machine.execRepairBlockFromMirror ch s
  | .migrationComplete ch => Sys2Proof.Machine.execMigrationComplete ch s
  | .t0FenceWrite ch value => Sys2Proof.Machine.execT0FenceWrite ch value s
  | .stackLoss ch unit die cause => Sys2Proof.Machine.execStackLoss ch unit die cause s
  | .dieTransferUncorrectable path => Sys2Proof.Machine.execDieTransferUncorrectable path s
  | .ilLockWrite value => Sys2Proof.Machine.execIlLockWrite value s
  | .combineChunk ch opId => Sys2Proof.Machine.execCombineChunk ch opId s
  | .sumChunkSend die opId waited => Sys2Proof.Machine.execSumChunkSend die opId waited s
  | .lengthTableEntry ch opId => Sys2Proof.Machine.execLengthTableEntry ch opId s
  | .pageHeader ch opId late => Sys2Proof.Machine.execPageHeader ch opId s late
  | .pageListEntry ch opId => Sys2Proof.Machine.execPageListEntry ch opId s
  | .attentionStatesMerge ch opId => Sys2Proof.Machine.execAttentionStatesMerge ch opId s
  | .exportMerge ch opId => Sys2Proof.Machine.execExportMerge ch opId s
  | .gatherIndex die opId => Sys2Proof.Machine.execGatherIndex die opId s
  | .pair ch core record => Sys2Proof.Machine.execPair ch core record s
  | .block ch core record => Sys2Proof.Machine.execBlock ch core record s
  | .end_ ch core record => Sys2Proof.Machine.execEnd ch core record s
  | .shadowBlockCopy ch block => Sys2Proof.Machine.execShadowBlockCopy ch block s
  | .shadowSyncRequest ch value => Sys2Proof.Machine.execShadowSyncRequest ch value s
  | .shadowSyncComplete ch => Sys2Proof.Machine.execShadowSyncComplete ch s
  | .sequenceRetire seq => Sys2Proof.Machine.execSequenceRetire seq s
  | .responseIssue seq token => Sys2Proof.Machine.execResponseIssue seq token s
  | .deferredAdmit => Sys2Proof.Machine.execDeferredAdmit s
  | .dataFlit port flit check struck => Sys2Proof.Machine.execDataFlit port flit check s struck
  | .idleFlit port flit check => Sys2Proof.Machine.execIdleFlit port flit check s
  | .nakFlit port flit check => Sys2Proof.Machine.execNakFlit port flit check s
  | .replayTimeout port => Sys2Proof.Machine.execReplayTimeout port s
  | .nakResendTimeout port => Sys2Proof.Machine.execNakResendTimeout port s
  | .messageForward port cls => Sys2Proof.Machine.execMessageForward port cls s
  | .messageAgeDrop port cls => Sys2Proof.Machine.execMessageAgeDrop port cls s
  | .windowWrite port dataBad => Sys2Proof.Machine.execWindowWrite port dataBad s
  | .reject port => Sys2Proof.Machine.execReject port s
  | .heartbeat port => Sys2Proof.Machine.execHeartbeat port s
  | .heartbeatSend => Sys2Proof.Machine.execHeartbeatSend s
  | .neighbourHung port => Sys2Proof.Machine.execNeighbourHung port s
  | .membershipUpdate port => Sys2Proof.Machine.execMembershipUpdate port s
  | .rejoinStart port => Sys2Proof.Machine.execRejoinStart port s
  | .rejoinDone port => Sys2Proof.Machine.execRejoinDone port s
  | .registerRead port => Sys2Proof.Machine.execRegisterRead port s
  | .registerWrite port => Sys2Proof.Machine.execRegisterWrite port s
  | .reply port => Sys2Proof.Machine.execReply port s
  | .transferData port => Sys2Proof.Machine.execTransferData port s
  | .eventNotice port => Sys2Proof.Machine.execEventNotice port s
  | .request port => Sys2Proof.Machine.execRequest port s
  | .continueSequence port => Sys2Proof.Machine.execContinueSequence port s
  | .cancel port => Sys2Proof.Machine.execCancel port s
  | .replay port => Sys2Proof.Machine.execReplay port s
  | .response port => Sys2Proof.Machine.execResponse port s
  | .status port => Sys2Proof.Machine.execStatus port s
  | .requestIncompleteTimeout htag => Sys2Proof.Machine.execRequestIncompleteTimeout htag s
  | .hostFrame port frame => Sys2Proof.Machine.execHostFrame port frame s
  | .hostResendTimeout port => Sys2Proof.Machine.execHostResendTimeout port s
  | .laneLoss port lane partnerLane => Sys2Proof.Machine.execLaneLoss port lane partnerLane s
  | .lossOfSignal port => Sys2Proof.Machine.execLossOfSignal port s
  | .relockComplete port lanes partner partnerPort => Sys2Proof.Machine.execRelockComplete port lanes partner partnerPort s
  | .relockTimeout port => Sys2Proof.Machine.execRelockTimeout port s
  | .trainingComplete port lanes partner partnerPort => Sys2Proof.Machine.execTrainingComplete port lanes partner partnerPort s
  | .trainingTimeout port signalSeen => Sys2Proof.Machine.execTrainingTimeout port signalSeen s
  | .linkEnable port value => Sys2Proof.Machine.execLinkEnable port value s
  | .retrain port => Sys2Proof.Machine.execRetrain port s
  | .relockDirect port => Sys2Proof.Machine.execRelockDirect port s
  | .byeInsertWrite value => Sys2Proof.Machine.execByeInsertWrite value s
  | .byeFault relay sensedClosed => Sys2Proof.Machine.execByeFault relay sensedClosed s
  | .sendCommand ch value => Sys2Proof.Machine.execSendCommand ch value s
  | .sendStart ch => Sys2Proof.Machine.execSendStart ch s
  | .sendComplete ch => Sys2Proof.Machine.execSendComplete ch s
  | .ready tag => Sys2Proof.Machine.execReady tag s
  | .return_ tag => Sys2Proof.Machine.execReturn tag s
  | .redReset tag => Sys2Proof.Machine.execRedReset tag s
  | .reduceSegment port => Sys2Proof.Machine.execReduceSegment port s
  | .adderSegment tag => Sys2Proof.Machine.execAdderSegment tag s
  | .returnParameters port => Sys2Proof.Machine.execReturnParameters port s
  | .returnScales port => Sys2Proof.Machine.execReturnScales port s
  | .watchdogInterval pair => Sys2Proof.Machine.execWatchdogInterval pair s
  | .machineCheck pair => Sys2Proof.Machine.execMachineCheck pair s
  | .heartbeatWrite pair seat value => Sys2Proof.Machine.execHeartbeatWrite pair seat value s
  | .eventQueueHeadWrite queue value => Sys2Proof.Machine.execEventQueueHeadWrite queue value s
  | .eventQueueBaseWrite queue value => Sys2Proof.Machine.execEventQueueBaseWrite queue value s
  | .eventForward => Sys2Proof.Machine.execEventForward s
  | .eventAcknowledge => Sys2Proof.Machine.execEventAcknowledge s
  | .coreUnresponsive ch core spare => Sys2Proof.Machine.execCoreUnresponsive ch core spare s
  | .coreRetire ch value => Sys2Proof.Machine.execCoreRetire ch value s
  | .thaderLoss => Sys2Proof.Machine.execThaderLoss s
  | .thader0Loss => Sys2Proof.Machine.execThader0Loss s
  | .scrubPass ch target upsets => Sys2Proof.Machine.execScrubPass ch target upsets s
  | .page write pecOk => Sys2Proof.Machine.execPage write pecOk s
  | .clearFaults pecOk => Sys2Proof.Machine.execClearFaults pecOk s
  | .voutMode => Sys2Proof.Machine.execVoutMode s
  | .statusWord => Sys2Proof.Machine.execStatusWord s
  | .statusVout => Sys2Proof.Machine.execStatusVout s
  | .statusIout => Sys2Proof.Machine.execStatusIout s
  | .statusInput => Sys2Proof.Machine.execStatusInput s
  | .statusTemperature => Sys2Proof.Machine.execStatusTemperature s
  | .readVin milli => Sys2Proof.Machine.execReadVin milli s
  | .readIin milli => Sys2Proof.Machine.execReadIin milli s
  | .readVout milli => Sys2Proof.Machine.execReadVout milli s
  | .readIout milli => Sys2Proof.Machine.execReadIout milli s
  | .readTemperature1 => Sys2Proof.Machine.execReadTemperature1 s
  | .readPout milli => Sys2Proof.Machine.execReadPout milli s
  | .readPin milli => Sys2Proof.Machine.execReadPin milli s
  | .pmbusRevision => Sys2Proof.Machine.execPmbusRevision s
  | .mfrId => Sys2Proof.Machine.execMfrId s
  | .mfrModel => Sys2Proof.Machine.execMfrModel s
  | .mfrPwrStatusLo write pecOk => Sys2Proof.Machine.execMfrPwrStatusLo write pecOk s
  | .mfrPwrStatusHi write pecOk => Sys2Proof.Machine.execMfrPwrStatusHi write pecOk s
  | .mfrThermStatusLo write pecOk => Sys2Proof.Machine.execMfrThermStatusLo write pecOk s
  | .mfrThermStatusHi write pecOk => Sys2Proof.Machine.execMfrThermStatusHi write pecOk s
  | .mfrByeCtrl write pecOk => Sys2Proof.Machine.execMfrByeCtrl write pecOk s
  | .mfrByeStatus write pecOk => Sys2Proof.Machine.execMfrByeStatus write pecOk s
  | .mfrStartCtrl write pecOk => Sys2Proof.Machine.execMfrStartCtrl write pecOk s
  | .mfrResetCause => Sys2Proof.Machine.execMfrResetCause s
  | .mfrDieStatus => Sys2Proof.Machine.execMfrDieStatus s
  | .mfrModuleReset pecOk => Sys2Proof.Machine.execMfrModuleReset pecOk s
  | .pmbusUnsupported code => Sys2Proof.Machine.execPmbusUnsupported code s
  | .plainRegisterWrite seat addr value => Sys2Proof.Machine.execPlainRegisterWrite seat addr value s
  | .ld ch core => Sys2Proof.Machine.execLd ch core s
  | .st ch core => Sys2Proof.Machine.execSt ch core s
  | .bcast ch core => Sys2Proof.Machine.execBcast ch core s
  | .add ch core => Sys2Proof.Machine.execAdd ch core s
  | .sub ch core => Sys2Proof.Machine.execSub ch core s
  | .mul ch core => Sys2Proof.Machine.execMul ch core s
  | .fma ch core => Sys2Proof.Machine.execFma ch core s
  | .min ch core => Sys2Proof.Machine.execMin ch core s
  | .max ch core => Sys2Proof.Machine.execMax ch core s
  | .abs ch core => Sys2Proof.Machine.execAbs ch core s
  | .neg ch core => Sys2Proof.Machine.execNeg ch core s
  | .copysign ch core => Sys2Proof.Machine.execCopysign ch core s
  | .cmp ch core => Sys2Proof.Machine.execCmp ch core s
  | .sel ch core => Sys2Proof.Machine.execSel ch core s
  | .div ch core => Sys2Proof.Machine.execDiv ch core s
  | .sqrt ch core => Sys2Proof.Machine.execSqrt ch core s
  | .recip ch core => Sys2Proof.Machine.execRecip ch core s
  | .rsqrt ch core => Sys2Proof.Machine.execRsqrt ch core s
  | .exp2 ch core => Sys2Proof.Machine.execExp2 ch core s
  | .log2 ch core => Sys2Proof.Machine.execLog2 ch core s
  | .exp ch core => Sys2Proof.Machine.execExp ch core s
  | .ln ch core => Sys2Proof.Machine.execLn ch core s
  | .tanh ch core => Sys2Proof.Machine.execTanh ch core s
  | .sigmoid ch core => Sys2Proof.Machine.execSigmoid ch core s
  | .erf ch core => Sys2Proof.Machine.execErf ch core s
  | .gelu ch core => Sys2Proof.Machine.execGelu ch core s
  | .silu ch core => Sys2Proof.Machine.execSilu ch core s
  | .lsum ch core => Sys2Proof.Machine.execLsum ch core s
  | .lmax ch core => Sys2Proof.Machine.execLmax ch core s
  | .lmin ch core => Sys2Proof.Machine.execLmin ch core s
  | .iadd ch core => Sys2Proof.Machine.execIadd ch core s
  | .isub ch core => Sys2Proof.Machine.execIsub ch core s
  | .imul ch core => Sys2Proof.Machine.execImul ch core s
  | .shl ch core => Sys2Proof.Machine.execShl ch core s
  | .shr ch core => Sys2Proof.Machine.execShr ch core s
  | .and ch core => Sys2Proof.Machine.execAnd ch core s
  | .or ch core => Sys2Proof.Machine.execOr ch core s
  | .xor ch core => Sys2Proof.Machine.execXor ch core s
  | .icmp ch core => Sys2Proof.Machine.execIcmp ch core s
  | .popcnt ch core => Sys2Proof.Machine.execPopcnt ch core s
  | .clz ch core => Sys2Proof.Machine.execClz ch core s
  | .cvt ch core => Sys2Proof.Machine.execCvt ch core s
  | .rand ch core => Sys2Proof.Machine.execRand ch core s
  | .sort ch core => Sys2Proof.Machine.execSort ch core s
  | .vecEnd ch core => Sys2Proof.Machine.execVecEnd ch core s
  | .auxInputLoss => Sys2Proof.Machine.execAuxInputLoss s
  | .vinLow low => Sys2Proof.Machine.execVinLow low s
  | .hostLinkUp port => Sys2Proof.Machine.execHostLinkUp port s
  | .wakeComplete => Sys2Proof.Machine.execWakeComplete s
  | .debugPortAccess acc cycles => Sys2Proof.Machine.execDebugPortAccess acc cycles s
  | .rcCounterRead addr increment => Sys2Proof.Machine.execRcCounterRead addr increment s
  | .trainingJobStart job => Sys2Proof.Machine.execTrainingJobStart job s

end Sys2Proof.Machine
end

