-- ==== Sys2Proof/WellFormed.lean ====
section
/-! DEFINITION. Which commands are well formed: the bounds that the operand types do not already say. -/

namespace Sys2Proof

/-- An access form and its data (R140): at most 32 words, inside the store's 512 rows of 32 words, and one data
word and one mask for each word of a write. -/
def CsAccess.wf (a : CsAccess) : Bool :=
  decide (0 < a.count) && decide (a.count ≤ 32) && decide (a.row < 512) && decide (a.word < 32) &&
    (!a.write || (a.data.length == a.count && a.mask.length == a.count))

/-- A disturbed accumulator lies in the 32 by 32 cells, the checksum row or the checksum column (R100). -/
def Disturb.wf (d : Disturb) : Bool := decide (d.row ≤ 32) && decide (d.col ≤ 32)

/-- A flit (R465): its type is one of the three, its numbers fit their fields, and it has 624 body bytes. -/
def Flit.wf (f : Flit) : Bool :=
  decide (f.ftype < 16) && decide (f.seq < 4096) && decide (f.ack < 4096) && decide (f.credA < 4096) &&
    decide (f.credB < 4096) && f.body.length == 624

/-- A host frame's payload length fits 16 bits; the module itself drops one beyond 8,336 bytes (R516). -/
def HostFrame.wf (f : HostFrame) : Bool := decide (f.payload.length < 65536)

/-- A sensor's number within its class (R612, R616). -/
def Sensor.wf (x : Sensor) : Bool := decide (x.idx < 64)

/-- Symbol errors name an error, not its absence (R316). -/
def Upset.wf (u : Upset) : Bool := u.err != 0

/-- Operands within their bounds. -/
def Instr.wf : Instr → Bool
  | .thermalSensorSample rs => rs.all fun p => p.1.wf
  | .fetchComplete _ _ _ _ _ us => us.all Upset.wf
  | .checksumCompare _ _ ds => ds.all Disturb.wf
  | .coreStoreAccess _ _ acc _ us _ _ => acc.wf && us.all Upset.wf
  | .dramRefresh _ t1 d _ b => t1 == b.isNone && (t1 || decide (d.val < 3))
  | .scrubPass _ _ us => us.all Upset.wf
  | .dataFlit _ f _ _ => f.wf
  | .idleFlit _ f _ => f.wf
  | .nakFlit _ f _ => f.wf
  | .hostFrame _ f => f.wf
  | .counter _ ps => ps.all fun p => decide (p.1 < 768)
  | .debugPortAccess (.store _ _ a) _ => a.wf
  | .lcTransition seed back _ _ => seed.length == 32 && back.length == 32
  | _ => true

end Sys2Proof
end

