-- ==== Sys2Proof/Safety.lean ====
section
/-! DEFINITION. The words in which the statements speak: what a command answers, what it leaves alone, and when the
memory is in its canonical form. -/

namespace Sys2Proof.Machine

/-- The command answers a next state, and P holds of it. -/
def Answers (c : Instr) (s : State) (P : State → Prop) : Prop := ∃ t, exec c s = .next t ∧ P t

/-- Every register but those listed reads as before. -/
def RegsBut (l : List RegRef) (s t : State) : Prop :=
  ∀ r : RegRef, (∀ x ∈ l, x.addr ≠ r.addr) → rd t r = rd s r

/-- Nothing but registers differs, and of them only those listed. -/
def OnlyRegs (l : List RegRef) (s t : State) : Prop := t = { s with regs := t.regs } ∧ RegsBut l s t

/-- Nothing but registers and the board controller differs, and of the registers only those listed. -/
def OnlyBoard (l : List RegRef) (s t : State) : Prop :=
  t = { s with regs := t.regs, board := t.board } ∧ RegsBut l s t

/-- Nothing but registers and the ports differs. -/
def OnlyPorts (s t : State) : Prop := t = { s with regs := t.regs, ports := t.ports }

/-- Nothing but registers, the ports and the referee's books differs. -/
def OnlyPortsAndReferee (s t : State) : Prop := t = { s with regs := t.regs, ports := t.ports, ref := t.ref }

/-- Nothing but registers differs, and of them only those listed, beside what a channel keeps of its recoveries: their
list, its journal and the recovery bit (R37, R551). -/
def OnlyRecovery (n : Nat) (l : List RegRef) (s t : State) : Prop :=
  t = { s with regs := t.regs, chans := t.chans } ∧ RegsBut (Reg.chTimingMode n :: l) s t ∧
    (∀ m, m ≠ n → t.chan m = s.chan m) ∧
    t.chan n = { s.chan n with recov := (t.chan n).recov, book := { (s.chan n).book with journal := (t.chan n).book.journal } }

/-- A pseudo-channel's queue stands high in a sample: at its threshold, and above the ratio of the mean (R328). -/
def standsHigh (s : State) (n : Nat) (occ : List Nat) (i : Nat) : Bool :=
  decide (fld s (Reg.chHotCtrl n) 15 12 ≤ min 32 (occ.getD i 0)) &&
    decide (max 2 (fld s (Reg.chHotCtrl n) 19 16) * (List.range 96).foldl (fun a j => a + min 32 (occ.getD j 0)) 0
      < 96 * min 32 (occ.getD i 0))

/-- Every byte of memory reads as before, and every symbol error stays where it is. -/
def SameMemory (s t : State) : Prop := t.mem = s.mem ∧ t.errs = s.errs

/-- Every byte outside [lo, hi) reads as before. -/
def SameOutside (lo hi : Nat) (s t : State) : Prop :=
  ∀ a, (a < lo ∨ hi ≤ a) → mget 0 t.mem a = mget 0 s.mem a

/-- The memory is in its canonical form: addresses rise strictly, and no listed byte is the zero that an unlisted
address reads as. -/
def MemoryOk (s : State) : Prop := Memory.wf s.mem = true

/-- Every waiting command is well formed. -/
def QueueOk (s : State) : Prop := ∀ c ∈ s.pending, c.wf = true

/-- The counter of a register rose by n, and stopped at its largest value (R666). -/
def Counted (r : RegRef) (n : Nat) (s t : State) : Prop :=
  (rd t r).toNat = min ((rd s r).toNat + n) 0xFFFFFFFF

/-- A PMBus answer and nothing else (R620). -/
def answered (s : State) (bs : List Byte) : State := { s with out := { s.out with pmbus := bs } }

/-- The module after a reset: the power state it stands in and the cause recorded (R644, R666), with memory wiped, nothing
loaded, and insert cleared (R645); the knowledge of the cores that do not respond is kept (R179). -/
def WipedInto (power cause : Nat) (s t : State) : Prop :=
  powerState t = power ∧ rd t Reg.glbResetCause = BitVec.ofNat 64 cause ∧ t.mem = [] ∧ t.errs = [] ∧
    (∀ n < 4, t.chan n = { Chan.reset with dead := (s.chan n).dead }) ∧ t.cores = [] ∧ t.streams = [] ∧ t.ports = [] ∧ flag t Reg.glbByeCtrl 0 = false ∧ t.pending = s.pending

/-- Fuses and boot flash as they were (R645). -/
def KeptFuses (s t : State) : Prop := t.fuses = s.fuses ∧ t.flash = s.flash

/-- The standby of a control-core pair runs in the place of the active one, for the reason given (R549, R552). -/
def TakenOver (k reason : Nat) (s t : State) : Prop :=
  fld t (ccStatus k) 31 30 = 2 ∧ flag t (ccStatus k) 29 = true ∧ fld t (ccStatus k) 27 24 = reason ∧
    fld t (ccStatus k) 1 0 = 0 ∧ Counted Reg.glbCcTakeoverCount 1 s t ∧ t.cores = s.cores ∧ t.streams = s.streams

/-- k steps, each of which answers a next state. -/
def run : Nat → State → Option State
  | 0, s => some s
  | k + 1, s => match step s with
    | .next t => run k t
    | _ => none

/-- The commands of the loader, with the kind of operation each takes and, for the kinds that have several, the work
selected (R557, R558). -/
def loadCommands (n : Fin 4) : List (Instr × Nat × Option Nat) :=
  [(.product n, 0, none), (.prefillAttention n, 1, none), (.sparseBySparse n, 2, none), (.vectorOperation n, 3, none),
   (.fillAndCopy n, 4, none), (.matrixVector n, 8, none), (.decodeAttention n, 9, none), (.gather n, 10, some 0),
   (.scatter n, 10, some 1), (.scatterAdd n, 10, some 2), (.indexIntersection n, 11, none), (.encode n, 12, some 0),
   (.decode n, 12, some 1)]

/-- The vector opcodes that write register d from registers alone: command, code, and the lanes written (R109 to R111,
R561). -/
def registerOpcodes (n : Fin 4) (l : Fin 768) : List (Instr × Nat × (VecOp → VecTask → List W32)) :=
  let un := fun (f : W32 → W32) (w : VecOp) (t : VecTask) => (t.reg w.a).map f
  let bin := fun (f : W32 → W32 → W32) (w : VecOp) (t : VecTask) => ((t.reg w.a).zip (t.reg w.b)).map fun p => f p.1 p.2
  [(.bcast n l, 0x03, fun w t => List.replicate 32 ((t.reg w.a).headD 0)),
   (.add n l, 0x08, bin fadd), (.sub n l, 0x09, bin fsub), (.mul n l, 0x0A, bin fmul),
   (.fma n l, 0x0B, fun w t => (((t.reg w.a).zip (t.reg w.b)).zip (t.reg w.c)).map fun p => ffma p.1.1 p.1.2 p.2),
   (.min n l, 0x0C, bin fmin), (.max n l, 0x0D, bin fmax), (.abs n l, 0x0E, un fabs), (.neg n l, 0x0F, un fneg),
   (.copysign n l, 0x10, bin fcopysign), (.cmp n l, 0x11, fun w => bin (fcmp (w.imm % 8)) w),
   (.sel n l, 0x12, fun w t => (((t.reg w.a).zip (t.reg w.b)).zip (t.reg w.c)).map fun p => if p.2 != 0 then p.1.1 else p.1.2),
   (.div n l, 0x13, bin fdiv), (.sqrt n l, 0x14, un fsqrt), (.recip n l, 0x15, un fRecip), (.rsqrt n l, 0x16, un fRsqrt),
   (.exp2 n l, 0x17, un fExp2), (.log2 n l, 0x18, un fLog2), (.exp n l, 0x19, un fExp), (.ln n l, 0x1A, un fLn),
   (.tanh n l, 0x1B, un fTanh), (.sigmoid n l, 0x1C, un fSigmoid), (.erf n l, 0x1D, un fErf), (.gelu n l, 0x1E, un fGelu),
   (.silu n l, 0x1F, un fSilu), (.lsum n l, 0x20, fun w t => laneSum (t.reg w.a) :: List.replicate 31 0),
   (.lmax n l, 0x21, fun w t => extremeLanes true (t.reg w.a)), (.lmin n l, 0x22, fun w t => extremeLanes false (t.reg w.a)),
   (.iadd n l, 0x23, bin (· + ·)), (.isub n l, 0x24, bin (· - ·)), (.imul n l, 0x25, bin (· * ·)),
   (.shl n l, 0x26, bin fun a b => if b.toNat < 32 then a <<< b.toNat else 0),
   (.shr n l, 0x27, bin fun a b => if b.toNat < 32 then a >>> b.toNat else 0),
   (.and n l, 0x28, bin (· &&& ·)), (.or n l, 0x29, bin (· ||| ·)), (.xor n l, 0x2A, bin (· ^^^ ·)),
   (.icmp n l, 0x2B, fun w => bin (icmp (w.imm % 8)) w), (.popcnt n l, 0x2C, un popLane), (.clz n l, 0x2D, un clzLane)]

end Sys2Proof.Machine
end

