-- ==== Sys2Proof/Certificates/Slice0/Obligations.lean ====
section
/-! DEFINITION. The statements about the module. -/

open Sys2Proof Sys2Proof.Machine

/-! ### Power, clocks and temperature -/

/-- R608, R610, R611: a deeper sag stretches the clock at once and is counted, a release lets it go by one level, and
CH_CLK_STATUS follows; nothing else changes. -/
def Obligations.ClockStretch : Prop :=
  (∀ (n : Fin 4) (level : Fin 3) (s : State), outOfReset s = true → stretchOf s n.val < level.val →
    Answers (.supplySag n level) s fun t =>
      OnlyRegs [Reg.chClkStatus n.val, Reg.chClkStretchCount n.val] s t ∧
      stretchOf t n.val = level.val ∧ Counted (Reg.chClkStretchCount n.val) 1 s t ∧
      fld t (Reg.chClkStatus n.val) 31 22 = freqKHz (ceilingOf s n.val) level.val / 1000 ∧
      fld t (Reg.chClkStatus n.val) 21 18 = ceilingOf s n.val) ∧
  (∀ (n : Fin 4) (s : State), stretchOf s n.val ≠ 0 →
    Answers (.stretchRelease n) s fun t =>
      OnlyRegs [Reg.chClkStatus n.val] s t ∧ stretchOf t n.val = stretchOf s n.val - 1 ∧
      fld t (Reg.chClkStatus n.val) 31 22 = freqKHz (ceilingOf s n.val) (stretchOf s n.val - 1) / 1000)

/-- R597, R598, R607, R611: the input current limit and a low input put every ceiling at the lowest step and say so in
CH_CLK_STATUS; a release of the limit lets the power cap loop start from the lowest step, or, without a cap, from the
highest. -/
def Obligations.InputLimits : Prop :=
  (∀ (s : State), railsUp s = true → s.board.ilimit = false →
    Answers .inputCurrentLimit s fun t =>
      OnlyBoard (Reg.glbIlimitCount :: (List.range 4).map Reg.chClkStatus) s t ∧
      t.board = { s.board with ilimit := true } ∧ Counted Reg.glbIlimitCount 1 s t ∧
      ∀ n < 4, fld t (Reg.chClkStatus n) 21 18 = 0 ∧ flag t (Reg.chClkStatus n) 15 = true ∧
        stretchOf t n = stretchOf s n) ∧
  (∀ (s : State), s.board.ilimit = true →
    Answers .currentLimitRelease s fun t =>
      OnlyBoard ((List.range 4).map Reg.chClkStatus) s t ∧
      t.board = { s.board with ilimit := false, capStep := if flag s Reg.glbPwrCap 31 then 0 else 8 } ∧
      ∀ n < 4, fld t (Reg.chClkStatus n) 21 18 = ceilingOf t n ∧ flag t (Reg.chClkStatus n) 15 = false) ∧
  (∀ (low : Bool) (s : State),
    Answers (.vinLow low) s fun t =>
      OnlyBoard ((List.range 4).map Reg.chClkStatus) s t ∧ t.board = { s.board with vinLow := low } ∧
      ∀ n < 4, (low = true → fld t (Reg.chClkStatus n) 21 18 = 0) ∧ flag t (Reg.chClkStatus n) 14 = low)

/-- R613, R617: the power cap loop lowers its step by one above the cap, not below 0, and counts that; it raises it by one
below 97 % of the cap, not above the host's step; it holds it otherwise, and at 8 while the loop is off; a cap below 800 is
taken as 800. The thermal loop lowers the step of a channel that a sensor at its throttle point governs and
raises one whose sensors have all stayed 3 °C below it. -/
def Obligations.ControlLoops : Prop :=
  (∀ (watts : Nat) (s : State), flag s Reg.glbPwrCap 31 = true → max 800 (fld s Reg.glbPwrCap 11 0) < watts →
    s.board.capStep ≠ 0 →
    Answers (.powerCapUpdate watts) s fun t =>
      OnlyBoard (Reg.glbPwrCapStepCount :: (List.range 4).map Reg.chClkStatus) s t ∧
      t.board = { s.board with capStep := s.board.capStep - 1 } ∧ Counted Reg.glbPwrCapStepCount 1 s t) ∧
  (∀ (watts : Nat) (s : State), flag s Reg.glbPwrCap 31 = true →
    100 * watts < 97 * max 800 (fld s Reg.glbPwrCap 11 0) → s.board.capStep < hostStep s →
    Answers (.powerCapUpdate watts) s fun t =>
      OnlyBoard ((List.range 4).map Reg.chClkStatus) s t ∧ t.board = { s.board with capStep := s.board.capStep + 1 }) ∧
  (∀ (watts : Nat) (s : State), flag s Reg.glbPwrCap 31 = true →
    (max 800 (fld s Reg.glbPwrCap 11 0) < watts ∧ s.board.capStep = 0) ∨
      (watts ≤ max 800 (fld s Reg.glbPwrCap 11 0) ∧
        (97 * max 800 (fld s Reg.glbPwrCap 11 0) ≤ 100 * watts ∨ hostStep s ≤ s.board.capStep)) →
    exec (.powerCapUpdate watts) s = .next s) ∧
  (∀ (watts : Nat) (s : State), flag s Reg.glbPwrCap 31 = false →
    Answers (.powerCapUpdate watts) s fun t =>
      OnlyBoard ((List.range 4).map Reg.chClkStatus) s t ∧ t.board = { s.board with capStep := 8 }) ∧
  (∀ (s : State), s.board.therm.length = 4 →
    Answers .thermalStepUpdate s fun t =>
      OnlyBoard (Reg.glbThermThrottleCount :: (List.range 4).map Reg.chClkStatus) s t ∧
      ∀ n < 4, thermStep t n =
        if s.board.temps.any (fun r => governs r.1 n && reaches r (throttleOf r.1)) then thermStep s n - 1
        else if s.board.warmed.any (fun x => governs x n) then thermStep s n
        else min 8 (thermStep s n + 1))

/-- R602, R603, R605: the entry into DORMANT when nothing forbids it, its refusal when something does, the way back to
ACTIVE, and the clock gate of a core that holds no task. -/
def Obligations.PowerStates : Prop :=
  (∀ (s : State), powerState s = 3 → dormantBlocked s = false →
    Answers .dormant s fun t => powerState t = 4 ∧ t.board.retained = true ∧ ∀ n < 4, (t.chan n).cache = []) ∧
  (∀ (s : State), powerState s = 3 → dormantBlocked s = true →
    Answers .dormant s fun t => OnlyRegs [Reg.glbPwrStatus] s t ∧ flag t Reg.glbPwrStatus 26 = true ∧ powerState t = 3) ∧
  (∀ (s : State), powerState s = 4 →
    Answers .active s fun t => OnlyRegs [Reg.glbPwrCtrl, Reg.glbPwrStatus] s t ∧ powerState t = 6 ∧
      fld t Reg.glbPwrCtrl 1 0 = 0) ∧
  (∀ (s : State), powerState s = 6 →
    Answers .wakeComplete s fun t => powerState t = 3 ∧ t.board.retained = false ∧ SameMemory s t ∧
      t.cores = s.cores ∧ t.streams = s.streams) ∧
  (∀ (n : Fin 4) (i : Fin 800) (s : State), outOfReset s = true → (s.core n.val i.val).array = none →
    (s.core n.val i.val).behind = none → (s.core n.val i.val).vec = none → (s.core n.val i.val).fill = none → (s.core n.val i.val).deck = none →
    (s.core n.val i.val).gather = [] →
    exec (.coreClockGate n i) s = .next (s.setCore n.val i.val { s.core n.val i.val with gated := true }))

/-- R642, R644, R645, R646, R666: every source of reset leaves the module in RESET, or in AUX where a rail is lost, with
its cause recorded, memory wiped, and fuses, boot flash and the queue kept. -/
def Obligations.ResetSources : Prop :=
  (∀ (s : State), railsUp s = true → flag s Reg.glbPwrStatus 28 = true →
    Answers .brownout s fun t => WipedInto 1 16 s t ∧ KeptFuses s t ∧ flag t Reg.glbPwrStatus 24 = true ∧
      flag t Reg.glbPwrStatus 28 = false) ∧
  (∀ (page : Fin 17) (s : State), railsUp s = true → page.val ≠ 0 → page.val ≤ 15 →
    Answers (.railFault page) s fun t => WipedInto 1 32 s t ∧ KeptFuses s t ∧ flag t Reg.glbPwrStatus 25 = true ∧
      fld t Reg.glbPwrStatus 23 19 = page.val ∧ t.board.lockout = true) ∧
  (∀ (lowNs : Nat) (s : State), railsUp s = true → s.board.off = false → s.board.held = false → 1000 ≤ lowNs →
    Answers (.resetSignal false lowNs) s fun t => WipedInto 2 2 s t ∧ KeptFuses s t ∧ t.board.held = true) ∧
  (∀ (s : State), railsUp s = true → Answers .managementReset s fun t => WipedInto 2 4 s t ∧ KeptFuses s t) ∧
  (∀ (s : State), railsUp s = true → s.board.tap.outside = false →
    Answers .tapLeaveTestLogicReset s fun t => WipedInto 2 2 s t ∧ KeptFuses s t ∧ t.board.tap.outside = true) ∧
  (∀ (s : State), railsUp s = true → s.board.off = false →
    Answers (.mfrModuleReset true) s fun t => WipedInto 2 4 s t ∧ KeptFuses s t)

/-- R600, R614: a sensor that stands at its trip point in a second sample in a row takes the module down; one sample
alone only sets the readings. -/
def Obligations.ThermalTrip : Prop :=
  (∀ (x : Sensor) (v : Int) (s : State), railsUp s = true → s.board.hotOnce = [x] → reaches (x, v) (tripOf x) = true →
    Answers (.thermalSensorSample [(x, v)]) s fun t => WipedInto 1 64 s t ∧ KeptFuses s t ∧ flag t Reg.glbThermStatus 0 = true ∧
      fld t Reg.glbThermStatus 19 16 = x.cls.val ∧ t.board.lockout = true) ∧
  (∀ (x : Sensor) (v : Int) (s : State), s.board.hotOnce = [] → s.board.lockout = false →
    Answers (.thermalSensorSample [(x, v)]) s fun t =>
      OnlyBoard [Reg.glbThermStatus] s t ∧ t.board.temps = mergeTemps s.board.temps [(x, v)] ∧
      (x ∈ t.board.hotOnce ↔ reaches (x, v) (tripOf x) = true))

/-- R601, R644, R647, R648, R688: power up from AUX, the restart after a brownout, the TAP's return and the loss of the
auxiliary input. -/
def Obligations.PowerSequence : Prop :=
  (∀ (s : State), powerState s = 1 → s.board.off = false → s.board.lockout = false → s.board.held = false →
    (s.board.causes / 16) % 2 = 0 →
    Answers .powerOn s fun t => powerState t = 2 ∧ rd t Reg.glbResetCause = 1 ∧ flag t Reg.glbPwrStatus 28 = true ∧
      flag t Reg.glbPwrStatus 27 = true ∧ SameMemory s t ∧ t.board = s.board) ∧
  (∀ (s : State), powerState s = 1 → s.board.off = false → s.board.lockout = false → s.board.held = false →
    flag s Reg.glbPwrStatus 28 = false → (s.board.causes / 16) % 2 = 1 →
    Answers .brownoutRestart s fun t => powerState t = 2 ∧ flag t Reg.glbPwrStatus 28 = true ∧ t.board.causes = 0) ∧
  (∀ (s : State), s.board.tap.outside = true → railsUp s = true →
    Answers .tapReturnTestLogicReset s fun t =>
      OnlyBoard [Reg.glbResetCause] s t ∧ flag t Reg.glbResetCause 1 = true ∧ t.board = { s.board with tap := Tap.reset }) ∧
  (∀ (s : State),
    Answers .auxInputLoss s fun t => t.board.off = true ∧ t.fuses = s.fuses ∧ t.flash = s.flash ∧ t.mem = [] ∧
      t.chans = [] ∧ t.cores = [] ∧ flag t Reg.glbPwrStatus 27 = false ∧
      ∀ r : RegRef, r.addr ≠ Reg.glbPwrStatus.addr → rd t r = r.reset)

/-! ### PMBus -/

/-- R620: the status, telemetry and identity commands of PMBus answer with the state of their page, on the pages that have
them, in Linear16 with exponent −12 for the output voltage and in Linear11 for the rest, and change nothing else; a code that
is not supported sets the communication bit. -/
def Obligations.PmbusReads : Prop :=
  (∀ (s : State), s.board.off = false →
    exec .statusWord s = .next (answered s (leBytes 2 (statusWord s % 65536))) ∧
    exec .statusVout s = .next (answered s [BitVec.ofNat 8 (voutByte s)]) ∧
    exec .statusIout s = .next (answered s [0]) ∧
    exec .statusInput s = .next (answered s [BitVec.ofNat 8 (inputByte s)]) ∧
    exec .statusTemperature s = .next (answered s [BitVec.ofNat 8 (tempByte s)]) ∧
    exec (.page none true) s = .next (answered s [BitVec.ofNat 8 s.board.page]) ∧
    exec (.mfrPwrStatusLo none true) s = .next (answered s (leBytes 2 (fld s Reg.glbPwrStatus 15 0))) ∧
    exec (.mfrPwrStatusHi none true) s = .next (answered s (leBytes 2 (fld s Reg.glbPwrStatus 31 16))) ∧
    exec (.mfrThermStatusLo none true) s = .next (answered s (leBytes 2 (fld s Reg.glbThermStatus 15 0))) ∧
    exec (.mfrThermStatusHi none true) s = .next (answered s (leBytes 2 (fld s Reg.glbThermStatus 31 16))) ∧
    exec (.mfrByeCtrl none true) s = .next (answered s (leBytes 2 (fld s Reg.glbByeCtrl 15 0))) ∧
    exec (.mfrByeStatus none true) s = .next (answered s (leBytes 2 (fld s Reg.glbByeStatus 15 0))) ∧
    exec (.mfrStartCtrl none true) s = .next (answered s (leBytes 2 (fld s Reg.glbStartCtrl 15 0))) ∧
    exec .mfrResetCause s = .next (answered s (leBytes 2 (fld s Reg.glbResetCause 15 0))) ∧
    exec .mfrDieStatus s = .next (answered s (leBytes 2 (fld s Reg.glbDieStatus 15 0)))) ∧
  (∀ (milli : Nat) (s : State), s.board.off = false →
    exec .voutMode s = .next (answered s [0x14]) ∧
    exec .pmbusRevision s = .next (answered s [0x33]) ∧
    exec .mfrId s = .next (answered s [6, 0x43, 0x41, 0x45, 0x52, 0x4F, 0x58]) ∧
    exec .mfrModel s = .next (answered s [7, 0x5A, 0x53, 0x2D, 0x31, 0x32, 0x34, 0x30]) ∧
    (s.board.page = 0 →
      exec (.readVin milli) s = .next (answered s (leBytes 2 (milli11 milli (-4) % 65536))) ∧
      exec (.readIin milli) s = .next (answered s (leBytes 2 (milli11 milli (-3) % 65536))) ∧
      exec (.readPin milli) s = .next (answered s (leBytes 2 (milli11 milli 1 % 65536)))) ∧
    (1 ≤ s.board.page → s.board.page ≤ 15 →
      exec (.readVout milli) s = .next (answered s (leBytes 2 (((milli * 8192 + 1000) / 2000) % 65536))) ∧
      exec (.readIout milli) s = .next (answered s (leBytes 2 (milli11 milli (anyExponent 0x8C milli) % 65536))) ∧
      exec (.readPout milli) s = .next (answered s (leBytes 2 (milli11 milli (anyExponent 0x96 milli) % 65536)))) ∧
    (Answers .readTemperature1 s fun t => ∃ v, t = answered s (leBytes 2 v)) ∧
    (∀ code, exec (.pmbusUnsupported code) s =
      .next (answered { s with board := { s.board with comm := true } } [])))


/-- R615, R619, R620: the writes of PMBus: the page, the latched faults cleared by the bits written as 1, insert, the
relays' fault bits, form, and the communication bit where the checking byte is wrong. -/
def Obligations.PmbusWrites : Prop :=
  (∀ (b : Byte) (s : State), s.board.off = false → b.toNat ≤ 16 →
    exec (.page (some b) true) s = .next { s with board := { s.board with page := b.toNat } }) ∧
  (∀ (b : Byte) (s : State), s.board.off = false →
    exec (.page (some b) false) s = .next { s with board := { s.board with comm := true } }) ∧
  (∀ (s : State), s.board.off = false → s.board.lockout = false →
    Answers (.clearFaults true) s fun t => OnlyBoard [Reg.glbPwrStatus, Reg.glbThermStatus] s t ∧
      flag t Reg.glbPwrStatus 25 = false ∧ flag t Reg.glbPwrStatus 24 = false ∧ flag t Reg.glbThermStatus 0 = false ∧
      powerState t = powerState s ∧ t.board = { s.board with comm := false }) ∧
  (∀ (w : W16) (s : State), s.board.off = false → s.board.lockout = false →
    Answers (.mfrPwrStatusHi (some w) true) s fun t => OnlyRegs [Reg.glbPwrStatus] s t ∧
      ∀ i < 64, flag t Reg.glbPwrStatus i =
        (flag s Reg.glbPwrStatus i && !(decide (24 ≤ i ∧ i ≤ 26) && bit w.toNat (i - 16)))) ∧
  (∀ (w : W16) (s : State), s.board.off = false → s.board.lockout = false →
    Answers (.mfrThermStatusLo (some w) true) s fun t => OnlyRegs [Reg.glbThermStatus] s t ∧
      ∀ i < 64, flag t Reg.glbThermStatus i = (flag s Reg.glbThermStatus i && !(decide (i = 0) && bit w.toNat 0))) ∧
  (∀ (w : W16) (s : State), s.board.off = false →
    Answers (.mfrByeStatus (some w) true) s fun t => OnlyRegs [Reg.glbByeStatus] s t ∧
      ∀ i < 64, flag t Reg.glbByeStatus i =
        (flag s Reg.glbByeStatus i && !(decide (8 ≤ i ∧ i ≤ 15) && bit w.toNat i))) ∧
  (∀ (w : W16) (s : State), s.board.off = false → w.toNat < 2 →
    Answers (.mfrByeCtrl (some w) true) s fun t => OnlyRegs [Reg.glbByeCtrl, Reg.glbByeStatus] s t ∧
      flag t Reg.glbByeCtrl 0 = bit w.toNat 0) ∧
  (∀ (w : W16) (s : State), s.board.off = false → w.toNat < 2 →
    Answers (.mfrStartCtrl (some w) true) s fun t => OnlyRegs [Reg.glbStartCtrl] s t ∧
      flag t Reg.glbStartCtrl 0 = bit w.toNat 0)

/-! ### Control cores and event queues -/

/-- R549, R550, R552: the heartbeat that only the active core writes, the watchdog that counts intervals without one,
and the takeover after two of them or a machine check. -/
def Obligations.ControlCores : Prop :=
  (∀ (k : Fin 5) (v : W64) (s : State), fld s (ccStatus k.val) 31 30 ≠ 0 →
    Answers (.heartbeatWrite k .active v) s fun t =>
      t = { s with regs := t.regs, beats := t.beats } ∧ RegsBut [ccBeat k.val, ccStatus k.val] s t ∧
      fld t (ccBeat k.val) 31 0 = v.toNat % 2 ^ 32 ∧ fld t (ccStatus k.val) 1 0 = 0 ∧ k.val ∈ t.beats) ∧
  (∀ (k : Fin 5) (v : W64) (seat : Seat) (s : State), seat ≠ .active → exec (.heartbeatWrite k seat v) s = .next s) ∧
  (∀ (k : Fin 5) (s : State), outOfReset s = true → fld s (ccStatus k.val) 31 30 ≠ 0 → k.val ∈ s.beats →
    exec (.watchdogInterval k) s = .next { s with beats := s.beats.filter (· != k.val) }) ∧
  (∀ (k : Fin 5) (s : State), outOfReset s = true → fld s (ccStatus k.val) 31 30 ≠ 0 → k.val ∉ s.beats →
    fld s (ccStatus k.val) 1 0 = 0 →
    Answers (.watchdogInterval k) s fun t => OnlyRegs [ccStatus k.val] s t ∧ fld t (ccStatus k.val) 1 0 = 1) ∧
  (∀ (k : Fin 5) (s : State), outOfReset s = true → fld s (ccStatus k.val) 31 30 = 1 → k.val ∉ s.beats →
    fld s (ccStatus k.val) 1 0 = 1 → flag s (ccStatus k.val) 28 = false →
    Answers (.watchdogInterval k) s fun t => TakenOver k.val 1 s t) ∧
  (∀ (k : Fin 5) (s : State), outOfReset s = true → fld s (ccStatus k.val) 31 30 = 1 →
    flag s (ccStatus k.val) 28 = false →
    Answers (.machineCheck k) s fun t => TakenOver k.val 2 s t)

/-- R565, R567, R568: an event queue's head and base as firmware writes them, the pending bit of GLB_EVT_STATUS, and the
records that leave for the host. -/
def Obligations.EventQueues : Prop :=
  (∀ (q : Fin 5) (v : W64) (s : State), v.toNat < 1024 → (getEq s q.val).waiting = [] → (getEq s q.val).lost = 0 →
    Answers (.eventQueueHeadWrite q v) s fun t => OnlyRegs [eqHead q.val] s t ∧ fld t (eqHead q.val) 9 0 = v.toNat) ∧
  (∀ (q : Fin 4) (off : Nat) (s : State), off % 64 = 0 → off + 32768 ≤ tier1Size →
    (getEq s q.val).waiting = [] → (getEq s q.val).lost = 0 →
    Answers (.eventQueueBaseWrite (q.castLE (by omega)) (BitVec.ofNat 64 (tier1Base q.val + off))) s fun t =>
      OnlyRegs [eqBase q.val] s t ∧ fld t (eqBase q.val) 47 0 = tier1Base q.val + off) ∧
  (∀ (s : State), Answers .eventAcknowledge s fun t =>
    OnlyRegs [Reg.glbEvtStatus] s t ∧ flag t Reg.glbEvtStatus 0 = false) ∧
  (∀ (c : Nat) (s : State), captainOf s = some c → unforwarded s = [] →
    exec .eventForward s = .next { s with geq := { s.geq with fwd := s.geq.seq } }) ∧
  (∀ (c q : Nat) (r : List Byte) (s : State), captainOf s = some c → unforwarded s = [q] →
    globalRecord s q = some r → bit (leNat (r.take 8)) 52 = true → bit (leNat (r.take 8)) 53 = false →
    exec .eventForward s = .next (keepQueue s (count64
      (emit { s with geq := { s.geq with fwd := (q + 1) % 2 ^ 32 } } none none
        (noticeMsg { s with geq := { s.geq with fwd := (q + 1) % 2 ^ 32 } } c [r])) Reg.glbEvtNoticeCount 1)))

/-- R563 to R566: a record written into a queue that has room stands at the tail as its four little-endian words, the
tail moves on by one modulo 1,024 and the sequence number by one; a fault-class record that finds no room waits, any
other is counted and lost. -/
def Obligations.EventRecord : Prop :=
  ∀ (q : Fin 5) (e : Ev) (s : State),
    (eqFull s q.val = false →
      peekBytes (evEnter s q.val e) (fld s (eqBase q.val) 47 0 + 32 * fld s (eqTail q.val) 9 0) 32 =
        (evWords s e (getEq s q.val).seq).flatMap (leBytes 8) ∧
      fld (evEnter s q.val e) (eqTail q.val) 9 0 = (fld s (eqTail q.val) 9 0 + 1) % 1024 ∧
      (getEq (evEnter s q.val e) q.val).seq = ((getEq s q.val).seq + 1) % 2 ^ 32 ∧
      SameOutside (fld s (eqBase q.val) 47 0 + 32 * fld s (eqTail q.val) 9 0)
        (fld s (eqBase q.val) 47 0 + 32 * fld s (eqTail q.val) 9 0 + 32) s (evEnter s q.val e)) ∧
    (eqFull s q.val = true → e.fault = true →
      (getEq (evEnter s q.val e) q.val).waiting = (getEq s q.val).waiting ++ [e] ∧
      SameMemory s (evEnter s q.val e) ∧ RegsBut [] s (evEnter s q.val e)) ∧
    (eqFull s q.val = true → e.fault = false →
      Counted (eqLost q.val) 1 s (evEnter s q.val e) ∧ SameMemory s (evEnter s q.val e) ∧
      RegsBut [eqLost q.val] s (evEnter s q.val e))

/-! ### Start-up and security -/

/-- R505, R639, R647, R648, R660: reset release reads the strapping, draws a nonce and says which control core of the
referee started; memory training with every unit up leads to the wipe; the wipe leaves memory zero and hands over to boot
firmware. -/
def Obligations.StartUp : Prop :=
  (∀ (straps : Fin 8) (primary : Bool) (nonce : W64) (s : State), powerState s = 2 → s.board.held = false →
    s.board.tap.outside = false → phase s = 0 →
    Answers (.resetRelease straps primary nonce) s fun t =>
      rd t Reg.glbLcNonce = nonce ∧ fld t Reg.glbGroupStatus 27 25 = straps.val ∧ t.board.straps = straps.val ∧
      fld t Reg.glbLcStatus 31 28 = s.fuses.state1 % 16 ∧ SameMemory s t ∧
      (primary = false → fld t Reg.glbRefStatus 31 30 = 2 ∧ flag t Reg.glbRefStatus 29 = true)) ∧
  (∀ (s : State), phase s = 1 → isReady s = false →
    Answers (.memoryTrainingDone [] [] false false) s fun t => OnlyRegs [Reg.glbStartStatus] s t ∧ phase t = 2 ∧
      fld t Reg.glbStartStatus 22 0 = min 0x7FFFFF (timeNs s / 1000000)) ∧
  (∀ (s : State), phase s = 2 → isReady s = false → s.sec.boot = none →
    Answers .wipeComplete s fun t => t.mem = [] ∧ t.errs = [] ∧ flag t Reg.glbLcStatus 23 = true ∧ phase t = 0xF ∧
      fld t Reg.glbStartStatus 26 23 = 2) ∧
  (∀ (s : State), phase s = 2 → s.sec.boot ≠ none →
    exec .wipeComplete s = .next (keepQueue s (bootFirmware (setPhase (setFlag (wipeAll s) Reg.glbLcStatus 23 true) 3)))) ∧
  (∀ (s : State), (wipeAll s).mem = [] ∧ (wipeAll s).errs = [] ∧ (wipeAll s).chans = s.chans)

/-- R35, R106, R651, R658: a write of CH_TIMING_MODE sets the mode; leaving test mode turns the checksums on again; no
stored byte changes. -/
def Obligations.TimingMode : Prop :=
  ∀ (n : Fin 4) (v : W64) (s : State), v.toNat < 8 →
    Answers (.timingModeWrite n v) s fun t =>
      fld t (Reg.chTimingMode n.val) 1 0 = v.toNat % 4 ∧
      (inTest s n.val = true → v.toNat % 4 ≠ 2 → flag t (Reg.chChkCtrl n.val) 0 = true) ∧ SameMemory s t ∧
      RegsBut ([Reg.chTimingMode n.val, Reg.chChkCtrl n.val, Reg.glbStartStatus, Reg.glbStartCtrl] ++ stallRegs n.val) s t

/-- R637 to R641, R643: a life-cycle token either leaves the fused state where it is, or moves it along a row of the
table, after every check has passed; then the module resets with its cause recorded. A reset or a loss of power between
the two burns, and a seed whose copies disagree, leave the earlier state in force. A debug token that passes every check
in RETURNED opens the debug port. -/
def Obligations.LifeCycle : Prop :=
  (∀ (seed back : List Byte) (nonce : W64) (cut : Option BurnCut) (s : State),
    Answers (.lcTransition seed back nonce cut) s fun t =>
      lifeState t = lifeState s ∨
        (transition (lifeState s) (lifeState t) ≠ none ∧ tokenResult s (transition (lifeState s) (lifeState t)) = 0)) ∧
  (∀ (seed back : List Byte) (nonce : W64) (c : BurnCut) (s : State),
    Answers (.lcTransition seed back nonce (some c)) s fun t => lifeState t = lifeState s ∧
      (tokenResult s (transition (lifeState s) (tokenNat s 0 1)) = 0 →
        t.fuses = { s.fuses with state0 := tokenNat s 0 1 } ∧ t.flash = s.flash)) ∧
  (∀ (seed back : List Byte) (nonce : W64) (s : State), tokenNat s 0 1 = 2 →
    burnSeed s.fuses.seed0 seed ≠ burnSeed s.fuses.seed1 back →
    Answers (.lcTransition seed back nonce) s fun t => lifeState t = lifeState s ∧
      (tokenResult s (transition (lifeState s) 2) = 0 → fld t Reg.glbLcCmd 29 26 = 7 ∧
        OnlyRegs [Reg.glbLcCmd, Reg.glbLcNonce] { s with fuses := t.fuses } t)) ∧
  (∀ (seed : List Byte) (nonce : W64) (s : State), s.fuses.seed0 = s.fuses.seed1 →
    Answers (.lcTransition seed seed nonce) s fun t =>
      (tokenResult s (transition (lifeState s) (tokenNat s 0 1)) = 0 →
        lifeState t = tokenNat s 0 1 ∧ t.fuses.state0 = tokenNat s 0 1 ∧ WipedInto 2 8 s t) ∧
      (tokenResult s (transition (lifeState s) (tokenNat s 0 1)) ≠ 0 →
        OnlyRegs [Reg.glbLcCmd, Reg.glbLcNonce] s t ∧
        fld t Reg.glbLcCmd 29 26 = tokenResult s (transition (lifeState s) (tokenNat s 0 1)) % 16 ∧
        flag t Reg.glbLcCmd 31 = false ∧ rd t Reg.glbLcNonce = nonce)) ∧
  (∀ (nonce : W64) (s : State), lifeState s = 4 → tokenNat s 0 1 = 0xD →
    Answers (.debugToken nonce) s fun t =>
      (tokenResult s (some .vendor) = 0 → flag t Reg.glbLcStatus 24 = true) ∧
      (tokenResult s (some .vendor) ≠ 0 → flag t Reg.glbLcStatus 24 = flag s Reg.glbLcStatus 24) ∧
      fld t Reg.glbLcCmd 29 26 = tokenResult s (some .vendor) ∧
      rd t Reg.glbLcNonce = nonce ∧ t.fuses = s.fuses ∧ SameMemory s t) ∧
  (∀ (nonce : W64) (s : State), lifeState s ≠ 4 →
    Answers (.debugToken nonce) s fun t => OnlyRegs [Reg.glbLcCmd, Reg.glbLcNonce] s t ∧
      fld t Reg.glbLcCmd 29 26 = 4 ∧ flag t Reg.glbLcStatus 24 = flag s Reg.glbLcStatus 24)

/-- R634, R635, R657: a signed report is counted and its command ends; a model whose weights are all present is hashed and
marked ready, or failed where the digest is not the run image's. -/
def Obligations.Attestation : Prop :=
  (∀ (key : List Byte) (s : State), s.sec.key = some key →
    Answers .attestationRequest s fun t => t.sec = { s.sec with count := s.sec.count + 1 } ∧
      flag t Reg.glbAttCmd 31 = false ∧ flag t Reg.glbAttCmd 29 = true ∧
      RegsBut (Reg.glbAttCmd :: (List.range 1024).map Reg.glbAttReport) s t ∧
      t = { s with regs := t.regs, sec := t.sec }) ∧
  (∀ (model : Nat) (m : ModelPlan) (s : State), modelOf s model = some m →
    (model, ModelState.notReady) ∈ s.ref.models → weightsPresent s m = true →
    Answers (.modelWeightDigest model) s fun t =>
      (∀ e ∈ t.ref.models, e.1 = model → e.2 = if weightDigest s m = m.digest then .ready else .failed) ∧
      SameMemory s t ∧ t.chans = s.chans)

/-! ### Links -/

/-- R468: the flits that carry a message, received one after another, give back exactly that message, whatever its
headers and its data; nothing of their padding is left over. -/
def Obligations.MessageReassembly : Prop :=
  ∀ m : Msg, m.kind ≠ 0 → m.data.length = m.len →
    (bodies m.bytes).foldl (fun (a : List Msg × List Byte) (f : Nat × List Byte) =>
      (a.1 ++ (takeMsgs 64 a.2 f.2 []).1, (takeMsgs 64 a.2 f.2 []).2)) ([], []) = ([m], [])

/-- R468, R469: the bytes of a message and the message say the same. -/
def Obligations.MessageBytes : Prop :=
  (∀ m : Msg, m.data.length = m.len → Msg.ofBytes m.bytes = m) ∧
  (∀ m : Msg, m.bytes.length % 16 = 0 ∧ 32 + m.data.length ≤ m.bytes.length ∧ m.bytes.length < 48 + m.data.length)

/-- R467: an acknowledgement lets exactly the flits up to the one it names leave the replay buffer, in a window of 512
numbers, and keeps the order of the rest. -/
def Obligations.ReplayWindow : Prop :=
  ∀ (p : Fin 8) (ack : Nat) (s : State), ack < 4096 → (∀ f ∈ (s.port p.val).replay, f.seq < 4096) →
    ((applyAck s p.val ack).port p.val).replay =
      (s.port p.val).replay.filter (fun f : TxFlit =>
        !((List.range 512).any fun d => (f.seq + d) % 4096 == ack)) ∧
    SameMemory s (applyAck s p.val ack) ∧ RegsBut [] s (applyAck s p.val ack)

/-- R465 to R467, R475, R580: what a good flit of each type does, and what a flit with a wrong crc or an uncorrectable
codeword does: it is counted and ignored, and the first such sends a nak; of a message that its receive buffer holds
uncorrectable, a window write is kept and marked for its check, and any other is dropped. -/
def Obligations.Flits : Prop :=
  (∀ (p : Fin 8) (f : Flit) (s : State), linkUp s p.val = true → f.ftype = 1 →
    ((applyHeader s p.val f).port p.val).rxNext = f.seq →
    exec (.dataFlit p f ⟨false, false, true⟩) s = .next (keepQueue s (acceptMsgs
      ((applyHeader s p.val f).setPort p.val { (applyHeader s p.val f).port p.val with
        rxNext := (f.seq + 1) % 4096, rxAny := true, nak := false,
        part := (takeMsgs 64 ((applyHeader s p.val f).port p.val).part f.body []).2 }) p.val
      (takeMsgs 64 ((applyHeader s p.val f).port p.val).part f.body []).1))) ∧
  (∀ (p : Fin 8) (f : Flit) (c : FlitCheck) (i : Nat) (m : Msg) (s s' : State), exec (.dataFlit p f c) s = .next s' →
    (s'.port p.val).rxq[i]? = some m →
    Answers (.dataFlit p f c [i]) s fun t => OnlyPorts s' t ∧ RegsBut [] s' t ∧
      (m.kind = 1 → (t.port p.val).rxq = (s'.port p.val).rxq ∧ m ∈ (t.port p.val).bad) ∧
      (m.kind ≠ 1 → (t.port p.val).rxq = (s'.port p.val).rxq.erase m)) ∧
  (∀ (p : Fin 8) (f : Flit) (s : State), linkUp s p.val = true → f.ftype = 0 →
    exec (.idleFlit p f ⟨false, false, true⟩) s = .next (keepQueue s (applyHeader s p.val f))) ∧
  (∀ (p : Fin 8) (f : Flit) (s : State), linkUp s p.val = true → f.ftype = 2 →
    exec (.nakFlit p f ⟨false, false, true⟩) s = .next (keepQueue s (countedResend (applyHeader s p.val f) p.val))) ∧
  (∀ (p : Fin 8) (f : Flit) (corr : Bool) (s : State), linkUp s p.val = true → f.ftype = 1 →
    (s.port p.val).nak = true →
    Answers (.dataFlit p f ⟨corr, true, true⟩) s fun t =>
      OnlyRegs [Reg.chLinkFecUncorrCount (p.val / 2) (p.val % 2)] s t ∧
      Counted (Reg.chLinkFecUncorrCount (p.val / 2) (p.val % 2)) 1 s t) ∧
  (∀ (p : Fin 8) (f : Flit) (s : State), linkUp s p.val = true → f.ftype = 1 → (s.port p.val).nak = false →
    Answers (.dataFlit p f ⟨false, false, false⟩) s fun t =>
      OnlyPorts s t ∧ RegsBut [Reg.chLinkCrcCount (p.val / 2) (p.val % 2)] s t ∧
      Counted (Reg.chLinkCrcCount (p.val / 2) (p.val % 2)) 1 s t ∧ (t.port p.val).nak = true ∧
      (t.port p.val).rxNext = (s.port p.val).rxNext ∧
      (t.port p.val).out.map (·.ftype) = some 2) ∧
  (∀ (p : Fin 8) (s : State), linkUp s p.val = true → (s.port p.val).replay ≠ [] →
    Answers (.replayTimeout p) s fun t => OnlyPorts s t ∧
      RegsBut [Reg.chLinkReplayCount (p.val / 2) (p.val % 2)] s t ∧
      Counted (Reg.chLinkReplayCount (p.val / 2) (p.val % 2)) 1 s t ∧
      (t.port p.val).replay = (s.port p.val).replay ∧
      (t.port p.val).out.map (·.seq) = (s.port p.val).replay.getLast?.map (·.seq)) ∧
  (∀ (p : Fin 8) (s : State), linkUp s p.val = true → (s.port p.val).nak = true →
    Answers (.nakResendTimeout p) s fun t => OnlyPorts s t ∧ RegsBut [] s t ∧
      (t.port p.val).out.map (·.ftype) = some 2 ∧ (t.port p.val).nak = true)

/-- R478, R479, R531: a message for another module goes on with its ttl lowered by one, is dropped and counted where the
ttl is used up or its age has run out, and its credits are freed. -/
def Obligations.Forwarding : Prop :=
  (∀ (p : Fin 8) (c : Fin 4) (q : Nat) (m : Msg) (s : State), frontOf s p.val c.val = some m → m.dst ≠ ownModule s →
    m.ttl ≠ 0 → forwardPort s p.val m = some q → linkUp s q = true → canStart (s.port q) (m.setTtl (m.ttl - 1)) false = true →
    Answers (.messageForward p c) s fun t => OnlyPorts s t ∧ RegsBut [] s t ∧
      t = (dropMsg s p.val m).setPort q (transmit ((dropMsg s p.val m).port q) (m.setTtl (m.ttl - 1)) none) ∧
      (m.setTtl (m.ttl - 1)).ttl = m.ttl - 1) ∧
  (∀ (p : Fin 8) (c : Fin 4) (m : Msg) (s : State), frontOf s p.val c.val = some m → m.dst ≠ ownModule s → m.ttl = 0 →
    Answers (.messageForward p c) s fun t => OnlyPorts s t ∧ RegsBut [Reg.glbLinkTtlDropCount] s t ∧
      Counted Reg.glbLinkTtlDropCount 1 s t ∧ (t.port p.val).rxq = (s.port p.val).rxq.erase m ∧
      (t.port p.val).freed = bumpAt (s.port p.val).freed m.cls m.credits) ∧
  (∀ (p : Fin 8) (c : Fin 4) (m : Msg) (s : State), frontOf s p.val c.val = some m →
    Answers (.messageAgeDrop p c) s fun t => OnlyPorts s t ∧ RegsBut [Reg.glbLinkAgeDropCount] s t ∧
      Counted Reg.glbLinkAgeDropCount 1 s t ∧ t.ports = (dropMsg s p.val m).ports ∧
      (t.port p.val).rxq = (s.port p.val).rxq.erase m)

/-- R481 to R485: a window write that passes every check is stored, in a core store or in memory, and counted as arrived;
one of another generation is dropped and counted, any other that fails is dropped and rejected to its source; a reject is an
event. -/
def Obligations.Windows : Prop :=
  (∀ (p : Fin 8) (n i off k : Nat) (m : Msg) (s : State), takeFor s p.val 1 [] = some m →
    checkWindow s m ((s.port p.val).bad.contains m) = .core n i off k →
    exec (.windowWrite p false) s = .next (keepQueue s (arriveAt
      (((List.range (m.len / 16)).map fun j =>
        (off / 16 + j, leNat ((m.data.drop (16 * j)).take 16), 2 ^ 128 - 1)).foldl
          (fun (s : State) (x : Nat × Nat × Nat) => csWrite s n i 3 (x.1 / 32) (x.1 % 32) x.2.1 x.2.2)
          (dropMsg s p.val m)) n i k))) ∧
  (∀ (p : Fin 8) (a : Nat) (m : Msg) (s : State), takeFor s p.val 1 [] = some m →
    checkWindow s m ((s.port p.val).bad.contains m) = .memory a →
    exec (.windowWrite p false) s = .next (keepQueue s
      (setFld (writeRange (dropMsg s p.val m) a m.data).1 (Reg.glbWinArrival (m.f1 63 56)) 31 0
        ((fld (writeRange (dropMsg s p.val m) a m.data).1 (Reg.glbWinArrival (m.f1 63 56)) 31 0 + 1) % 2 ^ 32)))) ∧
  (∀ (p : Fin 8) (bad : Bool) (m : Msg) (s : State), takeFor s p.val 1 [] = some m →
    checkWindow s m (bad || (s.port p.val).bad.contains m) = .stale →
    Answers (.windowWrite p bad) s fun t => OnlyPorts s t ∧ RegsBut [Reg.glbLinkStaleCount] s t ∧
      Counted Reg.glbLinkStaleCount 1 s t) ∧
  (∀ (p : Fin 8) (bad : Bool) (m : Msg) (reason : Nat) (core : Option Nat) (s : State), takeFor s p.val 1 [] = some m →
    checkWindow s m (bad || (s.port p.val).bad.contains m) = .reject reason core → isDormant s = false →
    exec (.windowWrite p bad) s = .next (keepQueue s (sendReject (core.elim (dropMsg s p.val m)
      fun n => count32 (dropMsg s p.val m) (Reg.chCsWindowRejectCount n) 1) m reason))) ∧
  (∀ (p : Fin 8) (m : Msg) (s : State), takeFor s p.val 2 [] = some m →
    exec (.reject p) s = .next (keepQueue s (post (dropMsg s p.val m) (p.val / 2) 0x23 0
      [(32, m.stag), (3, m.src), (8, m.f1 63 56), (4, m.f1 55 52)])))

/-- R482: a window write of another generation than the entry's is stale; one without sv, of the right generation, to a
closed window is rejected with reason 1; one that is let through, to a core store or to memory, has an open window, an
allowed source, a place within its window, a target in service and clean data. -/
def Obligations.WindowChecks : Prop :=
  ∀ (m : Msg) (dataBad : Bool) (s : State),
    (m.f1 55 48 ≠ fld s (Reg.glbWinCtrl (m.f1 63 56)) 60 53 → checkWindow s m dataBad = .stale) ∧
    (m.f1 55 48 = fld s (Reg.glbWinCtrl (m.f1 63 56)) 60 53 → m.sv = false →
      flag s (Reg.glbWinCtrl (m.f1 63 56)) 63 = false → checkWindow s m dataBad = .reject 1 none) ∧
    (∀ n i off k, checkWindow s m dataBad = .core n i off k →
      dataBad = false ∧ flag s (Reg.glbWinCtrl (m.f1 63 56)) 63 = true ∧
      bit (fld s (Reg.glbWinCtrl (m.f1 63 56)) 52 45) m.src = true ∧ storeMapped s n i = true ∧
      isDormant s = false ∧ flag s (Reg.coreRecvWindow n i k) 31 = true ∧
      off + m.len ≤ (fld s (Reg.coreRecvWindow n i k) 8 0 + fld s (Reg.coreRecvWindow n i k) 25 16) * 512 ∧
      ∀ x ∈ wordsOf off m.len, rowPowered s n i (x / 32) = true) ∧
    (∀ a, checkWindow s m dataBad = .memory a →
      dataBad = false ∧ flag s (Reg.glbWinCtrl (m.f1 63 56)) 63 = true ∧
      bit (fld s (Reg.glbWinCtrl (m.f1 63 56)) 52 45) m.src = true ∧ isDormant s = false ∧
      a = fld s (Reg.glbWinBase (m.f1 63 56)) 47 0 + m.f1 31 0 ∧
      m.f1 31 0 + m.len ≤ fld s (Reg.glbWinLen (m.f1 63 56)) 31 0 ∧ rangeServes s a m.len = true)

/-- R486 to R489: a send command is queued while the queue holds fewer than 64 and refused with the overrun bit otherwise;
a started send reads and sends its parts; one whose flits are all acknowledged leaves the queue, with event 0x24 where it
asks for one. -/
def Obligations.Sends : Prop :=
  (∀ (n : Fin 4) (v : W64) (s : State), v.toNat % 32 = 0 → (s.chan n.val).sends.length < 64 → isDormant s = false →
    Answers (.sendCommand n v) s fun t => t = { s with regs := t.regs, chans := t.chans } ∧
      RegsBut [Reg.chLinkSendCmd3 n.val] s t ∧
      (t.chan n.val).sends = (s.chan n.val).sends ++ [⟨(s.chan n.val).book.sendNo, rd s (Reg.chLinkSendCmd0 n.val),
        rd s (Reg.chLinkSendCmd1 n.val), rd s (Reg.chLinkSendCmd2 n.val), v, false, 0, 0⟩]) ∧
  (∀ (n : Fin 4) (v : W64) (s : State), v.toNat % 32 = 0 → 64 ≤ (s.chan n.val).sends.length →
    Answers (.sendCommand n v) s fun t => OnlyRegs [Reg.chLinkSendStatus n.val] s t ∧
      flag t (Reg.chLinkSendStatus n.val) 9 = true) ∧
  (∀ (n : Fin 4) (c : SendCmd) (s : State), (s.chan n.val).sends = [c] → c.sent = false → isDormant s = false →
    bit c.w3.toNat 6 = false →
    (sendParts n.val c (cdiv (bits c.w2.toNat 63 32) 2048) 0
      (s.setChan n.val { s.chan n.val with sends := [{ c with sent := true }] })).2 = true →
    exec (.sendStart n) s = .next (keepQueue s (sendParts n.val c (cdiv (bits c.w2.toNat 63 32) 2048) 0
      (s.setChan n.val { s.chan n.val with sends := [{ c with sent := true }] })).1)) ∧
  (∀ (n : Fin 4) (c : SendCmd) (s : State), (s.chan n.val).sends = [c] → c.sent = true → c.err = 0 → c.left = 0 →
    sendWaits s n.val c.no = false → bit c.w3.toNat 5 = false →
    exec (.sendComplete n) s = .next (s.setChan n.val { s.chan n.val with sends := [] })) ∧
  (∀ (n : Fin 4) (c : SendCmd) (s : State), (s.chan n.val).sends = [c] → c.sent = true → c.err = 0 → c.left = 0 →
    sendWaits s n.val c.no = false → bit c.w3.toNat 5 = true →
    exec (.sendComplete n) s = .next (keepQueue s (post (s.setChan n.val { s.chan n.val with sends := [] }) n.val 0x24 0
      [(32, bits c.w2.toNat 31 0)])))

/-- R490, R491, R493 to R496, R498, R499, R503: what enabling, disabling, retraining, relocking, the loss of a lane and of
every lane, and a training that times out make of a Dorul port's state. -/
def Obligations.PortStates : Prop :=
  (∀ (p : Fin 8) (s : State), hostPort s p.val = false → flag s (linkCtl p.val) 31 = false →
    Answers (.linkEnable p (BitVec.ofNat 64 (2 ^ 31))) s fun t =>
      OnlyRecovery (p.val / 2) [linkReg p.val, linkCtl p.val] s t ∧
      portState t p.val = 1 ∧ flag t (linkCtl p.val) 31 = true) ∧
  (∀ (p : Fin 8) (s : State), hostPort s p.val = false →
    Answers (.linkEnable p 0) s fun t => OnlyRecovery (p.val / 2) [linkReg p.val, linkCtl p.val] s t ∧
      portState t p.val = 0 ∧ flag t (linkCtl p.val) 31 = false) ∧
  (∀ (p : Fin 8) (v : W64) (s : State), bits v.toNat 63 32 = 0 → bits v.toNat 28 0 = 0 → hostPort s p.val = true →
    Answers (.linkEnable p v) s fun t => OnlyRegs [linkCtl p.val] s t ∧ flag t (linkCtl p.val) 31 = bit v.toNat 31) ∧
  (∀ (p : Fin 8) (v : W64) (s : State), bits v.toNat 63 32 ≠ 0 ∨ bits v.toNat 28 0 ≠ 0 →
    exec (.linkEnable p v) s = .next s) ∧
  (∀ (p : Fin 8) (s : State), hostPort s p.val = false → flag s (linkCtl p.val) 31 = true →
    Answers (.retrain p) s fun t => OnlyRecovery (p.val / 2) [linkReg p.val] s t ∧ portState t p.val = 1 ∧
      fld t (linkReg p.val) 28 25 = 0) ∧
  (∀ (p : Fin 8) (s : State), hostPort s p.val = false → flag s (linkCtl p.val) 31 = true → p.val < 4 →
    portState s p.val ≠ 5 → flag s (linkReg p.val) 23 = true →
    Answers (.relockDirect p) s fun t => OnlyPorts s t ∧ RegsBut [linkReg p.val] s t ∧ portState t p.val = 4 ∧
      (t.port p.val).direct = true) ∧
  (∀ (p : Fin 8) (s : State), portState s p.val = 4 →
    Answers (.relockTimeout p) s fun t => OnlyRecovery (p.val / 2) [linkReg p.val] s t ∧ portState t p.val = 1) ∧
  (∀ (p : Fin 8) (lane : Fin 4) (s : State), portState s p.val = 2 → bit (fld s (linkReg p.val) 28 25) lane.val = true →
    exec (.laneLoss p lane lane) s = .next (keepQueue s (rewriteRoutes (resend (setState
      (post (count32 s (Reg.chLinkLaneDropCount (p.val / 2) (p.val % 2)) 1) (p.val / 2) 0x20 0
        [(3, p.val), (2, lane.val)]) p.val 3 (fld s (linkReg p.val) 28 25 - 2 ^ lane.val)) p.val)))) ∧
  (∀ (p : Fin 8) (s : State), portState s p.val = 2 → p.val < 4 → flag s (linkReg p.val) 24 = false →
    flag s (linkReg p.val) 22 = true → s.ref.formed = false →
    exec (.lossOfSignal p) s = .next (keepQueue s (rewriteRoutes (beginRecovery
      ((setState s p.val 4 0).setPort p.val { s.port p.val with direct := false }) (p.val / 2) (.port p.val))))) ∧
  (∀ (p : Fin 8) (s : State), portState s p.val = 2 → 4 ≤ p.val →
    exec (.lossOfSignal p) s = .next (keepQueue s (rewriteRoutes (startTrain s p.val)))) ∧
  (∀ (p : Fin 8) (s : State), portState s p.val = 2 → p.val < 4 → flag s (linkReg p.val) 24 = true →
    exec (.lossOfSignal p) s = .next (keepQueue s (rewriteRoutes (startTrain s p.val)))) ∧
  (∀ (p : Fin 8) (seen : Bool) (s : State), portState s p.val = 1 → s.ref.formed = true →
    exec (.trainingTimeout p seen) s = .next (keepQueue s (afterPort (failPort s p.val
      (if seen && litLanes s p.val 15 != 0 then 2 else 1)) p.val))) ∧
  (∀ (p : Fin 8) (seen : Bool) (s : State), portState s p.val = 1 → 4 ≤ p.val →
    exec (.trainingTimeout p seen) s = .next (keepQueue s (afterPort (failPort s p.val (if seen then 2 else 1)) p.val)))

/-- R491, R492, R498, R504, R506, R512: a port whose training or relock completes comes up on the lanes and faces the
partner it finds, and the routes follow. -/
def Obligations.PortsComeUp : Prop :=
  (∀ (p : Fin 8) (lanes : BitVec 4) (partner pport : Fin 8) (s : State), portState s p.val = 4 →
    3 ≤ laneCount (litLanes s p.val lanes.toNat) →
    exec (.relockComplete p lanes partner pport) s = .next (keepQueue s (afterPort
      (count32 (comeUp s p.val (litLanes s p.val lanes.toNat) partner.val pport.val (!(s.port p.val).direct))
        (Reg.chLinkRelockCount (p.val / 2) (p.val % 2)) 1) p.val))) ∧
  (∀ (p : Fin 8) (lanes : BitVec 4) (partner pport : Fin 8) (s : State), portState s p.val = 1 →
    3 ≤ laneCount lanes.toNat → 4 ≤ p.val →
    cablingOk (comeUp s p.val lanes.toNat partner.val pport.val false) p.val partner.val pport.val = true →
    exec (.trainingComplete p lanes partner pport) s = .next (keepQueue s (afterPort
      (comeUp s p.val lanes.toNat partner.val pport.val false) p.val))) ∧
  (∀ (p : Fin 8) (lanes : BitVec 4) (partner pport : Fin 8) (s : State), portState s p.val = 1 → p.val < 4 →
    3 ≤ laneCount (litLanes s p.val lanes.toNat) →
    let next := partner.val == stepModule (groupSize s) (ownModule s) 1 (facesEast p.val)
    let u := comeUp s p.val (litLanes s p.val lanes.toNat) partner.val pport.val (!next)
    cablingOk u p.val partner.val pport.val = false →
    exec (.trainingComplete p lanes partner pport) s = .next (keepQueue s (afterPort
      (post (setState (setFlag u (linkCtl p.val) 31 false) p.val 0 0) (p.val / 2) 0x26 0
        [(3, p.val), (3, partner.val), (3, pport.val)]) p.val))) ∧
  (∀ (p : Fin 8) (lanes : BitVec 4) (partner pport : Fin 8) (byp : Bool) (s : State), (s.port p.val).faced = none →
    (s.port p.val).waiting = [] → (s.port p.val).replay = [] →
    portState (comeUp s p.val lanes.toNat partner.val pport.val byp) p.val = (if lanes.toNat = 15 then 2 else 3) ∧
    fld (comeUp s p.val lanes.toNat partner.val pport.val byp) (linkReg p.val) 28 25 = lanes.toNat ∧
    fld (comeUp s p.val lanes.toNat partner.val pport.val byp) (linkReg p.val) 18 16 = partner.val ∧
    fld (comeUp s p.val lanes.toNat partner.val pport.val byp) (linkReg p.val) 15 13 = pport.val ∧
    flag (comeUp s p.val lanes.toNat partner.val pport.val byp) (linkReg p.val) 24 = byp)


/-- R497, R500, R501, R655: insert commands the relays, a relay sensed other than commanded is flagged and posts its event, and in formation the
modules take the bypass round in turn: announced by a message, relays closed, relays opened. -/
def Obligations.Relays : Prop :=
  (∀ (v : W64) (s : State), v.toNat < 2 →
    Answers (.byeInsertWrite v) s fun t => OnlyRegs [Reg.glbByeCtrl, Reg.glbByeStatus] s t ∧
      flag t Reg.glbByeCtrl 0 = bit v.toNat 0 ∧ fld t Reg.glbByeStatus 7 0 = (if relaysOpen t then 0 else 255)) ∧
  (∀ (k : Fin 8) (s : State),
    let u := setFlag (setFlag s Reg.glbByeStatus k.val (relaysOpen s)) Reg.glbByeStatus (8 + k.val) true
    exec (.byeFault k (relaysOpen s)) s = .next (keepQueue s (post u 4 0x22 0 [(8, fld u Reg.glbByeStatus 15 8)])) ∧
      flag u Reg.glbByeStatus (8 + k.val) = true ∧ flag u Reg.glbByeStatus k.val = relaysOpen s) ∧
  (∀ (s : State), s.ref.formed = false → phase s = 6 → 3 ≤ groupSize s → s.ref.round = 0 → s.ref.rounds = [] →
    s.ref.rejoin = none → bit (membersMask s) (ownModule s) = true → lowestPresent s = some (ownModule s) →
    exec .bypassRound s = .next (keepQueue s (setRef (flood s none (ctlWord 3 (epochNow s) 0 none none (ownModule s)))
      { (flood s none (ctlWord 3 (epochNow s) 0 none none (ownModule s))).ref with
        round := 1, rejoin := some (ownModule s) }))) ∧
  (∀ (s : State), s.ref.round = 1 →
    Answers .bypassRoundClose s fun t => t.ref = { s.ref with round := 2 } ∧ flag t Reg.glbByeCtrl 0 = false ∧
      fld t Reg.glbByeStatus 7 0 = 255 ∧ RegsBut [Reg.glbByeCtrl, Reg.glbByeStatus] s t ∧ SameMemory s t) ∧
  (∀ (s : State), s.ref.round = 2 →
    Answers .bypassRoundInsert s fun t => t.ref = { s.ref with round := 3 } ∧ flag t Reg.glbByeCtrl 0 = true ∧
      RegsBut [Reg.glbByeCtrl, Reg.glbByeStatus] s t ∧ SameMemory s t)

/-! ### The host link and its messages -/

/-- R516 to R519: a host link that comes up starts its numbering at 0 and learns the host's address anew; a frame for
another address is dropped and counted; the next frame in order is taken; a resend is counted. -/
def Obligations.HostLink : Prop :=
  (∀ (p : Fin 8) (s : State), hostPort s p.val = true → flag s (linkCtl p.val) 31 = true →
    exec (.hostLinkUp p) s = .next (s.setPort p.val { s.port p.val with
      hup := true, hmac := none, htx := 0, hrx := 0, hun := [], hwait := [] })) ∧
  (∀ (p : Fin 8) (f : HostFrame) (s : State), hostPort s p.val = true → (s.port p.val).hup = true →
    f.dstMac ≠ s.board.mac →
    Answers (.hostFrame p f) s fun t => OnlyRegs [Reg.glbHostDropCount] s t ∧ Counted Reg.glbHostDropCount 1 s t) ∧
  (∀ (p : Fin 8) (f : HostFrame) (ms : List Msg) (s : State), hostPort s p.val = true → (s.port p.val).hup = true →
    f.dstMac = s.board.mac → f.tagged = false → f.payload.length ≤ 8336 → 16 ≤ f.payload.length →
    f.ethertype.toNat = fld s Reg.glbHostCfg 31 16 → bits (leNat (f.payload.take 8)) 63 56 = 1 →
    1 ≤ bits (leNat (f.payload.take 8)) 47 32 → bits (leNat (f.payload.take 8)) 47 32 ≤ 4 →
    frameMsgs (bits (leNat (f.payload.take 8)) 47 32) (f.payload.drop 16) [] = some ms →
    (s.port p.val).hun = [] → (s.port p.val).hwait = [] → bits (leNat (f.payload.take 8)) 31 16 = (s.port p.val).hrx →
    heldIn (s.port p.val).rxq + heldIn ms ≤ 512 →
    Answers (.hostFrame p f) s fun t => OnlyPortsAndReferee s t ∧ (t.port p.val).hrx = ((s.port p.val).hrx + 1) % 65536 ∧
      (t.port p.val).hmac = some ((s.port p.val).hmac.getD f.srcMac) ∧
      ((∀ m ∈ ms, (m.setSrc (ownModule s)).ok = true ∧ ¬ (m.kind = 4 ∧ m.sub = 5)) →
        (t.port p.val).rxq = (s.port p.val).rxq ++ ms.map (·.setSrc (ownModule s)))) ∧
  (∀ (p : Fin 8) (s : State), hostPort s p.val = true → (s.port p.val).hup = true → (s.port p.val).hun ≠ [] →
    Answers (.hostResendTimeout p) s fun t => OnlyPorts s t ∧ RegsBut [Reg.glbHostResendCount] s t ∧
      Counted Reg.glbHostResendCount 1 s t ∧ (t.port p.val).hun = (s.port p.val).hun ∧
      (t.port p.val).hout.map (·.1) = (s.port p.val).hun.getLast?.map (·.1))

/-- R520, R525, R659: a register read and a register write of the host are carried out slot by slot and answered with
their result; replies, notices, responses and statuses leave by the host port. -/
def Obligations.Management : Prop :=
  (∀ (p : Fin 8) (m : Msg) (s : State), takeFor s p.val 4 [1] = some m → flag s Reg.glbLcStatus 23 = true →
    exec (.registerRead p) s = .next (keepQueue s (mgmtReply
      (mgmtRead (m.f1 59 48) (m.f1 47 0) [] (dropMsg s p.val m)).1 p.val m
      (mgmtRead (m.f1 59 48) (m.f1 47 0) [] (dropMsg s p.val m)).2.1
      (mgmtRead (m.f1 59 48) (m.f1 47 0) [] (dropMsg s p.val m)).2.2))) ∧
  (∀ (p : Fin 8) (m : Msg) (s : State), takeFor s p.val 4 [2] = some m → flag s Reg.glbLcStatus 23 = true →
    exec (.registerWrite p) s = .next (keepQueue s (mgmtReply
      (mgmtWrite (m.f1 59 48) (m.f1 47 0) m.data (dropMsg s p.val m)).1 p.val m
      (mgmtWrite (m.f1 59 48) (m.f1 47 0) m.data (dropMsg s p.val m)).2 []))) ∧
  (∀ (p : Fin 8) (q : Nat) (m : Msg) (s : State), m.toh = true → hostPick s none m = some q →
    (takeFor s p.val 4 [3] = some m → exec (.reply p) s = .next (keepQueue s (hostSend (dropMsg s p.val m) q m))) ∧
    (takeFor s p.val 4 [5] = some m → exec (.eventNotice p) s = .next (keepQueue s (hostSend (dropMsg s p.val m) q m))) ∧
    (takeFor s p.val 5 [8] = some m → exec (.response p) s = .next (keepQueue s (hostSend (dropMsg s p.val m) q m))) ∧
    (takeFor s p.val 5 [9] = some m → exec (.status p) s = .next (keepQueue s (hostSend (dropMsg s p.val m) q m)))) ∧
  (∀ (p : Fin 8) (m : Msg) (t : Xfer) (s : State), takeFor s p.val 4 [4] = some m →
    xferOf (dropMsg s p.val m) (m.f1 55 54) (BitVec.ofNat 32 (m.f1 31 0)) = some t →
    Answers (.transferData p) s fun u =>
      u.mem = (writeRange (dropMsg s p.val m) (slotAddr (dropMsg s p.val m) (m.f1 55 54) t.slot + 2048 * m.f1 59 56)
        m.data).1.mem ∧
      ∃ x ∈ (u.chan (m.f1 55 54)).book.xfers, x.xfer = t.xfer ∧ x.slot = t.slot ∧ m.f1 59 56 ∈ x.pieces)

/-- R29, R440, R522 to R524, R570: requests in parts, their timeout, continuations, cancels and replays. -/
def Obligations.Requests : Prop :=
  (∀ (p : Fin 8) (m : Msg) (s : State), takeFor s p.val 5 [1] = some m → arrivedFirst s p.val m = true →
    s.ref.partial_ = [] → m.index = 0 → 1 ≤ m.f1 19 8 →
    Answers (.request p) s fun t => t.ref.partial_ =
      [⟨m.src, p.val, m.model, m.htag, m.f1 19 8 + 1, m.maxNew, [(0, tokensOf m)]⟩] ∧ OnlyPortsAndReferee s t) ∧
  (∀ (p : Fin 8) (m : Msg) (s : State), takeFor s p.val 5 [1] = some m → arrivedFirst s p.val m = true →
    s.ref.partial_ = [] → m.index = 0 → m.f1 19 8 = 0 →
    exec (.request p) s = .next (keepQueue s (takeRequest (setRef (dropMsg s p.val m) { s.ref with partial_ := [] })
      ⟨m.src, p.val, m.model, m.htag, 1, m.maxNew, [(0, tokensOf m)]⟩))) ∧
  (∀ (p : Fin 8) (m : Msg) (s : State), takeFor s p.val 5 [1] = some m → arrivedFirst s p.val m = false →
    exec (.request p) s = .next s) ∧
  (∀ (r : Request) (s : State), s.ref.partial_ = [r] →
    exec (.requestIncompleteTimeout r.htag) s = .next (keepQueue s (emit (setRef s { s.ref with partial_ := [] })
      (some r.port) none (statusMsg (setRef s { s.ref with partial_ := [] }) r.src r.model r.htag 5 0)))) ∧
  (∀ (p : Fin 8) (m : Msg) (q : Live) (s : State), takeFor s p.val 5 [2] = some m → currentSeq s m = some q →
    q.work = none → q.waits = false → refusal s q.model = none →
    exec (.continueSequence p) s = .next (keepQueue s (expandStep (startWake (putLive (dropMsg s p.val m)
      { q with htag := m.htag, src := m.src, input := q.input ++ tokensOf m, maxNew := q.made + m.maxNew })) q.id))) ∧
  (∀ (p : Fin 8) (m : Msg) (q : Live) (s : State), takeFor s p.val 5 [3] = some m → currentSeq s m = some q →
    exec (.cancel p) s = .next (keepQueue s (endRequest (dropMsg s p.val m) q 4))) ∧
  (∀ (p : Fin 8) (m : Msg) (q : Live) (s : State), takeFor s p.val 5 [4] = some m → currentSeq s m = some q →
    exec (.replay p) s = .next (keepQueue s ((q.kept.filter fun e => decide (m.index ≤ e.1)).foldl (fun s e =>
      emit s (some p.val) none (hostFrameMsg s q 8 e.1 0 (leBytes 4 e.2.toNat))) (dropMsg s p.val m)))) ∧
  (∀ (p : Fin 8) (m : Msg) (s : State), takeFor s p.val 5 [3] = some m → currentSeq s m = none →
    exec (.cancel p) s = .next (keepQueue s (emit (dropMsg s p.val m) (some p.val) none
      (statusMsg (dropMsg s p.val m) m.src m.model m.htag 2 0))))

/-! ### The group -/

/-- R509, R510, R527, R655: heartbeats, a hung neighbour, and the modules that leave the ring and rejoin it. -/
def Obligations.Group : Prop :=
  (∀ (p : Fin 8) (m : Msg) (s : State), takeFor s p.val 3 [1] = some m →
    Answers (.heartbeat p) s fun t => OnlyPorts s t ∧ RegsBut [] s t ∧ (t.port p.val).beat = timeNs s ∧
      (t.port p.val).rxq = (s.port p.val).rxq.erase m) ∧
  (∀ (s : State), s.ref.formed = false ∨ fld s Reg.glbRefStatus 31 30 = 0 → exec .heartbeatSend s = .next s) ∧
  (∀ (s : State), s.ref.formed = true → fld s Reg.glbRefStatus 31 30 ≠ 0 →
    exec .heartbeatSend s = .next (keepQueue s ((List.range 8).foldl (fun s p =>
      if hostPort s p then s else sendCtl s p (ctlWord 1 (epochNow s) 0 (captainOf s) (standbyOf s) 0)) s))) ∧
  (∀ (p : Fin 8) (s : State), s.ref.formed = true → linkUp s p.val = true →
    fld s (linkReg p.val) 18 16 ≠ ownModule s → bit (membersMask s) (fld s (linkReg p.val) 18 16) = true →
    (s.port p.val).beat + 100000 ≤ timeNs s →
    nextPresent (groupSize s) (membersMask s) (fld s (linkReg p.val) 18 16) false = some (ownModule s) →
    exec (.neighbourHung p) s = .next (keepQueue s (issueUpdate (post s 4 0x27 0 [(3, fld s (linkReg p.val) 18 16)])
      (membersMask s - 2 ^ fld s (linkReg p.val) 18 16)))) ∧
  (∀ (p : Fin 8) (m : Msg) (s : State), takeFor s p.val 3 [2] = some m → staleCtl s m = false →
    m.f1 59 44 ≠ epochNow (dropMsg s p.val m) →
    exec (.membershipUpdate p) s = .next (keepQueue s (flood (adoptView (dropMsg s p.val m) (m.f1 59 44) (m.f1 43 36)
      (optField m 33 32) (optField m 29 28)) (some p.val) m.w1))) ∧
  (∀ (p : Fin 8) (m : Msg) (s : State), takeFor s p.val 3 [2] = some m → staleCtl s m = false →
    m.f1 59 44 = epochNow (dropMsg s p.val m) → m.f1 43 36 ≠ membersMask (dropMsg s p.val m) →
    exec (.membershipUpdate p) s = .next (keepQueue s (issueUpdate (dropMsg s p.val m)
      (m.f1 43 36 &&& membersMask (dropMsg s p.val m))))) ∧
  (∀ (p : Fin 8) (m : Msg) (s : State), takeFor s p.val 3 [2] = some m → staleCtl s m = true →
    Answers (.membershipUpdate p) s fun t => OnlyPorts s t ∧ RegsBut [Reg.glbLinkStaleCount] s t ∧
      Counted Reg.glbLinkStaleCount 1 s t) ∧
  (∀ (p : Fin 8) (m : Msg) (s : State), takeFor s p.val 3 [3] = some m → staleCtl s m = false →
    s.ref.rejoin = none → s.ref.formed = false →
    exec (.rejoinStart p) s = .next (keepQueue s (setRef (flood (dropMsg s p.val m) (some p.val) m.w1)
      { (flood (dropMsg s p.val m) (some p.val) m.w1).ref with rejoin := some (m.f1 27 25) }))) ∧
  (∀ (p : Fin 8) (m : Msg) (s : State), takeFor s p.val 3 [4] = some m → staleCtl s m = false →
    s.ref.rejoin = some (m.f1 27 25) → (flood (dropMsg s p.val m) (some p.val) m.w1).ref.formed = true →
    exec (.rejoinDone p) s = .next (keepQueue s (rewriteRoutes (setRef (flood (dropMsg s p.val m) (some p.val) m.w1)
      { (flood (dropMsg s p.val m) (some p.val) m.w1).ref with rejoin := none }))))

/-! ### Tiers -/

/-- R316, R317: the decoder corrects every error that changes one symbol of a word, whatever the symbol and the error. -/
def Obligations.EccCorrects : Prop :=
  ∀ (k e : Nat), k < 18 → 0 < e → e < 256 →
    decodeErrs ((List.range 18).map fun j => if j = k then e else 0) = .corrected k e

/-- R317, R347: a word that decodes with one symbol corrected is delivered as it was stored; rewritten, it stays as
delivered and holds no error; no other byte changes. -/
def Obligations.Rewrite : Prop :=
  (∀ (s : State) (w : Nat), goodBytes (rewriteWord s w) (16 * w) 16 = goodBytes s (16 * w) 16 ∧
    decodeWord (rewriteWord s w) w = .clean ∧ SameOutside (16 * w) (16 * w + 16) s (rewriteWord s w) ∧
    ∀ v, v ≠ w → wordErrs (rewriteWord s w) v = wordErrs s v) ∧
  (∀ (word : Nat) (n : Fin 4) (s : State), word ∈ (s.chan n.val).wb → (∀ m < n.val, word ∉ (s.chan m).wb) →
    exec (.dramWriteBack word) s = .next ((writeBackWord s word).setChan n.val
      { s.chan n.val with wb := (s.chan n.val).wb.filter (· != word) }))

/-- R321, R325, R328 to R330, R335, R663: a refresh is recorded bank by bank in service; a pseudo-channel whose queue stands
high begins an episode, which a channel without the monitor ends; the fence, once set, stands, and the interleave lock can
only be set. -/
def Obligations.TierCommands : Prop :=
  (∀ (n : Fin 4) (tier1 : Bool) (device : Fin 6) (pc : Fin 32) (bank : Option (Fin 16)) (s : State), powerState s = 3 →
    s.board.retained = false →
    exec (.dramRefresh n tier1 device pc bank) s = .next (s.setChan n.val { s.chan n.val with
      lastRef := some (tier1, device.val, pc.val,
        if inService s n.val && (tier1 || !stackHot s (3 * n.val + device.val) 95) then bank.map (·.val) else none) })) ∧
  (∀ (n : Fin 4) (tier1 : Bool) (device : Fin 6) (pc : Fin 32) (bank : Option (Fin 16)) (s : State),
    powerState s ≠ 3 ∨ s.board.retained = true → exec (.dramRefresh n tier1 device pc bank) s = .next s) ∧
  (∀ (n : Fin 4) (occ : List Nat) (s : State), flag s (Reg.chHotCtrl n.val) 31 = false →
    exec (.hotChannelSample n occ) s = .next (s.setChan n.val { s.chan n.val with hot := none })) ∧
  (∀ (n : Fin 4) (occ : List Nat) (s : State), flag s (Reg.chHotCtrl n.val) 31 = true →
    (∀ i, standsHigh s n.val occ i = false) →
    exec (.hotChannelSample n occ) s = .next (s.setChan n.val { s.chan n.val with hot := none })) ∧
  (∀ (n : Fin 4) (occ : List Nat) (i : Nat) (s : State), flag s (Reg.chHotCtrl n.val) 31 = true → (s.chan n.val).hot = none →
    i < 96 → standsHigh s n.val occ i = true → (∀ j < i, standsHigh s n.val occ j = false) →
    0 < fld s (Reg.chHotCtrl n.val) 11 0 →
    exec (.hotChannelSample n occ) s = .next (s.setChan n.val { s.chan n.val with
      hot := some ⟨i / 32, i % 32, 1, min 32 (occ.getD i 0), false, false⟩ })) ∧
  (∀ (n : Fin 4) (occ : List Nat) (e : Episode) (s : State), flag s (Reg.chHotCtrl n.val) 31 = true →
    (s.chan n.val).hot = some e → standsHigh s n.val occ (32 * e.stack + e.pc) = true → e.posted = false →
    e.samples * 10240 < fld s (Reg.chHotCtrl n.val) 11 0 * 120000 →
    exec (.hotChannelSample n occ) s = .next (s.setChan n.val { s.chan n.val with
      hot := some { e with samples := e.samples + 1, peak := max e.peak (min 32 (occ.getD (32 * e.stack + e.pc) 0)) } })) ∧
  (∀ (n : Fin 4) (occ : List Nat) (e : Episode) (s : State), flag s (Reg.chHotCtrl n.val) 31 = true →
    (s.chan n.val).hot = some e → standsHigh s n.val occ (32 * e.stack + e.pc) = true → e.posted = false →
    e.stack < 3 → e.pc < 32 → e.peak ≤ 32 → fld s (Reg.chHotCtrl n.val) 11 0 * 120000 ≤ e.samples * 10240 →
    Answers (.hotChannelSample n occ) s fun t => Counted (Reg.chHotCount n.val) 1 s t ∧
      (t.chan n.val).hot = some { e with samples := e.samples + 1, posted := true,
                                         noted := e.noted || !flag s (Reg.chHotLast n.val) 63,
                                         peak := max e.peak (min 32 (occ.getD (32 * e.stack + e.pc) 0)) } ∧
      flag t (Reg.chHotLast n.val) 63 = true) ∧
  (∀ (n : Fin 4) (v : W64) (s : State), bits v.toNat 63 32 = 0 → bits v.toNat 30 3 = 0 → bit v.toNat 31 = true →
    fenced s n.val = false →
    let u := fence s n.val 0 false
    exec (.t0FenceWrite n v) s = .next (keepQueue s (afterFence u n.val)) ∧ fenced u n.val = true ∧
      rd u (Reg.chT0Fence n.val) = BitVec.ofNat 64 (2 ^ 31) ∧ u.cores = s.cores ∧ u.streams = s.streams ∧
      ∀ m, (u.chan m).ops = (s.chan m).ops) ∧
  (∀ (n : Fin 4) (v : W64) (s : State), bit v.toNat 31 = false ∨ fenced s n.val = true →
    exec (.t0FenceWrite n v) s = .next s) ∧
  (∀ (v : W64) (s : State), bits v.toNat 63 1 = 0 → bit v.toNat 0 = true →
    Answers (.ilLockWrite v) s fun t => OnlyRegs [Reg.glbIlCtrl] s t ∧ flag t Reg.glbIlCtrl 0 = true) ∧
  (∀ (v : W64) (s : State), bits v.toNat 63 1 ≠ 0 ∨ bit v.toNat 0 = false → exec (.ilLockWrite v) s = .next s)

/-- R337: marking a frame present or absent changes what the residency map says of that frame and of no other, in this
channel and in no channel but its partner. -/
def Obligations.ResidencyMap : Prop :=
  ∀ (n : Fin 4) (f g : Nat) (present : Bool) (s : State),
    absent (markFrame s n.val f present) n.val g = (if g = f then !present else absent s n.val g) ∧
    (∀ m : Fin 4, m ≠ n → (m.val ≠ partner n.val ∨ mirrored s n.val (f * 32768) = false) →
      (markFrame s n.val f present).chan m.val = s.chan m.val) ∧
    (mirrored s n.val (f * 32768) = true →
      absent (markFrame s n.val f present) (partner n.val) g = if g = f then !present else absent s (partner n.val) g) ∧
    SameMemory s (markFrame s n.val f present) ∧ RegsBut [] s (markFrame s n.val f present)

/-- R338: a unit's access is served where it names memory in service and its frame is present; in a fenced channel it goes
to the mirror partner, where the range is mirrored, and stops otherwise; an absent frame is a page fault. -/
def Obligations.Resolve : Prop :=
  ∀ (n : Fin 4) (off : Nat) (write : Bool) (s : State), off < tier0Size →
    (fenced s n.val = false → absent s n.val (off / 32768) = false →
      resolve s (tier0Base n.val + off) write = .ok (tier0Base n.val + off)) ∧
    (fenced s n.val = false → absent s n.val (off / 32768) = true →
      resolve s (tier0Base n.val + off) write = .error (.page n.val off write)) ∧
    (fenced s n.val = true → mirrored s n.val off = false →
      resolve s (tier0Base n.val + off) write = .error .fence) ∧
    (fenced s n.val = true → mirrored s n.val off = true → fenced s (partner n.val) = false →
      absent s (partner n.val) (off / 32768) = false →
      resolve s (tier0Base n.val + off) write = .ok (tier0Base (partner n.val) + off)) ∧
    (∀ o, o < tier1Size → resolve s (tier1Base n.val + o) write = .ok (tier1Base n.val + o)) ∧
    (∀ a, 4 * tier0Size ≤ a → a < 0x10000000000 → resolve s a write = .error .unmapped)

/-- R341 to R343: each migration op, at the head of the queue and breaking no rule, moves its bytes and marks its frame,
and one that breaks a rule is a migration fault; with its work done it leaves the queue and is counted. -/
def Obligations.Migration : Prop :=
  (∀ (n : Fin 4) (i : Nat) (c : MigCmd) (s : State), migPick 1 (s.chan n.val).mig [] 0 = some (i, c) →
    isDormant s = false → frameOk s n.val c = true → tier1Ok s n.val c.t1 = true →
    exec (.fetchFromTier1 n) s = .next (keepQueue s (settleRestore n.val (markFrame (fillFrame (migMark s n.val i c) n.val
      c.frame c.t1) n.val c.frame true)))) ∧
  (∀ (n : Fin 4) (i : Nat) (c : MigCmd) (s : State), migPick 2 (s.chan n.val).mig [] 0 = some (i, c) →
    isDormant s = false → frameOk s n.val c = true → tier1Ok s n.val c.t1 = true →
    exec (.copyToTier1 n) s = .next (keepQueue s (copyFrame (migMark s n.val i c) n.val c.frame c.t1))) ∧
  (∀ (n : Fin 4) (f t1 : Nat) (s : State), fenced s n.val = false →
    copyFrame s n.val f t1 = moveBytes s (tier0Base n.val + 32768 * f) t1 32768) ∧
  (∀ (n : Fin 4) (i a : Nat) (c : MigCmd) (x : Xfer) (s : State), fromHostPick s n.val (s.chan n.val).mig [] 0 = some (i, c) →
    (s.chan n.val).book.xfers.find? (·.xfer == c.xfer) = some x → isDormant s = false → frameOk s n.val c = true →
    ((s.plan.bind fun p => p.chans[n.val]?).bind fun p => p.slots[x.slot]?) = some a →
    (∀ w < 2048, decodeWord s (a / 16 + w) ≠ .bad) →
    exec (.fetchFromHost n) s = .next (keepQueue s (markFrame (fillFrame (migMark s n.val i c) n.val c.frame a)
      n.val c.frame true))) ∧
  (∀ (n : Fin 4) (i : Nat) (c : MigCmd) (s : State), migPick 4 (s.chan n.val).mig [] 0 = some (i, c) →
    isDormant s = false → c.op = 4 → c.frame < frames →
    Answers (.markAbsent n) s fun t => absent t n.val c.frame = true ∧ SameMemory s t ∧ RegsBut [] s t) ∧
  (∀ (n : Fin 4) (i : Nat) (c : MigCmd) (s : State), migPick 5 (s.chan n.val).mig [] 0 = some (i, c) →
    isDormant s = false → c.op = 5 → c.frame < frames →
    Answers (.markPresent n) s fun t => absent t n.val c.frame = false ∧ SameMemory s t ∧ RegsBut [] s t) ∧
  (∀ (n : Fin 4) (i : Nat) (c : MigCmd) (s : State), migPick 6 (s.chan n.val).mig [] 0 = some (i, c) →
    isDormant s = false → frameOk s n.val c = true → tier1Ok s n.val c.t1 = true →
    let u := markFrame s n.val c.frame false
    (flightInFrame u n.val c.frame = false →
      exec (.evict n) s = .next (keepQueue s (copyFrame (migMark u n.val i c) n.val c.frame c.t1))) ∧
    (flightInFrame u n.val c.frame = true →
      exec (.evict n) s = .next (keepQueue s (u.setChan n.val
        { u.chan n.val with mig := (u.chan n.val).mig.set i { c with drain := true } })))) ∧
  (∀ (n : Fin 4) (i : Nat) (c : MigCmd) (s : State), migPick 7 (s.chan n.val).mig [] 0 = some (i, c) →
    isDormant s = false → frameOk s n.val c = true →
    exec (.repairBlockFromMirror n) s = .next (keepQueue s (moveBytes (migMark s n.val i c)
      (tier0Base (partner n.val) + (32768 * c.frame + 2048 * (c.t1 % 16)))
      (tier0Base n.val + (32768 * c.frame + 2048 * (c.t1 % 16))) 2048))) ∧
  (∀ (n : Fin 4) (c : MigCmd) (s : State), (s.chan n.val).mig = [c] → c.moved = true → c.op = 2 → c.resume = false →
    c.event = false → (s.chan n.val).book.lost = [] → (s.chan n.val).book.moving = [] →
    Answers (.migrationComplete n) s fun t => (t.chan n.val).mig = [] ∧
      rd t (Reg.chMigDoneCount n.val) = rd s (Reg.chMigDoneCount n.val) + 1 ∧ SameMemory s t ∧
      RegsBut [Reg.chMigDoneCount n.val] s t) ∧
  (∀ (n : Fin 4) (i : Nat) (c : MigCmd) (s : State), migPick 1 (s.chan n.val).mig [] 0 = some (i, c) →
    isDormant s = false → frameOk s n.val c = false →
    exec (.fetchFromTier1 n) s = .next (keepQueue s (settleRestore n.val (migFault (migDrop s n.val i) n.val c)))) ∧
  (∀ (n : Fin 4) (s : State), (s.chan n.val).book.lost = [] → (s.chan n.val).book.moving = [] → settleRestore n.val s = s)

/-- R343: of the migration commands of an op the first runs that no earlier command in the queue names the frame of. -/
def Obligations.MigrationOrder : Prop :=
  ∀ (o i : Nat) (c : MigCmd) (l : List MigCmd), migPick o l [] 0 = some (i, c) →
    l[i]? = some c ∧ c.op = o ∧ c.moved = false ∧ (∀ j < i, (l[j]?).map (·.frame) ≠ some c.frame) ∧
    ∀ j < i, ∀ d, l[j]? = some d → d.op = o → d.moved = false → ∃ k < j, (l[k]?).map (·.frame) = some d.frame


/-- R436, R437: a sync asked for takes the dirty blocks of that moment and ends when none of them is left; a dirty block
is copied to its shadow slot and is dirty no more. -/
def Obligations.Shadow : Prop :=
  (∀ (n : Fin 4) (tag : Nat) (s : State), tag < 2 ^ 32 → flag s (Reg.chKvSync n.val) 63 = false →
    Answers (.shadowSyncRequest n (BitVec.ofNat 64 (2 ^ 63 + tag))) s fun t =>
      (t.chan n.val).sync = some ⟨(s.chan n.val).dirty, BitVec.ofNat 32 tag, storedSeqs s n.val⟩ ∧
      flag t (Reg.chKvSync n.val) 63 = true ∧ fld t (Reg.chKvSync n.val) 31 0 = tag ∧ SameMemory s t ∧
      RegsBut [Reg.chKvSync n.val] s t) ∧
  (∀ (n : Fin 4) (v : W64) (s : State), flag s (Reg.chKvSync n.val) 63 = true →
    exec (.shadowSyncRequest n v) s = .next s) ∧
  (∀ (n : Fin 4) (y : Sync) (s : State), (s.chan n.val).sync = some y → y.blocks = [] → s.ref.live = [] →
    Answers (.shadowSyncComplete n) s fun t => flag t (Reg.chKvSync n.val) 63 = false ∧
      (t.chan n.val).sync = none) ∧
  (∀ (n : Fin 4) (y : Sync) (b : Nat) (s : State), (s.chan n.val).sync = some y → y.blocks = [b] →
    flag s (Reg.chKvShadow n.val) 62 = false → exec (.shadowSyncComplete n) s = .next s) ∧
  (∀ (n : Fin 4) (b : Nat) (s : State), fenced s n.val = false → b ∈ (s.chan n.val).dirty →
    Answers (.shadowBlockCopy n b) s fun t => b ∉ (t.chan n.val).dirty) ∧
  (∀ (n : Fin 4) (b o : Nat) (s : State), fenced s n.val = false → b ∈ (s.chan n.val).dirty →
    let u := s.setChan n.val { s.chan n.val with
      dirty := (s.chan n.val).dirty.filter (· != b)
      sync := (s.chan n.val).sync.map fun (y : Sync) => { y with blocks := y.blocks.filter (· != b) } }
    let dst := fld u (Reg.chKvShadow n.val) 47 0 + 32768 * shadowSlot u n.val (b / 16) + b % 16 * 2048
    shadowSlot u n.val (b / 16) ≠ 0xFFFFFFFF → place dst = .tier1 (partner n.val) o →
    exec (.shadowBlockCopy n b) s = .next (keepQueue s (count64
      (moveBytes u (tier0Base n.val + 2048 * b) dst 2048) (Reg.chKvShadowBlockCount n.val) 1)))

/-! ### Sequences and training -/

/-- R433, R434, R438, R524, R555: a step's token does not leave while an operation of the step is unfinished; the last token
of a sequence whose step is done is counted and kept; a sequence with no step under way and no pages is live no more once it
is retired, and its generation has advanced by one in every channel of its model; one whose generation has advanced gives
its pages back once no migration names their frames; a deferred request is admitted while fewer
than 16,384 sequences are live, and waits otherwise. -/
def Obligations.Sequences : Prop :=
  (∀ (q : Live) (w : List StepWork) (token : W32) (s : State) (seq : W16), findLive s seq.toNat = some q →
    q.work = some w → (∃ x ∈ w, x.ops ≠ []) → exec (.responseIssue seq token) s = .next s) ∧
  (∀ (q : Live) (token : W32) (s : State) (seq : W16), s.ref.live = [q] → q.id = seq.toNat → q.work = some [] →
    q.made + 1 = q.maxNew →
    Answers (.responseIssue seq token) s fun t => ∃ u, t.ref.live = [u] ∧ u.made = q.made + 1 ∧ u.work = none ∧
      u.counted = q.counted + q.input.length ∧ u.input = [token] ∧ (q.made, token) ∈ u.kept ∧
      rd t Reg.glbRespTokenCount = rd s Reg.glbRespTokenCount + 1) ∧
  (∀ (q : Live) (w : List StepWork) (token : W32) (s : State) (seq : W16), findLive s seq.toNat = some q →
    q.work = some w → (∀ x ∈ w, x.ops = [] ∧ (x.ch ∈ q.synced ∨ flag s (Reg.chKvShadow x.ch) 62 = true)) →
    q.made + 1 < q.maxNew →
    exec (.responseIssue seq token) s = .next (keepQueue s (expandStep (putLive (count64
      (emit s none none (hostFrameMsg s q 8 q.made 0 (leBytes 4 token.toNat))) Reg.glbRespTokenCount 1)
      { q with work := none, synced := [], counted := q.counted + q.input.length, made := q.made + 1, input := [token],
               kept := (q.kept ++ [(q.made, token)]).drop (q.kept.length + 1 - 256) }) q.id))) ∧
  (∀ (q : Live) (m : ModelPlan) (s : State) (seq : W16), findLive s seq.toNat = some q →
    modelOf s q.model = some m → (∀ n ∈ m.chans, n < 4) → q.work = none → (∀ e ∈ q.left, opGone s e.1 e.2 = true) →
    (∀ n < 4, (s.chan n).book.pages = [] ∧ (s.chan n).book.lost = [] ∧ (s.chan n).book.moving = []) →
    (∀ e ∈ s.ref.retiring, e.1 ≠ seq.toNat) →
    Answers (.sequenceRetire seq) s fun t => t.ref.live = s.ref.live.filter (·.id != seq.toNat) ∧
      t.ref.retiring = s.ref.retiring ∧ t.cores = s.cores ∧ t.streams = s.streams ∧
      ∀ n ∈ m.chans, fld t (Reg.chKvGen n (seq.toNat / 8)) (seq.toNat % 8 * 8 + 7) (seq.toNat % 8 * 8) =
        (q.gen + 1) % 256) ∧
  (∀ (q : Live) (m : ModelPlan) (s : State) (seq : W16), findLive s seq.toNat = some q → modelOf s q.model = some m →
    (∃ e ∈ s.ref.retiring, e.1 = seq.toNat) → q.work = none → (∀ e ∈ q.left, opGone s e.1 e.2 = true) →
    (∀ n < 4, restoring s n seq.toNat = false) →
    (∀ n < 4, ∀ p ∈ (s.chan n).book.pages, p.seq = seq.toNat → ∀ c ∈ (s.chan n).mig, c.frame ≠ p.frame) →
    let u := (List.range 4).foldl (fun s n => freePages s n seq.toNat) s
    exec (.sequenceRetire seq) s = .next (keepQueue s ((List.range 4).foldl (fun s n => settleRestore n s)
      (post (setRef u { u.ref with live := u.ref.live.filter (·.id != seq.toNat),
                                   retiring := u.ref.retiring.filter fun e => e.1 != seq.toNat })
        4 0x11 0 [(16, seq.toNat), (8, (q.gen + 1) % 256)])))) ∧
  (∀ (r : Request) (rest : List Request) (s : State), s.ref.deferred = r :: rest → s.ref.live.length < 16384 →
    exec .deferredAdmit s = .next (keepQueue s (startSequence (setRef s { s.ref with deferred := rest }) r))) ∧
  (∀ (r : Request) (rest : List Request) (s : State), s.ref.deferred = r :: rest → 16384 ≤ s.ref.live.length →
    exec .deferredAdmit s = .next s)

/-- R444, R448, R457, R458: a training job that fits is copied into its snapshot and runs; one that does not fit is refused
with cause 0x5. -/
def Obligations.Training : Prop :=
  (∀ (j : TrainJob) (m : ModelPlan) (s : State), s.ref.job = none → modelOf s j.model = some m → planFits s j = true →
    (∀ n ∈ m.chans, n < 4) →
    Answers (.trainingJobStart j) s fun t => fld t Reg.glbTrainStatus 3 0 = 2 ∧
      ∃ k, t.ref.job = some k ∧ k.job = j ∧ k.left = j.steps ∧ k.abort = none) ∧
  (∀ (j : TrainJob) (m : ModelPlan) (s : State), s.ref.job = none → modelOf s j.model = some m → planFits s j = true →
    let u := (j.tensors.foldl (fun (r : State × Nat) (x : Nat × Nat) =>
      (moveBytes r.1 x.1 r.2 (cdiv x.2 16 * 16), r.2 + cdiv x.2 16 * 16)) (s, j.snapshot)).1
    exec (.trainingJobStart j) s = .next (keepQueue s (startJob (setFld
      (setRef u { u.ref with job := some ⟨j, j.steps, false, false, [], none⟩ }) Reg.glbTrainStatus 3 0 2)))) ∧
  (∀ (j : TrainJob) (m : ModelPlan) (s : State), s.ref.job = none → modelOf s j.model = some m → planFits s j = false →
    Answers (.trainingJobStart j) s fun t => t.ref.job = none ∧ fld t Reg.glbTrainStatus 7 4 = 5)

/-! ### Reduction -/

/-- R529: a segment's bytes and its 31 blocks say the same: every scale, flag byte and element is read back as it was
written. -/
def Obligations.SegmentBytes : Prop :=
  ∀ (bl : List Block6) (k : Nat) (b : Block6), bl.length = 31 → bl[k]? = some b →
    (∀ c ∈ bl, c.e < 256 ∧ c.flags < 256 ∧ c.n.length = 32 ∧ ∀ v ∈ c.n, -32768 ≤ v ∧ v < 32768) →
    (segBytes bl).length = 2048 ∧ blockAt (segBytes bl) k = b

/-- R534: a hop's block stays inside its format: an element's magnitude never exceeds 32,767 and a scale that is not NaN
never exceeds 0xFE; a NaN block stays NaN with elements 0. -/
def Obligations.HopBounds : Prop :=
  (∀ (b : Block6) (x : List Sys2Proof.Machine.Num), b.e = 0xFF → (hop b x).1.e = 0xFF ∧ (hop b x).1.n = List.replicate 32 0 ∧
    (hop b x).2.nan = true) ∧
  (∀ (b : Block6) (x : List Sys2Proof.Machine.Num), b.e ≤ 0xFE → (∀ v ∈ x, v.isFin = true) →
    b.e ≤ (hop b x).1.e ∧ (hop b x).1.e ≤ 0xFE ∧ (hop b x).1.n.length = 32 ∧
    (∀ v ∈ (hop b x).1.n, v.natAbs ≤ 32767) ∧ (hop b x).2.nan = false ∧ (hop b x).1.e = b.e + (hop b x).2.k)

/-- R537 to R539: the commands of GLB_RED_CMD: ready clears the digests of an idle entry and opens it for reduction, a return
of an owner that is alone in its chain ends at once, a reset empties the entry; while the table's base is 0 a command clears
go, keeps op and tag and sets the command fault. -/
def Obligations.ReductionCommands : Prop :=
  (∀ (tag : Fin 4096) (e : Entry6) (s : State), bucketEntry (redCommand s 1 tag.val) tag.val = some e →
    e.en = true → e.state = 0 →
    let u := (writeRange (redCommand s 1 tag.val) (entryAddr (redCommand s 1 tag.val) tag.val + 0x30)
      (leBytes 8 0 ++ leBytes 8 0)).1
    let v := setBucketState (putEntry u tag.val 16 1 (epochNow u)) tag.val 1
    exec (.ready tag) s = .next (keepQueue s (v.setBucket tag.val { v.bucket tag.val with next := 0 }))) ∧
  (∀ (tag : Fin 4096) (e : Entry6) (s : State), bucketEntry (redCommand s 2 tag.val) tag.val = some e →
    e.en = true → e.state = 2 → e.owner = ownModule (redCommand s 2 tag.val) →
    nextIn (returnChain e) e.owner = none →
    exec (.return_ tag) s = .next (keepQueue s (endReturn (redCommand s 2 tag.val) tag.val e))) ∧
  (∀ (tag : Fin 4096) (e : Entry6) (s : State), bucketEntry (redCommand s 3 tag.val) tag.val = some e →
    Answers (.redReset tag) s fun t => t.bucket tag.val = Bucket.reset ∧ flag t Reg.glbRedCmd 63 = false) ∧
  (∀ (tag : Fin 4096) (s : State), fld s Reg.glbRedBase 47 0 = 0 →
    Answers (.ready tag) s fun t => OnlyRegs [Reg.glbRedCmd, Reg.glbRedStatus] s t ∧
      flag t Reg.glbRedStatus 0 = true ∧ flag t Reg.glbRedCmd 63 = false ∧ fld t Reg.glbRedCmd 62 60 = 1 ∧
      fld t Reg.glbRedCmd 59 48 = tag.val)

/-- R533, R534, R540: a reduce segment that passes the checks is staged; a return is stored and forwarded; one of another
generation is stale; the adder takes the next segment of a reducing entry. -/
def Obligations.ReductionMessages : Prop :=
  (∀ (p : Fin 8) (m : Msg) (e : Entry6) (s : State), takeFor s p.val 6 [1] = some m → redCheck s m = .ok e →
    Answers (.reduceSegment p) s fun t =>
      (t.bucket (m.f1 59 48)).segs = (s.bucket (m.f1 59 48)).segs ++ [m.f1 43 36] ∧
      t.mem = (writeRange (dropMsg s p.val m) (e.stage + 2048 * m.f1 43 36) m.data).1.mem) ∧
  (∀ (p : Fin 8) (m : Msg) (s : State), takeFor s p.val 6 [1] = some m → redCheck s m = .error 2 →
    Answers (.reduceSegment p) s fun t => OnlyPorts s t ∧ Counted Reg.glbLinkStaleCount 1 s t ∧
      RegsBut [Reg.glbLinkStaleCount] s t) ∧
  (∀ (p : Fin 8) (m : Msg) (e : Entry6) (s : State), takeFor s p.val 6 [2] = some m → redCheck s m = .ok e →
    exec (.returnParameters p) s = .next (keepQueue s (settleReturn
      ((returnOn (dropMsg s p.val m) m e e.ret).setBucket (m.f1 59 48)
        { (returnOn (dropMsg s p.val m) m e e.ret).bucket (m.f1 59 48) with
          rets := ((returnOn (dropMsg s p.val m) m e e.ret).bucket (m.f1 59 48)).rets ++ [m.f1 43 36] })
      (m.f1 59 48) e))) ∧
  (∀ (p : Fin 8) (m : Msg) (e : Entry6) (s : State), takeFor s p.val 6 [3] = some m → redCheck s m = .ok e →
    exec (.returnScales p) s = .next (keepQueue s (settleReturn
      ((returnOn (dropMsg s p.val m) m e e.ascale).setBucket (m.f1 59 48)
        { (returnOn (dropMsg s p.val m) m e e.ascale).bucket (m.f1 59 48) with
          scales := ((returnOn (dropMsg s p.val m) m e e.ascale).bucket (m.f1 59 48)).scales ++ [m.f1 43 36] })
      (m.f1 59 48) e))) ∧
  (∀ (tag : Fin 4096) (e : Entry6) (s : State), bucketEntry s tag.val = some e → e.state = 1 →
    bit e.members (ownModule s) = true → (s.bucket tag.val).next < e.segs →
    ((chainOf e).head? = some (ownModule s) ∨ (s.bucket tag.val).next ∈ (s.bucket tag.val).segs) →
    Answers (.adderSegment tag) s fun t => (t.bucket tag.val).next = (s.bucket tag.val).next + 1)

/-! ### The queue of commands, reset, and the memory -/

/-- One step runs the command at the front of the queue on the queue's rest; on an empty queue the reference clock
ticks, which counts 10 ns out of reset (R675, R676; the tick on an empty queue is the model's choice, log entry 1). -/
def Obligations.StepRunsFront : Prop :=
  (∀ (c : Instr) (r : List Instr) (s : State), s.pending = c :: r → step s = exec c { s with pending := r }) ∧
  (∀ (s : State), s.pending = [] → step s = .next (idleTick s)) ∧
  (∀ (s : State), outOfReset s = true → rd (idleTick s) Reg.glbTime = rd s Reg.glbTime + 10 ∧ SameMemory s (idleTick s) ∧
    (idleTick s).pending = s.pending) ∧
  (∀ (s : State), outOfReset s = false → idleTick s = s)

/-- No command stops the module or changes the queue, so k waiting commands are carried out in k steps, in order, first
in, first out; and waiting commands that are well formed stay so. -/
def Obligations.QueueOrder : Prop :=
  (∀ (c : Instr) (s : State), Answers c s fun t => t.pending = s.pending) ∧
  (∀ (k : Nat) (s : State), k ≤ s.pending.length → ∃ t, run k s = some t ∧ t.pending = s.pending.drop k) ∧
  (∀ (s t : State), QueueOk s → step s = .next t → QueueOk t)

/-- Every step keeps the memory in its canonical form. -/
def Obligations.MemoryStaysCanonical : Prop :=
  ∀ (s t : State), MemoryOk s → step s = .next t → MemoryOk t

/-- R2, R3, R601, R636, R645, R660: what reset leaves: every register at its reset value, with GLB_PWR_STATUS.state saying
AUX, no command waiting, nothing loaded, a memory in canonical form that reads as zero (the model's choice, log entry 5), and
a module as it is shipped: PROVISIONED, without an owner key. -/
def Obligations.ResetState : Prop :=
  (∀ r : RegRef, rd State.reset r = r.reset) ∧ State.reset.pending = [] ∧ MemoryOk State.reset ∧ QueueOk State.reset ∧
  (∀ a, mget 0 State.reset.mem a = 0) ∧ powerState State.reset = 1 ∧
  (∀ n, (State.reset.chan n).ops = []) ∧ (∀ p < 8, portState State.reset p = 0) ∧
  State.reset.fuses.state0 = 2 ∧ State.reset.fuses.state1 = 2 ∧ (∀ k ∈ State.reset.fuses.owner, k = none)

/-! ### Loading -/

/-- R229, R230, R235, R252, R558, R559: the command of an operation's kind takes the next entry of the work queue, of a burst
read ahead where one is left: it loads
an operation that passes every check and may start, holds one that may not, rejects one that fails a check, and leaves an
entry of another kind where it is; a held entry loads later, its cycles counted where it was held for contexts. A write of
CH_WQ_TAIL moves the tail; one that would make the queue look empty while entries wait is ignored and sets overrun. -/
def Obligations.Loads : Prop :=
  (∀ (n : Fin 4) (c : Instr) (kind : Nat) (sel : Option Nat) (s s' : State) (wait : Bool) (bs : List Byte)
    (bad bad' : List Nat) (op op' : Op) (rest : List Entry) (cmds : List FillCmd), (c, kind, sel) ∈ loadCommands n →
    isDormant s = false → ((fetchBurst s n.val).chan n.val).burst = .op wait bs bad op :: rest →
    readTables (fetchBurst s n.val) n.val bad op = (s', bad', op', cmds) →
    (selects kind sel op = false → exec c s = .next s) ∧
    (selects kind sel op = true →
      (∀ cls a, loadFault s' n.val bs bad' (gridOf s' n.val op') cmds op' = some (cls, a) →
        exec c s = .next (keepQueue s (reject s' n.val op'.opId cls a))) ∧
      (loadFault s' n.val bs bad' (gridOf s' n.val op') cmds op' = none →
        (∀ r, holdReason s' n.val wait op' (gridOf s' n.val op') = some r →
          exec c s = .next (keepQueue s ((fetchBurst s n.val).setChan n.val
            { (fetchBurst s n.val).chan n.val with heldFor := some (r || ((fetchBurst s n.val).chan n.val).heldFor == some true) }))) ∧
        (holdReason s' n.val wait op' (gridOf s' n.val op') = none → (s.chan n.val).heldFor ≠ some true →
          exec c s = .next (keepQueue s (takeEntry (loadOp s' n.val (devicePlaced n.val op' (gridOf s' n.val op'))
            (gridOf s' n.val op') cmds) n.val)))))) ∧
  (∀ (n : Fin 4) (c : Instr) (kind : Nat) (sel : Option Nat) (id : W32) (rest : List Entry) (s : State),
    (c, kind, sel) ∈ loadCommands n → isDormant s = false → ((fetchBurst s n.val).chan n.val).burst = .bad id :: rest →
    exec c s = .next (keepQueue s (reject (fetchBurst s n.val) n.val id 1 (0, 0)))) ∧
  (∀ (n : Fin 4) (c : Instr) (kind : Nat) (sel : Option Nat) (s : State), (c, kind, sel) ∈ loadCommands n →
    (s.chan n.val).burst = [] → fld s (Reg.chWqTail n.val) 11 0 = fld s (Reg.chWqHead n.val) 11 0 → exec c s = .next s) ∧
  (∀ (n : Fin 4) (held : Nat) (s s' : State) (wait : Bool) (bs : List Byte) (bad bad' : List Nat) (op op' : Op)
    (rest : List Entry) (cmds : List FillCmd), isDormant s = false → (s.chan n.val).heldFor = some true →
    ((fetchBurst s n.val).chan n.val).burst = .op wait bs bad op :: rest →
    readTables (fetchBurst s n.val) n.val bad op = (s', bad', op', cmds) →
    loadFault s' n.val bs bad' (gridOf s' n.val op') cmds op' = none →
    holdReason s' n.val wait op' (gridOf s' n.val op') = none →
    exec (.operationHeldLoad n held) s = .next (keepQueue s (takeEntry (loadOp
      (count64 s' (Reg.chStreamCtxWaitCycles n.val) held) n.val (devicePlaced n.val op' (gridOf s' n.val op')) (gridOf s' n.val op') cmds) n.val))) ∧
  (∀ (n : Fin 4) (s : State) (id : W32) (cls : Nat) (a : At), cls < 16 →
    Counted (Reg.chLoadRejectCount n.val) 1 s (reject s n.val id cls a) ∧
    fld (reject s n.val id cls a) (Reg.chWqHead n.val) 11 0 = (fld s (Reg.chWqHead n.val) 11 0 + 1) % 4096 ∧
    (reject s n.val id cls a).cores = s.cores ∧ (reject s n.val id cls a).streams = s.streams ∧
    ((reject s n.val id cls a).chan n.val).ops = (s.chan n.val).ops) ∧
  (∀ (n : Fin 4) (v : W64) (s : State), v.toNat < 4096 → powerState s ≠ 4 →
    (v.toNat = fld s (Reg.chWqHead n.val) 11 0 → fld s (Reg.chWqTail n.val) 11 0 = fld s (Reg.chWqHead n.val) 11 0) →
    Answers (.workQueueTailWrite n v) s fun t => OnlyRegs [Reg.chWqTail n.val] s t ∧
      fld t (Reg.chWqTail n.val) 11 0 = v.toNat) ∧
  (∀ (n : Fin 4) (v : W64) (s : State), v.toNat = fld s (Reg.chWqHead n.val) 11 0 →
    fld s (Reg.chWqTail n.val) 11 0 ≠ fld s (Reg.chWqHead n.val) 11 0 →
    Answers (.workQueueTailWrite n v) s fun t => OnlyRegs [Reg.chWqBase n.val] s t ∧
      flag t (Reg.chWqBase n.val) 63 = true)

/-- R105, R219, R220, R258, R262: the life of a loaded operation: it starts on a core, takes remote arrivals, misses its
deadline once, completes when every core has finished, and is cancelled. -/
def Obligations.OperationLife : Prop :=
  (∀ (n : Fin 4) (log : Fin 768) (l : LoadedOp) (g : GridCore) (s : State), (s.chan n.val).ops = [l] →
    gridCore l log.val = some g → l.started.contains log.val = false → l.finished.contains log.val = false →
    l.stopped = false → kindTask l.op = 0 → (s.core n.val g.phys).array.map (·.opId) = some l.op.opId →
    (s.core n.val g.phys).deck = none →
    exec (.operationStart n log) s = .next (keepQueue s (startStreams (offDeck (putOp
      (s.setCore n.val g.phys { s.core n.val g.phys with seed := l.op.seed, draws := 0 }) n.val l.op.opId
      { l with started := l.started ++ [log.val], deck := l.deck.filter (· != log.val) }) n.val l.op.opId log.val)
      n.val l.op.opId log.val))) ∧
  (∀ (n : Fin 4) (id : W32) (l : LoadedOp) (s : State), findOp s n.val id = some l → letrixKind l.op.kind = true →
    opDone l = true → l.stopped = false → (∀ g ∈ l.grid, (s.core n.val g.phys).gather = []) →
    (∀ g ∈ l.grid, taskHalted (s.core n.val g.phys) 3 = false) → s.ref.live = [] → s.ref.job = none →
    Answers (.operationComplete n id) s fun t =>
      (t.chan n.val).ops = (s.chan n.val).ops.filter (·.op.opId != id) ∧ t.cores = s.cores ∧ t.ref = s.ref ∧
      ∀ e ∈ t.streams, e.1 / 4096 = n.val → e.2.opId ≠ id) ∧
  (∀ (n : Fin 4) (id : W32) (l : LoadedOp) (s : State), findOp s n.val id = some l → opDone l = false →
    exec (.operationComplete n id) s = .next s) ∧
  (∀ (n : Fin 4) (id : W32) (l : LoadedOp) (s : State), findOp s n.val id = some l → l.op.deadline ≠ 0 →
    l.missed = false → l.started ≠ [] → inService s n.val = true →
    exec (.operationDeadlineMiss n id) s = .next (keepQueue s (post (count32 (putOp s n.val id { l with missed := true })
      (Reg.chOpDeadlineMissCount n.val) 1) n.val 0x02 id []))) ∧
  (∀ (n : Fin 4) (log : Fin 768) (i : Nat) (a : ArrayTask) (l : LoadedOp) (g : GridCore) (s : State),
    (coresOf s n.val log.val).eraseDups = [i] → (s.core n.val i).array = some a → (s.core n.val i).vec = none →
    liveOp s n.val a.opId = some l → l.grid.find? (·.phys == i) = some g →
    exec (.arrivalWaitResume n log) s = .next (s.setCore n.val i
      { s.core n.val i with array := some { a with remote := takeArrivals s n.val l.op g a.remote } })) ∧
  (∀ (n : Fin 4) (id : W32) (l : LoadedOp) (s : State), findOp s n.val id = some l → opDone l = false → s.ref.live = [] →
    lostData s n.val id = false →
    Answers (.streamCancel n (BitVec.ofNat 64 (2 ^ 63 + id.toNat))) s fun t =>
      (t.chan n.val).cancel = some id ∧ flag t (Reg.chStreamCancel n.val) 63 = true ∧
      findOp t n.val id = some { l with stopped := true } ∧ SameMemory s t ∧
      RegsBut ([Reg.chStreamCancel n.val, Reg.chCancelDropCount n.val] ++
        (List.range 3).map fun d => Reg.lxAttnWaitCycles (dieNo n.val d)) s t) ∧
  (∀ (n : Fin 4) (id : W32) (l : LoadedOp) (s : State), findOp s n.val id = some l → s.ref.live = [] →
    lostData s n.val id = true →
    exec (.streamCancel n (BitVec.ofNat 64 (2 ^ 63 + id.toNat))) s = .next (keepQueue s (redoOp
      (askCancel n.val (BitVec.ofNat 64 (2 ^ 63 + id.toNat)) s) n.val l))) ∧
  (∀ (n : Fin 4) (id : W32) (s : State), findOp s n.val id = none → s.ref.live = [] →
    Answers (.streamCancel n (BitVec.ofNat 64 (2 ^ 63 + id.toNat))) s fun t =>
      OnlyRegs [Reg.chStreamCancel n.val] s t ∧ flag t (Reg.chStreamCancel n.val) 62 = true) ∧
  (∀ (n : Fin 4) (id : W32) (l : LoadedOp) (s : State), (s.chan n.val).cancel = some id → findOp s n.val id = some l →
    letrixKind l.op.kind = true →
    Answers (.cancelComplete n) s fun t => (t.chan n.val).cancel = none ∧
      (t.chan n.val).ops = (s.chan n.val).ops.filter (·.op.opId != id) ∧ Counted (Reg.chCancelCount n.val) 1 s t ∧
      flag t (Reg.chStreamCancel n.val) 63 = false) ∧
  (∀ (n : Fin 4) (log : Fin 768) (id : W32) (l : LoadedOp) (g : GridCore) (s : State), findOp s n.val id = some l →
    l.stopped = true → gridCore l log.val = some g →
    exec (.cancelNotice n log id) s = .next (keepQueue s (dropOnCore (count64 s (Reg.chSpMsgCount n.val) 1) n.val l g)))

/-! ### Streams -/

/-- R248: of the fetches that are ready the engine issues one whose deadline no other ready fetch's precedes; R33, R239: a
core's request pends the fetch one lead on; R241, R253: a fill that reads well fills the tile's slot, and one that may not
read halts its stream; R36 to R38: a wait that ends is charged to the counter that it belongs to. -/
def Obligations.Fetches : Prop :=
  (∀ (n : Fin 4) (k tile : Nat) (s : State), nextFetch s n.val = some (k, tile) →
    k < 4096 ∧ (s.stream n.val k).used = true ∧ ∃ p ∈ (s.stream n.val k).pend, p.tile = tile ∧
      pendReady (s.stream n.val k) p = true ∧
      ∀ j < 4096, (s.stream n.val j).used = true → ∀ q ∈ (s.stream n.val j).pend, pendReady (s.stream n.val j) q = true →
        p.deadline ≤ q.deadline) ∧
  (∀ (n : Fin 4) (k tile : Nat) (s : State), nextFetch s n.val = some (k, tile) →
    nextFetch (issueFetch s n.val k tile) n.val = none →
    exec (.fetchIssue n) s = .next (keepQueue s (warmFetch (issueFetch s n.val k tile) n.val))) ∧
  (∀ (n : Fin 4) (log : Fin 768) (o : Fin 8) (k : Nat) (l : LoadedOp) (g : GridCore) (s : State),
    askedStream s n.val log.val o.val = some (k, l, g) →
    askedOf (s.stream n.val k) log.val < (s.stream n.val k).length →
    askedOf (s.stream n.val k) log.val ≤ (s.stream n.val k).full →
    (askedOf (s.stream n.val k) log.val = 0 ∨
      movedPast l g (s.core n.val g.phys) o.val (askedOf (s.stream n.val k) log.val - 1) = true) →
    exec (.tileRequest n log o) s = .next (s.setStream n.val k
      (askTile s n.val log.val (askedOf (s.stream n.val k) log.val) (s.stream n.val k)))) ∧
  (∀ (n : Fin 4) (log i : Nat) (x : Stream) (s : State), i + x.lead = x.next → x.next < x.length → i < x.full →
    askTile s n.val log i x = { x with
      asked := x.asked.map fun p => if p.1 = log then (p.1, i + 1) else p,
      pend := x.pend ++ [⟨x.next, cycleNow s n.val + x.lead * x.period⟩], next := x.next + 1 }) ∧
  (∀ (n : Fin 4) (log i : Nat) (x : Stream) (s : State), x.full ≤ i → x.wait = none →
    (askTile s n.val log i x).wait = some ⟨i, cycleNow s n.val, inService s n.val⟩) ∧
  (∀ (n : Fin 4) (k : Fin 4096) (tile lateBy : Nat) (cause : StallCause) (l : LoadedOp) (g : GridCore) (s s' : State)
    (raw : List (Nat × List Byte)), (s.stream n.val k.val).used = true → (s.stream n.val k.val).inflight.contains tile = true →
    findOp s n.val (s.stream n.val k.val).opId = some l → letrixKind l.op.kind = false →
    streamCore l (s.stream n.val k.val) = some g →
    readHeld s (streamWords s (heldByte s) l (s.stream n.val k.val) tile) = (s', .ok raw) →
    arrivalFault (heldByte s') l.op g (s.stream n.val k.val) tile = none →
    let u := fillSlot s' n.val l (s.stream n.val k.val) tile
      (streamBytes (sourceByte s' n.val l.op (s.stream n.val k.val).slot 0 (heldByte s')) l g (s.stream n.val k.val) tile)
    exec (.fetchComplete n k tile lateBy cause []) s = .next (keepQueue s (endWait (u.setStream n.val k.val
      (fillUp l.op (heldByte u) g 16 { s.stream n.val k.val with
        inflight := (s.stream n.val k.val).inflight.filter (· != tile),
        filled := (s.stream n.val k.val).filled ++ [tile] })) n.val k.val lateBy cause))) ∧
  (∀ (n k lateBy : Nat) (cause : StallCause) (w : Wait) (s : State), (s.stream n k).wait = some w →
    w.tile < (s.stream n k).full → (s.stream n k).exempt.contains w.tile = true →
    rd (endWait s n k lateBy cause) (Reg.chStallFault n) = rd s (Reg.chStallFault n) + BitVec.ofNat 64 lateBy ∧
    ((endWait s n k lateBy cause).stream n k).wait = none ∧ RegsBut [Reg.chStallFault n] s (endWait s n k lateBy cause)) ∧
  (∀ (n k lateBy : Nat) (cause : StallCause) (w : Wait) (s : State), (s.stream n k).wait = some w →
    w.tile < (s.stream n k).full → (s.stream n k).exempt.contains w.tile = false → 0 < lateBy → w.svc = false →
    rd (endWait s n k lateBy cause) (stallReg n cause) = rd s (stallReg n cause) + BitVec.ofNat 64 lateBy ∧
    RegsBut [stallReg n cause] s (endWait s n k lateBy cause)) ∧
  (∀ (n : Fin 4) (k : Fin 4096) (tile lateBy : Nat) (cause : StallCause) (l : LoadedOp) (g : GridCore) (s s' : State)
    (e : Stop), (s.stream n.val k.val).used = true → (s.stream n.val k.val).inflight.contains tile = true →
    findOp s n.val (s.stream n.val k.val).opId = some l → letrixKind l.op.kind = false →
    streamCore l (s.stream n.val k.val) = some g →
    readHeld s (streamWords s (heldByte s) l (s.stream n.val k.val) tile) = (s', .error e) →
    exec (.fetchComplete n k tile lateBy cause []) s = .next (keepQueue s (haltStop s' n.val k.val tile
      (issuerOf (s.stream n.val k.val) k.val).1 (issuerOf (s.stream n.val k.val) k.val).2 e)))

/-- R163, R250, R256: the control messages between an engine and its cores, each counted, and what they do; a resumed
stream issues its marked fetches again. -/
def Obligations.StreamMessages : Prop :=
  (∀ (n : Fin 4) (k : Fin 4096) (s : State), (s.stream n.val k.val).halt ≠ none →
    Answers (.streamResume n (BitVec.ofNat 64 (2 ^ 31 + k.val))) s fun t =>
      (t.stream n.val k.val).halt = none ∧ (t.stream n.val k.val).marked = [] ∧
      (∀ j ∈ (s.stream n.val k.val).marked, ∃ p ∈ (t.stream n.val k.val).pend, p.tile = j) ∧
      fld t (Reg.chStreamResume n.val) 11 0 = k.val ∧ SameMemory s t ∧
      RegsBut [Reg.chStreamResume n.val, Reg.chStallFault n.val] s t) ∧
  (∀ (n : Fin 4) (log : Fin 768) (k : Fin 4096) (tile lateBy : Nat) (half : Fin 8) (cause : StallCause) (l : LoadedOp)
    (g : GridCore) (sl : Layout) (s s' : State) (raw : List (Nat × List Byte)), (s.stream n.val k.val).used = true →
    (s.stream n.val k.val).cores.contains log.val = true → tile < (s.stream n.val k.val).length →
    (s.stream n.val k.val).marked.contains tile = false →
    findOp s n.val (s.stream n.val k.val).opId = some l → gridCore l log.val = some g →
    (s.stream n.val k.val).slot ≠ 5 → l.op.scale (s.stream n.val k.val).slot = some sl →
    let x := s.stream n.val k.val
    let u := count64 s (Reg.chSpMsgCount n.val) 1
    let ok := scaleAddrs u n.val l g x tile half.val sl
    let ws := ((ok.filterMap id).map (· / 16)).dedup
    readWordsOn true u ws = (s', .ok raw) →
    let c := cacheReads s' n.val x.opId (fetchTag l.op (deviceByte s') g x.slot tile == 2) ws
    let f := fillScales c n.val k.val l x tile half.val (ok.map fun a => match a with | some a => deviceByte c a | none => 127)
    exec (.scale n log k tile half lateBy cause) s = .next (keepQueue s (endWait (f.setStream n.val k.val
      (fillUp l.op (deviceByte f) g 16 { f.stream n.val k.val with
        scaled := (f.stream n.val k.val).scaled ++ [8 * tile + half.val] })) n.val k.val lateBy cause))) ∧
  (∀ (n : Fin 4) (pages : List W32) (s : State), 1 ≤ pages.length → pages.length ≤ 16 →
    exec (.pageList n none pages) s = .next ((count64 s (Reg.chSpMsgCount n.val) 1).setChan n.val
      { s.chan n.val with pages := pages })) ∧
  (∀ (n : Fin 4) (log : Fin 768) (pages : List W32) (s : State), 1 ≤ pages.length → pages.length ≤ 16 →
    exec (.pageList n (some log) pages) s = .next ((count64 s (Reg.chSpMsgCount n.val) 1).setCore n.val
      (arrayCore (count64 s (Reg.chSpMsgCount n.val) 1) n.val log.val)
      { s.core n.val (arrayCore (count64 s (Reg.chSpMsgCount n.val) 1) n.val log.val) with pages := pages })) ∧
  (∀ (n : Fin 4) (pairs : List (Nat × W32)) (s : State), 1 ≤ pairs.length → pairs.length ≤ 8 →
    (∀ p ∈ pairs, ∃ r f, regRow (chBlock n.val + 0x7000 + 8 * p.1) = some r ∧ r.fields = [f] ∧ f.acc = .rc ∧ f.hi = 31) →
    exec (.counter n pairs) s = .next (pairs.foldl (fun (s : State) (p : Nat × W32) =>
      count32 s ⟨chBlock n.val + 0x7000 + 8 * p.1, 0⟩ p.2.toNat) (count64 s (Reg.chSpMsgCount n.val) 1))) ∧
  (∀ (n : Fin 4) (log : Fin 768) (k : Fin 8) (s : State), physOf s n.val log.val < 800 →
    flag s (Reg.coreRecvWindow n.val (physOf s n.val log.val) k.val) 31 = true →
    exec (.arrivalNotice n log k) s =
      .next (arriveAt (count64 s (Reg.chSpMsgCount n.val) 1) n.val (physOf s n.val log.val) k.val))

/-! ### Results -/

/-- R102, R103, R122, R123, R266, R360: a pass that needs no checksum is written and leaves the store path, and one whose
checksums fail is a core fault; a combine goes on to the next tile and a chunk's combine to the next chunk; a die sends the
sums of its next chunk; a rotated tile is forwarded whole. -/
def Obligations.Results : Prop :=
  (∀ (n : Fin 4) (log : Fin 768) (l : LoadedOp) (g : GridCore) (a : ArrayTask) (p : Pass) (rest : List Pass)
    (ds : List Disturb) (s : State), arrayAt s n.val (arrayCore s n.val log.val) = some (l, g) → l.op.kind = 0 →
    (s.core n.val g.phys).array = some a → (s.core n.val g.phys).behind = none → a.awaiting = p :: rest →
    (l.op.mode ≠ 0 ∨ flag s (Reg.chChkCtrl n.val) 0 = false →
      ∀ s', commitPass s n.val l g a (p.disturb ds) = (s', true) →
        exec (.checksumCompare n log ds) s = .next (keepQueue s (settleSpares n.val
          (retirePass s' n.val l g (p.disturb ds))))) ∧
    (l.op.mode = 0 → flag s (Reg.chChkCtrl n.val) 0 = true → 32 ≤ (p.disturb ds).rows →
      (p.disturb ds).failures (fld s (Reg.chChkCtrl n.val) 7 4) (passLen s n.val l.op g) 0 ≠ ([], []) →
      exec (.checksumCompare n log ds) s = .next (keepQueue s (settleSpares n.val (coreFault s n.val g l.op.opId 0
        ((p.disturb ds).failures (fld s (Reg.chChkCtrl n.val) 7 4) (passLen s n.val l.op g) 0).1
        ((p.disturb ds).failures (fld s (Reg.chChkCtrl n.val) 7 4) (passLen s n.val l.op g) 0).2))))) ∧
  (∀ (n : Fin 4) (log : Fin 768) (cycles : Nat) (l : LoadedOp) (g : GridCore) (a : ArrayTask) (s : State),
    arrayAt s n.val (arrayCore s n.val log.val) = some (l, g) →
    (s.core n.val (arrayCore s n.val log.val)).array = some a → (s.core n.val (arrayCore s n.val log.val)).behind = none →
    2 ≤ a.awaiting.length → l.op.parts ≤ 1 →
    exec (.storePathWait n log cycles) s = .next (keepQueue s (lateNoStream s n.val log.val l.op.opId cycles .other))) ∧
  (∀ (n : Fin 4) (log : Fin 768) (cycles : Nat) (l : LoadedOp) (g : GridCore) (a : ArrayTask) (p : Pass)
    (rest : List Pass) (s : State), arrayAt s n.val (arrayCore s n.val log.val) = some (l, g) →
    (s.core n.val (arrayCore s n.val log.val)).array = some a → (s.core n.val (arrayCore s n.val log.val)).behind = none →
    a.awaiting = p :: rest → 1 < l.op.parts →
    combinedOf (s.core n.val (partCore l g).phys) l.op.opId + 2 ≤ p.seq →
    exec (.storePathWait n log cycles) s = .next (count64 s (Reg.chStallOther n.val) cycles)) ∧
  (∀ (n : Fin 4) (log : Fin 768) (i : Nat) (l : LoadedOp) (g : GridCore) (a : ArrayTask) (tile : TileIx)
    (s s' s'' : State) (ws : List (Nat × Nat × Nat)), arrayCore s n.val log.val = i → (s.core n.val i).array = some a →
    (s.core n.val i).behind = none → findOp s n.val a.opId = some l → l.grid.find? (·.phys == i) = some g →
    (workTiles l.op g)[a.combined]? = some tile → 1 < l.op.parts → g.p = 0 → l.stopped = false → a.halted = none →
    reached s n.val i 7 ((mfind l.counter7 g.log).getD 0 + BitVec.ofNat 32 (l.op.parts * (a.combined + 1))) = true →
    combineReads s n.val l g tile a.combined = (s', true) → combineStore s' n.val l g a tile = (s'', ws, none) →
    Answers (.combine n log) s fun t => (t.core n.val i).array.map (·.combined) = some (a.combined + 1)) ∧
  (∀ (n : Fin 4) (id : W32) (l : LoadedOp) (s r s' : State) (ws : List (Nat × Nat × Nat)), liveOp s n.val id = some l →
    l.op.kind = 8 → l.lx.done < mvChunks l.op → l.lx.halted = none →
    (∀ d < 3, (mfind l.lx.sums (3 * l.lx.done + d)).isSome = true) →
    entryRead s n.val l (sumWords l l.lx.done) = (r, true) →
    chunkStore r n.val l l.lx.done = (s', ws, none) → (findOp s' n.val id).isSome = true →
    Answers (.combineChunk n id) s fun t =>
      (findOp t n.val id).map (·.lx.done) = some (l.lx.done + 1)) ∧
  (∀ (k : Fin 12) (id : W32) (waited : Nat) (l : LoadedOp) (s : State), liveOp s (k.val / 3) id = some l → l.op.kind = 8 →
    l.lx.next.getD (k.val % 3) 0 < mvChunks l.op → l.lx.next.getD (k.val % 3) 0 < l.lx.done + 2 →
    streamHolds s (k.val / 3) id 1 (k.val % 3) (chunkTiles s l.op (k.val % 3) (l.lx.next.getD (k.val % 3) 0)) = true →
    streamHolds s (k.val / 3) id 0 (k.val % 3) 0xFFFFFFFF = true →
    ((l.op.scale 1).isSome = true → streamHolds s (k.val / 3) id (scaleSlot 1) (k.val % 3)
      (scaleTilesFor s l.op (k.val % 3) (l.lx.next.getD (k.val % 3) 0)) = true) → k.val % 3 < l.lx.next.length →
    Answers (.sumChunkSend k id waited) s fun t => ∃ u, findOp t (k.val / 3) id = some u ∧
      u.lx.next = l.lx.next.set (k.val % 3) (l.lx.next.getD (k.val % 3) 0 + 1) ∧
      mfind u.lx.sums (3 * l.lx.next.getD (k.val % 3) 0 + k.val % 3) = some
        ((List.range (mvRows l.op)).flatMap fun r => (List.range (chunkCols l.op (l.lx.next.getD (k.val % 3) 0))).map fun c =>
          dieSum s (k.val / 3) l (k.val % 3) r (512 * l.lx.next.getD (k.val % 3) 0 + c))) ∧
  (∀ (n : Fin 4) (log : Fin 768) (o : Fin 8) (cause : StallCause) (l : LoadedOp) (e : RotEntry) (g h : GridCore)
    (s s' : State), rotFound s n.val log.val o.val = some (l, e, g, h) → rotReady s n.val o.val l e g h = true →
    let rows := rotRows e (rotCount s n.val l.op.opId h o.val)
    outsideRegion g.base g.len ((List.range 128).map fun w => (rows.1 + w / 32, w % 32)) = none →
    csRead s n.val g.phys ((List.range 128).map fun w => (rows.1 + w / 32, w % 32)) = (s', none) →
    g.phys ≠ h.phys → g.phys < 800 → h.phys < 800 →
    rows.1 + 4 ≤ 512 → rows.2 + 4 ≤ 512 →
    Answers (.rotationForward n log o 0 cause) s fun t =>
      rd t (Reg.chRotHopCount n.val) = rd s (Reg.chRotHopCount n.val) + 1 ∧
      ∀ w < 128, csView t n.val h.phys (rows.2 + w / 32) (w % 32) = csView s' n.val g.phys (rows.1 + w / 32) (w % 32))

/-! ### The core store -/

/-- R140, R142, R143, R146 to R148, R157, R158: what is written under a mask is read back, bit for bit, whether it stands in
the gather buffer or in the bank, and no other word changes; a fill and a copy write their whole range. -/
def Obligations.CoreStore : Prop :=
  (∀ (n : Fin 4) (i : Fin 800) (t row j data mask : Nat) (s : State), row < 512 → j < 32 → data < 2 ^ 128 → mask < 2 ^ 128 →
    (∀ g ∈ (s.core n.val i.val).gather, g.word < 16384 ∧
      decodeWord s (csWord s n.val i.val (g.word / 32) (g.word % 32)) ≠ .bad) →
    csView (csWrite s n.val i.val t row j data mask) n.val i.val row j =
      (csView s n.val i.val row j &&& (2 ^ 128 - 1 - mask)) ||| (data &&& mask) ∧
    ∀ row' < 512, ∀ j' < 32, (row' ≠ row ∨ j' ≠ j) →
      csView (csWrite s n.val i.val t row j data mask) n.val i.val row' j' = csView s n.val i.val row' j') ∧
  (∀ (n : Fin 4) (i : Fin 800) (a : CsAccess) (s : State), userTask a.user = 3 → a.user ≠ .remote → a.write = true →
    accOk a.column a.row a.word a.count = true → rowPowered s n.val i.val a.row = true →
    rowPowered s n.val i.val (a.row + (if a.column then a.count else 1) - 1) = true →
    exec (.coreStoreAccess n i a 0 []) s = .next (keepQueue s
      (((accWords a.column a.row a.word a.count).zip (a.data.zip a.mask)).foldl (fun (s : State) p =>
        csWrite s n.val i.val 3 p.1.1 p.1.2 p.2.1.toNat p.2.2.toNat) s))) ∧
  (∀ (n : Fin 4) (i : Fin 800) (a : CsAccess) (s : State), userTask a.user = 3 → a.write = false →
    accOk a.column a.row a.word a.count = true → rowPowered s n.val i.val a.row = true →
    rowPowered s n.val i.val (a.row + (if a.column then a.count else 1) - 1) = true →
    (∀ p ∈ accWords a.column a.row a.word a.count, decodeWord s (csWord s n.val i.val p.1 p.2) = .clean) →
    exec (.coreStoreAccess n i a 0 []) s = .next { s with out := { s.out with
      store := (accWords a.column a.row a.word a.count).flatMap fun p => natWord (csView s n.val i.val p.1 p.2) } }) ∧
  (∀ (n : Fin 4) (i : Fin 800) (w : Nat) (r : List Nat) (s : State), (s.core n.val i.val).wb = w :: r →
    exec (.coreStoreWriteBack n i) s = .next ((writeBackWord s w).setCore n.val i.val { s.core n.val i.val with wb := r })) ∧
  (∀ (n : Fin 4) (log : Fin 768) (f : FillTask) (l : LoadedOp) (g : GridCore) (c : FillCmd) (s : State),
    nextFill s n.val log.val false = some (f, l, g, c) → rangeWaits s n.val g true (regionWords g c.dst c.len) = false →
    exec (.fill n log) s = .next (keepQueue s (fillDone ((regionWords g c.dst c.len).foldl
      (fun (s : State) (w : Nat × Nat) => csWrite s n.val g.phys 2 w.1 w.2 c.pattern.toNat (2 ^ 128 - 1)) s) n.val l g f))) ∧
  (∀ (n : Fin 4) (log : Fin 768) (f : FillTask) (l : LoadedOp) (g : GridCore) (c : FillCmd) (s s' : State),
    nextFill s n.val log.val true = some (f, l, g, c) → rangeWaits s n.val g false (regionWords g c.src c.len) = false →
    rangeWaits s n.val g true (regionWords g c.dst c.len) = false →
    taskRead s n.val g.phys 2 (regionWords g c.src c.len) = (s', true) →
    exec (.copy n log) s = .next (keepQueue s (fillDone
      (((regionWords g c.dst c.len).zip ((regionWords g c.src c.len).map fun w => csView s' n.val g.phys w.1 w.2)).foldl
        (fun (s : State) (w : (Nat × Nat) × Nat) => csWrite s n.val g.phys 2 w.1.1 w.1.2 w.2 (2 ^ 128 - 1)) s') n.val l g f)))

/-! ### Registers -/

/-- R9, R160, R164 to R169, R172 to R175, R218, R661 to R664, R666: writes of the registers of a core and of the core map,
plain writes over the fabric and those it refuses, a read of a counter, which leaves it at zero or, with an increment of
the same cycle, at one, and the debug port, which answers only while it is open. -/
def Obligations.RegisterAccess : Prop :=
  (∀ (n : Fin 4) (i : Fin 800) (v : W64) (s : State), noTask (s.core n.val i.val) = true → v.toNat < 16 →
    Answers (.coreCsPowerWrite n i v) s fun t => fld t (Reg.coreCsPower n.val i.val) 3 1 = v.toNat / 2 ∧
      RegsBut [Reg.coreCsPower n.val i.val] s t ∧
      ∀ q, 1 ≤ q → q ≤ 3 → flag s (Reg.coreCsPower n.val i.val) q ≠ bit v.toNat q →
        ∀ b < 65536, mget 0 t.mem (storeBase n.val i.val + q * 65536 + b) = 0) ∧
  (∀ (n : Fin 4) (i : Fin 800) (v : W64) (s : State), noTask (s.core n.val i.val) = false →
    exec (.coreCsPowerWrite n i v) s = .next s) ∧
  (∀ (n : Fin 4) (i : Fin 800) (k : Fin 8) (row : Nat) (valid : Bool) (s : State), noTask (s.core n.val i.val) = true →
    row < 512 → (valid = true → flag s (Reg.coreRowMap n.val i.val k.val) 31 = true ∧
      fld s (Reg.coreRowMap n.val i.val k.val) 8 0 = row) →
    Answers (.rowMapWrite n i k (BitVec.ofNat 64 (b2n valid * 2 ^ 31 + row))) s fun t =>
      OnlyRegs [Reg.coreRowMap n.val i.val k.val] s t ∧ flag t (Reg.coreRowMap n.val i.val k.val) 31 = valid ∧
      fld t (Reg.coreRowMap n.val i.val k.val) 8 0 = row) ∧
  (∀ (n : Fin 4) (i : Fin 800) (k : Fin 8) (row : Nat) (s : State), noTask (s.core n.val i.val) = true → row < 512 →
    Answers (.rowMapWrite n i k (BitVec.ofNat 64 (2 ^ 31 + row))) s fun t =>
      flag t (Reg.coreRowMap n.val i.val k.val) 31 = true ∧ fld t (Reg.coreRowMap n.val i.val k.val) 8 0 = row) ∧
  (∀ (n : Fin 4) (i : Fin 800) (k : Fin 8) (v : W64) (s : State), bits v.toNat 63 32 = 0 → bits v.toNat 30 29 = 0 →
    bits v.toNat 15 9 = 0 →
    Answers (.recvWindowWrite n i k v) s fun t => rd t (Reg.coreRecvWindow n.val i.val k.val) = v ∧
      RegsBut [Reg.coreRecvWindow n.val i.val k.val, Reg.chCsWindowRejectCount n.val] s t ∧ SameMemory s t ∧
      (flag s (Reg.coreRecvWindow n.val i.val k.val) 31 = true → bit v.toNat 31 = false →
        ∀ x ∈ (t.core n.val i.val).part, x.1 ≠ k.val)) ∧
  (∀ (n : Fin 4) (i : Fin 800) (k : Fin 8) (v : W64) (arrivals : Nat) (s : State), v.toNat < 2 ^ 32 →
    Answers (.arrivalCounterWrite n i k v arrivals) s fun t => OnlyRegs [Reg.coreArrival n.val i.val k.val] s t ∧
      fld t (Reg.coreArrival n.val i.val k.val) 31 0 = (v.toNat + arrivals) % 2 ^ 32) ∧
  (∀ (n : Fin 4) (c : Fin 768) (v : W64) (s : State), v.toNat < 1024 →
    Answers (.coreMapWrite n c v) s fun t => OnlyRegs [Reg.chCoreMap n.val c.val] s t ∧
      fld t (Reg.chCoreMap n.val c.val) 9 0 = v.toNat) ∧
  (∀ (seat : Seat) (a : Nat) (r : RegRow) (v : W64) (s : State), regRow a = some r → a < chBlock 4 →
    chEffect a v s = none → a ≠ (Reg.chMigCmd3 (regChan a)).addr → beatPair a = none → rowAccepts r v.toNat = true →
    queueBaseRefused a v = false → (lockedReg a = true → flag s Reg.glbIlCtrl 0 = false) →
    (seat = .management → flag s Reg.glbLcStatus 23 = true) →
    Answers (.plainRegisterWrite seat a v) s fun t => OnlyRegs [refAt r a] s t ∧
      rd t (refAt r a) = BitVec.ofNat 64 (writtenValue r (regValue s a).toNat v.toNat)) ∧
  (∀ (seat : Seat) (a : Nat) (v : W64) (s : State),
    (regRow a = none ∨ ∃ r, regRow a = some r ∧ rowAccepts r v.toNat = false ∧ beatPair a = none ∧
      a ≠ (Reg.chMigCmd3 (regChan a)).addr) →
    exec (.plainRegisterWrite seat a v) s = .next s) ∧
  (∀ (a : Nat) (r : RegRow) (increment : Bool) (s : State), regRow a = some r → clearsOnRead r = true →
    deadLetrix s a = false → multiSlot a = none →
    Answers (.rcCounterRead a increment) s fun t => t.out.fabric = regValue s a ∧ RegsBut [refAt r a] s t ∧
      rd t (refAt r a) = (if increment then 1 else 0) ∧ t = { s with regs := t.regs, out := t.out }) ∧
  (∀ (acc : DebugAccess) (cycles : Nat) (s : State), flag s Reg.glbLcStatus 24 = false →
    exec (.debugPortAccess acc cycles) s = .next s) ∧
  (∀ (a cycles : Nat) (s : State), flag s Reg.glbLcStatus 24 = true →
    exec (.debugPortAccess (.regRead a) cycles) s =
      .next { (readReg s a).1 with out := { (readReg s a).1.out with fabric := (readReg s a).2 } }) ∧
  (∀ (n : Fin 4) (i : Fin 800) (x : CsAccess) (cycles : Nat) (s : State), flag s Reg.glbLcStatus 24 = true →
    exec (.debugPortAccess (.store n i x) cycles) s = .next (keepQueue s (debugDelay
      (csAccess s n.val i.val { x with user := .debug }) n.val i.val cycles))) ∧
  (∀ (a cycles : Nat) (v : W64) (s : State), flag s Reg.glbLcStatus 24 = true →
    exec (.debugPortAccess (.regWrite a v) cycles) s = .next (keepQueue s (writeReg s .debug a v).1))

/-! ### The Letrix units, the page walks and the intersection -/

/-- R303 to R309, R363, R371, R388 to R391, R412, R413: the next entry of a length table, of a page list and of a page, the
merge of an entry's states and of an export's parts, the next index of a gather, and the records of an intersection. -/
def Obligations.LetrixWork : Prop :=
  (∀ (n : Fin 4) (id : W32) (l : LoadedOp) (k : Nat) (y : Layout) (s s' : State) (bs : List Byte),
    liveOp s n.val id = some l → firstStream s n.val id 1 = some k → l.op.layout 1 = some y → y.space = false →
    l.op.kind = 1 → l.lx.arrived < lenCount l.op → (s.stream n.val k).halt = none →
    min (s.stream n.val k).length (l.lx.arrived / 64 + 1) ≤ (s.stream n.val k).full →
    readRange s (y.base + 32 * l.lx.arrived) 32 = (s', .ok bs) →
    ((parseLen bs).gen ≠ kvGen s' n.val (parseLen bs).seq →
      exec (.lengthTableEntry n id) s = .next (keepQueue s (putLx (count32 s' (Reg.chAttnStaleItemCount n.val) 1) n.val l
        { l.lx with arrived := l.lx.arrived + 1 }))) ∧
    ((parseLen bs).gen = kvGen s' n.val (parseLen bs).seq →
      lenFault n.val l.op (l.lx.entries.map (·.2)) (parseLen bs) = none →
      exec (.lengthTableEntry n id) s = .next (keepQueue s (putLx s' n.val l { l.lx with
        arrived := l.lx.arrived + 1, entries := l.lx.entries ++ [(l.lx.arrived, parseLen bs)] }))) ∧
    (∀ c, (parseLen bs).gen = kvGen s' n.val (parseLen bs).seq →
      lenFault n.val l.op (l.lx.entries.map (·.2)) (parseLen bs) = some c →
      exec (.lengthTableEntry n id) s = .next (keepQueue s (haltStream (noteLenFault s' n.val c l.lx.arrived id) n.val k
        (l.lx.arrived / 64) 5 none)))) ∧
  (∀ (n : Fin 4) (id : W32) (l : LoadedOp) (i : Nat) (e : LenEntry) (s s' : State) (ws : List (Nat × List Byte)),
    liveOp s n.val id = some l → l.op.kind = 9 → l.lx.entries[l.lx.walking]? = some (i, e) → walkersRun s n.val id = true →
    l.lx.page = l.lx.pages.length → l.lx.tokens < e.kv → l.lx.pages.length % 16 ≠ 0 →
    let a := e.list + 4 * l.lx.pages.length
    readWordsOn true s (wordsOf a 4) = (s', .ok ws) →
    let f := leNat (((ws.flatMap (·.2)).drop (a % 16)).take 4)
    f < frames → absent s' n.val f = false →
    exec (.pageListEntry n id) s = .next (keepQueue s (putLx s' n.val l { l.lx with pages := l.lx.pages ++ [f] }))) ∧
  (∀ (n : Fin 4) (id : W32) (l : LoadedOp) (i f : Nat) (e : LenEntry) (late : List (Nat × StallCause)) (s s' s'' : State)
    (bs : List Byte), liveOp s n.val id = some l → l.op.kind = 9 → l.lx.entries[l.lx.walking]? = some (i, e) →
    l.lx.pages[l.lx.page]? = some f → walkersRun s n.val id = true → l.lx.tokens < e.kv →
    streamHolds s n.val id 0 0 0xFFFFFFFF = true →
    (attnBias l.op = true → streamHolds s n.val id 5 0 0xFFFFFFFF = true) →
    readRange s (hdrAddr s n.val f) 32 = (s', .ok bs) → hdrFault l.op e (parseHdr bs) = none →
    let r : PageRun := ⟨f, parseHdr bs, l.lx.tokens⟩
    let toks := (List.range 3).map fun d => dieTokens s' l.op e r d
    dieReads ((List.range 3).foldl (fun s d => portDown s (dieNo n.val d) 32) s') n.val id l.op l.lx.page r toks = (s'', true) →
    exec (.pageHeader n id late) s = .next (keepQueue s (passPage s'' n.val id l i e r toks late))) ∧
  (∀ (n : Fin 4) (id : W32) (l : LoadedOp) (i : Nat) (e : LenEntry) (s r s' : State),
    liveOp s n.val id = some l → l.op.kind = 9 → l.lx.halted = none → l.lx.entries[l.lx.done]? = some (i, e) →
    (∀ d < 3, (mfind l.lx.states (3 * i + d)).isSome = true) → xParts l.op = 0 →
    entryRead s n.val l (entryWords (statePlace l e l.lx.done 0) (3 * entryRows l.op e * stateBytes l.op)) = (r, true) →
    writeEntry r n.val l e ((((heldStates r n.val l e l.lx.done 0).zip (heldStates r n.val l e l.lx.done 1)).zip
      (heldStates r n.val l e l.lx.done 2)).map fun p => (p.1.1.merge p.1.2).merge p.2) = (s', none) →
    exec (.attentionStatesMerge n id) s = .next (keepQueue s (settleDecode (settleWalk n.val id (lenCount l.op + 1)
      (putLx s' n.val l { l.lx with done := l.lx.done + 1, halted := none, states := l.lx.states.filter fun x => x.1 / 3 != i })) n.val id))) ∧
  (∀ (n : Fin 4) (id : W32) (l : LoadedOp) (m i off k : Nat) (s s' s'' : State), liveOp s n.val id = some l → l.op.kind = 9 →
    xParts l.op ≠ 0 → xPart l.op = 0 → lenCount l.op ≤ l.lx.arrived → l.lx.entries.length ≤ l.lx.done → opDone l = false →
    l.lx.halted = none → place (xAddr l.op) = .store m i off → windowOf s m i off 1 = some k →
    reached s m i (fld s (Reg.coreRecvWindow m i k) 28 26) (l.lx.exported + BitVec.ofNat 32 (xParts l.op)) = true →
    csRead s m i (entryWords off (xParts l.op * exportBytes l.op l.lx.entries)) = (s', none) →
    mergeExports n.val id (l.lx.entries.length + 1) s' = (s'', none) →
    exec (.exportMerge n id) s = .next (keepQueue s (finishCore s'' n.val id (combiner l).log))) ∧
  (∀ (k : Fin 12) (id : W32) (l : LoadedOp) (st : Nat) (t : Layout) (row : List (Nat × Nat)) (s s' s'' : State),
    liveOp s (k.val / 3) id = some l →
    l.op.kind = 10 → gsWork l.op = 0 → letrixStream s (k.val / 3) id 1 (k.val % 3) = some st →
    indexRuns s (k.val / 3) st = true → (s.stream (k.val / 3) (gsStream s (k.val / 3) id (k.val % 3) st).1).halt.all (· == 6) = true →
    l.lx.next.getD (k.val % 3) 0 < gsCount l.op →
    l.lx.next.getD (k.val % 3) 0 / 512 < (s.stream (k.val / 3) st).full →
    l.op.layout (gsTable l.op) = some t → 0 ≤ gsIndex s (k.val / 3) l (l.lx.next.getD (k.val % 3) 0) →
    gsIndex s (k.val / 3) l (l.lx.next.getD (k.val % 3) 0) < t.extent 1 →
    let e := l.lx.next.getD (k.val % 3) 0
    let w := BitVec.ofNat 32 (unsigned 32 (gsIndex s (k.val / 3) l e))
    let kept := ((l.lx.window.getD (k.val % 3) []).find? (·.1 == w)).map Prod.snd
    let mine := indexPieces s l.op (k.val % 3) (gsIndex s (k.val / 3) l e).toNat e
    gatherRow s kept mine = (s', .ok row) →
    moveIndex s' (k.val / 3) k.val id row mine (if k.val % 3 = 0 then indexPad l.op e false else []) = (s'', none) →
    exec (.gatherIndex k id) s = .next (keepQueue s (settleIndices (passIndex
      (noteIndex s'' (k.val / 3) k.val kept.isSome mine.isEmpty) (k.val / 3) l (k.val % 3) e w row
      (l.lx.groups.getD (k.val % 3) [])) (k.val / 3) id))) ∧
  (∀ (k : Fin 12) (id : W32) (l : LoadedOp) (st : Nat) (t : Layout) (s : State), liveOp s (k.val / 3) id = some l →
    l.op.kind = 10 → letrixStream s (k.val / 3) id 1 (k.val % 3) = some st →
    indexRuns s (k.val / 3) st = true → (s.stream (k.val / 3) (gsStream s (k.val / 3) id (k.val % 3) st).1).halt.all (· == 6) = true →
    l.lx.next.getD (k.val % 3) 0 < gsCount l.op →
    l.lx.next.getD (k.val % 3) 0 / 512 < (s.stream (k.val / 3) st).full →
    l.op.layout (gsTable l.op) = some t →
    (gsIndex s (k.val / 3) l (l.lx.next.getD (k.val % 3) 0) < 0 ∨ (t.extent 1 : Int) ≤ gsIndex s (k.val / 3) l (l.lx.next.getD (k.val % 3) 0)) →
    l.op.haltIdx = true →
    (gsWork l.op = 0 ∨ streamHolds s (k.val / 3) id 0 (k.val % 3) (sourceTiles l.op (l.lx.next.getD (k.val % 3) 0)) = true) →
    exec (.gatherIndex k id) s = .next (if k.val % 3 = 0 then keepQueue s (haltStream
      (badIndex s (k.val / 3) l.op (l.lx.next.getD (k.val % 3) 0) true) (k.val / 3) st
      (l.lx.next.getD (k.val % 3) 0 / 512) 6 none) else s)) ∧
  (∀ (n : Fin 4) (log : Fin 768) (r : W64) (a : ArrayTask) (l : LoadedOp) (g : GridCore) (b st : Nat) (todo : List W64)
    (p : Pass) (s : State), behindDue s n.val (arrayCore s n.val log.val) = false →
    consumerAt s n.val log.val = some (a, l, g) → a.pair = some (b, st, todo) → a.cur = some p →
    bits r.toNat 63 62 = 0 → bits r.toNat 53 32 = 0 → (todo.find? fun x => recordCell x == recordCell r) = some r →
    let u := putAttn s n.val g fun a => { a with cur := some (pairTaken l.op b r p), pair := some (b, st, todo.erase r) }
    exec (.pair n log r) s = .next (keepQueue s (settleProducer (settlePairs n.val l g ((workTiles l.op g).length + 1)
      (count64 (recordUp (recordIn u n.val g l.op.opId r) n.val l (some (b, st))) (Reg.chIsectPairCount n.val) 1)) n.val l))) ∧
  (∀ (n : Fin 4) (log : Fin 768) (r : W64) (a : ArrayTask) (l : LoadedOp) (g : GridCore) (s : State),
    behindDue s n.val (arrayCore s n.val log.val) = false →
    consumerAt s n.val log.val = some (a, l, g) → r = BitVec.ofNat 64 (2 ^ 62) →
    exec (.end_ n log r) s = .next (keepQueue s (settleProducer (settlePairs n.val l g ((workTiles l.op g).length + 1)
      (recordUp (recordIn s n.val g l.op.opId r) n.val l none)) n.val l)) ∧
    ∀ k, streamOn s n.val log.val l.op.opId 0 = some k → g.log = log.val →
      let u := recordIn s n.val g l.op.opId r
      (u.stream n.val k).full = (s.stream n.val k).full + 1 ∧ (u.stream n.val k).walked = 0) ∧
  (∀ (n : Fin 4) (log : Fin 768) (r : W64) (a : ArrayTask) (l p : LoadedOp) (g : GridCore) (t : TileIx)
    (ma mp : SparseMap) (la lp : Layout) (ta tp : List Byte) (s : State),
    behindDue s n.val (arrayCore s n.val log.val) = false →
    consumerAt s n.val log.val = some (a, l, g) → producerOf s n.val l.op = some p →
    (workTiles l.op g)[a.seq]? = some t → bits r.toNat 63 62 = 3 → bits r.toNat 7 0 = 0 →
    let w := (bits r.toNat 61 32, bits r.toNat 31 8)
    let id := p.op.opId
    let die := workStack s p.op w
    ((isectWork s p.op).filter fun x => !p.lx.blocks.contains x && workStack s p.op x == die).head? = some w →
    w.1 / 8 = t.tm → isectHeld s n.val p.op die w = true →
    p.stopped = false → (∀ q, a.pair = some q → q.2.2 = []) → p.op.map = some ma → p.op.map2 = some mp → p.op.layout 0 = some la →
    p.op.layout 1 = some lp → (((openPairs s n.val l g).core n.val g.phys).array.bind (·.cur)).isSome = true →
    isectTile s (unitByte s n.val id 0 die) la ma 8 w.1 w.2 ((dirEntry (unitByte s n.val id 6 die) ma w.1 w.2).getD 0) = .ok ta →
    isectTile s (unitByte s n.val id 1 die) lp mp 32 0 w.2 ((dirEntry (unitByte s n.val id 7 die) mp 0 w.2).getD 0) = .ok tp →
    let u := putOp (openPairs s n.val l g) n.val id { p with lx := { p.lx with blocks := p.lx.blocks ++ [w] } }
    let v := recordIn (putAttn u n.val g fun a => { a with pair := some (w.1, w.2, isectPairs la.format lp.format ta tp) })
      n.val g l.op.opId r
    exec (.block n log r) s = .next (keepQueue s (settleProducer (settlePairs n.val l g ((workTiles l.op g).length + 1)
      (unitsAsk (portUp (portDown v (dieNo n.val die) 4) (dieNo n.val die) 8) n.val id)) n.val l)))

/-! ### Losses, retirement and scrubbing -/

/-- R571, R574 to R579, R581 to R585, R587: what the loss of a stack, a die, a core and a Thader die leaves, what a
retirement moves, and what a pass of the scrubber mends. -/
def Obligations.Losses : Prop :=
  (∀ (n : Fin 4) (unit : Fin 3) (die : Bool) (cause : LossCause) (s : State), cause ≠ .words16 → fenced s n.val = false →
    exec (.stackLoss n unit die cause) s = .next (keepQueue s (loseStack s n.val unit.val die))) ∧
  (∀ (n : Fin 4) (unit : Fin 3) (die : Bool) (cause : LossCause) (s : State), fenced s n.val = true →
    exec (.stackLoss n unit die cause) s = .next s) ∧
  (∀ (n : Fin 4) (unit : Fin 3) (s : State), fenced s n.val = false →
    rd (fence s n.val unit.val true) (Reg.chT0Fence n.val) = BitVec.ofNat 64 (2 ^ 31 + 4 + unit.val) ∧
    fenced (fence s n.val unit.val true) n.val = true) ∧
  (∀ (k : Fin 12) (s : State), (∀ t, (s.die k.val).portUe = some t → t + 1000000 < timeNs s) →
    exec (.dieTransferUncorrectable (.letrix k)) s =
      .next (s.setDie k.val { s.die k.val with portUe := some (timeNs s) })) ∧
  (∀ (k : Fin 12) (t : Nat) (s : State), (s.die k.val).portUe = some t → timeNs s ≤ t + 1000000 →
    exec (.dieTransferUncorrectable (.letrix k)) s = .next (keepQueue s (loseStack
      (s.setDie k.val { s.die k.val with portUe := some (timeNs s) }) (k.val / 3) (k.val % 3) true))) ∧
  (∀ (n : Fin 4) (log : Fin 768) (spare : Fin 800) (s : State), outOfReset s = true →
    (s.chan n.val).retired.contains (physOf s n.val log.val) = false →
    (s.chan n.val).recov.contains (.core log.val) = true →
    exec (.coreUnresponsive n log spare) s = .next (s.setChan n.val
      { s.chan n.val with dead := (s.chan n.val).dead ++ [physOf s n.val log.val] })) ∧
  (∀ (n : Fin 4) (log : Fin 768) (spare : Fin 800) (s : State), outOfReset s = true →
    (s.chan n.val).retired.contains (physOf s n.val log.val) = false →
    (s.chan n.val).recov.contains (.core log.val) = false → spareOk s n.val spare.val = false →
    ((List.range 800).any fun k => spareOk s n.val k) = true → exec (.coreUnresponsive n log spare) s = .next s) ∧
  (∀ (n : Fin 4) (log : Fin 768) (spare : Fin 800) (s : State), outOfReset s = true →
    (s.chan n.val).retired.contains (physOf s n.val log.val) = false →
    (s.chan n.val).recov.contains (.core log.val) = false → spareOk s n.val spare.val = true →
    Answers (.coreUnresponsive n log spare) s fun t => fld t (Reg.chCoreMap n.val log.val) 9 0 = spare.val ∧
      physOf s n.val log.val ∈ (t.chan n.val).retired ∧ physOf s n.val log.val ∈ (t.chan n.val).dead) ∧
  (∀ (n : Fin 4) (log : Fin 768) (spare : Fin 800) (s : State), spareOk s n.val spare.val = true →
    Answers (.coreRetire n (BitVec.ofNat 64 (2 ^ 63 + log.val * 2 ^ 50 + spare.val * 2 ^ 40))) s fun t =>
      fld t (Reg.chCoreMap n.val log.val) 9 0 = spare.val ∧ physOf s n.val log.val ∈ (t.chan n.val).retired ∧
      Counted (Reg.chCoreRetireCount n.val) 1 s t ∧ flag t (Reg.chCoreRetire n.val) 63 = false ∧
      ((s.chan n.val).dead.contains (physOf s n.val log.val) = false → fld t (Reg.chCoreRetire n.val) 61 60 ≤ 1) ∧
      ((s.chan n.val).dead.contains (physOf s n.val log.val) = true → fld t (Reg.chCoreRetire n.val) 61 60 = 2)) ∧
  (∀ (n : Fin 4) (log : Fin 768) (spare : Fin 800) (s : State), spareOk s n.val spare.val = false →
    Answers (.coreRetire n (BitVec.ofNat 64 (2 ^ 63 + log.val * 2 ^ 50 + spare.val * 2 ^ 40))) s fun t =>
      OnlyRegs [Reg.chCoreRetire n.val] s t ∧ flag t (Reg.chCoreRetire n.val) 63 = false ∧
      fld t (Reg.chCoreRetire n.val) 61 60 = 3) ∧
  (∀ (s : State), outOfReset s = true → flag s Reg.glbDieStatus 1 = false → flag s Reg.glbDieStatus 0 = false →
    Answers .thaderLoss s fun t => flag t Reg.glbDieStatus 1 = true ∧ fenced t 2 = true ∧ fenced t 3 = true ∧
      flag t Reg.glbRefStatus 28 = true) ∧
  (∀ (s : State), outOfReset s = true → flag s Reg.glbDieStatus 0 = false →
    Answers .thader0Loss s fun t => flag t Reg.glbDieStatus 0 = true ∧ flag t Reg.glbByeCtrl 0 = false ∧
      flag t Reg.glbRefStatus 29 = true ∧ (∀ p < 8, portState t p = 0) ∧ (t.chan 0).ops = [] ∧ (t.chan 1).ops = [] ∧
      (t.chan 0).out = true ∧ (t.chan 1).out = true) ∧
  (∀ (n : Fin 4) (ups : List Upset) (t : ScrubTarget) (s : State), scrubInterval s n.val t = 0 →
    exec (.scrubPass n t ups) s = .next (keepQueue s (strike s ups))) ∧
  (∀ (n : Fin 4) (s : State) (w k e : Nat), scrubInterval s n.val .tier0 ≠ 0 → s.board.retained = false →
    outOfReset s = true → fenced s n.val = false → (errWords s).filter (scrubbed s n.val .tier0) = [w] →
    (s.chan n.val).rowCe = [] →
    decodeWord s w = .corrected k e →
    Answers (.scrubPass n .tier0 []) s fun t => decodeWord t w = .clean ∧
      goodBytes t (16 * w) 16 = goodBytes s (16 * w) 16 ∧ Counted (Reg.chT0ScrubPassCount n.val) 1 s t)

/-! ### The vector unit -/

/-- R560: a word of a vector program and its fields say the same, for every field at every value its place admits. -/
def Obligations.VectorWords : Prop :=
  (∀ v : VecOp, v.fits = true → vecDecode (vecEncode v) = v) ∧
  (∀ w < 2 ^ 32, (vecDecode w).fits = true ∧ vecEncode (vecDecode w) = w) ∧
  (∀ v : VecOp, v.fits = true → vecEncode v < 2 ^ 32)

/-- R109 to R111, R560, R561: each opcode, where the program has come to it, writes its lanes into register d and moves the
program on by a word; a load brings 32 lanes of an operand, a store writes them, and the end of the program clears the
registers and goes on to the next tile. -/
def Obligations.VectorOpcodes : Prop :=
  (∀ (n : Fin 4) (log : Fin 768) (c : Instr) (code : Nat) (f : VecOp → VecTask → List W32) (v : VecAt) (s : State),
    (c, code, f) ∈ registerOpcodes n log → vecAt s n.val log.val code = some v →
    exec c s = .next (s.setCore n.val v.g.phys { s.core n.val v.g.phys with
      vec := some { v.t with v := v.t.v.set v.w.d (f v.w v.t), pc := v.t.pc + 1 } })) ∧
  (∀ (n : Fin 4) (log : Fin 768) (v : VecAt) (tile : TileIx) (s s' : State), vecAt s n.val log.val 0x01 = some v →
    (workTiles v.l.op v.g)[v.t.seq]? = some tile →
    (∀ i < 32, (vecLane s n.val v (v.w.imm % 8) tile i).2 = true) →
    regionRead s n.val v.g 1 (vecWords s n.val v (v.w.imm % 8) tile) = (s', true) →
    Answers (.ld n log) s fun t => (t.core n.val v.g.phys).vec = some { v.t with
      v := v.t.v.set v.w.d ((List.range 32).map fun i => loadF32 (vecLane s n.val v (v.w.imm % 8) tile i).1),
      pc := v.t.pc + 1 }) ∧
  (∀ (n : Fin 4) (log : Fin 768) (v : VecAt) (tile : TileIx) (s s' : State) (ws : List (Nat × Nat × Nat)),
    vecAt s n.val log.val 0x02 = some v → (workTiles v.l.op v.g)[v.t.seq]? = some tile → v.w.imm % 8 ≠ 4 →
    let rs := (v.t.reg v.w.a).zipIdx.map fun p =>
      (⟨moved (baseCoord 3 tile.levels) (some 0) ((p.2 : Nat) : Int), f32 p.1⟩ : Res)
    wordsWait (s.core n.val v.g.phys) 1 true (stWords v tile (v.w.imm % 8) rs) = false →
    storeResults s n.val v.g 1 v.l.op (v.w.imm % 8) false rs = (s', ws, none) →
    exec (.st n log) s = .next (keepQueue s (vecNext (partStored
      (s'.setCore n.val v.g.phys (s'.core n.val v.g.phys)) n.val v.g.phys (4 * (800 * n.val + v.g.phys) + 1) v.l.op.arrive
      v.t.arrive (lower v.t.arrive (lowest ws)) false) n.val v { v.t with arrive := lower v.t.arrive (lowest ws) }))) ∧
  (∀ (n : Fin 4) (log : Fin 768) (v : VecAt) (tile : TileIx) (s : State), vecAt s n.val log.val 0x02 = some v →
    (workTiles v.l.op v.g)[v.t.seq]? = some tile → v.w.imm % 8 = 4 → lastOfRow v.l.op v.g v.t.seq = false →
    exec (.st n log) s = .next (vecNext s n.val v v.t)) ∧
  (∀ (n : Fin 4) (log : Fin 768) (v : VecAt) (s : State), vecAt s n.val log.val 0x31 = some v →
    exec (.rand n log) s = .next (s.setCore n.val v.g.phys { s.core n.val v.g.phys with
      draws := (s.core n.val v.g.phys).draws + 32,
      vec := some { v.t with pc := v.t.pc + 1, v := v.t.v.set v.w.d ((List.range 32).map fun i =>
        uniform (Config.draw (s.core n.val v.g.phys).seed v.g.log ((s.core n.val v.g.phys).draws + i))) } })) ∧
  (∀ (n : Fin 4) (log : Fin 768) (v : VecAt) (s : State), vecAt s n.val log.val 0x32 = some v →
    exec (.sort n log) s = .next (vecNext s n.val v
      ((v.t.set v.w.b (sortLanes (bit v.w.imm 0) (v.t.reg v.w.a) (v.t.reg v.w.b)).2).set v.w.d
        (sortLanes (bit v.w.imm 0) (v.t.reg v.w.a) (v.t.reg v.w.b)).1))) ∧
  (∀ (n : Fin 4) (log : Fin 768) (v : VecAt) (s : State), vecAt s n.val log.val 0x30 = some v → bits v.w.imm 5 4 ≠ 2 →
    (let f : Fmt := ⟨bits v.w.imm 5 4, bit v.w.imm 6, false, 0, false, bits v.w.imm 9 7, bits v.w.imm 3 0⟩
     let c := s.core n.val v.g.phys
     let r := cvtLanes f v.l.op.zeroPoint (fun i => (Config.draw c.seed v.g.log (c.draws + i)).toNat) (liveLane v) (v.t.reg v.w.a)
     exec (.cvt n log) s = .next (keepQueue s (vecNext (noteRaised s n.val r.2) n.val v (v.t.set v.w.d r.1))))) ∧
  (∀ (n : Fin 4) (log : Fin 768) (v : VecAt) (s : State), vecAt s n.val log.val 0x00 = some v →
    let u := partStored s n.val v.g.phys (4 * (800 * n.val + v.g.phys) + 1) v.l.op.arrive v.t.arrive v.t.arrive true
    let t := { v.t with seq := v.t.seq + 1, pc := 0, arrive := none, v := v.t.v.zipIdx.map fun p =>
      if p.2 < 6 || lastOfRow v.l.op v.g v.t.seq then List.replicate 32 (0 : W32) else p.1 }
    let w := u.setCore n.val v.g.phys { u.core n.val v.g.phys with vec := some t }
    (v.t.seq + 1 ≠ (workTiles v.l.op v.g).length → exec (.vecEnd n log) s = .next (keepQueue s w)) ∧
    (v.t.seq + 1 = (workTiles v.l.op v.g).length → exec (.vecEnd n log) s =
      .next (keepQueue s (finishCore (flushTask w n.val v.g.phys 1) n.val v.l.op.opId v.g.log))))
end

