-- ==== Sys2Proof/Laws/Maps.lean ====
section
/-! SUPPORT. What the sparse maps do: a read after a write, and the canonical form, once for every map. -/

namespace Sys2Proof.Machine

variable {α : Type}

@[simp] theorem mfind_nil (k : Nat) : mfind ([] : List (Nat × α)) k = none := rfl

@[simp] theorem mget_nil (d : α) (k : Nat) : mget d ([] : List (Nat × α)) k = d := rfl

theorem mfind_minsert (m : List (Nat × α)) (k j : Nat) (x : α) :
    mfind (minsert m k x) j = if k = j then some x else mfind m j := by
  induction m with
  | nil => simp [minsert, mfind]
  | cons e r ih =>
    obtain ⟨i, v⟩ := e
    simp only [minsert]
    split
    · simp [mfind]
    · split
      · rename_i h; subst h; simp only [mfind]; split <;> rfl
      · simp only [mfind, ih]
        split
        · rename_i h1 h2; subst h2; rw [if_neg h1]
        · rfl

theorem mfind_merase (m : List (Nat × α)) (k j : Nat) :
    mfind (merase m k) j = if k = j then none else mfind m j := by
  induction m with
  | nil => simp [merase, mfind]
  | cons e r ih =>
    obtain ⟨i, v⟩ := e
    simp only [merase]
    split
    · rename_i h; subst h; rw [ih]; simp only [mfind]; split <;> rfl
    · simp only [mfind, ih]
      split
      · rename_i h1 h2; subst h2; rw [if_neg (Ne.symm h1)]
      · rfl

theorem mget_mset [DecidableEq α] (d : α) (m : List (Nat × α)) (k j : Nat) (x : α) :
    mget d (mset d m k x) j = if k = j then x else mget d m j := by
  simp only [mget, mset]
  split
  · rename_i h; rw [mfind_merase]; split <;> simp [h]
  · rw [mfind_minsert]; split <;> simp

@[simp] theorem mget_mset_same [DecidableEq α] (d : α) (m : List (Nat × α)) (k : Nat) (x : α) :
    mget d (mset d m k x) k = x := by rw [mget_mset, if_pos rfl]

theorem mget_mset_other [DecidableEq α] (d : α) (m : List (Nat × α)) {k j : Nat} (x : α) (h : k ≠ j) :
    mget d (mset d m k x) j = mget d m j := by rw [mget_mset, if_neg h]

theorem mem_minsert {m : List (Nat × α)} {k : Nat} {x : α} {e : Nat × α} (h : e ∈ minsert m k x) :
    e = (k, x) ∨ e ∈ m := by
  induction m with
  | nil => simpa [minsert] using h
  | cons a r ih =>
    obtain ⟨i, v⟩ := a
    simp only [minsert] at h
    split at h
    · simpa using h
    · split at h
      · rcases List.mem_cons.1 h with h | h
        · exact .inl h
        · exact .inr (List.mem_cons_of_mem _ h)
      · rcases List.mem_cons.1 h with h | h
        · exact .inr (h ▸ List.mem_cons_self)
        · exact (ih h).imp_right (List.mem_cons_of_mem _)

theorem mem_merase {m : List (Nat × α)} {k : Nat} {e : Nat × α} (h : e ∈ merase m k) : e ∈ m := by
  induction m with
  | nil => simp [merase] at h
  | cons a r ih =>
    obtain ⟨i, v⟩ := a
    simp only [merase] at h
    split at h
    · exact List.mem_cons_of_mem _ (ih h)
    · rcases List.mem_cons.1 h with h | h
      · exact h ▸ List.mem_cons_self
      · exact List.mem_cons_of_mem _ (ih h)

theorem rising_minsert {m : List (Nat × α)} (h : Rising m) (k : Nat) (x : α) : Rising (minsert m k x) := by
  induction m with
  | nil => simp [minsert, Rising]
  | cons a r ih =>
    obtain ⟨i, v⟩ := a
    have h' := List.pairwise_cons.1 h
    simp only [minsert]
    split
    · rename_i hk
      refine List.pairwise_cons.2 ⟨fun b hb => ?_, h⟩
      rcases List.mem_cons.1 hb with hb | hb
      · simpa [hb] using hk
      · exact Nat.lt_trans hk (h'.1 b hb)
    · split
      · rename_i hk; subst hk; exact List.pairwise_cons.2 ⟨fun b hb => h'.1 b hb, h'.2⟩
      · rename_i h1 h2
        refine List.pairwise_cons.2 ⟨fun b hb => ?_, ih h'.2⟩
        rcases mem_minsert hb with hb | hb
        · simp only [hb]; omega
        · exact h'.1 b hb

theorem rising_merase {m : List (Nat × α)} (h : Rising m) (k : Nat) : Rising (merase m k) := by
  induction m with
  | nil => simp [merase, Rising]
  | cons a r ih =>
    obtain ⟨i, v⟩ := a
    have h' := List.pairwise_cons.1 h
    simp only [merase]
    split
    · exact ih h'.2
    · exact List.pairwise_cons.2 ⟨fun b hb => h'.1 b (mem_merase hb), ih h'.2⟩

/-- Writing keeps the canonical form. -/
theorem canonical_mset [DecidableEq α] {d : α} {m : List (Nat × α)} (h : Canonical d m) (k : Nat) (x : α) :
    Canonical d (mset d m k x) := by
  unfold mset
  split
  · exact ⟨rising_merase h.1 k, fun e he => h.2 e (mem_merase he)⟩
  · rename_i hx
    refine ⟨rising_minsert h.1 k x, fun e he => ?_⟩
    rcases mem_minsert he with he | he
    · simpa [he] using hx
    · exact h.2 e he

/-- Dropping keys keeps the canonical form. -/
theorem canonical_mkeep {d : α} {m : List (Nat × α)} (h : Canonical d m) (p : Nat → Bool) :
    Canonical d (mkeep p m) :=
  ⟨h.1.sublist List.filter_sublist, fun e he => h.2 e (List.mem_of_mem_filter he)⟩

/-- The decided form of the memory says the canonical form. -/
theorem Memory.wf_iff (m : List (Nat × Byte)) : Memory.wf m = true ↔ Canonical 0 m := by
  induction m with
  | nil => simp [Memory.wf, Canonical, Rising]
  | cons e r ih =>
    cases r with
    | nil => simp [Memory.wf, Canonical, Rising]
    | cons f r =>
      simp only [Memory.wf, Bool.and_eq_true, bne_iff_ne, ne_eq, decide_eq_true_eq, ih]
      constructor
      · rintro ⟨⟨h0, h1⟩, h2, h3⟩
        refine ⟨List.pairwise_cons.2 ⟨fun x hx => ?_, h2⟩, fun x hx => ?_⟩
        · rcases List.mem_cons.1 hx with hx | hx
          · exact hx ▸ h1
          · exact Nat.lt_trans h1 ((List.pairwise_cons.1 h2).1 x hx)
        · rcases List.mem_cons.1 hx with hx | hx
          · exact hx ▸ h0
          · exact h3 x hx
      · rintro ⟨h2, h3⟩
        have h2' := List.pairwise_cons.1 h2
        exact ⟨⟨h3 e List.mem_cons_self, h2'.1 f List.mem_cons_self⟩, h2'.2, fun x hx => h3 x (List.mem_cons_of_mem _ hx)⟩

theorem canonical_nil (d : α) : Canonical d ([] : List (Nat × α)) := ⟨List.Pairwise.nil, by simp⟩

end Sys2Proof.Machine
end

