-- ==== Sys2Proof/Laws/State.lean ====
section
/-! SUPPORT. What every named update of the state leaves alone, field by field, and what it makes of the place it
names: later proofs rest on these and unfold no record update. -/

namespace Sys2Proof.Machine

@[simp] theorem State.setChan_pending (s : State) (n : Nat) (c : Chan) : (s.setChan n c).pending = s.pending := rfl
@[simp] theorem State.setChan_mem (s : State) (n : Nat) (c : Chan) : (s.setChan n c).mem = s.mem := rfl
@[simp] theorem State.setChan_errs (s : State) (n : Nat) (c : Chan) : (s.setChan n c).errs = s.errs := rfl
@[simp] theorem State.setChan_regs (s : State) (n : Nat) (c : Chan) : (s.setChan n c).regs = s.regs := rfl
@[simp] theorem State.setChan_cap (s : State) (n : Nat) (c : Chan) : (s.setChan n c).cap = s.cap := rfl
@[simp] theorem State.setChan_cores (s : State) (n : Nat) (c : Chan) : (s.setChan n c).cores = s.cores := rfl
@[simp] theorem State.setChan_streams (s : State) (n : Nat) (c : Chan) : (s.setChan n c).streams = s.streams := rfl
@[simp] theorem State.setChan_dies (s : State) (n : Nat) (c : Chan) : (s.setChan n c).dies = s.dies := rfl
@[simp] theorem State.setChan_geq (s : State) (n : Nat) (c : Chan) : (s.setChan n c).geq = s.geq := rfl
@[simp] theorem State.setChan_ports (s : State) (n : Nat) (c : Chan) : (s.setChan n c).ports = s.ports := rfl
@[simp] theorem State.setChan_board (s : State) (n : Nat) (c : Chan) : (s.setChan n c).board = s.board := rfl
@[simp] theorem State.setChan_fuses (s : State) (n : Nat) (c : Chan) : (s.setChan n c).fuses = s.fuses := rfl
@[simp] theorem State.setChan_flash (s : State) (n : Nat) (c : Chan) : (s.setChan n c).flash = s.flash := rfl
@[simp] theorem State.setChan_sec (s : State) (n : Nat) (c : Chan) : (s.setChan n c).sec = s.sec := rfl
@[simp] theorem State.setChan_ref (s : State) (n : Nat) (c : Chan) : (s.setChan n c).ref = s.ref := rfl
@[simp] theorem State.setChan_beats (s : State) (n : Nat) (c : Chan) : (s.setChan n c).beats = s.beats := rfl
@[simp] theorem State.setChan_red (s : State) (n : Nat) (c : Chan) : (s.setChan n c).red = s.red := rfl
@[simp] theorem State.setChan_draws (s : State) (n : Nat) (c : Chan) : (s.setChan n c).draws = s.draws := rfl
@[simp] theorem State.setChan_out (s : State) (n : Nat) (c : Chan) : (s.setChan n c).out = s.out := rfl

@[simp] theorem State.setCore_pending (s : State) (n i : Nat) (c : Core) : (s.setCore n i c).pending = s.pending := rfl
@[simp] theorem State.setCore_mem (s : State) (n i : Nat) (c : Core) : (s.setCore n i c).mem = s.mem := rfl
@[simp] theorem State.setCore_errs (s : State) (n i : Nat) (c : Core) : (s.setCore n i c).errs = s.errs := rfl
@[simp] theorem State.setCore_regs (s : State) (n i : Nat) (c : Core) : (s.setCore n i c).regs = s.regs := rfl
@[simp] theorem State.setCore_cap (s : State) (n i : Nat) (c : Core) : (s.setCore n i c).cap = s.cap := rfl
@[simp] theorem State.setCore_chans (s : State) (n i : Nat) (c : Core) : (s.setCore n i c).chans = s.chans := rfl
@[simp] theorem State.setCore_streams (s : State) (n i : Nat) (c : Core) : (s.setCore n i c).streams = s.streams := rfl
@[simp] theorem State.setCore_dies (s : State) (n i : Nat) (c : Core) : (s.setCore n i c).dies = s.dies := rfl
@[simp] theorem State.setCore_geq (s : State) (n i : Nat) (c : Core) : (s.setCore n i c).geq = s.geq := rfl
@[simp] theorem State.setCore_ports (s : State) (n i : Nat) (c : Core) : (s.setCore n i c).ports = s.ports := rfl
@[simp] theorem State.setCore_board (s : State) (n i : Nat) (c : Core) : (s.setCore n i c).board = s.board := rfl
@[simp] theorem State.setCore_fuses (s : State) (n i : Nat) (c : Core) : (s.setCore n i c).fuses = s.fuses := rfl
@[simp] theorem State.setCore_flash (s : State) (n i : Nat) (c : Core) : (s.setCore n i c).flash = s.flash := rfl
@[simp] theorem State.setCore_sec (s : State) (n i : Nat) (c : Core) : (s.setCore n i c).sec = s.sec := rfl
@[simp] theorem State.setCore_ref (s : State) (n i : Nat) (c : Core) : (s.setCore n i c).ref = s.ref := rfl
@[simp] theorem State.setCore_beats (s : State) (n i : Nat) (c : Core) : (s.setCore n i c).beats = s.beats := rfl
@[simp] theorem State.setCore_red (s : State) (n i : Nat) (c : Core) : (s.setCore n i c).red = s.red := rfl
@[simp] theorem State.setCore_draws (s : State) (n i : Nat) (c : Core) : (s.setCore n i c).draws = s.draws := rfl
@[simp] theorem State.setCore_out (s : State) (n i : Nat) (c : Core) : (s.setCore n i c).out = s.out := rfl

@[simp] theorem State.setStream_pending (s : State) (n i : Nat) (c : Stream) : (s.setStream n i c).pending = s.pending := rfl
@[simp] theorem State.setStream_mem (s : State) (n i : Nat) (c : Stream) : (s.setStream n i c).mem = s.mem := rfl
@[simp] theorem State.setStream_errs (s : State) (n i : Nat) (c : Stream) : (s.setStream n i c).errs = s.errs := rfl
@[simp] theorem State.setStream_regs (s : State) (n i : Nat) (c : Stream) : (s.setStream n i c).regs = s.regs := rfl
@[simp] theorem State.setStream_cap (s : State) (n i : Nat) (c : Stream) : (s.setStream n i c).cap = s.cap := rfl
@[simp] theorem State.setStream_chans (s : State) (n i : Nat) (c : Stream) : (s.setStream n i c).chans = s.chans := rfl
@[simp] theorem State.setStream_cores (s : State) (n i : Nat) (c : Stream) : (s.setStream n i c).cores = s.cores := rfl
@[simp] theorem State.setStream_dies (s : State) (n i : Nat) (c : Stream) : (s.setStream n i c).dies = s.dies := rfl
@[simp] theorem State.setStream_geq (s : State) (n i : Nat) (c : Stream) : (s.setStream n i c).geq = s.geq := rfl
@[simp] theorem State.setStream_ports (s : State) (n i : Nat) (c : Stream) : (s.setStream n i c).ports = s.ports := rfl
@[simp] theorem State.setStream_board (s : State) (n i : Nat) (c : Stream) : (s.setStream n i c).board = s.board := rfl
@[simp] theorem State.setStream_fuses (s : State) (n i : Nat) (c : Stream) : (s.setStream n i c).fuses = s.fuses := rfl
@[simp] theorem State.setStream_flash (s : State) (n i : Nat) (c : Stream) : (s.setStream n i c).flash = s.flash := rfl
@[simp] theorem State.setStream_sec (s : State) (n i : Nat) (c : Stream) : (s.setStream n i c).sec = s.sec := rfl
@[simp] theorem State.setStream_ref (s : State) (n i : Nat) (c : Stream) : (s.setStream n i c).ref = s.ref := rfl
@[simp] theorem State.setStream_beats (s : State) (n i : Nat) (c : Stream) : (s.setStream n i c).beats = s.beats := rfl
@[simp] theorem State.setStream_red (s : State) (n i : Nat) (c : Stream) : (s.setStream n i c).red = s.red := rfl
@[simp] theorem State.setStream_draws (s : State) (n i : Nat) (c : Stream) : (s.setStream n i c).draws = s.draws := rfl
@[simp] theorem State.setStream_out (s : State) (n i : Nat) (c : Stream) : (s.setStream n i c).out = s.out := rfl

@[simp] theorem State.setDie_pending (s : State) (k : Nat) (d : Die) : (s.setDie k d).pending = s.pending := rfl
@[simp] theorem State.setDie_mem (s : State) (k : Nat) (d : Die) : (s.setDie k d).mem = s.mem := rfl
@[simp] theorem State.setDie_errs (s : State) (k : Nat) (d : Die) : (s.setDie k d).errs = s.errs := rfl
@[simp] theorem State.setDie_regs (s : State) (k : Nat) (d : Die) : (s.setDie k d).regs = s.regs := rfl
@[simp] theorem State.setDie_cap (s : State) (k : Nat) (d : Die) : (s.setDie k d).cap = s.cap := rfl
@[simp] theorem State.setDie_chans (s : State) (k : Nat) (d : Die) : (s.setDie k d).chans = s.chans := rfl
@[simp] theorem State.setDie_cores (s : State) (k : Nat) (d : Die) : (s.setDie k d).cores = s.cores := rfl
@[simp] theorem State.setDie_streams (s : State) (k : Nat) (d : Die) : (s.setDie k d).streams = s.streams := rfl
@[simp] theorem State.setDie_geq (s : State) (k : Nat) (d : Die) : (s.setDie k d).geq = s.geq := rfl
@[simp] theorem State.setDie_ports (s : State) (k : Nat) (d : Die) : (s.setDie k d).ports = s.ports := rfl
@[simp] theorem State.setDie_board (s : State) (k : Nat) (d : Die) : (s.setDie k d).board = s.board := rfl
@[simp] theorem State.setDie_fuses (s : State) (k : Nat) (d : Die) : (s.setDie k d).fuses = s.fuses := rfl
@[simp] theorem State.setDie_flash (s : State) (k : Nat) (d : Die) : (s.setDie k d).flash = s.flash := rfl
@[simp] theorem State.setDie_sec (s : State) (k : Nat) (d : Die) : (s.setDie k d).sec = s.sec := rfl
@[simp] theorem State.setDie_ref (s : State) (k : Nat) (d : Die) : (s.setDie k d).ref = s.ref := rfl
@[simp] theorem State.setDie_beats (s : State) (k : Nat) (d : Die) : (s.setDie k d).beats = s.beats := rfl
@[simp] theorem State.setDie_red (s : State) (k : Nat) (d : Die) : (s.setDie k d).red = s.red := rfl
@[simp] theorem State.setDie_draws (s : State) (k : Nat) (d : Die) : (s.setDie k d).draws = s.draws := rfl
@[simp] theorem State.setDie_out (s : State) (k : Nat) (d : Die) : (s.setDie k d).out = s.out := rfl

@[simp] theorem State.setPort_pending (s : State) (p : Nat) (x : Port) : (s.setPort p x).pending = s.pending := rfl
@[simp] theorem State.setPort_mem (s : State) (p : Nat) (x : Port) : (s.setPort p x).mem = s.mem := rfl
@[simp] theorem State.setPort_errs (s : State) (p : Nat) (x : Port) : (s.setPort p x).errs = s.errs := rfl
@[simp] theorem State.setPort_regs (s : State) (p : Nat) (x : Port) : (s.setPort p x).regs = s.regs := rfl
@[simp] theorem State.setPort_cap (s : State) (p : Nat) (x : Port) : (s.setPort p x).cap = s.cap := rfl
@[simp] theorem State.setPort_chans (s : State) (p : Nat) (x : Port) : (s.setPort p x).chans = s.chans := rfl
@[simp] theorem State.setPort_cores (s : State) (p : Nat) (x : Port) : (s.setPort p x).cores = s.cores := rfl
@[simp] theorem State.setPort_streams (s : State) (p : Nat) (x : Port) : (s.setPort p x).streams = s.streams := rfl
@[simp] theorem State.setPort_dies (s : State) (p : Nat) (x : Port) : (s.setPort p x).dies = s.dies := rfl
@[simp] theorem State.setPort_geq (s : State) (p : Nat) (x : Port) : (s.setPort p x).geq = s.geq := rfl
@[simp] theorem State.setPort_board (s : State) (p : Nat) (x : Port) : (s.setPort p x).board = s.board := rfl
@[simp] theorem State.setPort_fuses (s : State) (p : Nat) (x : Port) : (s.setPort p x).fuses = s.fuses := rfl
@[simp] theorem State.setPort_flash (s : State) (p : Nat) (x : Port) : (s.setPort p x).flash = s.flash := rfl
@[simp] theorem State.setPort_sec (s : State) (p : Nat) (x : Port) : (s.setPort p x).sec = s.sec := rfl
@[simp] theorem State.setPort_ref (s : State) (p : Nat) (x : Port) : (s.setPort p x).ref = s.ref := rfl
@[simp] theorem State.setPort_beats (s : State) (p : Nat) (x : Port) : (s.setPort p x).beats = s.beats := rfl
@[simp] theorem State.setPort_red (s : State) (p : Nat) (x : Port) : (s.setPort p x).red = s.red := rfl
@[simp] theorem State.setPort_draws (s : State) (p : Nat) (x : Port) : (s.setPort p x).draws = s.draws := rfl
@[simp] theorem State.setPort_out (s : State) (p : Nat) (x : Port) : (s.setPort p x).out = s.out := rfl

@[simp] theorem State.setBucket_pending (s : State) (t : Nat) (b : Bucket) : (s.setBucket t b).pending = s.pending := rfl
@[simp] theorem State.setBucket_mem (s : State) (t : Nat) (b : Bucket) : (s.setBucket t b).mem = s.mem := rfl
@[simp] theorem State.setBucket_errs (s : State) (t : Nat) (b : Bucket) : (s.setBucket t b).errs = s.errs := rfl
@[simp] theorem State.setBucket_regs (s : State) (t : Nat) (b : Bucket) : (s.setBucket t b).regs = s.regs := rfl
@[simp] theorem State.setBucket_cap (s : State) (t : Nat) (b : Bucket) : (s.setBucket t b).cap = s.cap := rfl
@[simp] theorem State.setBucket_chans (s : State) (t : Nat) (b : Bucket) : (s.setBucket t b).chans = s.chans := rfl
@[simp] theorem State.setBucket_cores (s : State) (t : Nat) (b : Bucket) : (s.setBucket t b).cores = s.cores := rfl
@[simp] theorem State.setBucket_streams (s : State) (t : Nat) (b : Bucket) : (s.setBucket t b).streams = s.streams := rfl
@[simp] theorem State.setBucket_dies (s : State) (t : Nat) (b : Bucket) : (s.setBucket t b).dies = s.dies := rfl
@[simp] theorem State.setBucket_geq (s : State) (t : Nat) (b : Bucket) : (s.setBucket t b).geq = s.geq := rfl
@[simp] theorem State.setBucket_ports (s : State) (t : Nat) (b : Bucket) : (s.setBucket t b).ports = s.ports := rfl
@[simp] theorem State.setBucket_board (s : State) (t : Nat) (b : Bucket) : (s.setBucket t b).board = s.board := rfl
@[simp] theorem State.setBucket_fuses (s : State) (t : Nat) (b : Bucket) : (s.setBucket t b).fuses = s.fuses := rfl
@[simp] theorem State.setBucket_flash (s : State) (t : Nat) (b : Bucket) : (s.setBucket t b).flash = s.flash := rfl
@[simp] theorem State.setBucket_sec (s : State) (t : Nat) (b : Bucket) : (s.setBucket t b).sec = s.sec := rfl
@[simp] theorem State.setBucket_ref (s : State) (t : Nat) (b : Bucket) : (s.setBucket t b).ref = s.ref := rfl
@[simp] theorem State.setBucket_beats (s : State) (t : Nat) (b : Bucket) : (s.setBucket t b).beats = s.beats := rfl
@[simp] theorem State.setBucket_draws (s : State) (t : Nat) (b : Bucket) : (s.setBucket t b).draws = s.draws := rfl
@[simp] theorem State.setBucket_out (s : State) (t : Nat) (b : Bucket) : (s.setBucket t b).out = s.out := rfl

@[simp] theorem wr_pending (s : State) (r : RegRef) (v : W64) : (wr s r v).pending = s.pending := rfl
@[simp] theorem wr_mem (s : State) (r : RegRef) (v : W64) : (wr s r v).mem = s.mem := rfl
@[simp] theorem wr_errs (s : State) (r : RegRef) (v : W64) : (wr s r v).errs = s.errs := rfl
@[simp] theorem wr_cap (s : State) (r : RegRef) (v : W64) : (wr s r v).cap = s.cap := rfl
@[simp] theorem wr_chans (s : State) (r : RegRef) (v : W64) : (wr s r v).chans = s.chans := rfl
@[simp] theorem wr_cores (s : State) (r : RegRef) (v : W64) : (wr s r v).cores = s.cores := rfl
@[simp] theorem wr_streams (s : State) (r : RegRef) (v : W64) : (wr s r v).streams = s.streams := rfl
@[simp] theorem wr_dies (s : State) (r : RegRef) (v : W64) : (wr s r v).dies = s.dies := rfl
@[simp] theorem wr_geq (s : State) (r : RegRef) (v : W64) : (wr s r v).geq = s.geq := rfl
@[simp] theorem wr_ports (s : State) (r : RegRef) (v : W64) : (wr s r v).ports = s.ports := rfl
@[simp] theorem wr_board (s : State) (r : RegRef) (v : W64) : (wr s r v).board = s.board := rfl
@[simp] theorem wr_fuses (s : State) (r : RegRef) (v : W64) : (wr s r v).fuses = s.fuses := rfl
@[simp] theorem wr_flash (s : State) (r : RegRef) (v : W64) : (wr s r v).flash = s.flash := rfl
@[simp] theorem wr_sec (s : State) (r : RegRef) (v : W64) : (wr s r v).sec = s.sec := rfl
@[simp] theorem wr_ref (s : State) (r : RegRef) (v : W64) : (wr s r v).ref = s.ref := rfl
@[simp] theorem wr_beats (s : State) (r : RegRef) (v : W64) : (wr s r v).beats = s.beats := rfl
@[simp] theorem wr_red (s : State) (r : RegRef) (v : W64) : (wr s r v).red = s.red := rfl
@[simp] theorem wr_draws (s : State) (r : RegRef) (v : W64) : (wr s r v).draws = s.draws := rfl
@[simp] theorem wr_out (s : State) (r : RegRef) (v : W64) : (wr s r v).out = s.out := rfl

@[simp] theorem setFld_pending (s : State) (r : RegRef) (hi lo x : Nat) : (setFld s r hi lo x).pending = s.pending := rfl
@[simp] theorem setFld_mem (s : State) (r : RegRef) (hi lo x : Nat) : (setFld s r hi lo x).mem = s.mem := rfl
@[simp] theorem setFld_errs (s : State) (r : RegRef) (hi lo x : Nat) : (setFld s r hi lo x).errs = s.errs := rfl
@[simp] theorem setFld_cap (s : State) (r : RegRef) (hi lo x : Nat) : (setFld s r hi lo x).cap = s.cap := rfl
@[simp] theorem setFld_chans (s : State) (r : RegRef) (hi lo x : Nat) : (setFld s r hi lo x).chans = s.chans := rfl
@[simp] theorem setFld_cores (s : State) (r : RegRef) (hi lo x : Nat) : (setFld s r hi lo x).cores = s.cores := rfl
@[simp] theorem setFld_streams (s : State) (r : RegRef) (hi lo x : Nat) : (setFld s r hi lo x).streams = s.streams := rfl
@[simp] theorem setFld_dies (s : State) (r : RegRef) (hi lo x : Nat) : (setFld s r hi lo x).dies = s.dies := rfl
@[simp] theorem setFld_geq (s : State) (r : RegRef) (hi lo x : Nat) : (setFld s r hi lo x).geq = s.geq := rfl
@[simp] theorem setFld_ports (s : State) (r : RegRef) (hi lo x : Nat) : (setFld s r hi lo x).ports = s.ports := rfl
@[simp] theorem setFld_board (s : State) (r : RegRef) (hi lo x : Nat) : (setFld s r hi lo x).board = s.board := rfl
@[simp] theorem setFld_fuses (s : State) (r : RegRef) (hi lo x : Nat) : (setFld s r hi lo x).fuses = s.fuses := rfl
@[simp] theorem setFld_flash (s : State) (r : RegRef) (hi lo x : Nat) : (setFld s r hi lo x).flash = s.flash := rfl
@[simp] theorem setFld_sec (s : State) (r : RegRef) (hi lo x : Nat) : (setFld s r hi lo x).sec = s.sec := rfl
@[simp] theorem setFld_ref (s : State) (r : RegRef) (hi lo x : Nat) : (setFld s r hi lo x).ref = s.ref := rfl
@[simp] theorem setFld_beats (s : State) (r : RegRef) (hi lo x : Nat) : (setFld s r hi lo x).beats = s.beats := rfl
@[simp] theorem setFld_red (s : State) (r : RegRef) (hi lo x : Nat) : (setFld s r hi lo x).red = s.red := rfl
@[simp] theorem setFld_draws (s : State) (r : RegRef) (hi lo x : Nat) : (setFld s r hi lo x).draws = s.draws := rfl
@[simp] theorem setFld_out (s : State) (r : RegRef) (hi lo x : Nat) : (setFld s r hi lo x).out = s.out := rfl

@[simp] theorem setFlag_pending (s : State) (r : RegRef) (i : Nat) (b : Bool) : (setFlag s r i b).pending = s.pending := rfl
@[simp] theorem setFlag_mem (s : State) (r : RegRef) (i : Nat) (b : Bool) : (setFlag s r i b).mem = s.mem := rfl
@[simp] theorem setFlag_errs (s : State) (r : RegRef) (i : Nat) (b : Bool) : (setFlag s r i b).errs = s.errs := rfl
@[simp] theorem setFlag_cap (s : State) (r : RegRef) (i : Nat) (b : Bool) : (setFlag s r i b).cap = s.cap := rfl
@[simp] theorem setFlag_chans (s : State) (r : RegRef) (i : Nat) (b : Bool) : (setFlag s r i b).chans = s.chans := rfl
@[simp] theorem setFlag_cores (s : State) (r : RegRef) (i : Nat) (b : Bool) : (setFlag s r i b).cores = s.cores := rfl
@[simp] theorem setFlag_streams (s : State) (r : RegRef) (i : Nat) (b : Bool) : (setFlag s r i b).streams = s.streams := rfl
@[simp] theorem setFlag_dies (s : State) (r : RegRef) (i : Nat) (b : Bool) : (setFlag s r i b).dies = s.dies := rfl
@[simp] theorem setFlag_geq (s : State) (r : RegRef) (i : Nat) (b : Bool) : (setFlag s r i b).geq = s.geq := rfl
@[simp] theorem setFlag_ports (s : State) (r : RegRef) (i : Nat) (b : Bool) : (setFlag s r i b).ports = s.ports := rfl
@[simp] theorem setFlag_board (s : State) (r : RegRef) (i : Nat) (b : Bool) : (setFlag s r i b).board = s.board := rfl
@[simp] theorem setFlag_fuses (s : State) (r : RegRef) (i : Nat) (b : Bool) : (setFlag s r i b).fuses = s.fuses := rfl
@[simp] theorem setFlag_flash (s : State) (r : RegRef) (i : Nat) (b : Bool) : (setFlag s r i b).flash = s.flash := rfl
@[simp] theorem setFlag_sec (s : State) (r : RegRef) (i : Nat) (b : Bool) : (setFlag s r i b).sec = s.sec := rfl
@[simp] theorem setFlag_ref (s : State) (r : RegRef) (i : Nat) (b : Bool) : (setFlag s r i b).ref = s.ref := rfl
@[simp] theorem setFlag_beats (s : State) (r : RegRef) (i : Nat) (b : Bool) : (setFlag s r i b).beats = s.beats := rfl
@[simp] theorem setFlag_red (s : State) (r : RegRef) (i : Nat) (b : Bool) : (setFlag s r i b).red = s.red := rfl
@[simp] theorem setFlag_draws (s : State) (r : RegRef) (i : Nat) (b : Bool) : (setFlag s r i b).draws = s.draws := rfl
@[simp] theorem setFlag_out (s : State) (r : RegRef) (i : Nat) (b : Bool) : (setFlag s r i b).out = s.out := rfl

@[simp] theorem count32_pending (s : State) (r : RegRef) (n : Nat) : (count32 s r n).pending = s.pending := rfl
@[simp] theorem count32_mem (s : State) (r : RegRef) (n : Nat) : (count32 s r n).mem = s.mem := rfl
@[simp] theorem count32_errs (s : State) (r : RegRef) (n : Nat) : (count32 s r n).errs = s.errs := rfl
@[simp] theorem count32_cap (s : State) (r : RegRef) (n : Nat) : (count32 s r n).cap = s.cap := rfl
@[simp] theorem count32_chans (s : State) (r : RegRef) (n : Nat) : (count32 s r n).chans = s.chans := rfl
@[simp] theorem count32_cores (s : State) (r : RegRef) (n : Nat) : (count32 s r n).cores = s.cores := rfl
@[simp] theorem count32_streams (s : State) (r : RegRef) (n : Nat) : (count32 s r n).streams = s.streams := rfl
@[simp] theorem count32_dies (s : State) (r : RegRef) (n : Nat) : (count32 s r n).dies = s.dies := rfl
@[simp] theorem count32_geq (s : State) (r : RegRef) (n : Nat) : (count32 s r n).geq = s.geq := rfl
@[simp] theorem count32_ports (s : State) (r : RegRef) (n : Nat) : (count32 s r n).ports = s.ports := rfl
@[simp] theorem count32_board (s : State) (r : RegRef) (n : Nat) : (count32 s r n).board = s.board := rfl
@[simp] theorem count32_fuses (s : State) (r : RegRef) (n : Nat) : (count32 s r n).fuses = s.fuses := rfl
@[simp] theorem count32_flash (s : State) (r : RegRef) (n : Nat) : (count32 s r n).flash = s.flash := rfl
@[simp] theorem count32_sec (s : State) (r : RegRef) (n : Nat) : (count32 s r n).sec = s.sec := rfl
@[simp] theorem count32_ref (s : State) (r : RegRef) (n : Nat) : (count32 s r n).ref = s.ref := rfl
@[simp] theorem count32_beats (s : State) (r : RegRef) (n : Nat) : (count32 s r n).beats = s.beats := rfl
@[simp] theorem count32_red (s : State) (r : RegRef) (n : Nat) : (count32 s r n).red = s.red := rfl
@[simp] theorem count32_draws (s : State) (r : RegRef) (n : Nat) : (count32 s r n).draws = s.draws := rfl
@[simp] theorem count32_out (s : State) (r : RegRef) (n : Nat) : (count32 s r n).out = s.out := rfl

@[simp] theorem count64_pending (s : State) (r : RegRef) (n : Nat) : (count64 s r n).pending = s.pending := rfl
@[simp] theorem count64_mem (s : State) (r : RegRef) (n : Nat) : (count64 s r n).mem = s.mem := rfl
@[simp] theorem count64_errs (s : State) (r : RegRef) (n : Nat) : (count64 s r n).errs = s.errs := rfl
@[simp] theorem count64_cap (s : State) (r : RegRef) (n : Nat) : (count64 s r n).cap = s.cap := rfl
@[simp] theorem count64_chans (s : State) (r : RegRef) (n : Nat) : (count64 s r n).chans = s.chans := rfl
@[simp] theorem count64_cores (s : State) (r : RegRef) (n : Nat) : (count64 s r n).cores = s.cores := rfl
@[simp] theorem count64_streams (s : State) (r : RegRef) (n : Nat) : (count64 s r n).streams = s.streams := rfl
@[simp] theorem count64_dies (s : State) (r : RegRef) (n : Nat) : (count64 s r n).dies = s.dies := rfl
@[simp] theorem count64_geq (s : State) (r : RegRef) (n : Nat) : (count64 s r n).geq = s.geq := rfl
@[simp] theorem count64_ports (s : State) (r : RegRef) (n : Nat) : (count64 s r n).ports = s.ports := rfl
@[simp] theorem count64_board (s : State) (r : RegRef) (n : Nat) : (count64 s r n).board = s.board := rfl
@[simp] theorem count64_fuses (s : State) (r : RegRef) (n : Nat) : (count64 s r n).fuses = s.fuses := rfl
@[simp] theorem count64_flash (s : State) (r : RegRef) (n : Nat) : (count64 s r n).flash = s.flash := rfl
@[simp] theorem count64_sec (s : State) (r : RegRef) (n : Nat) : (count64 s r n).sec = s.sec := rfl
@[simp] theorem count64_ref (s : State) (r : RegRef) (n : Nat) : (count64 s r n).ref = s.ref := rfl
@[simp] theorem count64_beats (s : State) (r : RegRef) (n : Nat) : (count64 s r n).beats = s.beats := rfl
@[simp] theorem count64_red (s : State) (r : RegRef) (n : Nat) : (count64 s r n).red = s.red := rfl
@[simp] theorem count64_draws (s : State) (r : RegRef) (n : Nat) : (count64 s r n).draws = s.draws := rfl
@[simp] theorem count64_out (s : State) (r : RegRef) (n : Nat) : (count64 s r n).out = s.out := rfl

@[simp] theorem keepQueue_mem (s t : State) : (keepQueue s t).mem = t.mem := rfl
@[simp] theorem keepQueue_errs (s t : State) : (keepQueue s t).errs = t.errs := rfl
@[simp] theorem keepQueue_regs (s t : State) : (keepQueue s t).regs = t.regs := rfl
@[simp] theorem keepQueue_cap (s t : State) : (keepQueue s t).cap = t.cap := rfl
@[simp] theorem keepQueue_chans (s t : State) : (keepQueue s t).chans = t.chans := rfl
@[simp] theorem keepQueue_cores (s t : State) : (keepQueue s t).cores = t.cores := rfl
@[simp] theorem keepQueue_streams (s t : State) : (keepQueue s t).streams = t.streams := rfl
@[simp] theorem keepQueue_dies (s t : State) : (keepQueue s t).dies = t.dies := rfl
@[simp] theorem keepQueue_geq (s t : State) : (keepQueue s t).geq = t.geq := rfl
@[simp] theorem keepQueue_ports (s t : State) : (keepQueue s t).ports = t.ports := rfl
@[simp] theorem keepQueue_board (s t : State) : (keepQueue s t).board = t.board := rfl
@[simp] theorem keepQueue_fuses (s t : State) : (keepQueue s t).fuses = t.fuses := rfl
@[simp] theorem keepQueue_flash (s t : State) : (keepQueue s t).flash = t.flash := rfl
@[simp] theorem keepQueue_sec (s t : State) : (keepQueue s t).sec = t.sec := rfl
@[simp] theorem keepQueue_ref (s t : State) : (keepQueue s t).ref = t.ref := rfl
@[simp] theorem keepQueue_beats (s t : State) : (keepQueue s t).beats = t.beats := rfl
@[simp] theorem keepQueue_red (s t : State) : (keepQueue s t).red = t.red := rfl
@[simp] theorem keepQueue_draws (s t : State) : (keepQueue s t).draws = t.draws := rfl
@[simp] theorem keepQueue_out (s t : State) : (keepQueue s t).out = t.out := rfl
@[simp] theorem keepQueue_pending (s t : State) : (keepQueue s t).pending = s.pending := rfl

/-- Where an effect leaves the queue alone, keeping it changes nothing. -/
theorem keepQueue_eq {s t : State} (h : t.pending = s.pending) : keepQueue s t = t := by
  cases t; simp only at h; subst h; rfl

/-! ### A unit read after it is written -/

theorem chan_setChan (s : State) (n m : Nat) (c : Chan) : (s.setChan n c).chan m = if n = m then c else s.chan m :=
  mget_mset _ _ _ _ _
@[simp] theorem chan_setChan_same (s : State) (n : Nat) (c : Chan) : (s.setChan n c).chan n = c := mget_mset_same _ _ _ _
theorem core_setCore (s : State) (n i j : Nat) (c : Core) :
    (s.setCore n i c).core n j = if i = j then c else s.core n j := by
  unfold State.core State.setCore; rw [mget_mset]; simp
@[simp] theorem core_setCore_same (s : State) (n i : Nat) (c : Core) : (s.setCore n i c).core n i = c :=
  mget_mset_same _ _ _ _
theorem stream_setStream (s : State) (n i j : Nat) (c : Stream) :
    (s.setStream n i c).stream n j = if i = j then c else s.stream n j := by
  unfold State.stream State.setStream; rw [mget_mset]; simp
@[simp] theorem stream_setStream_same (s : State) (n i : Nat) (c : Stream) : (s.setStream n i c).stream n i = c :=
  mget_mset_same _ _ _ _
theorem port_setPort (s : State) (p q : Nat) (x : Port) : (s.setPort p x).port q = if p = q then x else s.port q :=
  mget_mset _ _ _ _ _
@[simp] theorem port_setPort_same (s : State) (p : Nat) (x : Port) : (s.setPort p x).port p = x := mget_mset_same _ _ _ _
theorem die_setDie (s : State) (k j : Nat) (d : Die) : (s.setDie k d).die j = if k = j then d else s.die j :=
  mget_mset _ _ _ _ _
@[simp] theorem die_setDie_same (s : State) (k : Nat) (d : Die) : (s.setDie k d).die k = d := mget_mset_same _ _ _ _
theorem bucket_setBucket (s : State) (t u : Nat) (b : Bucket) :
    (s.setBucket t b).bucket u = if t = u then b else s.bucket u := mget_mset _ _ _ _ _
@[simp] theorem bucket_setBucket_same (s : State) (t : Nat) (b : Bucket) : (s.setBucket t b).bucket t = b :=
  mget_mset_same _ _ _ _

/-! ### A unit read after something else is written -/

@[simp] theorem core_setChan (s : State) (n : Nat) (c : Chan) (n1 i1 : Nat) : (s.setChan n c).core n1 i1 = s.core n1 i1 := rfl
@[simp] theorem stream_setChan (s : State) (n : Nat) (c : Chan) (n1 i1 : Nat) : (s.setChan n c).stream n1 i1 = s.stream n1 i1 := rfl
@[simp] theorem die_setChan (s : State) (n : Nat) (c : Chan) (k1 : Nat) : (s.setChan n c).die k1 = s.die k1 := rfl
@[simp] theorem port_setChan (s : State) (n : Nat) (c : Chan) (p1 : Nat) : (s.setChan n c).port p1 = s.port p1 := rfl
@[simp] theorem bucket_setChan (s : State) (n : Nat) (c : Chan) (t1 : Nat) : (s.setChan n c).bucket t1 = s.bucket t1 := rfl
@[simp] theorem rd_setChan (s : State) (n : Nat) (c : Chan) (r1 : RegRef) : rd (s.setChan n c) r1 = rd s r1 := rfl
@[simp] theorem chan_setCore (s : State) (n i : Nat) (c : Core) (n1 : Nat) : (s.setCore n i c).chan n1 = s.chan n1 := rfl
@[simp] theorem stream_setCore (s : State) (n i : Nat) (c : Core) (n1 i1 : Nat) : (s.setCore n i c).stream n1 i1 = s.stream n1 i1 := rfl
@[simp] theorem die_setCore (s : State) (n i : Nat) (c : Core) (k1 : Nat) : (s.setCore n i c).die k1 = s.die k1 := rfl
@[simp] theorem port_setCore (s : State) (n i : Nat) (c : Core) (p1 : Nat) : (s.setCore n i c).port p1 = s.port p1 := rfl
@[simp] theorem bucket_setCore (s : State) (n i : Nat) (c : Core) (t1 : Nat) : (s.setCore n i c).bucket t1 = s.bucket t1 := rfl
@[simp] theorem rd_setCore (s : State) (n i : Nat) (c : Core) (r1 : RegRef) : rd (s.setCore n i c) r1 = rd s r1 := rfl
@[simp] theorem chan_setStream (s : State) (n i : Nat) (c : Stream) (n1 : Nat) : (s.setStream n i c).chan n1 = s.chan n1 := rfl
@[simp] theorem core_setStream (s : State) (n i : Nat) (c : Stream) (n1 i1 : Nat) : (s.setStream n i c).core n1 i1 = s.core n1 i1 := rfl
@[simp] theorem die_setStream (s : State) (n i : Nat) (c : Stream) (k1 : Nat) : (s.setStream n i c).die k1 = s.die k1 := rfl
@[simp] theorem port_setStream (s : State) (n i : Nat) (c : Stream) (p1 : Nat) : (s.setStream n i c).port p1 = s.port p1 := rfl
@[simp] theorem bucket_setStream (s : State) (n i : Nat) (c : Stream) (t1 : Nat) : (s.setStream n i c).bucket t1 = s.bucket t1 := rfl
@[simp] theorem rd_setStream (s : State) (n i : Nat) (c : Stream) (r1 : RegRef) : rd (s.setStream n i c) r1 = rd s r1 := rfl
@[simp] theorem chan_setDie (s : State) (k : Nat) (d : Die) (n1 : Nat) : (s.setDie k d).chan n1 = s.chan n1 := rfl
@[simp] theorem core_setDie (s : State) (k : Nat) (d : Die) (n1 i1 : Nat) : (s.setDie k d).core n1 i1 = s.core n1 i1 := rfl
@[simp] theorem stream_setDie (s : State) (k : Nat) (d : Die) (n1 i1 : Nat) : (s.setDie k d).stream n1 i1 = s.stream n1 i1 := rfl
@[simp] theorem port_setDie (s : State) (k : Nat) (d : Die) (p1 : Nat) : (s.setDie k d).port p1 = s.port p1 := rfl
@[simp] theorem bucket_setDie (s : State) (k : Nat) (d : Die) (t1 : Nat) : (s.setDie k d).bucket t1 = s.bucket t1 := rfl
@[simp] theorem rd_setDie (s : State) (k : Nat) (d : Die) (r1 : RegRef) : rd (s.setDie k d) r1 = rd s r1 := rfl
@[simp] theorem chan_setPort (s : State) (p : Nat) (x : Port) (n1 : Nat) : (s.setPort p x).chan n1 = s.chan n1 := rfl
@[simp] theorem core_setPort (s : State) (p : Nat) (x : Port) (n1 i1 : Nat) : (s.setPort p x).core n1 i1 = s.core n1 i1 := rfl
@[simp] theorem stream_setPort (s : State) (p : Nat) (x : Port) (n1 i1 : Nat) : (s.setPort p x).stream n1 i1 = s.stream n1 i1 := rfl
@[simp] theorem die_setPort (s : State) (p : Nat) (x : Port) (k1 : Nat) : (s.setPort p x).die k1 = s.die k1 := rfl
@[simp] theorem bucket_setPort (s : State) (p : Nat) (x : Port) (t1 : Nat) : (s.setPort p x).bucket t1 = s.bucket t1 := rfl
@[simp] theorem rd_setPort (s : State) (p : Nat) (x : Port) (r1 : RegRef) : rd (s.setPort p x) r1 = rd s r1 := rfl
@[simp] theorem chan_setBucket (s : State) (t : Nat) (b : Bucket) (n1 : Nat) : (s.setBucket t b).chan n1 = s.chan n1 := rfl
@[simp] theorem core_setBucket (s : State) (t : Nat) (b : Bucket) (n1 i1 : Nat) : (s.setBucket t b).core n1 i1 = s.core n1 i1 := rfl
@[simp] theorem stream_setBucket (s : State) (t : Nat) (b : Bucket) (n1 i1 : Nat) : (s.setBucket t b).stream n1 i1 = s.stream n1 i1 := rfl
@[simp] theorem die_setBucket (s : State) (t : Nat) (b : Bucket) (k1 : Nat) : (s.setBucket t b).die k1 = s.die k1 := rfl
@[simp] theorem port_setBucket (s : State) (t : Nat) (b : Bucket) (p1 : Nat) : (s.setBucket t b).port p1 = s.port p1 := rfl
@[simp] theorem rd_setBucket (s : State) (t : Nat) (b : Bucket) (r1 : RegRef) : rd (s.setBucket t b) r1 = rd s r1 := rfl
@[simp] theorem chan_wr (s : State) (r : RegRef) (v : W64) (n1 : Nat) : (wr s r v).chan n1 = s.chan n1 := rfl
@[simp] theorem core_wr (s : State) (r : RegRef) (v : W64) (n1 i1 : Nat) : (wr s r v).core n1 i1 = s.core n1 i1 := rfl
@[simp] theorem stream_wr (s : State) (r : RegRef) (v : W64) (n1 i1 : Nat) : (wr s r v).stream n1 i1 = s.stream n1 i1 := rfl
@[simp] theorem die_wr (s : State) (r : RegRef) (v : W64) (k1 : Nat) : (wr s r v).die k1 = s.die k1 := rfl
@[simp] theorem port_wr (s : State) (r : RegRef) (v : W64) (p1 : Nat) : (wr s r v).port p1 = s.port p1 := rfl
@[simp] theorem bucket_wr (s : State) (r : RegRef) (v : W64) (t1 : Nat) : (wr s r v).bucket t1 = s.bucket t1 := rfl
@[simp] theorem chan_setFld (s : State) (r : RegRef) (hi lo x : Nat) (n1 : Nat) : (setFld s r hi lo x).chan n1 = s.chan n1 := rfl
@[simp] theorem core_setFld (s : State) (r : RegRef) (hi lo x : Nat) (n1 i1 : Nat) : (setFld s r hi lo x).core n1 i1 = s.core n1 i1 := rfl
@[simp] theorem stream_setFld (s : State) (r : RegRef) (hi lo x : Nat) (n1 i1 : Nat) : (setFld s r hi lo x).stream n1 i1 = s.stream n1 i1 := rfl
@[simp] theorem die_setFld (s : State) (r : RegRef) (hi lo x : Nat) (k1 : Nat) : (setFld s r hi lo x).die k1 = s.die k1 := rfl
@[simp] theorem port_setFld (s : State) (r : RegRef) (hi lo x : Nat) (p1 : Nat) : (setFld s r hi lo x).port p1 = s.port p1 := rfl
@[simp] theorem bucket_setFld (s : State) (r : RegRef) (hi lo x : Nat) (t1 : Nat) : (setFld s r hi lo x).bucket t1 = s.bucket t1 := rfl
@[simp] theorem chan_setFlag (s : State) (r : RegRef) (i : Nat) (b : Bool) (n1 : Nat) : (setFlag s r i b).chan n1 = s.chan n1 := rfl
@[simp] theorem core_setFlag (s : State) (r : RegRef) (i : Nat) (b : Bool) (n1 i1 : Nat) : (setFlag s r i b).core n1 i1 = s.core n1 i1 := rfl
@[simp] theorem stream_setFlag (s : State) (r : RegRef) (i : Nat) (b : Bool) (n1 i1 : Nat) : (setFlag s r i b).stream n1 i1 = s.stream n1 i1 := rfl
@[simp] theorem die_setFlag (s : State) (r : RegRef) (i : Nat) (b : Bool) (k1 : Nat) : (setFlag s r i b).die k1 = s.die k1 := rfl
@[simp] theorem port_setFlag (s : State) (r : RegRef) (i : Nat) (b : Bool) (p1 : Nat) : (setFlag s r i b).port p1 = s.port p1 := rfl
@[simp] theorem bucket_setFlag (s : State) (r : RegRef) (i : Nat) (b : Bool) (t1 : Nat) : (setFlag s r i b).bucket t1 = s.bucket t1 := rfl
@[simp] theorem chan_count32 (s : State) (r : RegRef) (n : Nat) (n1 : Nat) : (count32 s r n).chan n1 = s.chan n1 := rfl
@[simp] theorem core_count32 (s : State) (r : RegRef) (n : Nat) (n1 i1 : Nat) : (count32 s r n).core n1 i1 = s.core n1 i1 := rfl
@[simp] theorem stream_count32 (s : State) (r : RegRef) (n : Nat) (n1 i1 : Nat) : (count32 s r n).stream n1 i1 = s.stream n1 i1 := rfl
@[simp] theorem die_count32 (s : State) (r : RegRef) (n : Nat) (k1 : Nat) : (count32 s r n).die k1 = s.die k1 := rfl
@[simp] theorem port_count32 (s : State) (r : RegRef) (n : Nat) (p1 : Nat) : (count32 s r n).port p1 = s.port p1 := rfl
@[simp] theorem bucket_count32 (s : State) (r : RegRef) (n : Nat) (t1 : Nat) : (count32 s r n).bucket t1 = s.bucket t1 := rfl
@[simp] theorem chan_count64 (s : State) (r : RegRef) (n : Nat) (n1 : Nat) : (count64 s r n).chan n1 = s.chan n1 := rfl
@[simp] theorem core_count64 (s : State) (r : RegRef) (n : Nat) (n1 i1 : Nat) : (count64 s r n).core n1 i1 = s.core n1 i1 := rfl
@[simp] theorem stream_count64 (s : State) (r : RegRef) (n : Nat) (n1 i1 : Nat) : (count64 s r n).stream n1 i1 = s.stream n1 i1 := rfl
@[simp] theorem die_count64 (s : State) (r : RegRef) (n : Nat) (k1 : Nat) : (count64 s r n).die k1 = s.die k1 := rfl
@[simp] theorem port_count64 (s : State) (r : RegRef) (n : Nat) (p1 : Nat) : (count64 s r n).port p1 = s.port p1 := rfl
@[simp] theorem bucket_count64 (s : State) (r : RegRef) (n : Nat) (t1 : Nat) : (count64 s r n).bucket t1 = s.bucket t1 := rfl

/-! ### Registers -/

theorem rd_wr (s : State) (r : RegRef) (v : W64) : rd (wr s r v) r = v := mget_mset_same _ _ _ _
theorem rd_wr_other (s : State) {r q : RegRef} (v : W64) (h : r.addr ≠ q.addr) : rd (wr s r v) q = rd s q := by
  unfold rd wr
  simp only [mget, mset]
  split
  · rw [mfind_merase, if_neg h]
  · rw [mfind_minsert, if_neg h]

/-- A field reads what was put into it. -/
theorem fld_setFld (s : State) (r : RegRef) (hi lo x : Nat) (h : lo ≤ hi) (h64 : hi < 64) :
    fld (setFld s r hi lo x) r hi lo = x % 2 ^ (hi + 1 - lo) := by
  unfold fld setFld
  rw [rd_wr, BitVec.toNat_ofNat, Nat.mod_eq_of_lt (putBits_lt _ _ _ _ (by omega) h64 (rd s r).isLt),
    bits_putBits_same _ _ _ _ (by omega)]

/-- A field apart of the same register reads as before. -/
theorem fld_setFld_other (s : State) (r : RegRef) (hi lo x hi' lo' : Nat) (h : lo ≤ hi) (h64 : hi < 64)
    (ha : hi < lo' ∨ hi' < lo) : fld (setFld s r hi lo x) r hi' lo' = fld s r hi' lo' := by
  unfold fld setFld
  rw [rd_wr, BitVec.toNat_ofNat, Nat.mod_eq_of_lt (putBits_lt _ _ _ _ (by omega) h64 (rd s r).isLt),
    bits_putBits_other _ _ _ _ _ _ (by omega) ha]

/-- A field of another register reads as before. -/
theorem fld_setFld_apart (s : State) {r q : RegRef} (hi lo x hi' lo' : Nat) (h : r.addr ≠ q.addr) :
    fld (setFld s r hi lo x) q hi' lo' = fld s q hi' lo' := by
  unfold fld setFld; rw [rd_wr_other s _ h]
theorem rd_setFld_other (s : State) {r q : RegRef} (hi lo x : Nat) (h : r.addr ≠ q.addr) :
    rd (setFld s r hi lo x) q = rd s q := rd_wr_other s _ h

theorem flag_setFlag (s : State) (r : RegRef) (i : Nat) (b : Bool) (h : i < 64) : flag (setFlag s r i b) r i = b := by
  unfold flag setFlag
  rw [fld_setFld _ _ _ _ _ (Nat.le_refl _) h]
  have : i + 1 - i = 1 := by omega
  rw [this]; cases b <;> rfl

/-- A 32-bit counter stops at its largest value. -/
theorem rd_count32 (s : State) (r : RegRef) (n : Nat) :
    (rd (count32 s r n) r).toNat = min ((rd s r).toNat + n) 0xFFFFFFFF := by
  unfold count32; rw [rd_wr, BitVec.toNat_ofNat]; omega
theorem rd_count32_other (s : State) {r q : RegRef} (n : Nat) (h : r.addr ≠ q.addr) : rd (count32 s r n) q = rd s q :=
  rd_wr_other s _ h
/-- A 64-bit counter wraps. -/
theorem rd_count64 (s : State) (r : RegRef) (n : Nat) : rd (count64 s r n) r = rd s r + BitVec.ofNat 64 n := rd_wr _ _ _
theorem rd_count64_other (s : State) {r q : RegRef} (n : Nat) (h : r.addr ≠ q.addr) : rd (count64 s r n) q = rd s q :=
  rd_wr_other s _ h
/-- A record that holds a fault keeps it; one that holds none takes it. -/
theorem recordOnce_full {s : State} {r : RegRef} (v : Nat) (h : flag s r 63 = true) : recordOnce s r v = s := by
  unfold recordOnce; rw [if_pos h]
theorem recordOnce_empty {s : State} {r : RegRef} (v : Nat) (h : flag s r 63 = false) :
    recordOnce s r v = wr s r (BitVec.ofNat 64 (2 ^ 63 + v)) := by
  unfold recordOnce; rw [h]; rfl

end Sys2Proof.Machine
end

