-- ==== Sys2Proof/Laws/Canonical.lean ====
section
/-! SUPPORT. Every operation that writes memory keeps its canonical form: the bytes written as they stand, the words
merged, copied and rewritten, the events recorded, and the ranges wiped. -/

namespace Sys2Proof.Machine

theorem memoryOk_iff (s : State) : MemoryOk s ↔ Canonical 0 s.mem := Memory.wf_iff _

/-- A state with the same memory is canonical with it. -/
theorem MemoryOk.of_mem {s t : State} (h : MemoryOk s) (e : t.mem = s.mem) : MemoryOk t := by
  unfold MemoryOk at *; rw [e]; exact h

theorem memoryOk_reset : MemoryOk State.reset := (memoryOk_iff _).2 (canonical_nil 0)

@[simp] theorem clearErrs_mem (s : State) (w : Nat) : (clearErrs s w).mem = s.mem := by
  unfold clearErrs; dsimp only

@[simp] theorem setEq_mem (s : State) (q : Nat) (h : EvQueue) : (setEq s q h).mem = s.mem := by
  unfold setEq; split <;> simp

theorem memoryOk_mset {s : State} (h : MemoryOk s) (a : Nat) (b : Byte) (t : State) (e : t.mem = mset 0 s.mem a b) :
    MemoryOk t :=
  (memoryOk_iff t).2 (e ▸ canonical_mset ((memoryOk_iff s).1 h) a b)

theorem memoryOk_pokeBytes {s : State} (h : MemoryOk s) (a : Nat) (bs : List Byte) : MemoryOk (pokeBytes s a bs) := by
  induction bs generalizing s a with
  | nil => exact h
  | cons b r ih => exact ih (memoryOk_mset h a b _ rfl) (a + 1)

theorem memoryOk_storeRaw {s : State} (h : MemoryOk s) (a : Nat) (bs : List Byte) : MemoryOk (storeRaw s a bs) := by
  induction bs generalizing s a with
  | nil => exact h
  | cons b r ih => exact ih (memoryOk_mset h a b _ rfl) (a + 1)

theorem memoryOk_putWord {s : State} (h : MemoryOk s) (w data mask : Nat) : MemoryOk (putWord s w data mask).1 := by
  unfold putWord
  split
  · exact (memoryOk_storeRaw h _ _).of_mem (clearErrs_mem _ _)
  · split
    · exact h
    · exact (memoryOk_storeRaw h _ _).of_mem (clearErrs_mem _ _)

theorem memoryOk_copyWord {s : State} (h : MemoryOk s) (src dst : Nat) : MemoryOk (copyWord s src dst) := by
  unfold copyWord
  split
  · refine (memoryOk_storeRaw h (16 * dst) (peekBytes s (16 * src) 16)).of_mem ?_
    dsimp only
  · exact (memoryOk_storeRaw h _ _).of_mem (clearErrs_mem _ _)

theorem memoryOk_rewriteWord {s : State} (h : MemoryOk s) (w : Nat) : MemoryOk (rewriteWord s w) := by
  unfold rewriteWord
  exact (memoryOk_storeRaw h _ _).of_mem (clearErrs_mem _ _)

theorem memoryOk_wipeKeys {s : State} (h : MemoryOk s) (lo hi : Nat) : MemoryOk (wipeKeys s lo hi) := by
  rw [memoryOk_iff] at *
  unfold wipeKeys
  exact canonical_mkeep h fun a => decide (a < lo) || decide (hi ≤ a)

theorem memoryOk_evWrite {s : State} (h : MemoryOk s) (q : Nat) (e : Ev) : MemoryOk (evWrite s q e) := by
  unfold evWrite
  dsimp only
  exact (memoryOk_pokeBytes h _ _).of_mem (by rw [setEq_mem, setFld_mem])

theorem memoryOk_evEnter {s : State} (h : MemoryOk s) (q : Nat) (e : Ev) : MemoryOk (evEnter s q e) := by
  unfold evEnter
  split
  · split
    · exact h.of_mem (setEq_mem _ _ _)
    · exact h.of_mem (by simp)
  · exact memoryOk_evWrite h q e

theorem memoryOk_post {s : State} (h : MemoryOk s) (q code : Nat) (op : W32) (args : List (Nat × Nat)) :
    MemoryOk (post s q code op args) := by
  unfold post
  dsimp only
  split
  · exact memoryOk_evEnter (memoryOk_evEnter h _ _) _ _
  · exact memoryOk_evEnter h _ _

theorem portBytes_mem (s : State) (up : Bool) (a n : Nat) : (portBytes s up a n).mem = s.mem := by
  unfold portBytes; split <;> simp

@[simp] theorem markDirty_mem (s : State) (n off : Nat) : (markDirty s n off).mem = s.mem := by
  unfold markDirty; dsimp only; split <;> simp

@[simp] theorem freshCached_mem (s : State) (w k : Nat) : (freshCached s w k).mem = s.mem := rfl

/-- A fold keeps a property that each of its steps keeps. -/
theorem foldl_keeps {α β : Type} (P : β → Prop) (f : β → α → β) (hf : ∀ b a, P b → P (f b a)) (l : List α) {b : β}
    (h : P b) : P (l.foldl f b) := by
  induction l generalizing b with
  | nil => exact h
  | cons a r ih => exact ih (hf b a h)

theorem memoryOk_reshadow {s : State} (h : MemoryOk s) (a : Nat) : MemoryOk (reshadow s a) := by
  unfold reshadow
  refine foldl_keeps MemoryOk _ (fun s n h => ?_) _ h
  dsimp only
  split
  · exact h
  · split
    · exact foldl_keeps MemoryOk _ (fun s b h => h.of_mem (markDirty_mem _ _ _)) _ h
    · exact h

@[simp] theorem recordField_mem (s : State) (kind n pl : Nat) : (recordField s kind n pl).mem = s.mem := by
  unfold recordField; dsimp only; repeat' split
  all_goals simp

theorem memoryOk_failRow {s : State} (h : MemoryOk s) (n kind pl : Nat) : MemoryOk (failRow s n kind pl) := by
  unfold failRow
  dsimp only
  split
  · exact h
  · exact h.of_mem (by rw [recordField_mem, count32_mem, State.setChan_mem])

theorem memoryOk_noteCeWord {s : State} (h : MemoryOk s) (a : Nat) : MemoryOk (noteCeWord s a) := by
  unfold noteCeWord
  dsimp only
  repeat' split
  · exact h
  · exact h
  · exact memoryOk_failRow (h.of_mem (by simp)) _ _ _
  · exact h.of_mem (by simp)

theorem memoryOk_noteUeWord {s : State} (h : MemoryOk s) (a : Nat) : MemoryOk (noteUeWord s a) := by
  unfold noteUeWord
  dsimp only
  split
  · exact h
  · refine memoryOk_failRow ?_ _ _ _
    have p : ∀ k, MemoryOk (if k = 4 then reshadow s a else s) := fun k => by
      split
      · exact memoryOk_reshadow h a
      · exact h
    split
    · rename_i k _ _ _
      exact (p k).of_mem (State.setChan_mem _ _ _)
    · exact p _

theorem memoryOk_noteMerge {s : State} (h : MemoryOk s) (a mask : Nat) : MemoryOk (noteMerge s a mask) := by
  unfold noteMerge
  split
  · exact h
  · split
    · exact h
    · refine memoryOk_noteCeWord ?_ _
      split
      · exact h.of_mem (by simp)
      · exact h
    · refine memoryOk_noteUeWord ?_ _
      split
      · exact h.of_mem (by simp)
      · exact h

theorem memoryOk_writeDram {s : State} (h : MemoryOk s) (a data mask : Nat) : MemoryOk (writeDram s a data mask).1 := by
  have p := memoryOk_putWord (memoryOk_noteMerge h a mask) (a / 16) data mask
  unfold writeDram
  dsimp only
  repeat' split
  · exact p.of_mem (by rw [freshCached_mem, portBytes_mem, markDirty_mem, State.setChan_mem])
  · exact p
  · exact p.of_mem (by simp)
  · exact p
  · exact p

theorem memoryOk_writeWord {s : State} (h : MemoryOk s) (a data mask : Nat) : MemoryOk (writeWord s a data mask).1 := by
  unfold writeWord
  dsimp only
  split
  · split
    · exact h
    · rename_i _ n off _ _ k _
      have p := memoryOk_writeDram h k data mask
      cases hx : writeDram s k data mask with
      | mk t ok =>
        rw [hx] at p
        have p2 := memoryOk_writeDram p (tier0Base (partner n) + off) data mask
        cases hy : writeDram t (tier0Base (partner n) + off) data mask with
        | mk u both =>
          rw [hy] at p2
          dsimp only
          repeat' split
          all_goals first | exact p | exact p2
  · have p := memoryOk_writeDram h (a / 16 * 16) data mask
    cases hx : writeDram s (a / 16 * 16) data mask with
    | mk t ok =>
      rw [hx] at p
      dsimp only
      split <;> exact p
  · exact h

theorem memoryOk_writeWords {s : State} (h : MemoryOk s) (l : List (Nat × Nat × Nat)) : MemoryOk (writeWords s l).1 := by
  induction l generalizing s with
  | nil => exact h
  | cons e r ih =>
    obtain ⟨w, d, m⟩ := e
    have p := memoryOk_writeWord h (16 * w) d m
    unfold writeWords
    split
    · rename_i heq; rw [heq] at p; exact ih p
    · rename_i heq; rw [heq] at p; exact ih p
    · rename_i heq; rw [heq] at p; exact p

theorem memoryOk_writeRange {s : State} (h : MemoryOk s) (a : Nat) (bs : List Byte) : MemoryOk (writeRange s a bs).1 :=
  memoryOk_writeWords h _

end Sys2Proof.Machine
end

