-- ==== Sys2Proof/Laws/Exec.lean ====
section
/-! SUPPORT. What a command can answer: a next state, in which the queue stands as it was. -/

namespace Sys2Proof.Machine

theorem next_keep (s u : State) :
    ∃ t, (Host.Outcome.next (keepQueue s u) : Host.Outcome State Fault Refusal) = .next (keepQueue s t) := ⟨u, rfl⟩

/-- Every command answers a next state, with the queue it was given. -/
theorem exec_next (c : Instr) (s : State) : ∃ t, exec c s = .next (keepQueue s t) := by
  cases c <;> (unfold exec; exact next_keep s _)

/-- A step on a queue runs its front. -/
theorem step_cons {c : Instr} {r : List Instr} {s : State} (h : s.pending = c :: r) :
    step s = exec c { s with pending := r } := by unfold step; rw [h]

theorem step_nil {s : State} (h : s.pending = []) : step s = .next (idleTick s) := by unfold step; rw [h]

end Sys2Proof.Machine
end

