-- ==== Sys2Proof/Laws/Memory.lean ====
section
/-! SUPPORT. What reading memory does: a read of words without symbol errors delivers the bytes that stand there, and a
read of tier 1 changes nothing. -/

namespace Sys2Proof.Machine

/-- Without symbol errors every word is clean. -/
theorem decodeWord_clean {s : State} (h : s.errs = []) (w : Nat) : decodeWord s w = .clean := by
  unfold decodeWord wordErrs
  simp only [h, mget, mfind, Option.getD_none]
  decide

/-- Where no word holds an error a core store read delivers its data and changes nothing (R143, R144). -/
theorem csRead_clean {s : State} (h : s.errs = []) (n i : Nat) (ws : List (Nat × Nat)) : csRead s n i ws = (s, none) := by
  induction ws with
  | nil => rfl
  | cons w ws ih =>
    have d : csDecode s n i w.1 w.2 = (s, true) := by
      simp only [csDecode, decodeWord_clean h]
    simp only [csRead, d, ih, if_true]

theorem taskRead_clean {s : State} (h : s.errs = []) (n i t : Nat) (ws : List (Nat × Nat)) :
    taskRead s n i t ws = (s, true) := by
  simp only [taskRead, csRead_clean h]

/-- Without symbol errors a byte is delivered as it stands. -/
theorem goodByte_clean {s : State} (h : s.errs = []) (a : Nat) : goodByte s a = mget 0 s.mem a := by
  unfold goodByte
  rw [decodeWord_clean h, h]
  simp [mget, mfind]

/-- A word of tier 1 is read, across no port, and the state stays. -/
theorem readAt_tier1 {inside : Bool} {s : State} {a n off : Nat} (h : s.errs = [])
    (hp : place (a / 16 * 16) = .tier1 n off) :
    readAt inside s a = (s, .ok ((List.range 16).map fun i => mget 0 s.mem (a / 16 * 16 + i))) := by
  have hr : resolve s (a / 16 * 16) false = .ok (a / 16 * 16) := by unfold resolve; rw [hp]
  have hb : portBytes s true (a / 16 * 16) 16 = s := by unfold portBytes; rw [hp]
  unfold readAt
  simp only [hr, hb, hp, ite_self]
  unfold readDram
  simp only [decodeWord_clean h, goodBytes, goodByte_clean h]

/-- Words of tier 1 are read in order, and the state stays. -/
theorem readWordsOn_tier1 {inside : Bool} {s : State} (h : s.errs = []) (ws : List Nat)
    (hw : ∀ w ∈ ws, ∃ n off, place (16 * w) = .tier1 n off) :
    readWordsOn inside s ws = (s, .ok (ws.map fun w => (w, (List.range 16).map fun i => mget 0 s.mem (16 * w + i)))) := by
  induction ws with
  | nil => rfl
  | cons w r ih =>
    obtain ⟨n, off, hp⟩ := hw w (by simp)
    have e : 16 * w / 16 * 16 = 16 * w := by omega
    simp only [readWordsOn, readAt_tier1 h (e.symm ▸ hp : place (16 * w / 16 * 16) = .tier1 n off), e,
      ih fun x hx => hw x (by simp [hx]), List.map_cons]

/-- The place of an address of tier 1. -/
theorem place_tier1 {a : Nat} (lo : 0x10000000000 ≤ a) (hi : a < 0x10000000000 + 4 * tier1Size) :
    ∃ n off, place a = .tier1 n off := by
  unfold place
  rw [if_neg (by unfold tier0Size; omega), if_pos ⟨lo, hi⟩]
  exact ⟨_, _, rfl⟩

/-- Whole words in a row, byte by byte. -/
theorem wordBytes (f : Nat → Byte) (a k : Nat) :
    (((List.range k).map (· + a)).flatMap fun w => (List.range 16).map fun i => f (16 * w + i)) =
      (List.range (16 * k)).map fun i => f (16 * a + i) := by
  induction k with
  | zero => rfl
  | succ k ih =>
    rw [List.range_succ (n := k), List.map_append, List.flatMap_append, ih, show 16 * (k + 1) = 16 * k + 16 by omega, List.range_add,
      List.map_append]
    simp [Function.comp_def, Nat.mul_add, Nat.add_comm, Nat.add_left_comm]

/-- A range of tier 1 is read as it stands, and the state stays. -/
theorem readRange_tier1 {s : State} (h : s.errs = []) (a n : Nat) (lo : 0x10000000000 ≤ a)
    (hi : a + n ≤ 0x10000000000 + 4 * tier1Size) :
    readRange s a n = (s, .ok ((List.range n).map fun i => mget 0 s.mem (a + i))) := by
  rcases Nat.eq_zero_or_pos n with rfl | hn
  · rfl
  have ht : tier1Size % 16 = 0 := rfl
  unfold readRange readWords wordsOf
  rw [if_neg (by omega), readWordsOn_tier1 h _ (by
    intro w m
    obtain ⟨i, hi', rfl⟩ := List.mem_map.1 m
    have := List.mem_range.1 hi'
    exact place_tier1 (by omega) (by omega))]
  have hm : ∀ l : List Nat, ((l.map fun w => (w, (List.range 16).map fun i => mget 0 s.mem (16 * w + i))).flatMap (·.2)) =
      l.flatMap fun w => (List.range 16).map fun i => mget 0 s.mem (16 * w + i) := fun l => List.flatMap_map ..
  simp only [hm, wordBytes (fun x => mget 0 s.mem x)]
  congr 2
  apply List.ext_getElem
  · simp; omega
  · intro i h1 h2
    simp only [List.getElem_take, List.getElem_drop, List.getElem_map, List.getElem_range]
    congr 1; omega

/-- So the loader reads it. -/
theorem loaderRead_tier1 {s : State} (h : s.errs = []) (a n : Nat) (lo : 0x10000000000 ≤ a)
    (hi : a + n ≤ 0x10000000000 + 4 * tier1Size) :
    loaderRead s a n = (s, some ((List.range n).map fun i => mget 0 s.mem (a + i))) := by
  unfold loaderRead
  rw [readRange_tier1 h a n lo hi]

end Sys2Proof.Machine
end

