-- ==== Sys2Proof/Machine/Tap.lean ====
section
/-! DEFINITION. The test access port (R687 to R689): the data register that an instruction selects, its capture, shift
and update, as IEEE 1149.1 has them. The opcode table has no row that scans; its two rows move the controller. -/

namespace Sys2Proof.Machine

/-- A data register of the port. -/
inductive TapReg where
  | bypass | idcode | boundary | debug
deriving DecidableEq, Repr

/-- The register between TDI and TDO under an instruction (R687, R689). -/
def tapSelects (s : State) : TapInstr → TapReg
  | .bypass => .bypass
  | .idcode => .idcode
  | .samplePreload => .boundary
  | .extest => .boundary
  | .debugAccess => if flag s Reg.glbLcStatus 24 then .debug else .bypass

/-- The signals that the boundary register covers (R687): of J3, ALERT_N, RESET_N and SA0 to SA2 as the state holds them
and the two bus signals; VIN_SENSE; the enable lines of the eight bye relays. -/
def boundarySignals (s : State) : List Bool :=
  [!alertSignal s, !s.board.held, bit s.board.straps 0, bit s.board.straps 1, bit s.board.straps 2,
    (Config.openValue 687 [0]).getLsbD 0, (Config.openValue 687 [1]).getLsbD 0, flag s Reg.glbPwrStatus 28] ++
  List.replicate 8 (relaysOpen s)

/-- A number's bits, the least first. -/
def bitsOf (n v : Nat) : List Bool := (List.range n).map (bit v)

/-- Capture of the selected register. The order of the boundary cells is the BSDL file's: a free permutation. -/
def tapCapture (s : State) : List Bool :=
  match tapSelects s s.board.tap.instr with
  | .bypass => [false]
  | .idcode => bitsOf 32 Config.idcode.toNat
  | .boundary =>
    let w := boundarySignals s
    let key := fun (p : Bool × Nat) => (Config.openValue 687 [2, p.2]).toNat
    (w.zipIdx.mergeSort fun a b => decide (key a ≤ key b)).map Prod.fst
  | .debug => bitsOf 64 (Config.openValue 689 [s.draws]).toNat

/-- A bit shifted in at the far end of the register; the bit that leaves it. -/
def tapShift (s : State) (tdi : Bool) : State × Bool :=
  let d := s.board.tap.data
  ({ s with board := { s.board with tap := { s.board.tap with data := d.drop 1 ++ [tdi] } } }, d.headD false)

/-- Update of the selected register: the boundary cells take what was shifted in. -/
def tapUpdate (s : State) : State :=
  match tapSelects s s.board.tap.instr with
  | .boundary => { s with board := { s.board with tap := { s.board.tap with boundary := s.board.tap.data } } }
  | _ => s

/-- An instruction put in force, and its register captured. -/
def tapInstruct (i : TapInstr) (s : State) : State :=
  let s := { s with board := { s.board with tap := { s.board.tap with instr := i } } }
  { s with board := { s.board with tap := { s.board.tap with data := tapCapture s } } }

end Sys2Proof.Machine
end

