-- ==== Sys2Proof/Tests/Slice0.lean ====
section
/-! SUPPORT. Tests: ill-formed commands that WellFormed refuses, worked values of the spec, and for each statement with
hypotheses a state and operands that meet them. -/

namespace Sys2Proof.Tests

open Sys2Proof Sys2Proof.Machine

set_option Elab.async false

/-! ### WellFormed refuses -/

theorem test_wf_access_count :
    (Instr.coreStoreAccess 0 0 ⟨.vector, false, false, 0, 0, 33, [], []⟩ 0 []).wf = false := by decide
theorem test_wf_access_row :
    (Instr.coreStoreAccess 0 0 ⟨.vector, false, false, 512, 0, 1, [], []⟩ 0 []).wf = false := by decide
theorem test_wf_access_data :
    (Instr.coreStoreAccess 0 0 ⟨.vector, true, false, 0, 0, 2, [0], [0]⟩ 0 []).wf = false := by decide
theorem test_wf_upset : (Instr.scrubPass 0 .tier0 [⟨0, 0, 0⟩]).wf = false := by decide
theorem test_wf_disturb : (Instr.checksumCompare 0 0 [⟨0, 33, 0, 0⟩]).wf = false := by decide
theorem test_wf_flit :
    (Instr.idleFlit 0 ⟨16, 0, 0, false, 0, 0, 0, 0, 0x3F, List.replicate 624 0⟩ ⟨false, false, true⟩).wf = false := by decide
theorem test_wf_frame : (Instr.hostFrame 6 ⟨0, 0, 0, false, List.replicate 65536 0⟩).wf = false := by
  rw [Instr.wf, HostFrame.wf, List.length_replicate]; decide
theorem test_wf_sensor : (Instr.thermalSensorSample [(⟨0, 64⟩, 20)]).wf = false := by decide
theorem test_wf_refresh : (Instr.dramRefresh 0 true 0 0 (some 3)).wf = false := by decide
theorem test_wf_counter : (Instr.counter 0 [(768, 1)]).wf = false := by decide
theorem test_wf_seed : (Instr.lcTransition [1] [1] 0).wf = false := by decide
theorem test_wf_debug :
    (Instr.debugPortAccess (.store 0 0 ⟨.debug, false, true, 511, 0, 2, [], []⟩) 0).wf = true := by decide
theorem test_wf_plain : (Instr.product 0).wf = true := by decide

/-! ### States -/

/-- The module in AUX, RESET, ACTIVE, DORMANT and waking. -/
abbrev aux : State := State.reset
abbrev inReset : State := setFld aux Reg.glbPwrStatus 31 29 2
abbrev up : State := setFld aux Reg.glbPwrStatus 31 29 3
abbrev asleep : State := setFld aux Reg.glbPwrStatus 31 29 4
abbrev waking : State := setFld aux Reg.glbPwrStatus 31 29 6

/-- The board controller changed. -/
abbrev withBoard (s : State) (f : Board → Board) : State := { s with board := f s.board }

/-! ### Power, clocks and temperature -/

theorem witness_ClockStretch_1 : outOfReset up = true ∧ stretchOf up 0 < (1 : Fin 3).val := by decide
theorem witness_ClockStretch_2 : stretchOf (setFld up (Reg.chClkStatus 0) 17 16 2) 0 ≠ 0 := by decide
theorem witness_InputLimits_1 : railsUp up = true ∧ up.board.ilimit = false := by decide
theorem witness_InputLimits_2 : (withBoard up fun b => { b with ilimit := true }).board.ilimit = true := by decide
theorem witness_ControlLoops_1 : flag (setFlag up Reg.glbPwrCap 31 true) Reg.glbPwrCap 31 = true ∧
    max 800 (fld (setFlag up Reg.glbPwrCap 31 true) Reg.glbPwrCap 11 0) < 1751 ∧
    (setFlag up Reg.glbPwrCap 31 true).board.capStep ≠ 0 := by decide
/-- A module whose cap loop stands at step 7 with the host's ceiling at 8. -/
abbrev capped : State := withBoard (setFld (setFlag up Reg.glbPwrCap 31 true) Reg.glbPwrCap 30 27 8) fun b => { b with capStep := 7 }
theorem witness_ControlLoops_2 : flag capped Reg.glbPwrCap 31 = true ∧
    100 * 775 < 97 * max 800 (fld capped Reg.glbPwrCap 11 0) ∧ capped.board.capStep < hostStep capped := by decide
theorem witness_ControlLoops_4 : flag capped Reg.glbPwrCap 31 = true ∧ 1750 ≤ max 800 (fld capped Reg.glbPwrCap 11 0) ∧
    97 * max 800 (fld capped Reg.glbPwrCap 11 0) ≤ 100 * 1750 := by decide
theorem witness_ControlLoops_5 : flag (setFlag up Reg.glbPwrCap 31 false) Reg.glbPwrCap 31 = false := by decide
theorem witness_ControlLoops_3 : up.board.therm.length = 4 := by decide
theorem witness_PowerStates_1 : powerState up = 3 ∧ dormantBlocked up = false := by decide
theorem witness_PowerStates_2 : powerState (setFlag up (Reg.chTimingMode 0) 2 true) = 3 ∧
    dormantBlocked (setFlag up (Reg.chTimingMode 0) 2 true) = true := by decide
theorem witness_PowerStates_3 : powerState asleep = 4 := by decide
theorem witness_PowerStates_4 : powerState waking = 6 := by decide
theorem witness_PowerStates_5 : outOfReset up = true ∧ (up.core 0 799).array = none ∧ (up.core 0 799).behind = none ∧ (up.core 0 799).vec = none ∧
    (up.core 0 799).fill = none ∧ (up.core 0 799).deck = none ∧ (up.core 0 799).gather = [] := by decide
theorem witness_ResetSources_1 : railsUp (setFlag up Reg.glbPwrStatus 28 true) = true ∧
    flag (setFlag up Reg.glbPwrStatus 28 true) Reg.glbPwrStatus 28 = true := by decide
theorem witness_ResetSources_2 : railsUp inReset = true ∧ (15 : Fin 17).val ≠ 0 ∧ (15 : Fin 17).val ≤ 15 := by decide
theorem witness_ResetSources_3 : railsUp up = true ∧ up.board.off = false ∧ up.board.held = false ∧ 1000 ≤ 1000 := by decide
theorem witness_ResetSources_5 : railsUp up = true ∧ up.board.tap.outside = false ∧ up.board.off = false := by decide
/-- A sensor of the dies' class that stood at its trip point in the last sample. -/
abbrev hot : Sensor := ⟨1, 0⟩
abbrev scorched : State := withBoard up fun b => { b with hotOnce := [hot] }
theorem witness_ThermalTrip_1 : railsUp scorched = true ∧ scorched.board.hotOnce = [hot] ∧
    reaches (hot, 200) (tripOf hot) = true := by decide
theorem witness_ThermalTrip_2 : up.board.hotOnce = [] ∧ up.board.lockout = false := by decide
theorem witness_PowerSequence_1 : powerState aux = 1 ∧ aux.board.off = false ∧ aux.board.lockout = false ∧
    aux.board.held = false ∧ (aux.board.causes / 16) % 2 = 0 := by decide
/-- AUX after a brownout. -/
abbrev brown : State := withBoard aux fun b => { b with causes := 16 }
theorem witness_PowerSequence_2 : powerState brown = 1 ∧ brown.board.off = false ∧ brown.board.lockout = false ∧
    brown.board.held = false ∧ flag brown Reg.glbPwrStatus 28 = false ∧ (brown.board.causes / 16) % 2 = 1 := by decide
theorem witness_PowerSequence_3 : (withBoard inReset fun b => { b with tap := { b.tap with outside := true } }).board.tap.outside = true ∧
    railsUp (withBoard inReset fun b => { b with tap := { b.tap with outside := true } }) = true := by decide

/-! ### PMBus -/

theorem witness_PmbusReads_1 : up.board.off = false ∧ up.board.page = 0 := by decide
theorem witness_PmbusReads_2 : (withBoard up fun b => { b with page := 15 }).board.off = false ∧
    1 ≤ (withBoard up fun b => { b with page := 15 }).board.page ∧
    (withBoard up fun b => { b with page := 15 }).board.page ≤ 15 := by decide
theorem witness_PmbusWrites_1 : up.board.off = false ∧ (16 : Byte).toNat ≤ 16 := by decide
theorem witness_PmbusWrites_2 : up.board.off = false ∧ up.board.lockout = false ∧ (1 : W16).toNat < 2 := by decide
/-- R620: a reading of 12 V: 192 × 2^−4 in Linear11. -/
theorem test_linear11 : milli11 12000 (-4) % 65536 = 0xE0C0 := by decide

/-! ### Control cores and event queues -/

abbrev silent : State := { up with beats := [] }
theorem witness_ControlCores_1 : fld up (ccStatus 0) 31 30 ≠ 0 := by decide
theorem witness_ControlCores_2 : Seat.standby ≠ Seat.active := by decide
theorem witness_ControlCores_3 : outOfReset { up with beats := [4] } = true ∧
    fld { up with beats := [4] } (ccStatus 4) 31 30 ≠ 0 ∧ 4 ∈ ({ up with beats := [4] } : State).beats := by decide
theorem witness_ControlCores_4 : outOfReset silent = true ∧ fld silent (ccStatus 3) 31 30 ≠ 0 ∧ 3 ∉ silent.beats ∧
    fld silent (ccStatus 3) 1 0 = 0 := by decide
theorem witness_ControlCores_5 : outOfReset (setFld silent (ccStatus 3) 1 0 1) = true ∧
    fld (setFld silent (ccStatus 3) 1 0 1) (ccStatus 3) 31 30 = 1 ∧ 3 ∉ (setFld silent (ccStatus 3) 1 0 1).beats ∧
    fld (setFld silent (ccStatus 3) 1 0 1) (ccStatus 3) 1 0 = 1 ∧
    flag (setFld silent (ccStatus 3) 1 0 1) (ccStatus 3) 28 = false := by decide
theorem witness_EventQueues_1 : (1023 : W64).toNat < 1024 ∧ (getEq up 4).waiting = [] ∧ (getEq up 4).lost = 0 := by decide
theorem witness_EventQueues_2 : (tier1Size - 32768) % 64 = 0 ∧ tier1Size - 32768 + 32768 ≤ tier1Size ∧
    (getEq up 3).waiting = [] ∧ (getEq up 3).lost = 0 := by decide
/-- A captain, module 0, with nothing to forward. -/
abbrev captain : State := setFlag up Reg.glbGroupStatus 36 true
theorem witness_EventQueues_4 : captainOf captain = some 0 ∧ unforwarded captain = [] := by decide
/-- One record, marked for the host and not of a fault's class, stands in the global queue. -/
abbrev told : State :=
  setFlag (setFld (pokeBytes { up with geq := ⟨1, [], 0, 0⟩ } (tier1Base 0) (leBytes 8 (2 ^ 52)))
    Reg.glbEqBase 47 0 (tier1Base 0)) Reg.glbGroupStatus 36 true |> fun s => setFld s Reg.glbEqTail 9 0 1
theorem witness_EventQueues_5 : captainOf told = some 0 ∧ unforwarded told = [0] ∧
    (globalRecord told 0).map (fun r => (bit (leNat (r.take 8)) 52, bit (leNat (r.take 8)) 53)) = some (true, false) := by decide
/-- A queue with room, and one whose base is 0. -/
abbrev roomy : State := setFld up (eqBase 0) 47 0 (tier1Base 0)
theorem witness_EventRecord_1 : eqFull roomy 0 = false ∧ eqFull (setFld roomy (eqTail 0) 9 0 1023) 0 = true ∧
    eqFull (setFld (setFld roomy (eqTail 0) 9 0 1023) (eqHead 0) 9 0 1) 0 = false := by decide
theorem witness_EventRecord_2 : eqFull up 0 = true ∧ (⟨5, 0, 0, 0, 0, false, true⟩ : Ev).fault = true ∧
    (⟨1, 0, 0, 0, 0, false, false⟩ : Ev).fault = false := by decide

/-! ### Start-up and security -/

theorem witness_StartUp_1 : powerState inReset = 2 ∧ inReset.board.held = false ∧ inReset.board.tap.outside = false ∧
    phase inReset = 0 := by decide
theorem witness_StartUp_2 : phase (setFld up Reg.glbStartStatus 30 27 1) = 1 ∧
    isReady (setFld up Reg.glbStartStatus 30 27 1) = false := by decide
abbrev wiping : State := setFld up Reg.glbStartStatus 30 27 2
theorem witness_StartUp_3 : phase wiping = 2 ∧ isReady wiping = false ∧ wiping.sec.boot = none := by decide
theorem witness_StartUp_4 : phase ({ wiping with sec := { wiping.sec with boot := some ⟨[], [], none⟩ } } : State) = 2 ∧
    ({ wiping with sec := { wiping.sec with boot := some ⟨[], [], none⟩ } } : State).sec.boot ≠ none := by decide
theorem witness_TimingMode : (7 : W64).toNat < 8 := by decide
/-- RETURN_VENDOR with a debug token in the window. -/
abbrev returned : State := wr { up with fuses := { up.fuses with state1 := 4 } } (Reg.glbLcToken 0) 0xD
/-- A token for PROVISIONED in the window, before its transition. -/
abbrev tested : State := wr { up with fuses := { up.fuses with state0 := 1, state1 := 1, seed0 := [], seed1 := [] } } (Reg.glbLcToken 0) 2
theorem witness_LifeCycle_1 : lifeState tested = 1 ∧ tokenNat tested 0 1 = 2 ∧
    burnSeed tested.fuses.seed0 [1] ≠ burnSeed tested.fuses.seed1 [3] ∧ tested.fuses.seed0 = tested.fuses.seed1 := by decide
/-- A bit that a failed attempt burned stays burned. -/
theorem test_burn_keeps : burnSeed [5] [2] = burnSeed [7] [] := by decide
theorem witness_LifeCycle_3 : lifeState returned = 4 ∧ tokenNat returned 0 1 = 0xD ∧ lifeState up ≠ 4 := by decide
theorem witness_Attestation_1 : ({ up with sec := { up.sec with key := some [] } } : State).sec.key = some [] := by decide
/-- A model without homes in a run image. -/
abbrev oneModel : ModelPlan := ⟨5, false, 0, 0, [], [], 0, 0, 0, 0, 0, [], [], 0, [], [], [], []⟩
abbrev plan1 : RunPlan := ⟨[], [], 0, 0, 1, [], [], [oneModel], [], 0⟩
abbrev loaded : State := { up with sec := { up.sec with run := some ⟨[], [], some plan1⟩ },
                                   ref := { up.ref with models := [(5, .notReady)] } }
theorem witness_Attestation_2 : modelOf loaded 5 = some oneModel ∧ (5, ModelState.notReady) ∈ loaded.ref.models ∧
    weightsPresent loaded oneModel = true := ⟨rfl, by decide, rfl⟩

/-! ### Links -/

abbrev msg (kind cls dst src ttl len : Nat) (w1 w2 w3 : Nat) (d : List Byte) : Msg :=
  ⟨word0 kind cls dst src ttl len 0, BitVec.ofNat 64 w1, BitVec.ofNat 64 w2, BitVec.ofNat 64 w3, d⟩
/-- A state with one message received at a port. -/
abbrev got (s : State) (p : Nat) (m : Msg) : State := s.setPort p { s.port p with rxq := [m] }
abbrev linked (p : Nat) : State := setFld up (linkReg p) 31 29 2
abbrev flit (t seq : Nat) : Flit := ⟨t, seq, 0, false, 0, 0, 1, 0, 0x3F, List.replicate 624 0⟩
abbrev sent : TxFlit := ⟨5, 0x3F, [], none⟩
abbrev waitingAck : State := (linked 0).setPort 0 { (linked 0).port 0 with replay := [sent], nak := true }

theorem witness_MessageReassembly : (msg 3 0 1 0 7 16 0 0 0 (List.replicate 16 1)).kind ≠ 0 ∧
    (msg 3 0 1 0 7 16 0 0 0 (List.replicate 16 1)).data.length = (msg 3 0 1 0 7 16 0 0 0 (List.replicate 16 1)).len := by decide
theorem witness_ReplayWindow : 4095 < 4096 ∧ ∀ f ∈ (waitingAck.port 0).replay, f.seq < 4096 := by decide
theorem witness_Flits_1 : linkUp (linked 0) 0 = true ∧ (flit 1 0).ftype = 1 ∧
    ((applyHeader (linked 0) 0 (flit 1 0)).port 0).rxNext = (flit 1 0).seq := by decide
theorem witness_Flits_2 : linkUp (linked 7) 7 = true ∧ (flit 0 0).ftype = 0 ∧ (flit 2 0).ftype = 2 := by decide
theorem witness_Flits_4 : linkUp waitingAck 0 = true ∧ (waitingAck.port 0).nak = true ∧ (waitingAck.port 0).replay ≠ [] ∧
    ((linked 0).port 0).nak = false := by decide

/-- A flit with no message at a port whose receive buffer holds one: a window write, or one of another type. -/
abbrev held (kind : Nat) : Msg := msg kind 1 0 0 7 0 0 0 0 []
def struckAt (kind : Nat) (struck : List Nat) : List Msg × List Msg :=
  match exec (.dataFlit 0 (flit 1 0) ⟨false, false, true⟩ struck) (got (linked 0) 0 (held kind)) with
  | .next t => ((t.port 0).rxq, (t.port 0).bad)
  | _ => ([], [])
theorem witness_Flits_3 : struckAt 1 [] = ([held 1], []) ∧ struckAt 4 [] = ([held 4], []) := by decide
theorem test_struck : struckAt 1 [0] = ([held 1], [held 1]) ∧ struckAt 4 [0] = ([], []) := by decide

/-- A heartbeat for module 1, its ttl at 7 and at 0, at module 0. -/
abbrev passing (ttl : Nat) : Msg := msg 3 0 1 2 ttl 0 (2 ^ 60) 0 0 []
abbrev routed : State :=
  setFld (setFlag (setFld (got up 1 (passing 7)) (linkReg 0) 31 29 2) (Reg.glbRoute 1) 31 true) (Reg.glbRoute 1) 30 28 0
theorem witness_Forwarding_1 : frontOf routed 1 0 = some (passing 7) ∧ (passing 7).dst ≠ ownModule routed ∧ (passing 7).ttl ≠ 0 ∧
    forwardPort routed 1 (passing 7) = some 0 ∧ linkUp routed 0 = true ∧
    canStart (routed.port 0) ((passing 7).setTtl 6) false = true := by decide
theorem witness_Forwarding_2 : frontOf (got up 1 (passing 0)) 1 0 = some (passing 0) ∧
    (passing 0).dst ≠ ownModule (got up 1 (passing 0)) ∧ (passing 0).ttl = 0 := by decide

/-- Window 0: enabled, onto receive window 0 of core 0 of channel 0, for module 2. -/
abbrev write16 : Msg := msg 1 2 0 2 7 16 0 0 0 (List.replicate 16 1)
abbrev windowed : State :=
  wr (wr (setFld up (Reg.chCoreMap 0 0) 9 0 0) (Reg.glbWinCtrl 0) (BitVec.ofNat 64 (2 ^ 63 + 2 ^ 61 + 4 * 2 ^ 45)))
    (Reg.coreRecvWindow 0 0 0) (BitVec.ofNat 64 (2 ^ 31 + 2 ^ 16))
theorem witness_Windows_1 : takeFor (got windowed 0 write16) 0 1 [] = some write16 ∧
    checkWindow (got windowed 0 write16) write16 (((got windowed 0 write16).port 0).bad.contains write16) = .core 0 0 0 0 := by
  decide +kernel
abbrev windowed2 : State :=
  wr (wr (wr up (Reg.glbWinCtrl 0) (BitVec.ofNat 64 (2 ^ 63 + 2 * 2 ^ 61 + 4 * 2 ^ 45))) (Reg.glbWinBase 0)
    (BitVec.ofNat 64 (tier1Base 0))) (Reg.glbWinLen 0) 16
theorem witness_Windows_2 : takeFor (got windowed2 0 write16) 0 1 [] = some write16 ∧
    checkWindow (got windowed2 0 write16) write16 (((got windowed2 0 write16).port 0).bad.contains write16) =
      .memory (tier1Base 0) := by decide
abbrev oldWrite : Msg := msg 1 2 0 2 7 16 (2 ^ 48) 0 0 (List.replicate 16 1)
theorem witness_Windows_3 : takeFor (got windowed 0 oldWrite) 0 1 [] = some oldWrite ∧
    checkWindow (got windowed 0 oldWrite) oldWrite (true || ((got windowed 0 oldWrite).port 0).bad.contains oldWrite) = .stale := by
  decide
theorem witness_Windows_5 : takeFor (got windowed 0 write16) 0 1 [] = some write16 ∧
    checkWindow (got windowed 0 write16) write16 (true || ((got windowed 0 write16).port 0).bad.contains write16) =
      .reject 5 none ∧ isDormant (got windowed 0 write16) = false := by decide +kernel
theorem witness_Windows_4 : takeFor (got up 0 (msg 2 0 0 2 7 0 0 0 0 [])) 0 2 [] = some (msg 2 0 0 2 7 0 0 0 0 []) := by decide
theorem witness_WindowChecks : write16.f1 55 48 = fld up (Reg.glbWinCtrl (write16.f1 63 56)) 60 53 ∧ write16.sv = false ∧
    flag up (Reg.glbWinCtrl (write16.f1 63 56)) 63 = false := by decide

abbrev oneSend : SendCmd := ⟨0, 0, 0, 0, 0, false, 0, 0⟩
abbrev sending (c : SendCmd) : State := up.setChan 0 { up.chan 0 with sends := [c] }
theorem witness_Sends_1 : (64 : W64).toNat % 32 = 0 ∧ (up.chan 0).sends.length < 64 ∧ isDormant up = false := by decide
theorem witness_Sends_2 : (0 : W64).toNat % 32 = 0 ∧
    64 ≤ ((up.setChan 0 { up.chan 0 with sends := List.replicate 64 oneSend }).chan 0).sends.length := by decide
theorem witness_Sends_3 : ((sending oneSend).chan 0).sends = [oneSend] ∧ oneSend.sent = false ∧
    isDormant (sending oneSend) = false ∧ bit oneSend.w3.toNat 6 = false ∧
    (sendParts 0 oneSend (cdiv (bits oneSend.w2.toNat 63 32) 2048) 0
      ((sending oneSend).setChan 0 { (sending oneSend).chan 0 with sends := [{ oneSend with sent := true }] })).2 = true := by
  decide
abbrev gone : SendCmd := { oneSend with sent := true }
theorem witness_Sends_4 : ((sending gone).chan 0).sends = [gone] ∧ gone.sent = true ∧ gone.err = 0 ∧ gone.left = 0 ∧
    sendWaits (sending gone) 0 gone.no = false ∧ bit gone.w3.toNat 5 = false := by decide
abbrev telling : SendCmd := { gone with w3 := 32 }
theorem witness_Sends_5 : ((sending telling).chan 0).sends = [telling] ∧ telling.sent = true ∧ telling.err = 0 ∧ telling.left = 0 ∧
    sendWaits (sending telling) 0 telling.no = false ∧ bit telling.w3.toNat 5 = true := by decide

abbrev hosted2 : State := setFlag (setFlag up Reg.glbHostCfg 2 true) Reg.glbHostCfg 0 true
abbrev enabled (p : Nat) : State := setFlag up (linkCtl p) 31 true
theorem witness_PortStates_1 : hostPort up 7 = false ∧ flag up (linkCtl 7) 31 = false := by decide
theorem witness_PortStates_3 : hostPort (enabled 0) 0 = false ∧ flag (enabled 0) (linkCtl 0) 31 = true := by decide
abbrev bypassed : State := setFlag (enabled 3) (linkReg 3) 23 true
theorem witness_PortStates_4 : hostPort bypassed 3 = false ∧ flag bypassed (linkCtl 3) 31 = true ∧ 3 < 4 ∧
    portState bypassed 3 ≠ 5 ∧ flag bypassed (linkReg 3) 23 = true := by decide
theorem witness_PortStates_5 : portState (setFld up (linkReg 7) 31 29 4) 7 = 4 := by decide
theorem witness_PortStates_6 : portState (setFld (linked 0) (linkReg 0) 28 25 15) 0 = 2 ∧
    bit (fld (setFld (linked 0) (linkReg 0) 28 25 15) (linkReg 0) 28 25) 3 = true := by decide
theorem witness_PortStates_7 : portState (setFlag (linked 3) (linkReg 3) 22 true) 3 = 2 ∧ 3 < 4 ∧
    flag (setFlag (linked 3) (linkReg 3) 22 true) (linkReg 3) 24 = false ∧
    flag (setFlag (linked 3) (linkReg 3) 22 true) (linkReg 3) 22 = true ∧
    (setFlag (linked 3) (linkReg 3) 22 true).ref.formed = false := by decide
theorem witness_PortStates_8 : portState (linked 4) 4 = 2 ∧ 4 ≤ 4 := by decide
abbrev formed (s : State) : State := { s with ref := { s.ref with formed := true } }
abbrev training (p : Nat) : State := setFld up (linkReg p) 31 29 1
theorem witness_PortStates_9 : portState (formed (training 0)) 0 = 1 ∧ (formed (training 0)).ref.formed = true := by decide
theorem witness_PortStates_2 : hostPort hosted2 6 = true ∧ bits (0xE0000000 : W64).toNat 63 32 = 0 ∧
    bits (0xE0000000 : W64).toNat 28 0 = 0 ∧ bits (1 : W64).toNat 28 0 ≠ 0 := by decide
theorem witness_PortStates_10 : portState (setFlag (linked 3) (linkReg 3) 24 true) 3 = 2 ∧
    flag (setFlag (linked 3) (linkReg 3) 24 true) (linkReg 3) 24 = true ∧ portState (training 7) 7 = 1 ∧ 4 ≤ 7 := by decide
/-- The relays open, and port 0 relocking or training. -/
abbrev relaysOff (s : State) : State := setFld s Reg.glbByeStatus 7 0 0
abbrev relocking : State := relaysOff (setFld up (linkReg 0) 31 29 4)
theorem witness_PortsComeUp_1 : portState relocking 0 = 4 ∧ 3 ≤ laneCount (litLanes relocking 0 (7 : BitVec 4).toNat) := by decide
theorem witness_PortsComeUp_4 : portState (relaysOff (training 0)) 0 = 1 ∧
    3 ≤ laneCount (litLanes (relaysOff (training 0)) 0 (15 : BitVec 4).toNat) ∧
    cablingOk (comeUp (relaysOff (training 0)) 0 (litLanes (relaysOff (training 0)) 0 15) 1 1
      (!(1 == stepModule (groupSize (relaysOff (training 0))) (ownModule (relaysOff (training 0))) 1 (facesEast 0)))) 0 1 1 =
      false := by decide
theorem witness_PortsComeUp_2 : portState (training 4) 4 = 1 ∧ 3 ≤ laneCount (15 : BitVec 4).toNat ∧ 4 ≤ 4 ∧
    cablingOk (comeUp (training 4) 4 15 1 4 false) 4 1 4 = true := by decide
theorem witness_PortsComeUp_3 : (up.port 0).faced = none ∧ (up.port 0).waiting = [] ∧ (up.port 0).replay = [] := by decide
theorem witness_Relays_1 : (1 : W64).toNat < 2 := by decide
theorem witness_Relays_3 : ({ up with ref := { up.ref with round := 1 } } : State).ref.round = 1 ∧
    ({ up with ref := { up.ref with round := 2 } } : State).ref.round = 2 := by decide
/-- Formation in a group of three, this module 0 the only one present so far. -/
abbrev forming : State :=
  setFld (setFld (setFld up Reg.glbStartStatus 30 27 6) Reg.glbGroupStatus 47 40 7) Reg.glbGroupStatus 31 28 3
theorem witness_Relays_0 : ∃ s : State, s.ref.formed = false ∧ phase s = 6 ∧ 3 ≤ groupSize s ∧ s.ref.round = 0 ∧
    s.ref.rounds = [] ∧ s.ref.rejoin = none ∧ bit (membersMask s) (ownModule s) = true ∧
    lowestPresent s = some (ownModule s) := ⟨forming, by decide⟩

/-! ### The host link and its messages -/

abbrev hosted : State := setFlag (setFlag (setFlag up Reg.glbHostCfg 2 true) Reg.glbHostCfg 0 true) (linkCtl 6) 31 true
abbrev hostUp : State := hosted.setPort 6 { hosted.port 6 with hup := true }
abbrev frame1 : HostFrame := ⟨0, 5, 0x88B5, false, leBytes 8 (2 ^ 56 + 2 ^ 32) ++ leBytes 8 0 ++
  (msg 5 1 0 0 7 0 (3 * 2 ^ 60) 0 0 []).bytes⟩
theorem witness_HostLink_1 : hostPort hosted 6 = true ∧ flag hosted (linkCtl 6) 31 = true := by decide
theorem witness_HostLink_2 : hostPort hostUp 6 = true ∧ (hostUp.port 6).hup = true ∧
    ({ frame1 with dstMac := 1 } : HostFrame).dstMac ≠ hostUp.board.mac := by decide
abbrev tagged : State := setFld hostUp Reg.glbHostCfg 31 16 0x88B5
theorem witness_HostLink_3 : hostPort tagged 6 = true ∧ (tagged.port 6).hup = true ∧ frame1.dstMac = tagged.board.mac ∧
    frame1.tagged = false ∧ frame1.payload.length ≤ 8336 ∧ 16 ≤ frame1.payload.length ∧
    frame1.ethertype.toNat = fld tagged Reg.glbHostCfg 31 16 ∧ bits (leNat (frame1.payload.take 8)) 63 56 = 1 ∧
    1 ≤ bits (leNat (frame1.payload.take 8)) 47 32 ∧ bits (leNat (frame1.payload.take 8)) 47 32 ≤ 4 ∧
    frameMsgs (bits (leNat (frame1.payload.take 8)) 47 32) (frame1.payload.drop 16) [] =
      some [msg 5 1 0 0 7 0 (3 * 2 ^ 60) 0 0 []] ∧
    (tagged.port 6).hun = [] ∧ (tagged.port 6).hwait = [] ∧ bits (leNat (frame1.payload.take 8)) 31 16 = (tagged.port 6).hrx ∧
    heldIn (tagged.port 6).rxq + heldIn [msg 5 1 0 0 7 0 (3 * 2 ^ 60) 0 0 []] ≤ 512 := by decide
theorem witness_HostLink_4 : hostPort hostUp 6 = true ∧ (hostUp.port 6).hup = true ∧
    ((hostUp.setPort 6 { hostUp.port 6 with hun := [(0, write16)] }).port 6).hun ≠ [] := by decide

abbrev wiped : State := setFlag hostUp Reg.glbLcStatus 23 true
abbrev mgmt (op : Nat) (toh : Bool) : Msg := msg 4 1 0 0 7 0 (op * 2 ^ 60 + 2 ^ 48) (b2n toh * 2 ^ 63) 0 []
theorem witness_Management_1 : takeFor (got wiped 6 (mgmt 1 false)) 6 4 [1] = some (mgmt 1 false) ∧
    flag (got wiped 6 (mgmt 1 false)) Reg.glbLcStatus 23 = true := by decide
theorem witness_Management_2 : takeFor (got wiped 6 (mgmt 2 false)) 6 4 [2] = some (mgmt 2 false) ∧
    flag (got wiped 6 (mgmt 2 false)) Reg.glbLcStatus 23 = true := by decide
abbrev reqMsg (op : Nat) (toh : Bool) : Msg := msg 5 1 0 0 7 0 (op * 2 ^ 60) (b2n toh * 2 ^ 63) 0 []
theorem witness_Management_3 : (mgmt 3 true).toh = true ∧ hostPick (got hostUp 0 (mgmt 3 true)) none (mgmt 3 true) = some 6 ∧
    takeFor (got hostUp 0 (mgmt 3 true)) 0 4 [3] = some (mgmt 3 true) ∧
    takeFor (got hostUp 0 (mgmt 5 true)) 0 4 [5] = some (mgmt 5 true) ∧ (reqMsg 8 true).toh = true ∧
    takeFor (got hostUp 0 (reqMsg 8 true)) 0 5 [8] = some (reqMsg 8 true) ∧
    takeFor (got hostUp 0 (reqMsg 9 true)) 0 5 [9] = some (reqMsg 9 true) := by decide
/-- A run image that gives channel 0 one transfer slot. -/
abbrev slotPlan : RunPlan := ⟨[], [⟨[], 0, [], [], [], [], 0, [tier1Base 0], 0, 0, []⟩], 0, 0, 1, [], [], [], [], 0⟩
abbrev slotted : State := { hostUp with sec := { hostUp.sec with run := some ⟨[], [], some slotPlan⟩ } }
theorem witness_Management_4 : takeFor (got slotted 6 (mgmt 4 false)) 6 4 [4] = some (mgmt 4 false) ∧
    xferOf (dropMsg (got slotted 6 (mgmt 4 false)) 6 (mgmt 4 false)) ((mgmt 4 false).f1 55 54)
      (BitVec.ofNat 32 ((mgmt 4 false).f1 31 0)) = some ⟨0, 0, []⟩ := by decide

abbrev ask (op nparts : Nat) : Msg := msg 5 1 0 0 7 0 (op * 2 ^ 60 + nparts * 2 ^ 8) 0 0 []
abbrev alone : Live := ⟨0, 0, 5, 0, 0, [], 0, 4, 0, [], none, false, [], false, []⟩
abbrev living (s : State) (q : Live) : State := { s with ref := { s.ref with live := [q] } }
theorem witness_Requests_1 : takeFor (got up 0 (ask 1 1)) 0 5 [1] = some (ask 1 1) ∧
    arrivedFirst (got up 0 (ask 1 1)) 0 (ask 1 1) = true ∧ (got up 0 (ask 1 1)).ref.partial_ = [] ∧
    (ask 1 1).index = 0 ∧ 1 ≤ (ask 1 1).f1 19 8 := by decide
theorem witness_Requests_2 : takeFor (got up 0 (ask 1 0)) 0 5 [1] = some (ask 1 0) ∧
    arrivedFirst (got up 0 (ask 1 0)) 0 (ask 1 0) = true ∧ (got up 0 (ask 1 0)).ref.partial_ = [] ∧
    (ask 1 0).index = 0 ∧ (ask 1 0).f1 19 8 = 0 := by decide
/-- Two requests, at ports 0 and 1, of which the second arrived first. -/
abbrev twoAsk : State :=
  let s := got (got up 0 (ask 1 0)) 1 (ask 1 1)
  { s with ref := { s.ref with arrived := [⟨0, ask 1 0, 5⟩, ⟨1, ask 1 1, 4⟩] } }
theorem witness_Requests_8 : takeFor twoAsk 0 5 [1] = some (ask 1 0) ∧ arrivedFirst twoAsk 0 (ask 1 0) = false ∧
    arrivedFirst twoAsk 1 (ask 1 1) = true := by decide
abbrev partway : Request := ⟨0, 6, 5, 7, 2, 4, []⟩
theorem witness_Requests_3 : ({ up with ref := { up.ref with partial_ := [partway] } } : State).ref.partial_ = [partway] := by
  decide
abbrev serving : State :=
  { setFlag (living loaded alone) Reg.glbStartStatus 31 true with
    ref := { (living loaded alone).ref with models := [(5, .ready)] } }
theorem witness_Requests_4 : takeFor (got serving 0 (ask 2 0)) 0 5 [2] = some (ask 2 0) ∧
    currentSeq (got serving 0 (ask 2 0)) (ask 2 0) = some alone ∧ alone.work = none ∧ alone.waits = false ∧
    refusal (got serving 0 (ask 2 0)) alone.model = none := ⟨by decide, rfl, rfl, rfl, rfl⟩
theorem witness_Requests_5 : takeFor (got serving 0 (ask 3 0)) 0 5 [3] = some (ask 3 0) ∧
    currentSeq (got serving 0 (ask 3 0)) (ask 3 0) = some alone ∧
    takeFor (got serving 0 (ask 4 0)) 0 5 [4] = some (ask 4 0) ∧
    currentSeq (got serving 0 (ask 4 0)) (ask 4 0) = some alone := ⟨by decide, rfl, by decide, rfl⟩
theorem witness_Requests_7 : takeFor (got up 0 (ask 3 0)) 0 5 [3] = some (ask 3 0) ∧
    currentSeq (got up 0 (ask 3 0)) (ask 3 0) = none := ⟨by decide, rfl⟩

/-! ### The group -/

abbrev ctl (sub rest : Nat) : Msg := msg 3 0 0 1 7 0 (sub * 2 ^ 60 + rest) 0 0 []
theorem witness_Group_1 : takeFor (got up 0 (ctl 1 0)) 0 3 [1] = some (ctl 1 0) := by decide
theorem witness_Group_2 : (formed up).ref.formed = true ∧ fld (setFld (formed up) Reg.glbRefStatus 31 30 1) Reg.glbRefStatus 31 30 ≠ 0 ∧
    up.ref.formed = false ∧ fld (setFld up Reg.glbRefStatus 31 30 0) Reg.glbRefStatus 31 30 = 0 := by decide
/-- Two modules; module 1, at port 0, has been silent. -/
abbrev quiet : State :=
  setFld (setFld (setFld (formed (wr (linked 0) Reg.glbTime 100000)) (linkReg 0) 18 16 1) Reg.glbGroupStatus 47 40 3)
    Reg.glbGroupStatus 31 28 2
theorem witness_Group_3 : ∃ s : State, s.ref.formed = true ∧ linkUp s 0 = true ∧ fld s (linkReg 0) 18 16 ≠ ownModule s ∧
    bit (membersMask s) (fld s (linkReg 0) 18 16) = true ∧ (s.port 0).beat + 100000 ≤ timeNs s ∧
    nextPresent (groupSize s) (membersMask s) (fld s (linkReg 0) 18 16) false = some (ownModule s) := ⟨quiet, by decide⟩
theorem witness_Group_4 : takeFor (got up 0 (ctl 2 (2 ^ 44))) 0 3 [2] = some (ctl 2 (2 ^ 44)) ∧
    staleCtl (got up 0 (ctl 2 (2 ^ 44))) (ctl 2 (2 ^ 44)) = false ∧
    (ctl 2 (2 ^ 44)).f1 59 44 ≠ epochNow (dropMsg (got up 0 (ctl 2 (2 ^ 44))) 0 (ctl 2 (2 ^ 44))) := by decide
theorem witness_Group_8 : takeFor (got up 0 (ctl 2 (255 * 2 ^ 36))) 0 3 [2] = some (ctl 2 (255 * 2 ^ 36)) ∧
    staleCtl (got up 0 (ctl 2 (255 * 2 ^ 36))) (ctl 2 (255 * 2 ^ 36)) = false ∧
    (ctl 2 (255 * 2 ^ 36)).f1 59 44 = epochNow (dropMsg (got up 0 (ctl 2 (255 * 2 ^ 36))) 0 (ctl 2 (255 * 2 ^ 36))) ∧
    (ctl 2 (255 * 2 ^ 36)).f1 43 36 ≠ membersMask (dropMsg (got up 0 (ctl 2 (255 * 2 ^ 36))) 0 (ctl 2 (255 * 2 ^ 36))) := by decide
abbrev later : State := got (setFld up Reg.glbGroupStatus 63 48 1) 0 (ctl 2 0)
theorem witness_Group_5 : takeFor later 0 3 [2] = some (ctl 2 0) ∧ staleCtl later (ctl 2 0) = true := by decide
theorem witness_Group_6 : takeFor (got up 0 (ctl 3 0)) 0 3 [3] = some (ctl 3 0) ∧ staleCtl (got up 0 (ctl 3 0)) (ctl 3 0) = false ∧
    (got up 0 (ctl 3 0)).ref.rejoin = none ∧ (got up 0 (ctl 3 0)).ref.formed = false := by decide
abbrev rejoining : State := got ({ formed up with ref := { (formed up).ref with rejoin := some 0 } }) 0 (ctl 4 0)
theorem witness_Group_7 : takeFor rejoining 0 3 [4] = some (ctl 4 0) ∧ staleCtl rejoining (ctl 4 0) = false ∧
    rejoining.ref.rejoin = some ((ctl 4 0).f1 27 25) ∧
    (flood (dropMsg rejoining 0 (ctl 4 0)) (some 0) (ctl 4 0).w1).ref.formed = true := by decide

/-! ### Tiers -/

abbrev due : State := up.setChan 3 { up.chan 3 with wb := [7] }
theorem witness_EccCorrects : 17 < 18 ∧ 0 < 255 ∧ 255 < 256 := by decide
theorem witness_Rewrite : 7 ∈ (due.chan 3).wb ∧ ∀ m < 3, 7 ∉ (due.chan m).wb := by decide
theorem witness_TierCommands_1 : powerState up = 3 ∧ up.board.retained = false ∧ powerState asleep ≠ 3 := by decide
abbrev crowd : List Nat := List.replicate 95 0 ++ [32]
theorem witness_TierCommands_2 : flag up (Reg.chHotCtrl 0) 31 = true ∧ (up.chan 0).hot = none ∧ 95 < 96 ∧
    standsHigh up 0 crowd 95 = true ∧ (∀ j < 95, standsHigh up 0 crowd j = false) ∧ 0 < fld up (Reg.chHotCtrl 0) 11 0 := by
  decide +kernel
theorem witness_TierCommands_2b : ∀ i, standsHigh up 0 [] i = false := by
  intro i; simp [standsHigh]
/-- An episode at pseudo-channel 31 of stack 2, not posted, with few samples or with the last but one. -/
abbrev episode (k : Nat) : State := up.setChan 0 { up.chan 0 with hot := some ⟨2, 31, k, 20, false, false⟩ }
theorem witness_TierCommands_5 : flag (episode 1) (Reg.chHotCtrl 0) 31 = true ∧
    ((episode 1).chan 0).hot = some ⟨2, 31, 1, 20, false, false⟩ ∧ standsHigh (episode 1) 0 crowd (32 * 2 + 31) = true ∧
    1 * 10240 < fld (episode 1) (Reg.chHotCtrl 0) 11 0 * 120000 ∧
    fld (episode 1000000) (Reg.chHotCtrl 0) 11 0 * 120000 ≤ 1000000 * 10240 ∧
    standsHigh (episode 1000000) 0 crowd (32 * 2 + 31) = true := by decide +kernel
theorem witness_TierCommands_6 : bits (0x80000000 : W64).toNat 63 32 = 0 ∧ bits (0x80000000 : W64).toNat 30 3 = 0 ∧
    bit (0x80000000 : W64).toNat 31 = true ∧ bit (4 : W64).toNat 31 = false ∧ bits (1 : W64).toNat 63 1 = 0 ∧
    bit (1 : W64).toNat 0 = true ∧ bit (2 : W64).toNat 0 = false := by decide
theorem witness_TierCommands_3 : flag (setFlag up (Reg.chHotCtrl 0) 31 false) (Reg.chHotCtrl 0) 31 = false := by decide
theorem witness_TierCommands_4 : fenced up 0 = false ∧ fenced (setFlag up (Reg.chT0Fence 0) 31 true) 0 = true ∧
    flag (setFlag up Reg.glbIlCtrl 0 true) Reg.glbIlCtrl 0 = true := by decide
/-- The last 2 MiB unit of channel 0 mirrored. -/
abbrev twinned : State := wr up (Reg.chMirror 0 0) (BitVec.ofNat 64 (2 ^ 63 + 2 ^ 29 + (tier0Size / 0x200000 - 1)))
theorem witness_ResidencyMap : mirrored twinned 0 ((tier0Size / 32768 - 1) * 32768) = true ∧ mirrored twinned 0 0 = false ∧
    (1 : Fin 4) ≠ 0 ∧ (1 : Fin 4).val ≠ partner 0 := by decide
theorem witness_Resolve_1 : tier0Size - 1 < tier0Size ∧ fenced up 0 = false ∧ absent up 0 ((tier0Size - 1) / 32768) = false := by
  decide
theorem witness_Resolve_2 : absent (up.setChan 0 { up.chan 0 with absent := [(5, 5)] }) 0 (5 * 32768 / 32768) = true := by decide
theorem witness_Resolve_3 : fenced (setFlag twinned (Reg.chT0Fence 0) 31 true) 0 = true ∧
    mirrored (setFlag twinned (Reg.chT0Fence 0) 31 true) 0 0 = false ∧
    mirrored (setFlag twinned (Reg.chT0Fence 0) 31 true) 0 (tier0Size - 1) = true ∧
    fenced (setFlag twinned (Reg.chT0Fence 0) 31 true) (partner 0) = false ∧
    absent (setFlag twinned (Reg.chT0Fence 0) 31 true) (partner 0) ((tier0Size - 1) / 32768) = false := by decide

abbrev mig (op frame t1 : Nat) : MigCmd := ⟨op, false, false, frame, t1, 9, 0, false, false⟩
abbrev moving (s : State) (c : MigCmd) : State := s.setChan 0 { s.chan 0 with mig := [c] }
abbrev missing : State := up.setChan 0 { up.chan 0 with absent := [(0, 0)] }
theorem witness_Migration_1 : migPick 1 ((moving missing (mig 1 0 (tier1Base 0))).chan 0).mig [] 0 = some (0, mig 1 0 (tier1Base 0)) ∧
    isDormant (moving missing (mig 1 0 (tier1Base 0))) = false ∧
    frameOk (moving missing (mig 1 0 (tier1Base 0))) 0 (mig 1 0 (tier1Base 0)) = true ∧
    tier1Ok (moving missing (mig 1 0 (tier1Base 0))) 0 (mig 1 0 (tier1Base 0)).t1 = true := by decide
theorem witness_Migration_2 : migPick 2 ((moving up (mig 2 0 (tier1Base 2))).chan 0).mig [] 0 = some (0, mig 2 0 (tier1Base 2)) ∧
    frameOk (moving up (mig 2 0 (tier1Base 2))) 0 (mig 2 0 (tier1Base 2)) = true ∧
    frameOk (moving up (mig 6 0 (tier1Base 2))) 0 (mig 6 0 (tier1Base 2)) = true ∧
    tier1Ok (moving up (mig 2 0 (tier1Base 2))) 0 (tier1Base 2) = true ∧ fenced up 0 = false := by decide
abbrev fetched : Xfer := ⟨9, 0, List.range 16⟩
abbrev hostMove : State :=
  let s : State := { moving missing (mig 3 0 0) with sec := { up.sec with run := some ⟨[], [], some slotPlan⟩ } }
  s.setChan 0 { s.chan 0 with book := { (s.chan 0).book with xfers := [fetched] } }
theorem witness_Migration_3 : fromHostPick hostMove 0 (hostMove.chan 0).mig [] 0 = some (0, mig 3 0 0) ∧
    (hostMove.chan 0).book.xfers.find? (·.xfer == (mig 3 0 0).xfer) = some fetched ∧ isDormant hostMove = false ∧
    frameOk hostMove 0 (mig 3 0 0) = true ∧
    ((hostMove.plan.bind fun p => p.chans[0]?).bind fun p => p.slots[fetched.slot]?) = some (tier1Base 0) := by
  decide +kernel
theorem witness_Migration_3b : ∀ w < 2048, decodeWord hostMove (tier1Base 0 / 16 + w) ≠ .bad := fun w _ => by
  rw [decodeWord_clean (s := hostMove) rfl]; exact nofun
theorem witness_Migration_4 : migPick 4 ((moving up (mig 4 (frames - 1) 0)).chan 0).mig [] 0 = some (0, mig 4 (frames - 1) 0) ∧
    (mig 4 (frames - 1) 0).op = 4 ∧ (mig 4 (frames - 1) 0).frame < frames ∧
    migPick 5 ((moving up (mig 5 0 0)).chan 0).mig [] 0 = some (0, mig 5 0 0) := by decide
theorem witness_Migration_7 : frameOk (moving twinned (mig 7 (frames - 1) 0)) 0 (mig 7 (frames - 1) 0) = true ∧
    migPick 7 ((moving twinned (mig 7 (frames - 1) 0)).chan 0).mig [] 0 = some (0, mig 7 (frames - 1) 0) := by decide
abbrev finished : MigCmd := { mig 2 0 0 with moved := true }
theorem witness_Migration_8 : ((moving up finished).chan 0).mig = [finished] ∧ finished.moved = true ∧ finished.op = 2 ∧
    finished.resume = false ∧ finished.event = false ∧ ((moving up finished).chan 0).book.lost = [] ∧
    ((moving up finished).chan 0).book.moving = [] := by decide
theorem witness_Migration_9 : migPick 1 ((moving up (mig 1 0 0)).chan 0).mig [] 0 = some (0, mig 1 0 0) ∧
    isDormant (moving up (mig 1 0 0)) = false ∧ frameOk (moving up (mig 1 0 0)) 0 (mig 1 0 0) = false := by decide
theorem witness_MigrationOrder : migPick 2 [mig 1 4 0, mig 2 4 0, mig 2 5 0] [] 0 = some (2, mig 2 5 0) := by decide

abbrev syncing (b : List Nat) : State :=
  let s := setFlag up (Reg.chKvSync 0) 63 true
  s.setChan 0 { s.chan 0 with sync := some ⟨b, 1, []⟩ }
theorem witness_Shadow_1 : 2 ^ 32 - 1 < 2 ^ 32 ∧ flag up (Reg.chKvSync 0) 63 = false := by decide
theorem witness_Shadow_2 : flag (syncing []) (Reg.chKvSync 0) 63 = true ∧ ((syncing []).chan 0).sync = some ⟨[], 1, []⟩ ∧
    (syncing []).ref.live = [] := by decide
theorem witness_Shadow_4 : ((syncing [3]).chan 0).sync = some ⟨[3], 1, []⟩ ∧
    flag (setFlag (syncing [3]) (Reg.chKvShadow 0) 62 false) (Reg.chKvShadow 0) 62 = false := by decide
theorem witness_Shadow_5 : fenced (up.setChan 0 { up.chan 0 with dirty := [3] }) 0 = false ∧
    3 ∈ ((up.setChan 0 { up.chan 0 with dirty := [3] }).chan 0).dirty := by decide
/-- Channel 0 with one dirty block and its shadow at the start of channel 2's tier 1. -/
abbrev shadowed : State := wr (up.setChan 0 { up.chan 0 with dirty := [3] }) (Reg.chKvShadow 0) (BitVec.ofNat 64 (tier1Base 2))
theorem witness_Shadow_6 : fenced shadowed 0 = false ∧ 3 ∈ (shadowed.chan 0).dirty ∧
    shadowSlot (shadowed.setChan 0 { shadowed.chan 0 with dirty := [] }) 0 (3 / 16) ≠ 0xFFFFFFFF ∧
    place (fld (shadowed.setChan 0 { shadowed.chan 0 with dirty := [] }) (Reg.chKvShadow 0) 47 0 +
      32768 * shadowSlot (shadowed.setChan 0 { shadowed.chan 0 with dirty := [] }) 0 (3 / 16) + 3 % 16 * 2048) =
      .tier1 (partner 0) 6144 := by decide +kernel

/-! ### Sequences and training -/

abbrev busy : Live := { alone with work := some [⟨0, [5], []⟩] }
abbrev done : Live := { alone with work := some [], maxNew := 1 }
theorem witness_Sequences_1 : findLive (living up busy) (0 : W16).toNat = some busy ∧ busy.work = some [⟨0, [5], []⟩] ∧
    ∃ x ∈ ([⟨0, [5], []⟩] : List StepWork), x.ops ≠ [] := by decide
theorem witness_Sequences_2 : (living up done).ref.live = [done] ∧ done.id = (0 : W16).toNat ∧ done.work = some [] ∧
    done.made + 1 = done.maxNew := by decide
theorem witness_Sequences_3 : findLive (living loaded alone) (0 : W16).toNat = some alone ∧ alone.work = none ∧
    (∀ n < 4, ((living loaded alone).chan n).book.pages = [] ∧ ((living loaded alone).chan n).book.lost = [] ∧
      ((living loaded alone).chan n).book.moving = []) ∧ (living loaded alone).ref.retiring = [] ∧
    (∀ n ∈ oneModel.chans, n < 4) ∧ (∀ e ∈ alone.left, opGone (living loaded alone) e.1 e.2 = true) := by decide
theorem witness_Sequences_3b : modelOf (living loaded alone) alone.model = some oneModel := rfl
/-- A step whose operations are done, whose token is not the last. -/
abbrev going : Live := { alone with work := some [⟨0, [], []⟩], synced := [0] }
theorem witness_Sequences_6 : findLive (living up going) (0 : W16).toNat = some going ∧ going.work = some [⟨0, [], []⟩] ∧
    (∀ x ∈ ([⟨0, [], []⟩] : List StepWork), x.ops = [] ∧ (x.ch ∈ going.synced ∨ flag (living up going) (Reg.chKvShadow x.ch) 62 = true)) ∧
    going.made + 1 < going.maxNew := by decide
abbrev leaving : State := { living loaded alone with ref := { (living loaded alone).ref with retiring := [(0, 1)] } }
theorem witness_Sequences_7 : findLive leaving (0 : W16).toNat = some alone ∧ (∃ e ∈ leaving.ref.retiring, e.1 = (0 : W16).toNat) ∧
    (∀ n < 4, restoring leaving n 0 = false) ∧
    (∀ n < 4, ∀ p ∈ (leaving.chan n).book.pages, p.seq = 0 → ∀ c ∈ (leaving.chan n).mig, c.frame ≠ p.frame) := by decide
abbrev deferring (s : State) : State := { s with ref := { s.ref with deferred := [partway] } }
theorem witness_Sequences_4 : (deferring up).ref.deferred = partway :: [] ∧ (deferring up).ref.live.length < 16384 := by decide
theorem witness_Sequences_5 : ∃ s : State, s.ref.deferred = partway :: [] ∧ 16384 ≤ s.ref.live.length :=
  ⟨{ deferring up with ref := { (deferring up).ref with live := List.replicate 16384 alone } }, rfl, by
    rw [List.length_replicate]⟩
abbrev job (kept : List (Nat × Nat)) : TrainJob := ⟨5, tier1Base 0, kept, [], 1⟩
theorem witness_Training_1 : loaded.ref.job = none ∧ planFits loaded (job []) = true ∧ (job []).tensors = [] := by decide
theorem witness_Training_2 : modelOf loaded (job []).model = some oneModel := rfl
theorem witness_Training_3 : planFits loaded (job [(0, 513)]) = false := by decide

/-! ### Reduction -/

abbrev block6 : Block6 := ⟨255, 255, List.replicate 32 (-32768)⟩
theorem witness_SegmentBytes : (List.replicate 31 block6).length = 31 ∧ (List.replicate 31 block6)[30]? = some block6 ∧
    ∀ c ∈ List.replicate 31 block6, c.e < 256 ∧ c.flags < 256 ∧ c.n.length = 32 ∧ ∀ v ∈ c.n, -32768 ≤ v ∧ v < 32768 := by
  decide +kernel
theorem witness_HopBounds : (⟨0xFF, 0, []⟩ : Block6).e = 0xFF ∧ (⟨0xFE, 0, []⟩ : Block6).e ≤ 0xFE ∧
    ∀ v ∈ ([.fin false 1 0] : List Sys2Proof.Machine.Num), v.isFin = true := by decide
/-- A bucket table at the base of channel 0's tier 1, with the first entry's word 0 and word 5. -/
abbrev bucketed (w0 w5 : Nat) : State :=
  pokeBytes (setFld up Reg.glbRedBase 47 0 (tier1Base 0)) (tier1Base 0)
    (leBytes 8 w0 ++ leBytes 8 0 ++ leBytes 8 0 ++ leBytes 8 0 ++ leBytes 8 0 ++ leBytes 8 w5)
theorem witness_ReductionCommands_1 : (bucketEntry (redCommand (bucketed (2 ^ 63) 0) 1 0) 0).map (fun e => (e.en, e.state)) =
    some (true, 0) := by decide +kernel
theorem witness_ReductionCommands_2 :
    (bucketEntry (redCommand (bucketed (2 ^ 63 + 2 ^ 50 + 2 * 2 ^ 44) 0) 2 0) 0).map (fun e =>
      (e.en, e.state, e.owner == ownModule (redCommand (bucketed (2 ^ 63 + 2 ^ 50 + 2 * 2 ^ 44) 0) 2 0),
        nextIn (returnChain e) e.owner)) = some (true, 2, true, none) := by decide +kernel
theorem witness_ReductionCommands_3 : (bucketEntry (redCommand (bucketed 0 0) 3 0) 0).isSome = true := by decide +kernel
theorem witness_ReductionCommands_4 : fld up Reg.glbRedBase 47 0 = 0 := by decide
/-- Owner 0, members 0 and 1, one segment; and owner 1, with one return message and one scale message. -/
abbrev inbound : State := bucketed (2 ^ 63 + 3 * 2 ^ 50 + 2 ^ 44 + 2 ^ 35) 0
abbrev outbound : State := bucketed (2 ^ 63 + 2 ^ 58 + 3 * 2 ^ 50 + 2 ^ 35 + 992 * 2 ^ 17) (2 ^ 55)
abbrev redMsg (sub gen : Nat) : Msg := msg 6 3 0 1 7 16 (sub * 2 ^ 60 + gen * 2 ^ 44) 0 0 (List.replicate 16 0)
theorem witness_ReductionMessages_1 : takeFor (got inbound 0 (redMsg 1 0)) 0 6 [1] = some (redMsg 1 0) ∧
    (match redCheck (got inbound 0 (redMsg 1 0)) (redMsg 1 0) with | .ok _ => true | .error _ => false) = true := by
  decide +kernel
theorem witness_ReductionMessages_2 : takeFor (got inbound 0 (redMsg 1 1)) 0 6 [1] = some (redMsg 1 1) ∧
    (match redCheck (got inbound 0 (redMsg 1 1)) (redMsg 1 1) with | .ok _ => 0 | .error k => k) = 2 := by decide +kernel
theorem witness_ReductionMessages_3 : takeFor (got outbound 0 (redMsg 2 0)) 0 6 [2] = some (redMsg 2 0) ∧
    (match redCheck (got outbound 0 (redMsg 2 0)) (redMsg 2 0) with | .ok _ => true | .error _ => false) = true ∧
    takeFor (got outbound 0 (redMsg 3 0)) 0 6 [3] = some (redMsg 3 0) ∧
    (match redCheck (got outbound 0 (redMsg 3 0)) (redMsg 3 0) with | .ok _ => true | .error _ => false) = true := by
  decide +kernel
theorem witness_ReductionMessages_5 :
    (bucketEntry (bucketed (2 ^ 63 + 2 ^ 50 + 2 ^ 44 + 2 ^ 35) 0) 0).map (fun e =>
      (e.state, bit e.members 0, decide (((bucketed (2 ^ 63 + 2 ^ 50 + 2 ^ 44 + 2 ^ 35) 0).bucket 0).next < e.segs),
        (chainOf e).head?)) = some (1, true, true, some 0) := by decide +kernel

/-! ### The queue and the loader -/

theorem witness_StepRunsFront : ({ up with pending := [.product 0] } : State).pending = Instr.product 0 :: [] ∧ up.pending = [] ∧
    outOfReset up = true ∧ outOfReset aux = false := by decide
theorem witness_QueueOrder : (∀ c ∈ ({ up with pending := [.product 0] } : State).pending, c.wf = true) ∧
    1 ≤ ({ up with pending := [.product 0] } : State).pending.length := by decide
theorem witness_MemoryStaysCanonical : Memory.wf ({ up with mem := [(3, 1), (5, 2)] } : State).mem = true := by decide

/-- Little-endian 64-bit words at an address. -/
abbrev words (s : State) (a : Nat) (l : List Nat) : State := pokeBytes s a (l.flatMap (leBytes 8))
abbrev T : Nat := 2 ^ 40
/-- Every task of core 0 of channel 0 may use the whole store. -/
abbrev granted : State :=
  (List.range 3).foldl (fun s t => wr s (Reg.coreTaskRegion 0 0 t) (BitVec.ofNat 64 (2 ^ 25))) up
/-- A work queue at the base T of channel 0's tier 1 whose one entry is a fill of 16 bytes of a core's region: the
descriptor at T + 512 (op_id 5, kind 4, one level, a grid of one core, count 1, slot 0, the level of R697), the layout of
its command list at T + 1024, the list at T + 1088 (R183, R204 to R209, R697). -/
abbrev entryBytes : List (Nat × Byte) :=
  [(T + 1, 2), (T + 5, 1), (T + 512, 128), (T + 515, 64), (T + 516, 5), (T + 523, 1), (T + 524, 4),
   (T + 583, 1), (T + 641, 4), (T + 645, 1), (T + 647, 128), (T + 768, 1), (T + 772, 8), (T + 779, 224), (T + 783, 224),
   (T + 787, 224), (T + 791, 224), (T + 795, 224), (T + 799, 224), (T + 803, 224), (T + 807, 224), (T + 1024, 64),
   (T + 1025, 4), (T + 1029, 1), (T + 1030, 4), (T + 1032, 9), (T + 1040, 8), (T + 1095, 16), (T + 1100, 16), (T + 1104, 7)]
abbrev entered : State :=
  { setFld (setFld granted (Reg.chWqBase 0) 47 0 T) (Reg.chWqTail 0) 11 0 1 with mem := entryBytes }
/-- The bytes of the descriptor, and the descriptor as read, with its one command. -/
abbrev fillBytes : List Byte := (List.range 512).map fun i => mget 0 entryBytes (T + 512 + i)
abbrev fillOp : Op :=
  ⟨5, 4, 0, 0, false, false, false, false, false, 1, 1, 0, 1, 1, 0, 0, 0, 0, 0, 0, BitVec.ofNat 64 (2 ^ 56) :: List.replicate 7 0,
    ⟨true, 0, 0, T + 1024, 0⟩ :: List.replicate 7 ⟨false, 0, 0, 0, 0⟩,
    [⟨1, 0, 1, 0, List.replicate 8 7, List.replicate 8 0⟩],
    some ⟨1, false, false, T + 1088, 0, 9, 0, [8, 0, 0, 0, 0, 0], [0, 0, 0, 0, 0, 0], 0⟩ :: List.replicate 7 none,
    List.replicate 8 none, none, none, [], T + 512⟩
abbrev fillCmd : FillCmd := ⟨false, 0, 16, 0, 7⟩
theorem reads_bytes {s : State} (h : s.errs = []) (m : s.mem = entryBytes) (a n : Nat) (lo : T ≤ a) (hi : a + n ≤ T + 2048) :
    loaderRead s a n = (s, some ((List.range n).map fun i => mget 0 entryBytes (a + i))) := by
  rw [loaderRead_tier1 h a n lo (by have : tier1Size > 2048 := by decide
                                    simp only [T] at hi; omega), m]
theorem reads_layout {s : State} (h : s.errs = []) (m : s.mem = entryBytes) :
    readLayout s ⟨true, 0, 0, T + 1024, 0⟩ = (s, some (⟨1, false, false, T + 1088, 0, 9, 0, [8, 0, 0, 0, 0, 0], [0, 0, 0, 0, 0, 0], 0⟩, none)) := by
  unfold readLayout
  rw [if_neg (by decide), reads_bytes h m _ _ (by decide) (by decide)]
  have e : parseLayout ((List.range 64).map fun i => mget 0 entryBytes (T + 1024 + i)) =
      ⟨1, false, false, T + 1088, 0, 9, 0, [8, 0, 0, 0, 0, 0], [0, 0, 0, 0, 0, 0], 0⟩ := by decide +kernel
  have r : layoutResv ((List.range 64).map fun i => mget 0 entryBytes (T + 1024 + i)) = true := by decide +kernel
  simp only [e, r]
  rfl
theorem reads_fills {s : State} (h : s.errs = []) (m : s.mem = entryBytes) : readFills s fillOp = (s, some [fillCmd]) := by
  have c : (List.range 1).map (fun j => parseFill (((List.range 32).map fun i => mget 0 entryBytes (T + 1088 + i)).drop (32 * j))) =
      [some fillCmd] := by decide +kernel
  unfold readFills
  have k : bits (Op.kword fillOp 0) 63 56 = 1 := by decide
  simp only [k]
  rw [show Op.layout fillOp 0 = some ⟨1, false, false, T + 1088, 0, 9, 0, [8, 0, 0, 0, 0, 0], [0, 0, 0, 0, 0, 0], 0⟩ from rfl]
  dsimp only
  rw [if_neg (by decide), reads_bytes h m _ _ (by decide) (by decide)]
  simp only [Nat.mul_one, c]
  rfl
theorem reads_tables {s : State} (h : s.errs = []) (m : s.mem = entryBytes) :
    readTables s 0 [] fillOp = (s, [], fillOp, [fillCmd]) := by
  have six : ((4 == 0 || 4 == 11 || (4 == 12 && bit (Op.kword fillOp 0) 63)) && (Op.slot fillOp 6).en) = false := by decide
  unfold readTables
  simp only [six, Bool.false_eq_true, if_false, Nat.reduceEqDiff, if_true, reads_fills h m]
  rfl
/-- R252, R558: what the work queue's entry names, read from memory. -/
theorem test_entry {s : State} (h : s.errs = []) (m : s.mem = entryBytes) (hd : fld s (Reg.chWqHead 0) 11 0 = 0)
    (b : fld s (Reg.chWqBase 0) 47 0 = T) : (fetchEntry s 0 0).2.1 = .op false fillBytes [] fillOp := by
  have w : le64 ((List.range 8).map fun i => mget 0 entryBytes (T + 8 * 0 + i)) 0 = T + 512 := by decide +kernel
  have p : parseOp ((List.range 512).map fun i => mget 0 entryBytes (T + 512 + i)) =
      { fillOp with layouts := [], scales := [], entry := 0 } := by decide +kernel
  have i : le64 ((List.range 64).map fun i => mget 0 entryBytes (T + 512 + i)) 0 = 5 * 2 ^ 32 + 4 * 2 ^ 28 + 2 ^ 7 := by decide +kernel
  unfold fetchEntry
  simp only [hd, b]
  rw [show (0 + 0) % 4096 = 0 from rfl, reads_bytes h m _ _ (by decide) (by decide)]
  simp only [w]
  have e1 : bits (T + 512) 47 0 = T + 512 := by decide
  have e2 : inOwnTiers 0 (T + 512) = true := by decide
  simp only [e1, e2, Bool.not_true, Bool.false_eq_true, if_false]
  rw [reads_bytes h m _ 64 (by decide) (by decide)]
  simp only [i]
  rw [if_neg (by decide), reads_bytes h m _ 512 (by decide) (by decide)]
  have ly : readLayouts s fillOp.slots 0 = (s, fillOp.layouts, fillOp.scales, []) := by
    simp only [readLayouts, List.replicate, reads_layout h m]
    rfl
  simp only [p, ly]
  rfl

/-- A state with that entry fetched ahead. -/
abbrev ahead (s : State) (e : Entry) : State := s.setChan 0 { s.chan 0 with burst := [e] }
abbrev fillEntry : Entry := .op false fillBytes [] fillOp
theorem fetchBurst_ahead (s : State) (e : Entry) : fetchBurst (ahead s e) 0 = ahead s e := by
  have h : ((ahead s e).chan 0).burst = [e] := by simp [ahead]
  unfold fetchBurst
  rw [h]
  rfl
theorem reads_ahead {s : State} (h : s.errs = []) (m : s.mem = entryBytes) :
    ((fetchBurst (ahead s fillEntry) 0).chan 0).burst = .op false fillBytes [] fillOp :: [] ∧
    readTables (fetchBurst (ahead s fillEntry) 0) 0 [] fillOp = (ahead s fillEntry, [], fillOp, [fillCmd]) := by
  rw [fetchBurst_ahead]
  exact ⟨by simp [ahead], reads_tables h m⟩

abbrev faultAt (s : State) : Option (Nat × At) := loadFault s 0 fillBytes [] (gridOf s 0 fillOp) [fillCmd] fillOp
abbrev heldAt (s : State) : Option Bool := holdReason s 0 false fillOp (gridOf s 0 fillOp)
theorem witness_Loads_1 : ((fetchBurst (ahead entered fillEntry) 0).chan 0).burst = .op false fillBytes [] fillOp :: [] ∧
    readTables (fetchBurst (ahead entered fillEntry) 0) 0 [] fillOp = (ahead entered fillEntry, [], fillOp, [fillCmd]) ∧
    isDormant (ahead entered fillEntry) = false ∧
    selects 4 none fillOp = true ∧ selects 3 none fillOp = false ∧ faultAt (ahead entered fillEntry) = none ∧
    heldAt (ahead entered fillEntry) = none ∧ ((ahead entered fillEntry).chan 0).heldFor ≠ some true :=
  ⟨(reads_ahead rfl rfl).1, (reads_ahead rfl rfl).2, by decide +kernel⟩
abbrev coreless : State := setFld entered (Reg.chCoreCaps 0) 37 28 0
theorem witness_Loads_2 : readTables (fetchBurst (ahead coreless fillEntry) 0) 0 [] fillOp =
      (ahead coreless fillEntry, [], fillOp, [fillCmd]) ∧ faultAt (ahead coreless fillEntry) = some (2, 0, 0) :=
  ⟨(reads_ahead rfl rfl).2, by decide +kernel⟩
abbrev filling : State := entered.setCore 0 0 { Core.idle with fill := some ⟨4, 0, none⟩ }
theorem witness_Loads_3 : readTables (fetchBurst (ahead filling fillEntry) 0) 0 [] fillOp =
      (ahead filling fillEntry, [], fillOp, [fillCmd]) ∧ faultAt (ahead filling fillEntry) = none ∧
    heldAt (ahead filling fillEntry) = some false :=
  ⟨(reads_ahead rfl rfl).2, by decide +kernel⟩
abbrev ringHeld : State := entered.setChan 0 { entered.chan 0 with heldFor := some true }
theorem witness_Loads_4 : ((ahead ringHeld fillEntry).chan 0).heldFor = some true ∧ isDormant (ahead ringHeld fillEntry) = false ∧
    readTables (fetchBurst (ahead ringHeld fillEntry) 0) 0 [] fillOp = (ahead ringHeld fillEntry, [], fillOp, [fillCmd]) ∧
    faultAt (ahead ringHeld fillEntry) = none ∧ heldAt (ahead ringHeld fillEntry) = none :=
  ⟨by decide +kernel, by decide +kernel, (reads_ahead rfl rfl).2, by decide +kernel⟩
theorem witness_Loads_6 : isDormant (ahead up (.bad 9)) = false ∧
    ((fetchBurst (ahead up (.bad 9)) 0).chan 0).burst = .bad 9 :: [] := by
  rw [fetchBurst_ahead]
  exact ⟨by decide, by simp [ahead]⟩
theorem witness_Loads_7 : (up.chan 0).burst = [] ∧ fld up (Reg.chWqTail 0) 11 0 = fld up (Reg.chWqHead 0) 11 0 := by decide
theorem witness_Loads_5 : (4095 : W64).toNat < 4096 ∧ powerState up ≠ 4 ∧
    ((4095 : W64).toNat = fld up (Reg.chWqHead 0) 11 0 → fld up (Reg.chWqTail 0) 11 0 = fld up (Reg.chWqHead 0) 11 0) ∧
    (0 : W64).toNat = fld (setFld up (Reg.chWqTail 0) 11 0 1) (Reg.chWqHead 0) 11 0 ∧
    fld (setFld up (Reg.chWqTail 0) 11 0 1) (Reg.chWqTail 0) 11 0 ≠ fld (setFld up (Reg.chWqTail 0) 11 0 1) (Reg.chWqHead 0) 11 0 := by
  decide

/-! ### The life of an operation -/

/-- An operation of a kind on logical core 0, numbered 5, loaded and started there. -/
abbrev op0 (kind : Nat) : Op :=
  ⟨5, kind, 0, 0, false, false, false, false, false, 1, 1, 0, 1, 1, 0, 0, 0, 0, 0, 0, [], [], [⟨1, 0, 1, 0, [], []⟩], [], [],
    none, none, [], 0⟩
abbrev g0 : GridCore := ⟨0, 0, 0, 0, 0, 0, 512⟩
abbrev lop (op : Op) : LoadedOp := ⟨op, [g0], [], [0], [], false, [], [], LxWork.init 0, false, []⟩
abbrev hold (s : State) (l : LoadedOp) : State := s.setChan 0 { s.chan 0 with ops := [l] }

abbrev arr : ArrayTask := ArrayTask.init 5 g0 []
abbrev running (l : LoadedOp) (a : ArrayTask) : State := (hold granted l).setCore 0 0 { Core.idle with array := some a }
abbrev fresh : LoadedOp := { lop (op0 0) with started := [] }
theorem witness_OperationLife_1 : ((running fresh arr).chan 0).ops = [fresh] ∧ gridCore fresh 0 = some g0 ∧
    fresh.started.contains 0 = false ∧ fresh.finished.contains 0 = false ∧ fresh.stopped = false ∧ kindTask fresh.op = 0 ∧
    ((running fresh arr).core 0 g0.phys).array.map (·.opId) = some fresh.op.opId ∧
    ((running fresh arr).core 0 g0.phys).deck = none := by decide
abbrev ended : LoadedOp := { lop (op0 8) with finished := [0] }
theorem witness_OperationLife_2 : findOp (hold up ended) 0 5 = some ended ∧ letrixKind ended.op.kind = true ∧
    opDone ended = true ∧ ended.stopped = false ∧ (∀ g ∈ ended.grid, ((hold up ended).core 0 g.phys).gather = []) ∧
    (∀ g ∈ ended.grid, taskHalted ((hold up ended).core 0 g.phys) 3 = false) ∧ (hold up ended).ref.live = [] ∧
    (hold up ended).ref.job = none := by decide
abbrev late : LoadedOp := lop { op0 0 with deadline := 100 }
theorem witness_OperationLife_3 : findOp (hold up late) 0 5 = some late ∧ opDone late = false ∧ late.op.deadline ≠ 0 ∧
    late.missed = false ∧ late.started ≠ [] ∧ inService (setFld (hold up late) (Reg.chTimingMode 0) 1 0 1) 0 = true := by decide
theorem witness_OperationLife_5 : (coresOf (running (lop (op0 0)) arr) 0 0).eraseDups = [0] ∧
    ((running (lop (op0 0)) arr).core 0 0).array = some arr ∧ ((running (lop (op0 0)) arr).core 0 0).vec = none ∧
    liveOp (running (lop (op0 0)) arr) 0 arr.opId = some (lop (op0 0)) ∧
    (lop (op0 0)).grid.find? (·.phys == 0) = some g0 := by decide
abbrev lost5 : State := running late { arr with halted := some .data }
theorem witness_OperationLife_6 : findOp (hold up late) 0 5 = some late ∧ opDone late = false ∧ (hold up late).ref.live = [] ∧
    lostData (hold up late) 0 5 = false ∧ findOp (hold up late) 0 6 = none := by decide
theorem witness_OperationLife_7 : findOp lost5 0 5 = some late ∧ lost5.ref.live = [] ∧ lostData lost5 0 5 = true := by decide
abbrev dying (l : LoadedOp) : State := (hold up l).setChan 0 { (hold up l).chan 0 with cancel := some 5 }
theorem witness_OperationLife_8 : ((dying (lop (op0 8))).chan 0).cancel = some 5 ∧
    findOp (dying (lop (op0 8))) 0 5 = some (lop (op0 8)) ∧ letrixKind (lop (op0 8)).op.kind = true := by decide
abbrev halting : LoadedOp := { lop (op0 8) with stopped := true }
theorem witness_OperationLife_9 : findOp (hold up halting) 0 5 = some halting ∧ halting.stopped = true ∧
    gridCore halting 0 = some g0 := by decide

/-! ### Streams -/

/-- A stream of operation 5's slot on core 0, of 8 tiles with lead 2. -/
abbrev strm (slot : Nat) : Stream :=
  { Stream.free with used := true, opId := 5, slot := slot, cores := [0], lead := 2, period := 10, length := 8, asked := [(0, 0)] }
abbrev flowing (s : State) (x : Stream) : State := s.setStream 0 4095 x
abbrev lay (rank fmt base : Nat) (ext : List Nat) (st : List Int) : Layout := ⟨rank, false, false, base, 0, fmt, 0, ext, st, 0⟩
/-- A vector operation whose slot 0 is 64 INT8 elements in tier 0. -/
abbrev vop : Op := { op0 3 with levels := [⟨1, 0, 3, 0, [0], [32]⟩], layouts := [some (lay 1 0 0 [64] [])],
                                slots := [⟨true, 0, 2, 0, 0⟩] }
/-- An eviction of frame 0, idle or while a fetch that had passed its check is in flight. -/
abbrev evicting (x : Stream) : State := flowing (moving (running (lop vop) arr) (mig 6 0 (tier1Base 2))) x
theorem witness_Migration_6 : migPick 6 ((evicting (strm 0)).chan 0).mig [] 0 = some (0, mig 6 0 (tier1Base 2)) ∧
    isDormant (evicting (strm 0)) = false ∧ frameOk (evicting (strm 0)) 0 (mig 6 0 (tier1Base 2)) = true ∧
    tier1Ok (evicting (strm 0)) 0 (tier1Base 2) = true ∧
    flightInFrame (markFrame (evicting (strm 0)) 0 0 false) 0 0 = false ∧
    flightInFrame (markFrame (evicting { strm 0 with inflight := [0] }) 0 0 false) 0 0 = true := by decide +kernel
abbrev pended : State := flowing (running (lop vop) arr) { strm 0 with pend := [⟨1, 7⟩], next := 2 }
theorem witness_Fetches_1 : nextFetch pended 0 = some (4095, 1) ∧ nextFetch (issueFetch pended 0 4095 1) 0 = none := by
  decide +kernel
abbrev asking : State := flowing (running (lop vop) arr) { strm 0 with next := 2 }
theorem witness_Fetches_3 : askedStream asking 0 0 0 = some (4095, lop vop, g0) ∧
    askedOf (asking.stream 0 4095) 0 < (asking.stream 0 4095).length ∧
    askedOf (asking.stream 0 4095) 0 ≤ (asking.stream 0 4095).full ∧ askedOf (asking.stream 0 4095) 0 = 0 := by decide +kernel
/-- A core that has asked for tile 0 and taken it. -/
abbrev taken : State := flowing (running (lop vop) { arr with kept := [(0, [])] }) { strm 0 with full := 1, asked := [(0, 1)] }
theorem witness_Fetches_3b : askedStream taken 0 0 0 = some (4095, lop vop, g0) ∧ askedOf (taken.stream 0 4095) 0 = 1 ∧
    1 < (taken.stream 0 4095).length ∧ 1 ≤ (taken.stream 0 4095).full ∧ kindTask (op0 0) = 0 ∧
    movedPast (lop (op0 0)) g0 (taken.core 0 g0.phys) 0 0 = true := by decide +kernel
theorem witness_Fetches_6 : 0 + (strm 0).lead = ({ strm 0 with next := 2, full := 1 } : Stream).next ∧ 2 < (strm 0).length ∧
    (strm 0).full ≤ 0 ∧ (strm 0).wait = none := by decide
/-- A consumer that waits for tile 0, which is full, with the halt at that tile or without. -/
abbrev ending (ex : List Nat) : State := flowing up { strm 0 with full := 1, wait := some ⟨0, 0, false⟩, exempt := ex }
theorem witness_Fetches_7 : ((ending [0]).stream 0 4095).wait = some ⟨0, 0, false⟩ ∧ 0 < ((ending [0]).stream 0 4095).full ∧
    ((ending [0]).stream 0 4095).exempt.contains 0 = true ∧ ((ending []).stream 0 4095).wait = some ⟨0, 0, false⟩ ∧
    ((ending []).stream 0 4095).exempt.contains 0 = false := by decide
abbrev coming : State := flowing (running (lop vop) arr) { strm 0 with inflight := [0], next := 2 }
theorem witness_Fetches_4 : (coming.stream 0 4095).used = true ∧ (coming.stream 0 4095).inflight.contains 0 = true ∧
    findOp coming 0 (coming.stream 0 4095).opId = some (lop vop) ∧ letrixKind (lop vop).op.kind = false ∧
    streamCore (lop vop) (coming.stream 0 4095) = some g0 ∧ (lop vop).op.kind ≠ 0 ∧
    (match readHeld coming (streamWords coming (heldByte coming) (lop vop) (coming.stream 0 4095) 0) with
      | (s', .ok _) => arrivalFault (heldByte s') vop g0 (coming.stream 0 4095) 0 == none
      | _ => false) = true := by decide +kernel
abbrev spoilt : State := { coming with errs := [(0, 1), (1, 1)] }
theorem witness_Fetches_5 : (match readHeld spoilt (streamWords spoilt (heldByte spoilt) (lop vop) (spoilt.stream 0 4095) 0) with
      | (_, .error _) => true
      | _ => false) = true := by decide +kernel
abbrev halted : State := flowing up { strm 0 with halt := some 3, marked := [1] }
theorem witness_StreamMessages_1 : (halted.stream 0 4095).halt ≠ none := by decide
/-- Slot 0 block-scaled, its scales in tier 0. -/
abbrev sop : Op := { vop with layouts := [some (lay 1 4 0 [64] [])], scales := [some (lay 1 0 2048 [2] [])] }
theorem witness_StreamMessages_2 : (flowing (running (lop sop) arr) (strm 0)).stream 0 4095 = strm 0 ∧ (strm 0).used = true ∧
    (strm 0).cores.contains 0 = true ∧ 0 < (strm 0).length ∧ (strm 0).marked.contains 0 = false ∧
    findOp (flowing (running (lop sop) arr) (strm 0)) 0 (strm 0).opId = some (lop sop) ∧ gridCore (lop sop) 0 = some g0 ∧
    (strm 0).slot ≠ 5 ∧ (lop sop).op.scale (strm 0).slot = some (lay 1 0 2048 [2] []) ∧
    (match readWordsOn true (count64 (flowing (running (lop sop) arr) (strm 0)) (Reg.chSpMsgCount 0) 1)
        (((scaleAddrs (flowing (running (lop sop) arr) (strm 0)) 0 (lop sop) g0 (strm 0) 0 0 (lay 1 0 2048 [2] [])).filterMap id).map (· / 16)).dedup with
      | (_, .ok _) => true
      | _ => false) = true := by decide +kernel
theorem witness_StreamMessages_3 : 1 ≤ (List.replicate 16 (0 : W32)).length ∧ (List.replicate 16 (0 : W32)).length ≤ 16 := by decide
theorem witness_StreamMessages_4 : (regRow (chBlock 3 + 0x7000 + 8 * 7)).map (fun r => r.fields.map fun f => (f.acc, f.hi)) =
    some [(.rc, 31)] := by decide
theorem witness_StreamMessages_5 : physOf up 0 767 < 800 ∧
    flag (setFlag up (Reg.coreRecvWindow 0 0 7) 31 true) (Reg.coreRecvWindow 0 (physOf up 0 767) 7) 31 = true := by decide


/-! ### Results -/

/-- A dense tensor in the task's region. -/
abbrev inStore (rank fmt base : Nat) (ext : List Nat) (st : List Int) : Layout := ⟨rank, false, true, base, 0, fmt, 0, ext, st, 0⟩
/-- A product with one result element, in FP32, and a reduction of 1. -/
abbrev prod : Op :=
  { op0 0 with
    levels := [⟨1, 2, 0, 0, [0, 0, 7, 7, 7, 7, 7, 7], [512, 512, 0, 0, 0, 0, 0, 0]⟩,
               ⟨1, 0, 1, 0, [1, 7, 7, 1, 7, 7, 7, 7], [64, 0, 0, 64, 0, 0, 0, 0]⟩]
    slots := [⟨true, 0, 0, 0, 0⟩, ⟨true, 0, 0, 0, 0⟩, ⟨false, 0, 0, 0, 0⟩, ⟨true, 0, 0, 0, 0o543210⟩]
    layouts := [some (inStore 2 0 0 [1, 1] [0, 1]), some (inStore 2 0 64 [1, 1] [0, 1]), none, some (inStore 2 9 128 [1, 1] [0, 1])] }
abbrev zero : Cell := ⟨0, none, 0⟩
abbrev onePass : Pass := ⟨0, 0, false, 1, [zero], [], []⟩
abbrev waits (l : LoadedOp) (ps : List Pass) : State := running l { arr with awaiting := ps }
abbrev maxed : LoadedOp := lop { prod with mode := 5 }
theorem witness_Results_1 : arrayAt (waits maxed [onePass]) 0 (arrayCore (waits maxed [onePass]) 0 0) = some (maxed, g0) ∧
    maxed.op.kind = 0 ∧ ((waits maxed [onePass]).core 0 g0.phys).array = some { arr with awaiting := [onePass] } ∧
    ((waits maxed [onePass]).core 0 g0.phys).behind = none ∧ maxed.op.mode ≠ 0 ∧
    (commitPass (waits maxed [onePass]) 0 maxed g0 { arr with awaiting := [onePass] } (onePass.disturb [])).2 = true := by
  decide +kernel
/-- 32 rows of zeros under a row checksum of 1. -/
abbrev badPass : Pass := ⟨0, 0, true, 32, List.replicate 1024 zero, ⟨1, none, 0⟩ :: List.replicate 31 zero, List.replicate 32 zero⟩
abbrev chked : State := setFlag (waits (lop prod) [badPass]) (Reg.chChkCtrl 0) 0 true
theorem witness_Results_1b : arrayAt chked 0 (arrayCore chked 0 0) = some (lop prod, g0) ∧ (chked.core 0 g0.phys).behind = none ∧ (lop prod).op.mode = 0 ∧
    flag chked (Reg.chChkCtrl 0) 0 = true ∧ 32 ≤ (badPass.disturb []).rows ∧
    (badPass.disturb []).failures (fld chked (Reg.chChkCtrl 0) 7 4) (passLen chked 0 prod g0) 0 ≠ ([], []) := by decide +kernel
abbrev twoWait : State := waits (lop prod) [onePass, onePass]
theorem witness_Results_2 : arrayAt twoWait 0 (arrayCore twoWait 0 0) = some (lop prod, g0) ∧
    (twoWait.core 0 (arrayCore twoWait 0 0)).array = some { arr with awaiting := [onePass, onePass] } ∧
    (twoWait.core 0 (arrayCore twoWait 0 0)).behind = none ∧ 2 ≤ [onePass, onePass].length ∧ (lop prod).op.parts ≤ 1 := by decide
abbrev g1 : GridCore := ⟨1, 1, 0, 0, 1, 0, 512⟩
abbrev halves : LoadedOp := { lop { prod with parts := 2 } with grid := [g0, g1], started := [0, 1], counter7 := [(0, 0xFFFFFFFE)] }
theorem witness_Results_3 : arrayCore (running halves arr) 0 0 = 0 ∧ ((running halves arr).core 0 0).array = some arr ∧
    ((running halves arr).core 0 0).behind = none ∧ findOp (running halves arr) 0 arr.opId = some halves ∧
    halves.grid.find? (·.phys == 0) = some g0 ∧ 1 < halves.op.parts ∧ g0.p = 0 ∧ halves.stopped = false ∧ arr.halted = none ∧
    reached (running halves arr) 0 0 7
      ((mfind halves.counter7 g0.log).getD 0 + BitVec.ofNat 32 (halves.op.parts * (arr.combined + 1))) = true ∧
    (match (workTiles halves.op g0)[arr.combined]? with
      | some tile => (combineStore (running halves arr) 0 halves g0 arr tile).2.2.isNone
      | none => false) = true := by decide +kernel
/-- Where no word holds an error and no store scales are read, a combine reads its parts and changes nothing. -/
theorem combineReads_clean {s : State} {l : LoadedOp} (h : s.errs = []) (no : l.op.layout 5 = none) (n : Nat) (g : GridCore)
    (tile : TileIx) (t : Nat) : combineReads s n l g tile t = (s, true) := by
  simp only [combineReads, taskRead_clean h, scaleReads, no]
theorem witness_Results_3b (tile : TileIx) :
    combineReads (running halves arr) 0 halves g0 tile 0 = (running halves arr, true) :=
  combineReads_clean (by decide) (by decide) 0 g0 tile 0
/-- The part-1 core whose tile is two tiles ahead of what part 0 has combined. -/
abbrev ahead2 : Pass := { onePass with seq := 2 }
abbrev parting : State := (running halves arr).setCore 0 1 { Core.idle with array := some { ArrayTask.init 5 g1 [] with awaiting := [ahead2] } }
theorem witness_Results_7 : arrayAt parting 0 (arrayCore parting 0 1) = some (halves, g1) ∧
    (parting.core 0 (arrayCore parting 0 1)).array = some { ArrayTask.init 5 g1 [] with awaiting := [ahead2] } ∧
    (parting.core 0 (arrayCore parting 0 1)).behind = none ∧ 1 < halves.op.parts ∧
    combinedOf (parting.core 0 (partCore halves g1).phys) halves.op.opId + 2 ≤ ahead2.seq := by decide +kernel
/-- A matrix-vector product of one element, its weight in tier 0 and its result in the combining core's region. -/
abbrev mv : Op :=
  { op0 8 with
    slots := [⟨true, 0, 2, 0, 0⟩, ⟨true, 0, 2, 0, 0⟩, ⟨false, 0, 0, 0, 0⟩, ⟨true, 0, 0, 0, 0o543210⟩]
    layouts := [some (lay 2 0 T [1, 1] [0, 1]), some (lay 2 0 0 [1, 1] [0, 1]), none, some (inStore 2 9 0 [1, 1] [0, 1])] }
abbrev summed : LoadedOp := { lop mv with lx := { LxWork.init 0 with sums := [(0, [zero]), (1, [zero]), (2, [zero])] } }
theorem witness_Results_4 : liveOp (hold granted summed) 0 5 = some summed ∧ summed.op.kind = 8 ∧ summed.lx.done < mvChunks summed.op ∧
    (∀ d < 3, (mfind summed.lx.sums (3 * summed.lx.done + d)).isSome = true) ∧
    summed.lx.halted = none ∧ (entryRead (hold granted summed) 0 summed (sumWords summed summed.lx.done)).2 = true ∧
    (chunkStore (entryRead (hold granted summed) 0 summed (sumWords summed summed.lx.done)).1 0 summed summed.lx.done).2.2.isNone = true ∧
    (findOp (chunkStore (entryRead (hold granted summed) 0 summed (sumWords summed summed.lx.done)).1 0 summed
      summed.lx.done).1 0 5).isSome = true := by decide +kernel
/-- Both streams in, on die 0. -/
abbrev fed (l : LoadedOp) (o p : Nat) : State :=
  ((hold granted l).setStream 0 0 { strm o with letrix := true, die := 0, length := 1, full := 1, cores := [] }).setStream 0 1
    { strm p with length := 1, full := 1, cores := [] }
theorem witness_Results_5 : liveOp (fed (lop mv) 1 0) 0 5 = some (lop mv) ∧ (lop mv).lx.next.getD 0 0 < mvChunks mv ∧
    (lop mv).lx.next.getD 0 0 < (lop mv).lx.done + 2 ∧
    streamHolds (fed (lop mv) 1 0) 0 5 1 0 (chunkTiles (fed (lop mv) 1 0) mv 0 0) = true ∧
    streamHolds (fed (lop mv) 1 0) 0 5 0 0 0xFFFFFFFF = true ∧ 0 < (lop mv).lx.next.length := by decide +kernel
/-- The same operation with block scales on its weights, and the stream of the scales in as well. -/
abbrev mvScaled : Op := { mv with scales := [none, some (lay 2 0 T [1, 1] [0, 1]), none, none, none, none, none, none] }
abbrev fedScaled : State := (fed (lop mvScaled) 1 0).setStream 0 2 { strm 17 with letrix := true, die := 0, length := 1, full := 1, cores := [] }
theorem witness_Results_scales : (mvScaled.scale 1).isSome = true ∧ liveOp fedScaled 0 5 = some (lop mvScaled) ∧
    streamHolds fedScaled 0 5 1 0 (chunkTiles fedScaled mvScaled 0 0) = true ∧
    streamHolds fedScaled 0 5 0 0 0xFFFFFFFF = true ∧
    streamHolds fedScaled 0 5 (scaleSlot 1) 0 (scaleTilesFor fedScaled mvScaled 0 0) = true := by decide +kernel
abbrev rotated : LoadedOp :=
  { lop { prod with rot := [⟨1, 2, 1, 0, 8⟩], gridM := 2 } with grid := [g0, ⟨1, 1, 1, 0, 0, 0, 512⟩], started := [0, 1] }
abbrev rotTo : GridCore := ⟨1, 1, 1, 0, 0, 0, 512⟩
abbrev rotating : State := (hold granted rotated).setCore 0 1 { Core.idle with array := some (ArrayTask.init 5 rotTo []) }
theorem witness_Results_6 : rotFound rotating 0 0 1 = some (rotated, ⟨1, 2, 1, 0, 8⟩, g0, rotTo) ∧
    rotReady rotating 0 1 rotated ⟨1, 2, 1, 0, 8⟩ g0 rotTo = true ∧
    outsideRegion g0.base g0.len ((List.range 128).map fun w => ((rotRows ⟨1, 2, 1, 0, 8⟩ 0).1 + w / 32, w % 32)) = none ∧
    rotCount rotating 0 5 rotTo 1 = 0 ∧
    (csRead rotating 0 0 ((List.range 128).map fun w => ((rotRows ⟨1, 2, 1, 0, 8⟩ 0).1 + w / 32, w % 32))).2.isNone = true ∧
    (rotating.core 0 1).gather = [] ∧ (rotRows ⟨1, 2, 1, 0, 8⟩ 0).1 + 4 ≤ 512 ∧ (rotRows ⟨1, 2, 1, 0, 8⟩ 0).2 + 4 ≤ 512 := by
  decide +kernel

/-! ### The core store -/

abbrev gathered : State := granted.setCore 3 799 { Core.idle with gather := [⟨16383, 5, 255, 3⟩] }
theorem witness_CoreStore_1 : ∀ g ∈ (gathered.core 3 (799 : Fin 800).val).gather, g.word < 16384 ∧
    decodeWord gathered (csWord gathered 3 799 (g.word / 32) (g.word % 32)) ≠ .bad := by decide +kernel
abbrev wrAcc : CsAccess := ⟨.debug, true, true, 511, 31, 1, [1], [2 ^ 128 - 1]⟩
theorem witness_CoreStore_2 : userTask wrAcc.user = 3 ∧ wrAcc.user ≠ .remote ∧
    accOk wrAcc.column wrAcc.row wrAcc.word wrAcc.count = true ∧ rowPowered up 0 799 wrAcc.row = true ∧
    rowPowered up 0 799 (wrAcc.row + (if wrAcc.column then wrAcc.count else 1) - 1) = true ∧
    (∀ p ∈ accWords wrAcc.column wrAcc.row wrAcc.word wrAcc.count, decodeWord up (csWord up 0 799 p.1 p.2) = .clean) := by decide +kernel
theorem witness_CoreStore_4 : ((up.setCore 0 0 { Core.idle with wb := [7] }).core 0 0).wb = [7] := by decide
abbrev fillLop (c : FillCmd) : LoadedOp := { lop fillOp with cmds := [c] }
abbrev fillRun (c : FillCmd) : State := (hold granted (fillLop c)).setCore 0 0 { Core.idle with fill := some ⟨5, 0, none⟩ }
theorem witness_CoreStore_5 : nextFill (fillRun fillCmd) 0 0 false = some (⟨5, 0, none⟩, fillLop fillCmd, g0, fillCmd) ∧
    rangeWaits (fillRun fillCmd) 0 g0 true (regionWords g0 fillCmd.dst fillCmd.len) = false := by decide +kernel
abbrev copyCmd : FillCmd := ⟨true, 0, 16, 262128, 0⟩
theorem witness_CoreStore_6 : nextFill (fillRun copyCmd) 0 0 true = some (⟨5, 0, none⟩, fillLop copyCmd, g0, copyCmd) ∧
    rangeWaits (fillRun copyCmd) 0 g0 false (regionWords g0 copyCmd.src copyCmd.len) = false ∧
    rangeWaits (fillRun copyCmd) 0 g0 true (regionWords g0 copyCmd.dst copyCmd.len) = false ∧
    (taskRead (fillRun copyCmd) 0 g0.phys 2 (regionWords g0 copyCmd.src copyCmd.len)).2 = true := by decide +kernel

/-! ### Registers -/

theorem witness_RegisterAccess_1 : noTask (up.core 0 799) = true ∧ (15 : W64).toNat < 16 ∧
    noTask ((fillRun copyCmd).core 0 0) = false := by decide
theorem witness_RegisterAccess_2 : noTask (up.core 0 799) = true ∧ 511 < 512 ∧ flag up (Reg.coreRowMap 0 799 7) 31 = false ∧
    flag (setFlag up (Reg.coreRowMap 0 799 7) 31 true) (Reg.coreRowMap 0 799 7) 31 = true := by decide
theorem witness_RegisterAccess_2b : flag (setFld (setFlag up (Reg.coreRowMap 0 799 7) 31 true) (Reg.coreRowMap 0 799 7) 8 0 511)
      (Reg.coreRowMap 0 799 7) 31 = true ∧
    fld (setFld (setFlag up (Reg.coreRowMap 0 799 7) 31 true) (Reg.coreRowMap 0 799 7) 8 0 511) (Reg.coreRowMap 0 799 7) 8 0 = 511 := by
  decide
theorem witness_RegisterAccess_3 : bits (0x9FFF01FF : W64).toNat 63 32 = 0 ∧ bits (0x9FFF01FF : W64).toNat 30 29 = 0 ∧
    bits (0x9FFF01FF : W64).toNat 15 9 = 0 := by decide
theorem witness_RegisterAccess_4 : (0xFFFFFFFF : W64).toNat < 2 ^ 32 ∧ (1023 : W64).toNat < 1024 := by decide
theorem witness_RegisterAccess_5 : ((regRow (Reg.chHotCtrl 0).addr).map fun r => rowAccepts r 0x80000001) = some true ∧
    (Reg.chHotCtrl 0).addr < chBlock 4 ∧ (chEffect (Reg.chHotCtrl 0).addr 0x80000001 up).isNone = true ∧
    (Reg.chHotCtrl 0).addr ≠ (Reg.chMigCmd3 (regChan (Reg.chHotCtrl 0).addr)).addr ∧ beatPair (Reg.chHotCtrl 0).addr = none ∧
    queueBaseRefused (Reg.chHotCtrl 0).addr 0x80000001 = false ∧ lockedReg (Reg.chHotCtrl 0).addr = false ∧
    flag (setFlag up Reg.glbLcStatus 23 true) Reg.glbLcStatus 23 = true := by decide
theorem witness_RegisterAccess_6 : (regRow (chBlock 0 + 1)).isNone = true := by decide
theorem witness_RegisterAccess_7 : ((regRow (Reg.chLoadRejectCount 3).addr).map clearsOnRead) = some true ∧
    deadLetrix up (Reg.chLoadRejectCount 3).addr = false ∧ multiSlot (Reg.chLoadRejectCount 3).addr = none := by decide
theorem witness_RegisterAccess_8 : flag (setFlag up Reg.glbLcStatus 24 true) Reg.glbLcStatus 24 = true ∧
    flag up Reg.glbLcStatus 24 = false := by decide

/-! ### The Letrix units, the page walks and the intersection -/

abbrev tabled (l : LoadedOp) (m : List (Nat × Byte)) : State := { fed l 1 0 with mem := m }
/-- Prefill with one length table entry at T and one query row. -/
abbrev pre : Op :=
  { op0 1 with kspec := [0, 2 ^ 56 + 32 * 2 ^ 47], slots := [⟨true, 0, 0, 0, 0⟩, ⟨true, 0, 0, 0, 0⟩],
               layouts := [some (inStore 3 7 0 [32, 1, 1] [0, 1, 1]), some (lay 1 9 T [8] [])] }
/-- The entry's bytes: q 1, kv 1, and generation 1; or q alone. -/
abbrev lenOk : List (Nat × Byte) := [(T + 8, 1), (T + 12, 1)]
abbrev lenOld : List (Nat × Byte) := [(T + 8, 1), (T + 12, 1), (T + 26, 1)]
theorem witness_LetrixWork_1 : liveOp (tabled (lop pre) lenOk) 0 5 = some (lop pre) ∧ firstStream (tabled (lop pre) lenOk) 0 5 1 = some 0 ∧
    pre.layout 1 = some (lay 1 9 T [8] []) ∧ (lay 1 9 T [8] []).space = false ∧ (lop pre).lx.arrived < lenCount pre ∧
    ((tabled (lop pre) lenOk).stream 0 0).halt = none ∧
    min ((tabled (lop pre) lenOk).stream 0 0).length ((lop pre).lx.arrived / 64 + 1) ≤ ((tabled (lop pre) lenOk).stream 0 0).full ∧
    (match (readRange (tabled (lop pre) lenOk) T 32).2 with
      | .ok bs => (parseLen bs).gen == kvGen (tabled (lop pre) lenOk) 0 (parseLen bs).seq && lenFault 0 pre [] (parseLen bs) == none
      | _ => false) = true := by decide +kernel
theorem witness_LetrixWork_1b :
    (match (readRange (tabled (lop pre) lenOld) T 32).2 with
      | .ok bs => (parseLen bs).gen != kvGen (tabled (lop pre) lenOld) 0 (parseLen bs).seq
      | _ => false) = true ∧
    (match (readRange (tabled (lop pre) []) T 32).2 with
      | .ok bs => (parseLen bs).gen == kvGen (tabled (lop pre) []) 0 (parseLen bs).seq && lenFault 0 pre [] (parseLen bs) == some 1
      | _ => false) = true := by decide +kernel
/-- Decode attention over BF16 pages, one query row; one entry of two pages of 16 tokens, in frames 0 and 0. -/
abbrev dec : Op := { pre with kind := 9, kspec := [0, 2 ^ 56 + 32 * 2 ^ 47 + 0x80 * 2 ^ 16, 0, 0] }
abbrev seq1 : LenEntry := ⟨0, 0, 32, 1, 0, 31, 0, 0, 0, 0⟩
abbrev walking (page : Nat) : LoadedOp :=
  { lop dec with lx := { LxWork.init 0 with arrived := 1, entries := [(0, seq1)], pages := [0], page := page, rows := [[], [], []] } }
/-- Its walking streams and its query stream. -/
abbrev walked (l : LoadedOp) (m : List (Nat × Byte)) : State :=
  (List.range 3).foldl (fun s d => s.setStream 0 (2 + d) { strm 9 with letrix := true, die := d, cores := [] }) (tabled l m)
theorem witness_LetrixWork_2 : liveOp (walked (walking 1) []) 0 5 = some (walking 1) ∧
    (walking 1).lx.entries[(walking 1).lx.walking]? = some (0, seq1) ∧ walkersRun (walked (walking 1) []) 0 5 = true ∧
    (walking 1).lx.page = (walking 1).lx.pages.length ∧ (walking 1).lx.tokens < seq1.kv ∧ (walking 1).lx.pages.length % 16 ≠ 0 ∧
    (match readWordsOn true (walked (walking 1) []) (wordsOf (seq1.list + 4) 4) with
      | (s', .ok ws) =>
        let f := leNat (((ws.flatMap (·.2)).drop ((seq1.list + 4) % 16)).take 4)
        decide (f < frames) && !absent s' 0 f
      | _ => false) = true := by decide +kernel
/-- The header of frame 0, at 0: both formats BF16, 16 tokens, valid. -/
abbrev header : List (Nat × Byte) := [(0, 0x41), (4, 7), (6, 7)]
theorem witness_LetrixWork_3 : (walking 0).lx.pages[(walking 0).lx.page]? = some 0 ∧
    streamHolds (walked (walking 0) header) 0 5 0 0 0xFFFFFFFF = true ∧ attnBias dec = false ∧
    hdrAddr (walked (walking 0) header) 0 0 = 0 ∧
    (match (readRange (walked (walking 0) header) 0 32).2 with
      | .ok bs => hdrFault dec seq1 (parseHdr bs)
      | _ => some 9) = none := by decide +kernel
theorem witness_LetrixWork_3b : (dieReads ((List.range 3).foldl (fun s d => portDown s (dieNo 0 d) 32) (walked (walking 0) header)) 0 5 dec 0 ⟨0, ⟨7, 7, 0, 0, 4, false, true, 0, 0, 0⟩, 0⟩
    [[], [], []]).2 = true := by decide +kernel
/-- A decode whose one entry has its three states. -/
abbrev empty : RowState := ⟨0xFF800000, 0, []⟩
abbrev decOut : Op := { dec with layouts := [some (inStore 3 7 0 [32, 1, 1] [0, 1, 1]), some (lay 1 9 T [8] []), none,
  some (inStore 3 9 4096 [32, 1, 1] [0, 2, 2])], slots := [⟨true, 0, 2, 0, 0⟩, ⟨true, 0, 2, 0, 0⟩, ⟨false, 0, 0, 0, 0⟩, ⟨true, 0, 0, 0, 0o543210⟩] }
abbrev stated : LoadedOp :=
  { lop decOut with lx := { LxWork.init 0 with arrived := 1, entries := [(0, seq1)], states := [(0, [empty]), (1, [empty]), (2, [empty])] } }
theorem witness_LetrixWork_4 : liveOp (hold granted stated) 0 5 = some stated ∧
    stated.lx.entries[stated.lx.done]? = some (0, seq1) ∧ (∀ d < 3, (mfind stated.lx.states (3 * 0 + d)).isSome = true) ∧
    stated.lx.halted = none ∧ xParts stated.op = 0 ∧
    (let r := entryRead (hold granted stated) 0 stated (entryWords (statePlace stated seq1 0 0)
        (3 * entryRows stated.op seq1 * stateBytes stated.op))
     r.2 && (writeEntry r.1 0 stated seq1 ((((heldStates r.1 0 stated seq1 0 0).zip (heldStates r.1 0 stated seq1 0 1)).zip
        (heldStates r.1 0 stated seq1 0 2)).map fun p => (p.1.1.merge p.1.2).merge p.2)).2.isNone) = true := by decide +kernel
/-- Exports of two parts into a window of core 0, none of them with an entry. -/
abbrev X : Nat := storeBase 0 0
abbrev exporting : LoadedOp :=
  { lop { decOut with kspec := [0, 2 ^ 56 + 32 * 2 ^ 47 + 0x80 * 2 ^ 16, 0, 2 * 2 ^ 62 + X], layouts := [none, some (lay 1 9 T [0] [])] } with
    lx := LxWork.init 0xFFFFFFFE }
abbrev exported : State :=
  wr (setFlag (hold granted exporting) (Reg.coreCsPower 0 0) 1 true) (Reg.coreRecvWindow 0 0 7) (BitVec.ofNat 64 (2 ^ 31 + 7 * 2 ^ 26 + 2 ^ 16))
theorem witness_LetrixWork_5 : liveOp exported 0 5 = some exporting ∧ xParts exporting.op ≠ 0 ∧ xPart exporting.op = 0 ∧
    lenCount exporting.op ≤ exporting.lx.arrived ∧ exporting.lx.entries.length ≤ exporting.lx.done ∧ opDone exporting = false ∧
    place (xAddr exporting.op) = .store 0 0 0 ∧ windowOf exported 0 0 0 1 = some 7 ∧
    reached exported 0 0 (fld exported (Reg.coreRecvWindow 0 0 7) 28 26)
      (exporting.lx.exported + BitVec.ofNat 32 (xParts exporting.op)) = true ∧
    exporting.lx.halted = none ∧
    (csRead exported 0 0 (entryWords 0 (xParts exporting.op * exportBytes exporting.op exporting.lx.entries))).2.isNone = true ∧
    (mergeExports 0 5 (exporting.lx.entries.length + 1) exported).2.isNone = true := by decide +kernel
/-- A gather of one index, 0, from a table of one row of 16 INT8 elements; with its index at T. -/
abbrev gth (halts : Bool) (rows : Nat) : Op :=
  { op0 10 with
    haltIdx := halts
    kspec := [0]
    slots := [⟨true, 0, 2, 0, 0⟩, ⟨true, 0, 2, 0, 0⟩, ⟨false, 0, 0, 0, 0⟩, ⟨true, 0, 0, 0, 0⟩]
    layouts := [some (lay 2 0 0 [16, rows] [0, 1]), some (lay 1 9 T [1] []), none, some (lay 2 0 (T + 2048) [16, 1] [0, 1])] }
theorem witness_LetrixWork_6 : liveOp (fed (lop (gth false 1)) 1 0) 0 5 = some (lop (gth false 1)) ∧ gsWork (gth false 1) = 0 ∧
    letrixStream (fed (lop (gth false 1)) 1 0) 0 5 1 0 = some 0 ∧ indexRuns (fed (lop (gth false 1)) 1 0) 0 0 = true ∧
    ((fed (lop (gth false 1)) 1 0).stream 0 (gsStream (fed (lop (gth false 1)) 1 0) 0 5 0 0).1).halt.all (· == 6) = true ∧
    (lop (gth false 1)).lx.next.getD 0 0 < gsCount (gth false 1) ∧
    (lop (gth false 1)).lx.next.getD 0 0 / 512 < ((fed (lop (gth false 1)) 1 0).stream 0 0).full ∧
    0 ≤ gsIndex (fed (lop (gth false 1)) 1 0) 0 (lop (gth false 1)) 0 ∧
    gsIndex (fed (lop (gth false 1)) 1 0) 0 (lop (gth false 1)) 0 < 1 ∧
    (let mine := indexPieces (fed (lop (gth false 1)) 1 0) (gth false 1) 0 0 0
     match gatherRow (fed (lop (gth false 1)) 1 0) none mine with
     | (s', .ok row) => (moveIndex s' 0 0 5 row mine (indexPad (gth false 1) 0 false)).2.isNone
     | _ => false) = true := by
  decide +kernel
theorem witness_LetrixWork_7 : (gth true 0).layout (gsTable (gth true 0)) = some (lay 2 0 0 [16, 0] [0, 1]) ∧
    ((lay 2 0 0 [16, 0] [0, 1]).extent 1 : Int) ≤ gsIndex (fed (lop (gth true 0)) 1 0) 0 (lop (gth true 0)) 0 ∧ (gth true 0).haltIdx = true := by
  decide +kernel
/-- A consumer, operation 5, of the producer 6; a core of it with one record to come. -/
abbrev cons : Op := { op0 2 with kspec := [BitVec.ofNat 64 (6 * 2 ^ 32 + 0x30003)], levels := [⟨1, 0, 2, 0, [], []⟩] }
abbrev pairing : ArrayTask := { arr with pair := some (0, 0, [5]), cur := some onePass }
theorem witness_LetrixWork_8 : consumerAt (running (lop cons) pairing) 0 0 = some (pairing, lop cons, g0) ∧
    pairing.pair = some (0, 0, [5]) ∧ pairing.cur = some onePass ∧ bits (5 : W64).toNat 63 62 = 0 ∧ bits (5 : W64).toNat 53 32 = 0 ∧
    (([5] : List W64).find? fun x => recordCell x == recordCell 5) = some 5 ∧
    behindDue (running (lop cons) pairing) 0 (arrayCore (running (lop cons) pairing) 0 0) = false ∧
    streamOn (running (lop cons) pairing) 0 0 (lop cons).op.opId 0 = none ∧
    streamOn ((running (lop cons) pairing).setStream 0 0 (strm 0)) 0 0 (lop cons).op.opId 0 = some 0 := by decide +kernel
/-- The producer: one group of eight lines and one step on each side, each an empty bitmap tile (R277, R287, R302). -/
abbrev side (a lines : Nat) : Layout := lay 2 3 a [512, lines] [0, 8]
abbrev oneMap : SparseMap := ⟨T, 1, 1, 64, 0, 0, 64, []⟩
abbrev isect : LoadedOp :=
  { lop { op0 11 with opId := 6, layouts := [some (side T 8), some (side (T + 2048) 32)], map := some { oneMap with base := T + 4096 },
                      map2 := some { oneMap with base := T + 4096 } } with started := [] }
abbrev tiles2 : List (Nat × Byte) := [(T + 5, 0x50), (T + 6, 3), (T + 2053, 0x40), (T + 2054, 3)]
abbrev blocking : ArrayTask := { arr with cur := some onePass }
abbrev pairs1 : State :=
  { (running (lop cons) blocking).setChan 0 { (running (lop cons) blocking).chan 0 with ops := [lop cons, isect] } with mem := tiles2 }
/-- The words of both tiles and of the map, as the streams delivered them. -/
abbrev tileWords : List (Nat × List Byte) :=
  [(T / 16, [0, 0, 0, 0, 0, 0x50, 3, 0, 0, 0, 0, 0, 0, 0, 0, 0]), ((T + 2048) / 16, [0, 0, 0, 0, 0, 0x40, 3, 0, 0, 0, 0, 0, 0, 0, 0, 0])]
/-- The producer's streams, whole. -/
abbrev pairs2 : State := ([0, 1, 6, 7].zipIdx).foldl (fun s p => s.setStream 0 p.2 { strm p.1 with
  opId := 6, letrix := true, die := workStack pairs1 isect.op (0, 0), cores := [], length := 1, full := 1, held := tileWords }) pairs1
abbrev blockRec : W64 := BitVec.ofNat 64 (3 * 2 ^ 62)
theorem witness_LetrixWork_10 : consumerAt pairs2 0 0 = some (blocking, lop cons, g0) ∧ producerOf pairs2 0 cons = some isect ∧
    bits blockRec.toNat 63 62 = 3 ∧ bits blockRec.toNat 7 0 = 0 ∧
    ((isectWork pairs2 isect.op).filter fun w => !isect.lx.blocks.contains w &&
      workStack pairs2 isect.op w == workStack pairs2 isect.op (0, 0)).head? = some (0, 0) ∧
    (bits blockRec.toNat 61 32, bits blockRec.toNat 31 8) = (0, 0) ∧
    ((workTiles cons g0)[blocking.seq]?).map (·.tm) = some 0 ∧
    isectHeld pairs2 0 isect.op (workStack pairs2 isect.op (0, 0)) (0, 0) = true ∧
    isect.stopped = false ∧ blocking.pair = none ∧ blocking.cur.isSome = true := by decide +kernel
theorem witness_LetrixWork_10b :
    behindDue pairs2 0 (arrayCore pairs2 0 0) = false ∧
    (((openPairs pairs2 0 (lop cons) g0).core 0 g0.phys).array.bind (·.cur)).isSome = true ∧
    (match isectTile pairs2 (unitByte pairs2 0 6 0 (workStack pairs2 isect.op (0, 0))) (side T 8) { oneMap with base := T + 4096 } 8 0 0 0 with | .ok _ => true | .error _ => false) = true ∧
    (match isectTile pairs2 (unitByte pairs2 0 6 1 (workStack pairs2 isect.op (0, 0))) (side (T + 2048) 32) { oneMap with base := T + 4096 } 32 0 0 0 with
      | .ok _ => true | .error _ => false) = true := by decide +kernel

/-! ### Losses -/

theorem witness_Losses_1 : fenced up 3 = false ∧ fenced (fence up 3 2 true) 3 = true ∧ LossCause.sensor ≠ .words16 := by decide
theorem witness_Losses_4 : ∀ t, (up.die (11 : Fin 12).val).portUe = some t → t + 1000000 < timeNs up :=
  fun t h => absurd h (by change ¬((none : Option Nat) = some t); simp)
abbrev struck : State := up.setDie 11 ⟨false, some 0⟩
theorem witness_Losses_5 : (struck.die 11).portUe = some 0 ∧ timeNs struck ≤ 0 + 1000000 := by decide
theorem witness_Losses_6 : outOfReset up = true ∧ (up.chan 0).retired.contains (physOf up 0 767) = false ∧ spareOk up 0 799 = true := by
  decide +kernel
theorem witness_Losses_6b : (up.chan 0).recov.contains (.core 767) = false ∧
    ((up.setChan 0 { up.chan 0 with recov := [.core 767] }).chan 0).recov.contains (.core 767) = true := by decide
/-- Every logical core maps to core 0, which is no spare. -/
theorem witness_Losses_7 : spareOk up 0 0 = false ∧ ((List.range 800).any fun k => spareOk up 0 k) = true := by decide +kernel
theorem witness_Losses_10 : outOfReset up = true ∧ flag up Reg.glbDieStatus 1 = false ∧ flag up Reg.glbDieStatus 0 = false := by decide
theorem witness_Losses_12 : scrubInterval (setFld up (Reg.chScrubCtrl 0) 31 24 0) 0 .tier0 = 0 := by decide
abbrev worn : State := { setFld up (Reg.chScrubCtrl 0) 31 24 1 with errs := [(0, 1)] }
theorem witness_Losses_13 : scrubInterval worn 0 .tier0 ≠ 0 ∧ worn.board.retained = false ∧ outOfReset worn = true ∧
    fenced worn 0 = false ∧ (errWords worn).filter (scrubbed worn 0 .tier0) = [0] ∧ (worn.chan 0).rowCe = [] ∧
    decodeWord worn 0 = .corrected 0 1 := by decide +kernel

/-! ### The vector unit -/

/-- A vector operation at a word of its program. -/
abbrev vecLop (w : Nat) : LoadedOp :=
  lop { vop with kspec := [BitVec.ofNat 64 w], levels := [⟨2, 0, 1, 0, [0, 7, 7, 0, 7, 7, 7, 7], [32, 0, 0, 32, 0, 0, 0, 0]⟩],
                 slots := [⟨true, 0, 0, 0, 0⟩, ⟨false, 0, 0, 0, 0⟩, ⟨false, 0, 0, 0, 0⟩, ⟨true, 0, 0, 0, 0o543210⟩]
                 layouts := [some (inStore 1 9 0 [64] []), none, none, some (inStore 1 9 1024 [64] [])] }
abbrev vt : VecTask := VecTask.init 5 g0 []
abbrev vecRun (w : Nat) : State := (hold granted (vecLop w)).setCore 0 0 { Core.idle with vec := some vt }
abbrev vat (w : Nat) : VecAt := ⟨vecLop w, g0, vt, vecDecode w⟩
theorem witness_VectorWords : (⟨63, 7, 7, 7, 7, 16383⟩ : VecOp).fits = true := by decide
theorem witness_VectorOpcodes_1 : vecAt (vecRun (0x2D * 2 ^ 26)) 0 0 0x2D = some (vat (0x2D * 2 ^ 26)) ∧
    (registerOpcodes 0 0).map (·.2.1) = 0x03 :: (List.range 0x26).map (· + 8) := by decide
theorem witness_VectorOpcodes_2 : vecAt (vecRun (2 ^ 26)) 0 0 0x01 = some (vat (2 ^ 26)) ∧
    (match (workTiles (vecLop (2 ^ 26)).op g0)[vt.seq]? with
      | some tile => ((List.range 32).all fun i => (vecLane (vecRun (2 ^ 26)) 0 (vat (2 ^ 26)) 0 tile i).2) &&
          (regionRead (vecRun (2 ^ 26)) 0 g0 1 (vecWords (vecRun (2 ^ 26)) 0 (vat (2 ^ 26)) 0 tile)).2
      | none => false) = true := by decide +kernel
abbrev stWord : Nat := 2 * 2 ^ 26 + 3
theorem witness_VectorOpcodes_3 : vecAt (vecRun stWord) 0 0 0x02 = some (vat stWord) ∧ (vat stWord).w.imm % 8 ≠ 4 ∧ vt.arrive = none ∧
    (match (workTiles (vecLop stWord).op g0)[vt.seq]? with
      | some tile =>
        let rs := (vt.reg (vat stWord).w.a).zipIdx.map fun p =>
          (⟨moved (baseCoord 3 tile.levels) (some 0) ((p.2 : Nat) : Int), f32 p.1⟩ : Res)
        !wordsWait ((vecRun stWord).core 0 0) 1 true (stWords (vat stWord) tile 3 rs) &&
          (storeResults (vecRun stWord) 0 g0 1 (vecLop stWord).op 3 false rs).2.2.isNone
      | none => false) = true := by decide +kernel
/-- The same tiles as one row, at a store of slot 4 (R561). -/
abbrev rowLop : LoadedOp :=
  lop { (vecLop (2 * 2 ^ 26 + 4)).op with levels := [⟨2, 1, 1, 0, [0, 7, 7, 0, 7, 7, 7, 7], [32, 0, 0, 32, 0, 0, 0, 0]⟩] }
abbrev rowAt : VecAt := ⟨rowLop, g0, vt, vecDecode (2 * 2 ^ 26 + 4)⟩
theorem witness_VectorOpcodes_3b :
    vecAt ((hold granted rowLop).setCore 0 0 { Core.idle with vec := some vt }) 0 0 0x02 = some rowAt ∧
    rowAt.w.imm % 8 = 4 ∧ ((workTiles rowLop.op g0)[vt.seq]?).isSome = true ∧ lastOfRow rowLop.op g0 vt.seq = false := by
  decide +kernel
theorem witness_VectorOpcodes_4 : vecAt (vecRun (0x31 * 2 ^ 26)) 0 0 0x31 = some (vat (0x31 * 2 ^ 26)) ∧
    vecAt (vecRun (0x32 * 2 ^ 26)) 0 0 0x32 = some (vat (0x32 * 2 ^ 26)) ∧
    vecAt (vecRun (0x30 * 2 ^ 26)) 0 0 0x30 = some (vat (0x30 * 2 ^ 26)) ∧ bits (vat (0x30 * 2 ^ 26)).w.imm 5 4 ≠ 2 := by decide
theorem witness_VectorOpcodes_7 : vecAt (vecRun 0) 0 0 0x00 = some (vat 0) ∧ (vat 0).l.op.arrive = false ∧
    (vat 0).t.seq + 1 ≠ (workTiles (vat 0).l.op g0).length := by decide
theorem witness_VectorOpcodes_8 :
    vecAt ((hold granted (vecLop 0)).setCore 0 0 { Core.idle with vec := some { vt with seq := 1 } }) 0 0 0x00 =
      some ⟨vecLop 0, g0, { vt with seq := 1 }, vecDecode 0⟩ ∧ 1 + 1 = (workTiles (vecLop 0).op g0).length := by decide

/-! ### Worked values of the spec -/

/-- The cancelling sum of the chapter on accumulation: 2^24, 0.75, 0.75, −2^24 and 0.5 leave 0.5. -/
theorem test_cancelling_sum :
    ([0x4B800000, 0x3F400000, 0x3F400000, 0xCB800000, 0x3F000000] : List W32).foldl fadd 0 = 0x3F000000 := by decide
/-- The block that outgrows its scale, at M1: 39,322 exceeds 32,767, the scale becomes 0x7B, −3.5 rounds to −4. -/
theorem test_outgrown_block : hop ⟨0x7A, 0, [23593, -5]⟩ [f32 0x3CF5C28F, f32 0xB68637BD] =
    (⟨0x7B, 1, 19661 :: -4 :: List.replicate 30 0⟩, ⟨1, false, false⟩) := by decide +kernel
/-- The reciprocal of the least subnormal numbers overflows to an infinity of their sign (R109). -/
theorem test_recip_overflow : fRecip 0x00000001 = 0x7F800000 ∧ fRecip 0x80000001 = 0xFF800000 := by decide +kernel
/-- A read slot of a tensor that the operation writes gives a byte as it was before the write (R191). -/
abbrev inPlace : LoadedOp :=
  { lop { vop with layouts := [some (lay 1 0 0 [64] []), none, none, some (lay 1 0 0 [64] [])],
                   slots := [⟨true, 0, 2, 0, 0⟩, ⟨false, 0, 0, 0, 0⟩, ⟨false, 0, 0, 0, 0⟩, ⟨true, 0, 0, 0, 0o543210⟩] } with
    before := [(0, List.replicate 16 9)] }
theorem test_before_write : rereads inPlace.op 0 = true ∧ sourceByte (hold up inPlace) 0 inPlace.op 0 0 (fun _ => 1) 3 = 9 ∧
    sourceByte (hold up inPlace) 0 inPlace.op 0 0 (fun _ => 1) 16 = 1 := by decide +kernel
/-- A run image's word with a reserved bit set is not written (R663); one without is. -/
theorem test_firmware_write : rd (firmwareWrite up (Reg.chKvArea 0) (BitVec.ofNat 64 (2 ^ 62))) (Reg.chKvArea 0) = rd up (Reg.chKvArea 0) ∧
    rd (firmwareWrite up Reg.glbHostCfg 7) Reg.glbHostCfg ≠ rd up Reg.glbHostCfg := by decide +kernel
/-- Entry 517 of CH2's core map, and arrival counter 3 of its physical core 674. -/
theorem test_register_addresses : (Reg.chCoreMap 2 517).addr = 0x07F002005028 ∧ (Reg.coreArrival 2 674 3).addr = 0x07F002AA2098 := by
  decide

end Sys2Proof.Tests
end

section
/-! PROOFS. Masked writes of the core store (O55): a write that flushes the gather buffer can post an event. -/

namespace Sys2Proof.Machine

/-- A core whose gather buffer is full: bit 0 of each of the words 0 to 7 of row 0 waits in it. -/
def fullGather : Core := { Core.idle with gather := (List.range 8).map fun w => ⟨w, 0, 1, 0⟩ }

/-- A state in which the flush of the oldest entry corrects word 0 of row 0, whose symbol 0 is wrong, and its row is at once
due for mapping, with row_thresh at 1 (R148, R177). The channel's event queue has its base at row 1 of the same store, a place
that R565 refuses and that no hypothesis of the statement excludes. -/
def ringInStore : State :=
  let s := { State.reset with errs := [(18 * (storeBase 0 0 / 16), 1)] }.setCore 0 0 fullGather
  setFld (setFld s (Reg.chCsCtrl 0) 3 0 1) (Reg.chEqBase 0) 47 0 (storeBase 0 0 + 512)

theorem ringInStore_gather : ∀ g ∈ (ringInStore.core 0 0).gather, g.word < 16384 ∧
    decodeWord ringInStore (csWord ringInStore 0 0 (g.word / 32) (g.word % 32)) ≠ .bad := by
  decide +kernel

theorem csView_ringInStore : csView ringInStore 0 0 1 0 = 0 := by decide +kernel

/-- A write of one bit of row 2 puts the row-mapping request, whose code is 0x09, into row 1. -/
theorem csView_csWrite_ringInStore : csView (csWrite ringInStore 0 0 3 2 0 1 1) 0 0 1 0 = 0x09 * 2 ^ 56 := by
  decide +kernel

/-- Refutes O55: in its first clause "no other word changes" fails where the write flushes a word that the read of the merge
corrects and the event of R177 is recorded in a queue that lies in the store. -/
theorem not_coreStore : ¬ Obligations.CoreStore := by
  unfold Obligations.CoreStore
  rintro ⟨hWrite, -⟩
  obtain ⟨-, hOther⟩ :=
    hWrite 0 0 3 2 0 1 1 ringInStore (by decide) (by decide) (by decide) (by decide) ringInStore_gather
  have hRow : csView (csWrite ringInStore 0 0 3 2 0 1 1) 0 0 1 0 = csView ringInStore 0 0 1 0 :=
    hOther 1 (by decide) 0 (by decide) (.inl (by decide))
  rw [csView_csWrite_ringInStore, csView_ringInStore] at hRow
  exact absurd hRow (by decide)

end Sys2Proof.Machine
end

section
/-! PROOFS. Registers of a core, the core map, plain writes, counters and the debug port (O56). -/

namespace Sys2Proof.Machine

/-! ### Bits -/

theorem bit_eq_testBit (v i : Nat) : bit v i = v.testBit i := by
  have h : bits v i i = v / 2 ^ i % 2 := by simp [bits, Nat.shiftRight_eq_div_pow]
  rw [bit, h, Nat.testBit_eq_decide_div_mod_eq]
  rfl

/-- A bit of a field is a bit of the number. -/
theorem bit_bits {v hi lo i : Nat} (h : lo + i ≤ hi) : bit (bits v hi lo) i = bit v (lo + i) := by
  rw [bit_eq_testBit, bit_eq_testBit, bits_testBit, decide_eq_true (by omega), Bool.true_and]

/-- A field that reaches above every set bit is the number without its low bits. -/
theorem bits_eq_div {v hi lo : Nat} (hlo : lo ≤ hi + 1) (h : v < 2 ^ (hi + 1)) : bits v hi lo = v / 2 ^ lo := by
  rw [bits, Nat.shiftRight_eq_div_pow]
  refine Nat.mod_eq_of_lt (Nat.div_lt_of_lt_mul ?_)
  rwa [← Nat.pow_add, show lo + (hi + 1 - lo) = hi + 1 by omega]

/-- A field above every set bit is zero. -/
theorem bits_above {v lo : Nat} (hi : Nat) (h : v < 2 ^ lo) : bits v hi lo = 0 := by
  rw [bits, Nat.shiftRight_eq_div_pow, Nat.div_eq_of_lt h, Nat.zero_mod]

/-! ### What an answer and a frame are made of -/

/-- A command whose effect leaves the queue alone answers with that effect. -/
theorem Answers.of_effect {c : Instr} {s t u : State} {P : State → Prop} (he : exec c s = .next (keepQueue s u))
    (hu : u = t) (hq : t.pending = s.pending) (hp : P t) : Answers c s P := ⟨t, by rw [he, hu, keepQueue_eq hq], hp⟩

/-- A command without an effect answers the state as it stands. -/
theorem exec_of_kept {c : Instr} {s u : State} (he : exec c s = .next (keepQueue s u)) (hu : u = s) :
    exec c s = .next s := by rw [he, hu, keepQueue_eq rfl]

@[simp] theorem fld_keepQueue (s t : State) (r : RegRef) (hi lo : Nat) :
    fld (keepQueue s t) r hi lo = fld t r hi lo := rfl

@[simp] theorem flag_keepQueue (s t : State) (r : RegRef) (i : Nat) : flag (keepQueue s t) r i = flag t r i := rfl

theorem regsBut_wr (s : State) (r : RegRef) (v : W64) : RegsBut [r] s (wr s r v) :=
  fun _ h => rd_wr_other s v (h r List.mem_cons_self)

theorem onlyRegs_wr (s : State) (r : RegRef) (v : W64) : OnlyRegs [r] s (wr s r v) := ⟨rfl, regsBut_wr s r v⟩

theorem onlyRegs_setFld (s : State) (r : RegRef) (hi lo x : Nat) : OnlyRegs [r] s (setFld s r hi lo x) :=
  onlyRegs_wr s r _

theorem RegsBut.trans {l : List RegRef} {s t u : State} (h : RegsBut l s t) (h' : RegsBut l t u) : RegsBut l s u :=
  fun r hr => (h' r hr).trans (h r hr)

theorem RegsBut.mono {l m : List RegRef} {s t : State} (h : RegsBut l s t) (hm : ∀ x ∈ l, x ∈ m) : RegsBut m s t :=
  fun r hr => h r fun x hx => hr x (hm x hx)

theorem OnlyRegs.trans {l : List RegRef} {s t u : State} (h : OnlyRegs l s t) (h' : OnlyRegs l t u) : OnlyRegs l s u :=
  ⟨by rw [h'.1, h.1], h.2.trans h'.2⟩

/-! ### CORE_CS_POWER -/

theorem mget_mkeep {α : Type} (d : α) (p : Nat → Bool) (m : List (Nat × α)) (k : Nat) :
    mget d (mkeep p m) k = if p k then mget d m k else d := by
  have hf : mfind (mkeep p m) k = if p k then mfind m k else none := by
    induction m with
    | nil => simp [mkeep]
    | cons e r ih =>
      obtain ⟨j, v⟩ := e
      simp only [mkeep, List.filter_cons] at ih ⊢
      by_cases hj : j = k
      · subst hj; cases hp : p j <;> simp_all [mfind]
      · cases hp : p j <;> simp_all [mfind]
  simp only [mget, hf]
  split <;> rfl

/-- A byte reads zero after the wipe of a range if it lies in the range, or read zero before. -/
theorem mget_wipeKeys (s : State) (lo hi a : Nat) :
    mget 0 (wipeKeys s lo hi).mem a = if a < lo ∨ hi ≤ a then mget 0 s.mem a else 0 := by
  simp only [wipeKeys, mget_mkeep, Bool.or_eq_true, decide_eq_true_eq]

/-- Registers and queue stand, and no byte that read zero reads anything else. -/
structure OnlyWiped (s t : State) : Prop where
  regs    : t.regs = s.regs
  pending : t.pending = s.pending
  zero    : ∀ a, mget 0 s.mem a = 0 → mget 0 t.mem a = 0

theorem OnlyWiped.refl (s : State) : OnlyWiped s s := ⟨rfl, rfl, fun _ h => h⟩

theorem OnlyWiped.trans {s t u : State} (h : OnlyWiped s t) (h' : OnlyWiped t u) : OnlyWiped s u :=
  ⟨h'.regs.trans h.regs, h'.pending.trans h.pending, fun a ha => h'.zero a (h.zero a ha)⟩

theorem onlyWiped_wipeKeys (s : State) (lo hi : Nat) : OnlyWiped s (wipeKeys s lo hi) :=
  ⟨rfl, rfl, fun a ha => by rw [mget_wipeKeys, ha, ite_self]⟩

theorem onlyWiped_foldl {α : Type} {f : State → α → State} (hf : ∀ s a, OnlyWiped s (f s a)) (l : List α) (s : State) :
    OnlyWiped s (l.foldl f s) :=
  foldl_keeps (OnlyWiped s) f (fun t a h => h.trans (hf t a)) l (.refl s)

/-- The spare rows that stand for rows of quarter q lose their contents. -/
def wipeSpares (n i q : Nat) (s : State) : State :=
  (List.range 8).foldl (fun s k =>
    let r := Reg.coreRowMap n i k
    if flag s r 31 && fld s r 8 0 / 128 == q then wipeKeys s (spareKey n i k 0) (spareKey n i k 512) else s) s

theorem onlyWiped_wipeSpares (n i q : Nat) (s : State) : OnlyWiped s (wipeSpares n i q s) := by
  refine onlyWiped_foldl (fun s k => ?_) _ s
  dsimp only
  split
  · exact onlyWiped_wipeKeys s _ _
  · exact .refl s

/-- The gather buffer loses its entries in quarter q. -/
def dropGather (n i q : Nat) (s : State) : State :=
  s.setCore n i { s.core n i with gather := (s.core n i).gather.filter fun g => g.word / 4096 != q }

theorem onlyWiped_dropGather (n i q : Nat) (s : State) : OnlyWiped s (dropGather n i q s) := ⟨rfl, rfl, fun _ h => h⟩

/-- What CORE_CS_POWER_WRITE does to a quarter: one that changes holds no data afterwards (R170). -/
def switchQuarter (n i old new : Nat) (s : State) (q : Nat) : State :=
  if bit old (q - 1) != bit new (q - 1) then
    wipeKeys (dropGather n i q (wipeSpares n i q s)) (storeBase n i + q * 65536) (storeBase n i + (q + 1) * 65536)
  else s

theorem onlyWiped_switchQuarter (n i old new : Nat) (s : State) (q : Nat) :
    OnlyWiped s (switchQuarter n i old new s q) := by
  unfold switchQuarter
  split
  · exact ((onlyWiped_wipeSpares n i q s).trans (onlyWiped_dropGather n i q _)).trans (onlyWiped_wipeKeys _ _ _)
  · exact .refl s

/-- A quarter whose bit changes reads zero. -/
theorem switchQuarter_wipes {n i old new q b : Nat} (s : State) (h : bit old (q - 1) ≠ bit new (q - 1))
    (hb : b < 65536) : mget 0 (switchQuarter n i old new s q).mem (storeBase n i + q * 65536 + b) = 0 := by
  unfold switchQuarter
  rw [if_pos (bne_iff_ne.2 h), mget_wipeKeys, if_neg (by omega)]

/-- After the quarters of a list are switched, each of them whose bit changed reads zero. -/
theorem switchQuarters_wipe {n i old new q b : Nat} (h : bit old (q - 1) ≠ bit new (q - 1)) (hb : b < 65536)
    {qs : List Nat} (hq : q ∈ qs) (s : State) :
    mget 0 (qs.foldl (switchQuarter n i old new) s).mem (storeBase n i + q * 65536 + b) = 0 := by
  obtain ⟨l, r, rfl⟩ := List.append_of_mem hq
  rw [List.foldl_append, List.foldl_cons]
  exact (onlyWiped_foldl (onlyWiped_switchQuarter n i old new) r _).zero _ (switchQuarter_wipes _ h hb)

theorem opCoreCsPowerWrite_eq {n i : Nat} {v : W64} {s : State} (hTask : noTask (s.core n i) = true) (hv : v.toNat < 16) :
    opCoreCsPowerWrite n i v s =
      [1, 2, 3].foldl (switchQuarter n i (fld s (Reg.coreCsPower n i) 3 1) (bits v.toNat 3 1))
        (setFld s (Reg.coreCsPower n i) 3 1 (bits v.toNat 3 1)) := by
  unfold opCoreCsPowerWrite
  rw [if_neg (by simp [hTask, bits_above (lo := 4) 63 hv])]
  rfl

theorem rd_congr {s t : State} (h : t.regs = s.regs) (r : RegRef) : rd t r = rd s r := by unfold rd; rw [h]

theorem coreCsPowerWrite_free (n : Fin 4) (i : Fin 800) (v : W64) (s : State)
    (hTask : noTask (s.core n.val i.val) = true) (hv : v.toNat < 16) :
    Answers (.coreCsPowerWrite n i v) s fun t => fld t (Reg.coreCsPower n.val i.val) 3 1 = v.toNat / 2 ∧
      RegsBut [Reg.coreCsPower n.val i.val] s t ∧
      ∀ q, 1 ≤ q → q ≤ 3 → flag s (Reg.coreCsPower n.val i.val) q ≠ bit v.toNat q →
        ∀ b < 65536, mget 0 t.mem (storeBase n.val i.val + q * 65536 + b) = 0 := by
  have hOp := opCoreCsPowerWrite_eq hTask hv
  have hFrame : OnlyWiped (setFld s (Reg.coreCsPower n.val i.val) 3 1 (bits v.toNat 3 1))
      (opCoreCsPowerWrite n.val i.val v s) := hOp ▸ onlyWiped_foldl (onlyWiped_switchQuarter _ _ _ _) _ _
  refine .of_effect rfl rfl hFrame.pending ⟨?_, fun r hr => ?_, fun q hq1 hq3 hFlag b hb => ?_⟩
  · have hNew : bits v.toNat 3 1 = v.toNat / 2 := bits_eq_div (by decide) hv
    rw [fld, rd_congr hFrame.regs, ← fld, fld_setFld _ _ _ _ _ (by decide) (by decide), hNew, Nat.mod_eq_of_lt (by omega)]
  · rw [rd_congr hFrame.regs, (onlyRegs_setFld s _ 3 1 _).2 r hr]
  · have hq : 1 + (q - 1) = q := by omega
    have hChanged : bit (fld s (Reg.coreCsPower n.val i.val) 3 1) (q - 1) ≠ bit (bits v.toNat 3 1) (q - 1) := by
      rw [fld, bit_bits (by omega), bit_bits (by omega), hq]
      exact hFlag
    rw [hOp]
    exact switchQuarters_wipe hChanged hb (by simp only [List.mem_cons, List.not_mem_nil, or_false]; omega) _

theorem coreCsPowerWrite_loaded (n : Fin 4) (i : Fin 800) (v : W64) (s : State)
    (hTask : noTask (s.core n.val i.val) = false) : exec (.coreCsPowerWrite n i v) s = .next s := by
  have hKept : opCoreCsPowerWrite n.val i.val v s = s := by
    unfold opCoreCsPowerWrite
    rw [if_pos (by simp [hTask])]
  exact exec_of_kept rfl hKept

/-! ### CORE_ROW_MAP -/

/-- The fields of a row map's value. -/
theorem rowMapValue_fields (valid : Bool) {row : Nat} (h : row < 512) :
    ∃ v, (BitVec.ofNat 64 (b2n valid * 2 ^ 31 + row)).toNat = v ∧ bits v 63 32 = 0 ∧ bits v 29 9 = 0 ∧
      bits v 31 31 = b2n valid ∧ bits v 8 0 = row := by
  have hv : (BitVec.ofNat 64 (b2n valid * 2 ^ 31 + row)).toNat = b2n valid * 2 ^ 31 + row := by
    have : b2n valid ≤ 1 := by cases valid <;> decide
    rw [BitVec.toNat_ofNat]; omega
  refine ⟨_, hv, ?_⟩
  simp only [bits, Nat.shiftRight_eq_div_pow]
  cases valid
  · rw [show b2n false = 0 from rfl]; omega
  · rw [show b2n true = 1 from rfl]; omega

/-- A row map write sets valid and the row it names; a mapping that stands already, or that goes, copies nothing and records
nothing (R174, R590). -/
theorem opRowMapWrite_eq {n i k row : Nat} {valid : Bool} {s : State} (hTask : noTask (s.core n i) = true)
    (hRow : row < 512) : ∃ u, opRowMapWrite n i k (BitVec.ofNat 64 (b2n valid * 2 ^ 31 + row)) s =
        setFld (setFld u (Reg.coreRowMap n i k) 31 31 (b2n valid)) (Reg.coreRowMap n i k) 8 0 row ∧
      ((valid = true → flag s (Reg.coreRowMap n i k) 31 = true ∧ fld s (Reg.coreRowMap n i k) 8 0 = row) → u = s) := by
  obtain ⟨v, hv, hHigh, hMid, hValid, hLow⟩ := rowMapValue_fields valid hRow
  have hBit : bit v 31 = valid := by rw [bit, hValid]; cases valid <;> rfl
  unfold opRowMapWrite
  rw [hv, if_neg (by simp [hTask, hHigh, hMid]), hValid, hLow, hBit]
  refine ⟨_, rfl, fun hStands => ?_⟩
  cases valid with
  | false => rfl
  | true =>
    obtain ⟨hFlag, hFld⟩ := hStands rfl
    simp [hFlag, hFld]

theorem rowMap_reads (u : State) (r : RegRef) (valid : Bool) {row : Nat} (h : row < 512) :
    flag (setFld (setFld u r 31 31 (b2n valid)) r 8 0 row) r 31 = valid ∧
      fld (setFld (setFld u r 31 31 (b2n valid)) r 8 0 row) r 8 0 = row := by
  constructor
  · rw [flag, fld_setFld_other _ _ _ _ _ _ _ (by decide) (by decide) (by decide)]
    exact flag_setFlag u r 31 valid (by decide)
  · rw [fld_setFld _ _ _ _ _ (by decide) (by decide)]
    exact Nat.mod_eq_of_lt h

theorem exec_rowMapWrite (n : Fin 4) (i : Fin 800) (k : Fin 8) (v : W64) (s : State) :
    exec (.rowMapWrite n i k v) s = .next (keepQueue s (opRowMapWrite n.val i.val k.val v s)) := rfl

theorem rowMapWrite_keeps (n : Fin 4) (i : Fin 800) (k : Fin 8) (row : Nat) (valid : Bool) (s : State)
    (hTask : noTask (s.core n.val i.val) = true) (hRow : row < 512)
    (hStands : valid = true → flag s (Reg.coreRowMap n.val i.val k.val) 31 = true ∧
      fld s (Reg.coreRowMap n.val i.val k.val) 8 0 = row) :
    Answers (.rowMapWrite n i k (BitVec.ofNat 64 (b2n valid * 2 ^ 31 + row))) s fun t =>
      OnlyRegs [Reg.coreRowMap n.val i.val k.val] s t ∧ flag t (Reg.coreRowMap n.val i.val k.val) 31 = valid ∧
      fld t (Reg.coreRowMap n.val i.val k.val) 8 0 = row := by
  obtain ⟨u, hOp, hu⟩ := opRowMapWrite_eq (k := k.val) (valid := valid) hTask hRow
  obtain rfl := hu hStands
  have hOnly := (onlyRegs_setFld u (Reg.coreRowMap n.val i.val k.val) 31 31 (b2n valid)).trans
    (onlyRegs_setFld _ _ 8 0 row)
  exact .of_effect (exec_rowMapWrite ..) hOp (by rw [setFld_pending, setFld_pending]) ⟨hOnly, rowMap_reads u _ valid hRow⟩

theorem rowMapWrite_sets (n : Fin 4) (i : Fin 800) (k : Fin 8) (row : Nat) (s : State)
    (hTask : noTask (s.core n.val i.val) = true) (hRow : row < 512) :
    Answers (.rowMapWrite n i k (BitVec.ofNat 64 (2 ^ 31 + row))) s fun t =>
      flag t (Reg.coreRowMap n.val i.val k.val) 31 = true ∧ fld t (Reg.coreRowMap n.val i.val k.val) 8 0 = row := by
  obtain ⟨u, hOp, -⟩ := opRowMapWrite_eq (k := k.val) (valid := true) hTask hRow
  have hValue : b2n true * 2 ^ 31 + row = 2 ^ 31 + row := by simp [b2n]
  rw [hValue] at hOp
  refine ⟨keepQueue s _, by rw [exec_rowMapWrite, hOp], ?_⟩
  simp only [flag_keepQueue, fld_keepQueue]
  exact rowMap_reads u _ true hRow

/-! ### CORE_RECV_WINDOW, CORE_ARRIVAL and CH_CORE_MAP -/

/-- The low half of a value whose high half is zero is the value. -/
theorem ofNat_bits_low {v : W64} (h : bits v.toNat 63 32 = 0) : BitVec.ofNat 64 (bits v.toNat 31 0) = v := by
  have hv := v.isLt
  apply BitVec.eq_of_toNat_eq
  simp only [bits, Nat.shiftRight_eq_div_pow] at h ⊢
  rw [BitVec.toNat_ofNat]
  omega

/-- The transfers under way at a window discarded and counted (R164). -/
def discardTransfers (s : State) (n i k : Nat) : State :=
  (count32 s (Reg.chCsWindowRejectCount n) ((s.core n i).part.filter (·.1 == k)).length).setCore n i
    { s.core n i with part := (s.core n i).part.filter (·.1 != k) }

theorem opRecvWindowWrite_eq {n i k : Nat} {v : W64} {s : State} (hHigh : bits v.toNat 63 32 = 0)
    (hMid : bits v.toNat 30 29 = 0) (hLow : bits v.toNat 15 9 = 0) :
    opRecvWindowWrite n i k v s =
      wr (if flag s (Reg.coreRecvWindow n i k) 31 && !bit v.toNat 31 then discardTransfers s n i k else s)
        (Reg.coreRecvWindow n i k) v := by
  unfold opRecvWindowWrite
  rw [if_neg (by simp [hHigh, hMid, hLow]), ofNat_bits_low hHigh]
  rfl

theorem recvWindowWrite_answers (n : Fin 4) (i : Fin 800) (k : Fin 8) (v : W64) (s : State)
    (hHigh : bits v.toNat 63 32 = 0) (hMid : bits v.toNat 30 29 = 0) (hLow : bits v.toNat 15 9 = 0) :
    Answers (.recvWindowWrite n i k v) s fun t => rd t (Reg.coreRecvWindow n.val i.val k.val) = v ∧
      RegsBut [Reg.coreRecvWindow n.val i.val k.val, Reg.chCsWindowRejectCount n.val] s t ∧ SameMemory s t ∧
      (flag s (Reg.coreRecvWindow n.val i.val k.val) 31 = true → bit v.toNat 31 = false →
        ∀ x ∈ (t.core n.val i.val).part, x.1 ≠ k.val) := by
  let r := Reg.coreRecvWindow n.val i.val k.val
  let q := Reg.chCsWindowRejectCount n.val
  have hOp := opRecvWindowWrite_eq (n := n.val) (i := i.val) (k := k.val) (s := s) hHigh hMid hLow
  by_cases hCleared : (flag s r 31 && !bit v.toNat 31) = true
  · rw [if_pos hCleared] at hOp
    refine .of_effect rfl hOp rfl ⟨rd_wr _ _ _, ?_, ⟨rfl, rfl⟩, fun _ _ x hx => ?_⟩
    · have hCount : RegsBut [r, q] s (discardTransfers s n.val i.val k.val) :=
        (regsBut_wr s q _).mono (by simp)
      exact hCount.trans ((regsBut_wr _ r v).mono (by simp))
    · rw [core_wr, discardTransfers, core_setCore_same] at hx
      simpa using (List.mem_filter.1 hx).2
  · rw [if_neg hCleared] at hOp
    refine .of_effect rfl hOp rfl ⟨rd_wr _ _ _, (regsBut_wr s r v).mono (by simp [r]), ⟨rfl, rfl⟩, fun hOn hOff => ?_⟩
    exact absurd (by simp [r, hOn, hOff]) hCleared

theorem arrivalCounterWrite_answers (n : Fin 4) (i : Fin 800) (k : Fin 8) (v : W64) (arrivals : Nat) (s : State)
    (hv : v.toNat < 2 ^ 32) :
    Answers (.arrivalCounterWrite n i k v arrivals) s fun t => OnlyRegs [Reg.coreArrival n.val i.val k.val] s t ∧
      fld t (Reg.coreArrival n.val i.val k.val) 31 0 = (v.toNat + arrivals) % 2 ^ 32 := by
  have hOp : opArrivalCounterWrite n.val i.val k.val v arrivals s =
      setFld s (Reg.coreArrival n.val i.val k.val) 31 0 ((v.toNat + arrivals) % 2 ^ 32) := by
    unfold opArrivalCounterWrite
    rw [if_neg (by simp [bits_above 63 hv]), bits_eq_div (by decide) hv, Nat.pow_zero, Nat.div_one]
  refine .of_effect rfl hOp rfl ⟨onlyRegs_setFld .., ?_⟩
  rw [fld_setFld _ _ _ _ _ (by decide) (by decide), Nat.mod_mod]

theorem coreMapWrite_answers (n : Fin 4) (c : Fin 768) (v : W64) (s : State) (hv : v.toNat < 1024) :
    Answers (.coreMapWrite n c v) s fun t => OnlyRegs [Reg.chCoreMap n.val c.val] s t ∧
      fld t (Reg.chCoreMap n.val c.val) 9 0 = v.toNat := by
  have hOp : opCoreMapWrite n.val c.val v s = setFld s (Reg.chCoreMap n.val c.val) 9 0 v.toNat := by
    unfold opCoreMapWrite
    rw [if_neg (by simp [bits_above 63 (lo := 10) hv]), bits_eq_div (hi := 9) (by decide) hv, Nat.pow_zero, Nat.div_one]
  refine .of_effect rfl hOp rfl ⟨onlyRegs_setFld .., ?_⟩
  rw [fld_setFld _ _ _ _ _ (by decide) (by decide)]
  exact Nat.mod_eq_of_lt hv

/-! ### Writes over the fabric -/

theorem deadLetrix_channel (s : State) {a : Nat} (h : a < chBlock 4) : deadLetrix s a = false := by
  have hBelow : ¬ lxBlock 0 ≤ a := by simp only [lxBlock, chBlock] at *; omega
  rw [deadLetrix, decide_eq_false hBelow]
  rfl

theorem writeReg_plain {seat : Seat} {a : Nat} {r : RegRow} {v : W64} {s : State} (hRow : regRow a = some r)
    (hChannel : a < chBlock 4) (hEffect : chEffect a v s = none) (hMig : a ≠ (Reg.chMigCmd3 (regChan a)).addr)
    (hBeat : beatPair a = none) (hAccepts : rowAccepts r v.toNat = true) (hBase : queueBaseRefused a v = false)
    (hLocked : lockedReg a = true → flag s Reg.glbIlCtrl 0 = false)
    (hSeat : seat = .management → flag s Reg.glbLcStatus 23 = true) :
    writeReg s seat a v =
      (wr s (refAt r a) (BitVec.ofNat 64 (writtenValue r (regValue s a).toNat v.toNat)), true) := by
  have hRefused : (deadLetrix s a || (seat == .management && !flag s Reg.glbLcStatus 23)) = false := by
    rw [deadLetrix_channel s hChannel, Bool.false_or]
    by_cases h : seat = .management
    · simp [hSeat h]
    · simp [h]
  have hFree : (lockedReg a && flag s Reg.glbIlCtrl 0) = false := by
    cases h : lockedReg a
    · rfl
    · rw [hLocked h]; rfl
  unfold writeReg
  simp only [hRow, hRefused, hBeat, if_neg hMig, hAccepts, hBase, hFree, if_pos hChannel, hEffect, Bool.false_eq_true,
    if_false, Bool.not_true, Bool.or_self, Option.getD_none]

/-- An address without a register, and a value that the row refuses, leave the state (R662, R663). -/
theorem writeReg_refused {seat : Seat} {a : Nat} {v : W64} {s : State}
    (h : regRow a = none ∨ ∃ r, regRow a = some r ∧ rowAccepts r v.toNat = false ∧ beatPair a = none ∧
      a ≠ (Reg.chMigCmd3 (regChan a)).addr) : writeReg s seat a v = (s, false) := by
  unfold writeReg
  rcases h with hNone | ⟨r, hRow, hRefused, hBeat, hMig⟩
  · rw [hNone]
  · simp only [hRow, hBeat, if_neg hMig, hRefused, Bool.not_false, Bool.true_or, if_true, ite_self]

/-! ### Reads -/

theorem readReg_counter {a : Nat} {r : RegRow} {s : State} (hRow : regRow a = some r) (hClears : clearsOnRead r = true)
    (hAlive : deadLetrix s a = false) (hOne : multiSlot a = none) :
    readReg s a = (wr s (refAt r a) 0, regValue s a) := by
  unfold readReg
  simp [hRow, hClears, hAlive, hOne]

theorem readReg_pending (s : State) (a : Nat) : (readReg s a).1.pending = s.pending := by
  unfold readReg
  dsimp only
  repeat' split
  all_goals rfl

/-! ### The commands -/

theorem rcCounterRead_answers (a : Nat) (r : RegRow) (increment : Bool) (s : State) (hRow : regRow a = some r)
    (hClears : clearsOnRead r = true) (hAlive : deadLetrix s a = false) (hOne : multiSlot a = none) :
    Answers (.rcCounterRead a increment) s fun t => t.out.fabric = regValue s a ∧ RegsBut [refAt r a] s t ∧
      rd t (refAt r a) = (if increment then 1 else 0) ∧ t = { s with regs := t.regs, out := t.out } := by
  refine ⟨_, rfl, ?_⟩
  unfold opRcCounterRead
  simp only [hRow, hClears, hAlive, Bool.not_true, Bool.or_self, Bool.false_eq_true, if_false,
    readReg_counter hRow hClears hAlive hOne]
  have hCleared := regsBut_wr s (refAt r a) 0
  cases increment with
  | false => exact ⟨rfl, hCleared, rd_wr s _ _, rfl⟩
  | true => exact ⟨rfl, hCleared.trans (regsBut_wr _ (refAt r a) 1), rd_wr _ _ _, rfl⟩

theorem exec_debugPortAccess (acc : DebugAccess) (cycles : Nat) (s : State) :
    exec (.debugPortAccess acc cycles) s = .next (keepQueue s (opDebugPortAccess acc cycles s)) := rfl

theorem opDebugPortAccess_regRead {s : State} (h : flag s Reg.glbLcStatus 24 = true) (a cycles : Nat) :
    opDebugPortAccess (.regRead a) cycles s =
      { (readReg s a).1 with out := { (readReg s a).1.out with fabric := (readReg s a).2 } } := if_neg (by simp [h])

theorem opDebugPortAccess_regWrite {s : State} (h : flag s Reg.glbLcStatus 24 = true) (a cycles : Nat) (v : W64) :
    opDebugPortAccess (.regWrite a v) cycles s = (writeReg s .debug a v).1 := if_neg (by simp [h])

theorem opDebugPortAccess_store {s : State} (h : flag s Reg.glbLcStatus 24 = true) (n : Fin 4) (i : Fin 800)
    (x : CsAccess) (cycles : Nat) : opDebugPortAccess (.store n i x) cycles s =
      debugDelay (csAccess s n.val i.val { x with user := .debug }) n.val i.val cycles := if_neg (by simp [h])

theorem opDebugPortAccess_closed {s : State} (h : flag s Reg.glbLcStatus 24 = false) (acc : DebugAccess) (cycles : Nat) :
    opDebugPortAccess acc cycles s = s := if_pos (by simp [h])

/-- Settles O56, clause by clause. -/
theorem registerAccess : Obligations.RegisterAccess := by
  unfold Obligations.RegisterAccess
  refine ⟨coreCsPowerWrite_free, coreCsPowerWrite_loaded, rowMapWrite_keeps, rowMapWrite_sets, recvWindowWrite_answers,
    arrivalCounterWrite_answers, coreMapWrite_answers, ?_, ?_, rcCounterRead_answers, ?_, ?_, ?_, ?_⟩
  · intro seat a r v s hRow hChannel hEffect hMig hBeat hAccepts hBase hLocked hSeat
    have hWrite := congrArg Prod.fst (writeReg_plain hRow hChannel hEffect hMig hBeat hAccepts hBase hLocked hSeat)
    exact .of_effect rfl hWrite rfl ⟨onlyRegs_wr .., rd_wr ..⟩
  · intro seat a v s hRefused
    exact exec_of_kept rfl (congrArg Prod.fst (writeReg_refused hRefused))
  · intro acc cycles s hClosed
    exact exec_of_kept rfl (opDebugPortAccess_closed hClosed acc cycles)
  · intro a cycles s hOpen
    have hQueue : { (readReg s a).1 with out := { (readReg s a).1.out with fabric := (readReg s a).2 } }.pending = s.pending :=
      readReg_pending s a
    rw [exec_debugPortAccess, opDebugPortAccess_regRead hOpen, keepQueue_eq hQueue]
  · intro n i x cycles s hOpen
    rw [exec_debugPortAccess, opDebugPortAccess_store hOpen]
  · intro a cycles v s hOpen
    rw [exec_debugPortAccess, opDebugPortAccess_regWrite hOpen]

end Sys2Proof.Machine
end

section
/-! PROOFS. Messages passed on or dropped, and the bye relays (O21, O27). -/

namespace Sys2Proof.Machine

/-! ### Counters -/

theorem regsBut_count32 (s : State) (r : RegRef) (n : Nat) : RegsBut [r] s (count32 s r n) := regsBut_wr s r _

theorem counted_count32 (s : State) (r : RegRef) (n : Nat) : Counted r n s (count32 s r n) := rd_count32 s r n

/-! ### A message that leaves its receive buffer -/

theorem ttl_setTtl (m : Msg) (t : Nat) : (m.setTtl t).ttl = t % 8 := by
  have hWord : putBits m.w0.toNat 51 49 t < 2 ^ 64 := putBits_lt _ _ _ _ (by decide) (by decide) m.w0.isLt
  rw [Msg.ttl, Msg.setTtl, BitVec.toNat_ofNat, Nat.mod_eq_of_lt hWord]
  exact bits_putBits_same _ _ _ _ (by decide)

theorem ttl_lowered (m : Msg) : (m.setTtl (m.ttl - 1)).ttl = m.ttl - 1 := by
  have hTtl : m.ttl < 8 := bits_lt _ _ _
  rw [ttl_setTtl, Nat.mod_eq_of_lt (by omega)]

theorem port_dropMsg (s : State) (p : Nat) (m : Msg) : (dropMsg s p m).port p =
    { s.port p with
      rxq := (s.port p).rxq.erase m
      bad := (s.port p).bad.erase m
      freed := bumpAt (s.port p).freed m.cls m.credits } := by
  simp only [dropMsg, freeCredits, port_setPort_same]

/-- A message dropped and counted: the ports differ, and of the registers the counter alone, raised by one. -/
theorem countedDrop_frame (s : State) (p : Nat) (m : Msg) (r : RegRef) :
    OnlyPorts s (count32 (dropMsg s p m) r 1) ∧ RegsBut [r] s (count32 (dropMsg s p m) r 1) ∧
      Counted r 1 s (count32 (dropMsg s p m) r 1) :=
  ⟨rfl, regsBut_count32 (dropMsg s p m) r 1, counted_count32 (dropMsg s p m) r 1⟩

theorem opMessageForward_passes {p c q : Nat} {m : Msg} {s : State} (hFront : frontOf s p c = some m)
    (hOther : m.dst ≠ ownModule s) (hTtl : m.ttl ≠ 0) (hRoute : forwardPort s p m = some q) (hUp : linkUp s q = true)
    (hRoom : canStart (s.port q) (m.setTtl (m.ttl - 1)) false = true) :
    opMessageForward p c s =
      (dropMsg s p m).setPort q (transmit ((dropMsg s p m).port q) (m.setTtl (m.ttl - 1)) none) := by
  simp only [opMessageForward, hFront, if_neg hOther, if_neg hTtl, hRoute, hUp, hRoom, Bool.and_self, if_true]

theorem opMessageForward_spent {p c : Nat} {m : Msg} {s : State} (hFront : frontOf s p c = some m)
    (hOther : m.dst ≠ ownModule s) (hTtl : m.ttl = 0) :
    opMessageForward p c s = count32 (dropMsg s p m) Reg.glbLinkTtlDropCount 1 := by
  simp only [opMessageForward, hFront, if_neg hOther, if_pos hTtl]

theorem opMessageAgeDrop_front {p c : Nat} {m : Msg} {s : State} (hFront : frontOf s p c = some m) :
    opMessageAgeDrop p c s = count32 (dropMsg s p m) Reg.glbLinkAgeDropCount 1 := by
  simp only [opMessageAgeDrop, hFront]

/-- Settles O21: each clause is the command's effect in its case, and a drop changes the ports and its counter alone. -/
theorem forwarding : Obligations.Forwarding := by
  unfold Obligations.Forwarding
  refine ⟨?_, ?_, ?_⟩
  · intro p c q m s hFront hOther hTtl hRoute hUp hRoom
    have hPasses := opMessageForward_passes hFront hOther hTtl hRoute hUp hRoom
    exact .of_effect rfl hPasses rfl ⟨rfl, fun _ _ => rfl, rfl, ttl_lowered m⟩
  · intro p c m s hFront hOther hTtl
    obtain ⟨hPorts, hRegs, hCount⟩ := countedDrop_frame s p.val m Reg.glbLinkTtlDropCount
    refine .of_effect rfl (opMessageForward_spent hFront hOther hTtl) rfl ⟨hPorts, hRegs, hCount, ?_, ?_⟩
    · rw [port_count32, port_dropMsg]
    · rw [port_count32, port_dropMsg]
  · intro p c m s hFront
    obtain ⟨hPorts, hRegs, hCount⟩ := countedDrop_frame s p.val m Reg.glbLinkAgeDropCount
    refine .of_effect rfl (opMessageAgeDrop_front hFront) rfl ⟨hPorts, hRegs, hCount, rfl, ?_⟩
    rw [port_count32, port_dropMsg]

/-! ### The relays -/

theorem flag_setFlag_other (s : State) (r : RegRef) {i j : Nat} (b : Bool) (hi : i < 64) (hne : i ≠ j) :
    flag (setFlag s r i b) r j = flag s r j := by
  rw [flag, flag, setFlag, fld_setFld_other _ _ _ _ _ _ _ (Nat.le_refl i) hi (by omega)]

theorem flag_setFld_apart (s : State) {r q : RegRef} (hi lo x i : Nat) (h : r.addr ≠ q.addr) :
    flag (setFld s r hi lo x) q i = flag s q i := by rw [flag, flag, fld_setFld_apart s hi lo x i i h]

/-- The command of the relays does not depend on what GLB_BYE_STATUS shows. -/
theorem relaysOpen_setRelays (s : State) : relaysOpen (setRelays s) = relaysOpen s := by
  have hPower : Reg.glbByeStatus.addr ≠ Reg.glbPwrStatus.addr := by decide
  have hInsert : Reg.glbByeStatus.addr ≠ Reg.glbByeCtrl.addr := by decide
  simp only [relaysOpen, setRelays, flag_setFld_apart s _ _ _ _ hPower, flag_setFld_apart s _ _ _ _ hInsert,
    fld_setFld_apart s _ _ _ _ _ hPower, setFld_board]

theorem fld_setRelays (s : State) : fld (setRelays s) Reg.glbByeStatus 7 0 = if relaysOpen s then 0 else 255 := by
  rw [setRelays, fld_setFld _ _ _ _ _ (by decide) (by decide)]
  split <;> rfl

theorem onlyRegs_setInsert (s : State) (b : Bool) :
    OnlyRegs [Reg.glbByeCtrl, Reg.glbByeStatus] s (setInsert s b) := by
  have hInsert : RegsBut [Reg.glbByeCtrl] s (setFlag s Reg.glbByeCtrl 0 b) :=
    (onlyRegs_setFld s Reg.glbByeCtrl 0 0 (b2n b)).2
  have hStatus : RegsBut [Reg.glbByeStatus] (setFlag s Reg.glbByeCtrl 0 b) (setInsert s b) :=
    (onlyRegs_setFld ..).2
  exact ⟨rfl, (hInsert.mono (by simp)).trans (hStatus.mono (by simp))⟩

theorem flag_setInsert (s : State) (b : Bool) : flag (setInsert s b) Reg.glbByeCtrl 0 = b := by
  rw [setInsert, setRelays, flag_setFld_apart _ _ _ _ _ (by decide), flag_setFlag _ _ _ _ (by decide)]

/-- The relays show what insert has commanded. -/
theorem fld_setInsert (s : State) (b : Bool) :
    fld (setInsert s b) Reg.glbByeStatus 7 0 = if relaysOpen (setInsert s b) then 0 else 255 := by
  rw [setInsert, relaysOpen_setRelays, fld_setRelays]

theorem relaysOpen_without_insert {s : State} (h : flag s Reg.glbByeCtrl 0 = false) : relaysOpen s = false := by
  rw [relaysOpen, h, Bool.and_false]

theorem opByeInsertWrite_eq {v : W64} {s : State} (hv : v.toNat < 2) :
    opByeInsertWrite v s = setInsert s (bit v.toNat 0) := if_neg (by simp [bits_above (lo := 1) 63 hv])

/-- A relay sensed closed while commanded open, or open while commanded closed, is a fault (R500). -/
theorem opByeFault_differs (k : Nat) (s : State) :
    opByeFault k (relaysOpen s) s =
      post (setFlag (setFlag s Reg.glbByeStatus k (relaysOpen s)) Reg.glbByeStatus (8 + k) true) 4 0x22 0
        [(8, fld (setFlag (setFlag s Reg.glbByeStatus k (relaysOpen s)) Reg.glbByeStatus (8 + k) true)
          Reg.glbByeStatus 15 8)] := if_neg (by simp)

/-! ### The bypass round -/

theorem opBypassRound_first {s : State} (hFormed : s.ref.formed = false) (hPhase : phase s = 6)
    (hSize : 3 ≤ groupSize s) (hIdle : s.ref.round = 0) (hRounds : s.ref.rounds = []) (hRejoin : s.ref.rejoin = none)
    (hMember : bit (membersMask s) (ownModule s) = true) (hFirst : lowestPresent s = some (ownModule s)) :
    opBypassRound s =
      setRef (flood s none (ctlWord 3 (epochNow s) 0 none none (ownModule s)))
        { (flood s none (ctlWord 3 (epochNow s) 0 none none (ownModule s))).ref with
          round := 1, rejoin := some (ownModule s) } :=
  if_neg (by simp [hFormed, hPhase, hSize, hIdle, hRounds, hRejoin, hMember, hFirst])

theorem opBypassRoundClose_first {s : State} (h : s.ref.round = 1) :
    opBypassRoundClose s = setRef (setInsert s false) { s.ref with round := 2 } := if_pos h

theorem opBypassRoundInsert_second {s : State} (h : s.ref.round = 2) :
    opBypassRoundInsert s = setRef (setInsert s true) { s.ref with round := 3 } := if_pos h

/-- Settles O27: insert and the rounds rest on what `setInsert` writes, the fault on two flags of one register. -/
theorem relays : Obligations.Relays := by
  unfold Obligations.Relays
  refine ⟨?_, ?_, ?_, ?_, ?_⟩
  · intro v s hv
    exact .of_effect rfl (opByeInsertWrite_eq hv) rfl ⟨onlyRegs_setInsert .., flag_setInsert .., fld_setInsert ..⟩
  · intro k s u
    have hExec : exec (.byeFault k (relaysOpen s)) s = .next (keepQueue s (opByeFault k.val (relaysOpen s) s)) := rfl
    refine ⟨by rw [hExec, opByeFault_differs], flag_setFlag _ _ _ _ (by omega), ?_⟩
    rw [flag_setFlag_other _ _ _ (by omega) (by omega), flag_setFlag _ _ _ _ (by omega)]
  · intro s hFormed hPhase hSize hIdle hRounds hRejoin hMember hFirst
    have hExec : exec .bypassRound s = .next (keepQueue s (opBypassRound s)) := rfl
    rw [hExec, opBypassRound_first hFormed hPhase hSize hIdle hRounds hRejoin hMember hFirst]
  · intro s hRound
    have hOff : flag (setInsert s false) Reg.glbByeCtrl 0 = false := flag_setInsert s false
    have hClosed : fld (setInsert s false) Reg.glbByeStatus 7 0 = 255 := by
      rw [fld_setInsert, relaysOpen_without_insert hOff, if_neg Bool.false_ne_true]
    exact .of_effect rfl (opBypassRoundClose_first hRound) rfl
      ⟨rfl, hOff, hClosed, (onlyRegs_setInsert s false).2, rfl, rfl⟩
  · intro s hRound
    exact .of_effect rfl (opBypassRoundInsert_second hRound) rfl
      ⟨rfl, flag_setInsert s true, (onlyRegs_setInsert s true).2, rfl, rfl⟩

end Sys2Proof.Machine
end

section
/-! PROOFS. Heartbeats, the watchdog and the takeover of a control core (O10). -/

namespace Sys2Proof.Machine

/-! ### What a takeover leaves alone -/

/-- The cores and the streams are as they were, and so is every register but those listed (R552). -/
def KeepsUnitsBut (l : List RegRef) (s t : State) : Prop :=
  RegsBut l s t ∧ t.cores = s.cores ∧ t.streams = s.streams

theorem KeepsUnitsBut.of_regs (l : List RegRef) {s t : State} (hRegs : t.regs = s.regs) (hCores : t.cores = s.cores)
    (hStreams : t.streams = s.streams) : KeepsUnitsBut l s t := ⟨fun r _ => rd_congr hRegs r, hCores, hStreams⟩

theorem KeepsUnitsBut.trans {l : List RegRef} {s t u : State} (h : KeepsUnitsBut l s t) (h' : KeepsUnitsBut l t u) :
    KeepsUnitsBut l s u := ⟨h.1.trans h'.1, h'.2.1.trans h.2.1, h'.2.2.trans h.2.2⟩

theorem KeepsUnitsBut.mono {l m : List RegRef} {s t : State} (h : KeepsUnitsBut l s t) (hm : ∀ x ∈ l, x ∈ m) :
    KeepsUnitsBut m s t := ⟨h.1.mono hm, h.2⟩

theorem keepsUnitsBut_wr {l : List RegRef} (s : State) {r : RegRef} (v : W64) (h : r ∈ l) :
    KeepsUnitsBut l s (wr s r v) := ⟨(regsBut_wr s r v).mono (by simpa using h), rfl, rfl⟩

/-! ### An event posted -/

theorem keepsUnitsBut_setEq (l : List RegRef) (s : State) (q : Nat) (h : EvQueue) : KeepsUnitsBut l s (setEq s q h) := by
  unfold setEq
  split <;> exact .of_regs l rfl rfl rfl

theorem keepsUnitsBut_pokeBytes (l : List RegRef) (s : State) (a : Nat) (bs : List Byte) :
    KeepsUnitsBut l s (pokeBytes s a bs) := by
  induction bs generalizing s a with
  | nil => exact .of_regs l rfl rfl rfl
  | cons b bs ih => exact .trans (.of_regs l rfl rfl rfl) (ih _ (a + 1))

theorem keepsUnitsBut_evWrite {l : List RegRef} (s : State) {q : Nat} (e : Ev) (h : eqTail q ∈ l) :
    KeepsUnitsBut l s (evWrite s q e) :=
  ((keepsUnitsBut_pokeBytes l ..).trans (keepsUnitsBut_wr _ _ h)).trans (keepsUnitsBut_setEq l ..)

/-- A record that reaches a queue moves its tail or its count of lost records and no other register (R565). -/
theorem keepsUnitsBut_evEnter {l : List RegRef} (s : State) {q : Nat} (e : Ev) (hTail : eqTail q ∈ l)
    (hLost : eqLost q ∈ l) : KeepsUnitsBut l s (evEnter s q e) := by
  unfold evEnter
  split
  · split
    · exact keepsUnitsBut_setEq l ..
    · exact (keepsUnitsBut_wr s _ hLost).trans (keepsUnitsBut_setEq l ..)
  · exact keepsUnitsBut_evWrite s e hTail

/-- The registers that an event posted to a queue can change: its own two, and those of the global queue (R564). -/
def postRegs (q : Nat) : List RegRef := [eqTail q, eqLost q, eqTail 4, eqLost 4]

theorem keepsUnitsBut_post (s : State) (q code : Nat) (op : W32) (args : List (Nat × Nat)) :
    KeepsUnitsBut (postRegs q) s (post s q code op args) := by
  have hOwn (e : Ev) : KeepsUnitsBut (postRegs q) s (evEnter s q e) :=
    keepsUnitsBut_evEnter s e (by simp [postRegs]) (by simp [postRegs])
  unfold post
  dsimp only
  split
  · exact (hOwn _).trans (keepsUnitsBut_evEnter _ _ (by simp [postRegs]) (by simp [postRegs]))
  · exact hOwn _

/-! ### The takeover -/

/-- The status register of a pair whose standby takes over: the failed core marked, the standby active, the reason, and
no interval missed (R549, R554). -/
def standbyActive (s : State) (r : RegRef) (reason : Nat) : State :=
  setFld (setFld (setFld (setFlag s r 29 true) r 31 30 2) r 27 24 reason) r 1 0 0

/-- The standby of a channel takes up the recoveries that the journal shows under way (R551). -/
def resumeRecoveries (s : State) (k : Nat) : State :=
  if k < 4 then setRecov s k (JRec.running (s.chan k).book.journal) else s

/-- What follows the change of the status register: the takeover is counted and posted, and the recoveries go on. -/
def announceTakeover (s : State) (k reason : Nat) : State :=
  resumeRecoveries (post (count32 s Reg.glbCcTakeoverCount 1) k 0x30 0 [(1, b2n (decide (k = 4))), (4, reason)]) k

/-- The primary fails while its standby is sound. -/
theorem ccTakeover_primary {s : State} {k : Nat} (reason : Nat) (hActive : fld s (ccStatus k) 31 30 = 1)
    (hSound : flag s (ccStatus k) 28 = false) :
    ccTakeover s k reason = announceTakeover (standbyActive s (ccStatus k) reason) k reason := by
  have hStandby : flag (setFlag s (ccStatus k) 29 true) (ccStatus k) 28 = false := by
    rw [flag_setFlag_other _ _ _ (by omega) (by omega), hSound]
  simp [ccTakeover, hActive, hStandby, announceTakeover, resumeRecoveries, standbyActive]

theorem fld_standbyActive (s : State) (r : RegRef) {reason : Nat} (h : reason < 16) :
    fld (standbyActive s r reason) r 31 30 = 2 ∧ fld (standbyActive s r reason) r 29 29 = 1 ∧
      fld (standbyActive s r reason) r 27 24 = reason ∧ fld (standbyActive s r reason) r 1 0 = 0 := by
  simp [standbyActive, setFlag, b2n, fld_setFld, fld_setFld_other, Nat.mod_eq_of_lt h]

theorem keepsUnitsBut_standbyActive (s : State) (r : RegRef) (reason : Nat) :
    KeepsUnitsBut [r] s (standbyActive s r reason) := by
  have hField (u : State) (hi lo x : Nat) : KeepsUnitsBut [r] u (setFld u r hi lo x) :=
    keepsUnitsBut_wr u _ List.mem_cons_self
  exact (((hField ..).trans (hField ..)).trans (hField ..)).trans (hField ..)

theorem keepsUnitsBut_resumeRecoveries (s : State) (k : Nat) :
    KeepsUnitsBut [Reg.chTimingMode k] s (resumeRecoveries s k) := by
  unfold resumeRecoveries
  split
  · exact .trans (.of_regs _ rfl rfl rfl) (keepsUnitsBut_wr _ _ List.mem_cons_self)
  · exact .of_regs _ rfl rfl rfl

/-- After its count, a takeover changes registers of the event queues and the timing mode alone. -/
theorem announceTakeover_keeps (s : State) (k reason : Nat) :
    KeepsUnitsBut (Reg.chTimingMode k :: postRegs k) (count32 s Reg.glbCcTakeoverCount 1) (announceTakeover s k reason) :=
  .trans ((keepsUnitsBut_post ..).mono fun _ hx => List.mem_cons_of_mem _ hx)
    ((keepsUnitsBut_resumeRecoveries ..).mono (by simp))

theorem ccStatus_addr_apart : ∀ k : Fin 5, Reg.glbCcTakeoverCount.addr ≠ (ccStatus k).addr ∧
    ∀ x ∈ Reg.chTimingMode k :: postRegs k, x.addr ≠ (ccStatus k).addr := by decide

theorem takeoverCount_addr_apart : ∀ k : Fin 5,
    ∀ x ∈ Reg.chTimingMode k :: postRegs k, x.addr ≠ Reg.glbCcTakeoverCount.addr := by decide

/-- A pair whose primary is active and whose standby is sound is taken over (R549, R552). -/
theorem takenOver_ccTakeover (k : Fin 5) {reason : Nat} {s : State} (hReason : reason < 16)
    (hActive : fld s (ccStatus k) 31 30 = 1) (hSound : flag s (ccStatus k) 28 = false) :
    TakenOver k reason s (ccTakeover s k reason) := by
  obtain ⟨hCount, hApart⟩ := ccStatus_addr_apart k
  obtain ⟨hWho, hFailed, hWhy, hMissed⟩ := fld_standbyActive s (ccStatus k) hReason
  obtain ⟨hRegs, hCores, hStreams⟩ := keepsUnitsBut_standbyActive s (ccStatus k) reason
  obtain ⟨hLater, hLaterCores, hLaterStreams⟩ :=
    announceTakeover_keeps (standbyActive s (ccStatus k) reason) k reason
  have hStatus : rd (ccTakeover s k reason) (ccStatus k) = rd (standbyActive s (ccStatus k) reason) (ccStatus k) := by
    rw [ccTakeover_primary reason hActive hSound, hLater _ hApart, rd_count32_other _ _ hCount]
  have hFld (hi lo : Nat) : fld (ccTakeover s k reason) (ccStatus k) hi lo =
      fld (standbyActive s (ccStatus k) reason) (ccStatus k) hi lo := by rw [fld, hStatus, fld]
  have hCounted : Counted Reg.glbCcTakeoverCount 1 s (ccTakeover s k reason) := by
    rw [Counted, ccTakeover_primary reason hActive hSound, hLater _ (takeoverCount_addr_apart k), rd_count32,
      hRegs _ (by simpa using hCount.symm)]
  refine ⟨by rw [hFld, hWho], by rw [flag, hFld, hFailed]; rfl, by rw [hFld, hWhy], by rw [hFld, hMissed], hCounted, ?_, ?_⟩
  · rw [ccTakeover_primary reason hActive hSound, hLaterCores, count32_cores, hCores]
  · rw [ccTakeover_primary reason hActive hSound, hLaterStreams, count32_streams, hStreams]

/-- What stands in the queue of commands does not bear on a takeover. -/
theorem TakenOver.keepQueue {k reason : Nat} {s t : State} (h : TakenOver k reason s t) :
    TakenOver k reason s (keepQueue s t) := h

/-! ### The commands -/

/-- A heartbeat of the pair noted for the interval that runs (R549). -/
def noteBeat (s : State) (k : Nat) : State := { s with beats := if s.beats.contains k then s.beats else s.beats ++ [k] }

theorem mem_noteBeat (s : State) (k : Nat) : k ∈ (noteBeat s k).beats := by
  dsimp only [noteBeat]
  split
  · next hNoted => exact List.contains_iff_mem.1 hNoted
  · exact List.mem_append_right _ List.mem_cons_self

theorem fld_noteBeat (s : State) (k : Nat) (r : RegRef) (hi lo : Nat) : fld (noteBeat s k) r hi lo = fld s r hi lo := rfl

theorem regsBut_noteBeat (l : List RegRef) (s : State) (k : Nat) : RegsBut l s (noteBeat s k) := fun _ _ => rfl

theorem noteBeat_frame {s t : State} (k : Nat) (h : t = { s with regs := t.regs }) :
    noteBeat t k = { s with regs := (noteBeat t k).regs, beats := (noteBeat t k).beats } :=
  congrArg (fun u : State => { u with beats := (noteBeat t k).beats }) h

/-- The registers of a pair after its active core's write: the value stands, and no interval is missed (R549, R550). -/
def beatWritten (s : State) (k : Nat) (v : W64) : State :=
  setFld (setFld s (ccBeat k) 31 0 (bits v.toNat 31 0)) (ccStatus k) 1 0 0

theorem OnlyRegs.mono {l m : List RegRef} {s t : State} (h : OnlyRegs l s t) (hm : ∀ x ∈ l, x ∈ m) : OnlyRegs m s t :=
  ⟨h.1, h.2.mono hm⟩

theorem onlyRegs_beatWritten (s : State) (k : Nat) (v : W64) :
    OnlyRegs [ccBeat k, ccStatus k] s (beatWritten s k v) :=
  ((onlyRegs_setFld s (ccBeat k) ..).mono (by simp)).trans ((onlyRegs_setFld _ (ccStatus k) ..).mono (by simp))

theorem ccStatus_ne_ccBeat : ∀ k : Fin 5, (ccStatus k).addr ≠ (ccBeat k).addr := by decide

theorem fld_beatWritten (s : State) (k : Fin 5) (v : W64) :
    fld (beatWritten s k v) (ccBeat k) 31 0 = v.toNat % 2 ^ 32 := by
  rw [beatWritten, fld_setFld_apart _ _ _ _ _ _ (ccStatus_ne_ccBeat k), fld_setFld _ _ _ _ _ (by omega) (by omega)]
  exact Nat.mod_mod _ _

theorem fld_beatWritten_missed (s : State) (k : Nat) (v : W64) : fld (beatWritten s k v) (ccStatus k) 1 0 = 0 := by
  rw [beatWritten, fld_setFld _ _ _ _ _ (by omega) (by omega), Nat.zero_mod]

theorem opHeartbeatWrite_counts {k : Nat} (v : W64) {s : State} (h : fld s (ccStatus k) 31 30 ≠ 0) :
    opHeartbeatWrite k .active v s = noteBeat (beatWritten s k v) k := if_neg (by simp [h])

theorem opHeartbeatWrite_refused {k : Nat} {seat : Seat} (v : W64) (s : State) (h : seat ≠ .active) :
    opHeartbeatWrite k seat v s = s := if_pos (by simp [h])

theorem opWatchdogInterval_beaten {k : Nat} {s : State} (hOut : outOfReset s = true)
    (hActive : fld s (ccStatus k) 31 30 ≠ 0) (hBeat : k ∈ s.beats) :
    opWatchdogInterval k s = { s with beats := s.beats.filter (· != k) } := by
  simp [opWatchdogInterval, hOut, hActive, hBeat]

theorem opWatchdogInterval_missed {k : Nat} {s : State} (hOut : outOfReset s = true)
    (hActive : fld s (ccStatus k) 31 30 ≠ 0) (hSilent : k ∉ s.beats) (hFirst : fld s (ccStatus k) 1 0 = 0) :
    opWatchdogInterval k s = setFld s (ccStatus k) 1 0 1 := by
  simp [opWatchdogInterval, hOut, hActive, hSilent, hFirst]

theorem opWatchdogInterval_second {k : Nat} {s : State} (hOut : outOfReset s = true)
    (hActive : fld s (ccStatus k) 31 30 ≠ 0) (hSilent : k ∉ s.beats) (hSecond : fld s (ccStatus k) 1 0 = 1) :
    opWatchdogInterval k s = ccTakeover s k 1 := by
  simp [opWatchdogInterval, hOut, hActive, hSilent, hSecond]

/-- Settles O10: the heartbeat and the watchdog by the branch each command takes, the takeovers by one lemma for both of
their reasons. -/
theorem controlCores : Obligations.ControlCores := by
  unfold Obligations.ControlCores
  refine ⟨?_, ?_, ?_, ?_, ?_, ?_⟩
  · intro k v s hActive
    obtain ⟨hFrame, hRegs⟩ := onlyRegs_beatWritten s k v
    have hNoted := noteBeat_frame k hFrame
    refine .of_effect rfl (opHeartbeatWrite_counts v hActive) (by rw [hNoted])
      ⟨hNoted, hRegs.trans (regsBut_noteBeat _ _ _), ?_, ?_, mem_noteBeat _ _⟩
    · rw [fld_noteBeat, fld_beatWritten]
    · rw [fld_noteBeat, fld_beatWritten_missed]
  · intro k v seat s hSeat
    exact exec_of_kept rfl (opHeartbeatWrite_refused v s hSeat)
  · intro k s hOut hActive hBeat
    have hExec : exec (.watchdogInterval k) s = .next (keepQueue s (opWatchdogInterval k.val s)) := rfl
    rw [hExec, opWatchdogInterval_beaten hOut hActive hBeat]
    rfl
  · intro k s hOut hActive hSilent hFirst
    exact .of_effect rfl (opWatchdogInterval_missed hOut hActive hSilent hFirst) rfl
      ⟨onlyRegs_setFld .., fld_setFld _ _ _ _ _ (by omega) (by omega)⟩
  · intro k s hOut hActive hSilent hSecond hSound
    have hTaken : opWatchdogInterval k.val s = ccTakeover s k 1 :=
      opWatchdogInterval_second hOut (by omega) hSilent hSecond
    exact ⟨keepQueue s (opWatchdogInterval k.val s), rfl,
      (hTaken ▸ takenOver_ccTakeover k (by omega) hActive hSound).keepQueue⟩
  · intro k s hOut hActive hSound
    have hTaken : opMachineCheck k.val s = ccTakeover s k 2 := if_pos hOut
    exact ⟨keepQueue s (opMachineCheck k.val s), rfl,
      (hTaken ▸ takenOver_ccTakeover k (by omega) hActive hSound).keepQueue⟩

end Sys2Proof.Machine
end

section
/-! PROOFS. The power cap loop and the thermal loop (O3): each moves steps on the board, and CH_CLK_STATUS follows. -/

namespace Sys2Proof.Machine

/-! ### Frames of the board controller -/

theorem OnlyRegs.board_eq {l : List RegRef} {s t : State} (h : OnlyRegs l s t) : t.board = s.board := by rw [h.1]

theorem OnlyRegs.onlyBoard {l : List RegRef} {s t : State} (h : OnlyRegs l s t) : OnlyBoard l s t :=
  ⟨by rw [h.1], h.2⟩

theorem OnlyBoard.trans {l : List RegRef} {s t u : State} (h : OnlyBoard l s t) (h' : OnlyBoard l t u) :
    OnlyBoard l s u := ⟨by rw [h'.1, h.1], h.2.trans h'.2⟩

theorem OnlyBoard.mono {l m : List RegRef} {s t : State} (h : OnlyBoard l s t) (hm : ∀ x ∈ l, x ∈ m) :
    OnlyBoard m s t := ⟨h.1, h.2.mono hm⟩

theorem OnlyBoard.pending_eq {l : List RegRef} {s t : State} (h : OnlyBoard l s t) : t.pending = s.pending := by rw [h.1]

theorem onlyBoard_refl (l : List RegRef) (s : State) : OnlyBoard l s s := ⟨rfl, fun _ _ => rfl⟩

theorem onlyBoard_board (l : List RegRef) (s : State) (b : Board) : OnlyBoard l s { s with board := b } :=
  ⟨rfl, fun _ _ => rfl⟩

theorem onlyRegs_count32 (s : State) (r : RegRef) (n : Nat) : OnlyRegs [r] s (count32 s r n) := onlyRegs_wr s r _

/-! ### CH_CLK_STATUS follows its sources -/

/-- CH_CLK_STATUS of every channel. -/
abbrev clkStatusRegs : List RegRef := (List.range 4).map Reg.chClkStatus

theorem onlyRegs_clockStatus {n : Nat} (s : State) (h : n ∈ List.range 4) :
    OnlyRegs clkStatusRegs s (clockStatus s n) :=
  have hOne : OnlyRegs [Reg.chClkStatus n] s (clockStatus s n) := onlyRegs_wr s _ _
  ⟨hOne.1, hOne.2.mono fun _ hx => List.mem_singleton.mp hx ▸ List.mem_map_of_mem h⟩

theorem onlyRegs_clockAll (s : State) : OnlyRegs clkStatusRegs s (clockAll s) :=
  List.foldlRecOn (motive := OnlyRegs clkStatusRegs s) _ _ ⟨rfl, fun _ _ => rfl⟩
    fun t hReached _ hn => hReached.trans (onlyRegs_clockStatus t hn)

/-- The board changed and CH_CLK_STATUS brought up to date. -/
theorem onlyBoard_clockAll (s : State) (b : Board) : OnlyBoard clkStatusRegs s (clockAll { s with board := b }) :=
  (onlyBoard_board _ s b).trans (onlyRegs_clockAll _).onlyBoard

theorem board_clockAll (s : State) : (clockAll s).board = s.board := (onlyRegs_clockAll s).board_eq

/-! ### The power cap loop -/

/-- The state with the cap step at k. -/
def withCapStep (s : State) (k : Nat) : State := clockAll { s with board := { s.board with capStep := k } }

theorem withCapStep_effect (s : State) (k : Nat) :
    OnlyBoard clkStatusRegs s (withCapStep s k) ∧ (withCapStep s k).board = { s.board with capStep := k } :=
  ⟨onlyBoard_clockAll s _, board_clockAll _⟩

theorem opPowerCapUpdate_off {s : State} (watts : Nat) (hOff : flag s Reg.glbPwrCap 31 = false) :
    opPowerCapUpdate watts s = withCapStep s 8 := if_pos (by simp [hOff])

/-- The loop while it is on: lowered above the cap, raised below 97 % of it, held otherwise (R617). -/
theorem opPowerCapUpdate_on {s : State} (watts : Nat) (hOn : flag s Reg.glbPwrCap 31 = true) :
    opPowerCapUpdate watts s =
      if max 800 (fld s Reg.glbPwrCap 11 0) < watts then
        if s.board.capStep = 0 then s else count32 (withCapStep s (s.board.capStep - 1)) Reg.glbPwrCapStepCount 1
      else if 100 * watts < 97 * max 800 (fld s Reg.glbPwrCap 11 0) ∧ s.board.capStep < hostStep s then
        withCapStep s (s.board.capStep + 1)
      else s := by
  simp only [opPowerCapUpdate, withCapStep, hOn, Bool.not_true, Bool.false_eq_true, if_false, Bool.and_eq_true,
    decide_eq_true_eq]

theorem loweredCapStep_effect (s : State) (k : Nat) :
    OnlyBoard (Reg.glbPwrCapStepCount :: clkStatusRegs) s (count32 (withCapStep s k) Reg.glbPwrCapStepCount 1) ∧
      (count32 (withCapStep s k) Reg.glbPwrCapStepCount 1).board = { s.board with capStep := k } ∧
      Counted Reg.glbPwrCapStepCount 1 s (count32 (withCapStep s k) Reg.glbPwrCapStepCount 1) := by
  obtain ⟨hFrame, hBoard⟩ := withCapStep_effect s k
  have hCounter := onlyRegs_count32 (withCapStep s k) Reg.glbPwrCapStepCount 1
  have hApart : rd (withCapStep s k) Reg.glbPwrCapStepCount = rd s Reg.glbPwrCapStepCount :=
    hFrame.2 _ (by decide)
  refine ⟨(hFrame.mono fun _ => List.mem_cons_of_mem _).trans (hCounter.onlyBoard.mono (by simp)), hCounter.board_eq.trans hBoard, ?_⟩
  rw [Counted, rd_count32, hApart]

/-! ### The thermal loop -/

/-- A sensor that governs the channel stands at its throttle point. -/
def atThrottle (s : State) (n : Nat) : Bool := s.board.temps.any fun r => governs r.1 n && reaches r (throttleOf r.1)

/-- A sensor that governs the channel has been within 3 °C of its throttle point in this interval. -/
def hasWarmed (s : State) (n : Nat) : Bool := s.board.warmed.any fun x => governs x n

/-- Where R613 moves the thermal step of a channel. -/
def thermTarget (s : State) (n : Nat) : Nat :=
  if atThrottle s n then thermStep s n - 1 else if hasWarmed s n then thermStep s n else min 8 (thermStep s n + 1)

/-- The state with a channel's thermal step at k. -/
def setThermStep (s : State) (n k : Nat) : State :=
  { s with board := { s.board with therm := s.board.therm.set n k } }

/-- THERMAL_STEP_UPDATE for one channel. -/
def moveThermStep (s : State) (n : Nat) : State :=
  if atThrottle s n then
    if thermStep s n = 0 then s else count32 (setThermStep s n (thermStep s n - 1)) Reg.glbThermThrottleCount 1
  else if hasWarmed s n then s
  else setThermStep s n (min 8 (thermStep s n + 1))

theorem opThermalStepUpdate_eq (s : State) :
    opThermalStepUpdate s =
      clockAll { (List.range 4).foldl moveThermStep s with
        board := { ((List.range 4).foldl moveThermStep s).board with warmed := [] } } := rfl

theorem thermStep_set {s t : State} {n k : Nat} (h : t.board.therm = s.board.therm.set n k)
    (hn : n < s.board.therm.length) (i : Nat) : thermStep t i = if i = n then k else thermStep s i := by
  rw [thermStep, thermStep, h, List.getD_eq_getElem?_getD, List.getD_eq_getElem?_getD, List.getElem?_set]
  by_cases hi : i = n
  · rw [hi, if_pos rfl, if_pos rfl, if_pos hn, Option.getD_some]
  · rw [if_neg (Ne.symm hi), if_neg hi]

theorem therm_set_self {s : State} {n : Nat} (hn : n < s.board.therm.length) :
    s.board.therm.set n (thermStep s n) = s.board.therm := by
  rw [thermStep, List.getD_eq_getElem _ _ hn, List.set_getElem_self]

/-- A channel's move puts its step where R613 has it; a step that stays is put where it was. -/
theorem board_moveThermStep {s : State} {n : Nat} (hn : n < s.board.therm.length) :
    (moveThermStep s n).board = { s.board with therm := s.board.therm.set n (thermTarget s n) } := by
  have hStays : s.board = { s.board with therm := s.board.therm.set n (thermStep s n) } := by rw [therm_set_self hn]
  rw [moveThermStep, thermTarget]
  by_cases hThrottle : atThrottle s n
  · rw [if_pos hThrottle, if_pos hThrottle]
    by_cases hZero : thermStep s n = 0
    · rw [if_pos hZero, show thermStep s n - 1 = thermStep s n by omega]
      exact hStays
    · rw [if_neg hZero]
      rfl
  · rw [if_neg hThrottle, if_neg hThrottle]
    by_cases hWarm : hasWarmed s n
    · rw [if_pos hWarm, if_pos hWarm]
      exact hStays
    · rw [if_neg hWarm, if_neg hWarm]
      rfl

theorem onlyBoard_moveThermStep (s : State) (n : Nat) :
    OnlyBoard [Reg.glbThermThrottleCount] s (moveThermStep s n) := by
  have hSet (k : Nat) : OnlyBoard [Reg.glbThermThrottleCount] s (setThermStep s n k) := onlyBoard_board ..
  rw [moveThermStep]
  split_ifs
  · exact onlyBoard_refl _ s
  · exact (hSet _).trans (onlyRegs_count32 ..).onlyBoard
  · exact onlyBoard_refl _ s
  · exact hSet _

/-- The channels below m have moved their thermal steps, and nothing else of the board has changed. -/
structure ThermMoved (m : Nat) (s t : State) : Prop where
  frame : OnlyBoard [Reg.glbThermThrottleCount] s t
  board : t.board = { s.board with therm := t.board.therm }
  length : t.board.therm.length = s.board.therm.length
  steps : ∀ i, thermStep t i = if i < m then thermTarget s i else thermStep s i

theorem thermMoved_zero (s : State) : ThermMoved 0 s s :=
  ⟨onlyBoard_refl _ s, rfl, rfl, fun i => (if_neg (Nat.not_lt_zero i)).symm⟩

/-- A channel whose turn has not come goes where it would have gone first. -/
theorem ThermMoved.thermTarget_eq {m : Nat} {s t : State} (h : ThermMoved m s t) : thermTarget t m = thermTarget s m := by
  have hStep : thermStep t m = thermStep s m := by rw [h.steps, if_neg (Nat.lt_irrefl m)]
  have hThrottle : atThrottle t m = atThrottle s m := by rw [atThrottle, h.board]; rfl
  have hWarmed : hasWarmed t m = hasWarmed s m := by rw [hasWarmed, h.board]; rfl
  rw [thermTarget, hStep, hThrottle, hWarmed, thermTarget]

theorem ThermMoved.succ {m : Nat} {s t : State} (h : ThermMoved m s t) (hm : m < s.board.therm.length) :
    ThermMoved (m + 1) s (moveThermStep t m) := by
  have hLength : m < t.board.therm.length := h.length ▸ hm
  have hBoard := board_moveThermStep hLength
  have hTherm : (moveThermStep t m).board.therm = t.board.therm.set m (thermTarget t m) := by rw [hBoard]
  refine ⟨h.frame.trans (onlyBoard_moveThermStep t m), ?_, ?_, fun i => ?_⟩
  · rw [hTherm, hBoard, h.board]
  · rw [hTherm, List.length_set, h.length]
  · rw [thermStep_set hTherm hLength, h.thermTarget_eq, h.steps]
    by_cases hi : i = m
    · rw [if_pos hi, if_pos (by omega), hi]
    · rw [if_neg hi]
      exact if_congr (by omega) rfl rfl

theorem thermMoved_foldl (s : State) {m : Nat} (hm : m ≤ s.board.therm.length) :
    ThermMoved m s ((List.range m).foldl moveThermStep s) := by
  induction m with
  | zero => exact thermMoved_zero s
  | succ m ih =>
    rw [List.range_succ, List.foldl_append]
    exact (ih (by omega)).succ (by omega)

theorem opThermalStepUpdate_effect {s : State} (h : s.board.therm.length = 4) :
    OnlyBoard (Reg.glbThermThrottleCount :: clkStatusRegs) s (opThermalStepUpdate s) ∧
      ∀ n < 4, thermStep (opThermalStepUpdate s) n = thermTarget s n := by
  have hMoved := thermMoved_foldl s h.ge
  rw [opThermalStepUpdate_eq]
  refine ⟨(hMoved.frame.mono (by simp)).trans ((onlyBoard_clockAll _ _).mono fun _ => List.mem_cons_of_mem _), fun n hn => ?_⟩
  calc _ = thermStep ((List.range 4).foldl moveThermStep s) n := by rw [thermStep, board_clockAll, thermStep]
    _ = thermTarget s n := by rw [hMoved.steps, if_pos hn]

/-- Settles O3: the power cap loop by the branch it takes, the thermal loop by an induction over the channels. -/
theorem controlLoops : Obligations.ControlLoops := by
  unfold Obligations.ControlLoops
  refine ⟨?_, ?_, ?_, ?_, ?_⟩
  · intro watts s hOn hAbove hStep
    have hLowered := loweredCapStep_effect s (s.board.capStep - 1)
    refine .of_effect rfl ?_ hLowered.1.pending_eq hLowered
    rw [opPowerCapUpdate_on watts hOn, if_pos hAbove, if_neg hStep]
  · intro watts s hOn hBelow hStep
    have hRaised := withCapStep_effect s (s.board.capStep + 1)
    refine .of_effect rfl ?_ hRaised.1.pending_eq hRaised
    rw [opPowerCapUpdate_on watts hOn, if_neg (by omega), if_pos ⟨hBelow, hStep⟩]
  · rintro watts s hOn (⟨hAbove, hStep⟩ | ⟨hWithin, hHeld⟩)
    · exact exec_of_kept rfl (by rw [opPowerCapUpdate_on watts hOn, if_pos hAbove, if_pos hStep])
    · exact exec_of_kept rfl (by rw [opPowerCapUpdate_on watts hOn, if_neg (by omega), if_neg (by omega)])
  · intro watts s hOff
    have hFull := withCapStep_effect s 8
    exact .of_effect rfl (opPowerCapUpdate_off watts hOff) hFull.1.pending_eq hFull
  · intro s hLength
    have hMoved := opThermalStepUpdate_effect hLength
    exact .of_effect rfl rfl hMoved.1.pending_eq hMoved

end Sys2Proof.Machine
end

section
/-! PROOFS. Numbers and their bytes, messages and their flits, segments and their blocks (O17, O18, O42). -/

namespace Sys2Proof.Machine

/-! ### Little-endian bytes -/

@[simp] theorem length_leBytes (n v : Nat) : (leBytes n v).length = n := by
  induction n generalizing v with
  | zero => rfl
  | succ n ih => rw [leBytes, List.length_cons, ih]

@[simp] theorem leNat_leBytes (n v : Nat) : leNat (leBytes n v) = v % 256 ^ n := by
  induction n generalizing v with
  | zero => rw [Nat.pow_zero, Nat.mod_one]; rfl
  | succ n ih =>
    have hCons : leNat (leBytes (n + 1) v) = leNat (leBytes n (v / 256)) * 256 + v % 256 := by
      simp [leNat, leBytes]
    rw [hCons, ih, Nat.pow_succ', Nat.mod_mul]
    omega

theorem getD_leBytes {n i : Nat} (v : Nat) (h : i < n) : ((leBytes n v).getD i 0).toNat = v / 256 ^ i % 256 := by
  induction n generalizing v i with
  | zero => omega
  | succ n ih =>
    cases i with
    | zero => simp [leBytes]
    | succ i =>
      rw [leBytes, List.getD_cons_succ, ih (v / 256) (by omega), Nat.div_div_eq_div_mul, ← Nat.pow_succ']

theorem word_of_leBytes (w : W64) : BitVec.ofNat 64 (leNat (leBytes 8 w.toNat)) = w := by
  rw [leNat_leBytes, Nat.mod_eq_of_lt (by have := w.isLt; omega), BitVec.ofNat_toNat, BitVec.setWidth_eq]

/-! ### A message and its bytes -/

@[simp] theorem length_pad16 (bs : List Byte) : (pad16 bs).length = (bs.length + 15) / 16 * 16 := by
  rw [pad16, List.length_append, List.length_replicate]
  omega

@[simp] theorem length_msgBytes (m : Msg) : m.bytes.length = 32 + (m.data.length + 15) / 16 * 16 := by
  simp only [Msg.bytes, List.length_append, length_leBytes, length_pad16]

theorem msgBytes_take8 (m : Msg) : m.bytes.take 8 = leBytes 8 m.w0.toNat := by
  simp [Msg.bytes, List.append_assoc, List.take_left' (length_leBytes 8 m.w0.toNat)]

theorem ofBytes_bytes (m : Msg) (h : m.data.length = m.len) : Msg.ofBytes m.bytes = m := by
  have hDrop (a b : List Byte) (n : Nat) (hn : a.length = n) : (a ++ b).drop n = b := List.drop_left' hn
  have hWord (w : W64) (b : List Byte) : (leBytes 8 w.toNat ++ b).take 8 = leBytes 8 w.toNat :=
    List.take_left' (length_leBytes _ _)
  have h1 : m.bytes.drop 8 = leBytes 8 m.w1.toNat ++ (leBytes 8 m.w2.toNat ++ (leBytes 8 m.w3.toNat ++ pad16 m.data)) := by
    rw [Msg.bytes, List.append_assoc, List.append_assoc, List.append_assoc, hDrop _ _ 8 (length_leBytes _ _)]
  have h2 : m.bytes.drop 16 = leBytes 8 m.w2.toNat ++ (leBytes 8 m.w3.toNat ++ pad16 m.data) := by
    rw [show 16 = 8 + 8 from rfl, ← List.drop_drop, h1, hDrop _ _ 8 (length_leBytes _ _)]
  have h3 : m.bytes.drop 24 = leBytes 8 m.w3.toNat ++ pad16 m.data := by
    rw [show 24 = 16 + 8 from rfl, ← List.drop_drop, h2, hDrop _ _ 8 (length_leBytes _ _)]
  have h4 : m.bytes.drop 32 = pad16 m.data := by
    rw [show 32 = 24 + 8 from rfl, ← List.drop_drop, h3, hDrop _ _ 8 (length_leBytes _ _)]
  have hData : (pad16 m.data).take m.len = m.data := List.take_left' h
  simp only [Msg.ofBytes, Nat.mul_zero, List.drop_zero, Nat.mul_one, Nat.reduceMul, msgBytes_take8, h1, h2, h3, h4, hWord,
    word_of_leBytes]
  exact congrArg (Msg.mk m.w0 m.w1 m.w2 m.w3) hData

/-- Settles O18: the header words are read back one by one, and the data is what its length leaves of the padding. -/
theorem messageBytes : Obligations.MessageBytes := by
  unfold Obligations.MessageBytes
  refine ⟨ofBytes_bytes, fun m => ?_⟩
  rw [length_msgBytes]
  omega

/-! ### A message and its flits -/

theorem len_lt (m : Msg) : m.len < 4096 := bits_lt _ _ _

/-- Bytes that begin like the message give its length and its type. -/
theorem header_of_take8 {m : Msg} (hLen : m.data.length = m.len) {bs : List Byte} (h : bs.take 8 = m.bytes.take 8) :
    cdiv (32 + bits (leNat (bs.take 8)) 43 32) 16 * 16 = m.bytes.length ∧ (bs.getD 7 0).toNat / 16 = m.kind := by
  have hWord := m.w0.isLt
  constructor
  · have hBits : bits (leNat (bs.take 8)) 43 32 = m.len := by
      rw [h, msgBytes_take8, leNat_leBytes, Nat.mod_eq_of_lt (by omega)]
      rfl
    rw [hBits, length_msgBytes, hLen, cdiv, if_neg (by decide)]
    omega
  · have hByte : bs.getD 7 0 = (leBytes 8 m.w0.toNat).getD 7 0 := by
      rw [← msgBytes_take8, ← h]
      simp
    rw [hByte, getD_leBytes _ (by decide), Msg.kind, bits, Nat.shiftRight_eq_div_pow]
    omega

/-- A body that begins or goes on with a message is not taken for padding. -/
theorem not_padding {m : Msg} (hKind : m.kind ≠ 0) (hLen : m.data.length = m.len) {part body : List Byte}
    (hStart : (part ++ body).take 8 = m.bytes.take 8) :
    (part.isEmpty && (body.getD 7 0).toNat / 16 == 0) = false := by
  cases part with
  | nil =>
    have hType : (body.getD 7 0).toNat / 16 = m.kind := (header_of_take8 hLen hStart).2
    rw [List.isEmpty_nil, Bool.true_and, hType, beq_eq_false_iff_ne]
    exact hKind
  | cons b r => rfl

/-- A body that does not end its message leaves the bytes so far. -/
theorem takeMsgs_unfinished {m : Msg} (hKind : m.kind ≠ 0) (hLen : m.data.length = m.len) {part body : List Byte}
    (hBody : body ≠ []) (hStart : (part ++ body).take 8 = m.bytes.take 8)
    (hShort : (part ++ body).length < m.bytes.length) (k : Nat) (acc : List Msg) :
    takeMsgs (k + 1) part body acc = (acc, part ++ body) := by
  obtain ⟨hTotal, -⟩ := header_of_take8 hLen hStart
  have hHead := not_padding hKind hLen hStart
  simp only [takeMsgs, List.isEmpty_eq_false_iff.2 hBody, hHead, hTotal, if_pos hShort, Bool.false_eq_true, if_false]

/-- Padding holds no message. -/
theorem takeMsgs_padding (k z : Nat) (acc : List Msg) : takeMsgs (k + 1) [] (List.replicate z 0) acc = (acc, []) := by
  have hByte : (List.replicate z (0 : Byte)).getD 7 0 = 0 := by
    rw [List.getD_eq_getElem?_getD, List.getElem?_replicate]
    split <;> rfl
  have hEmpty : ((List.isEmpty ([] : List Byte)) && (((0 : Byte)).toNat / 16 == 0)) = true := rfl
  simp only [takeMsgs, hByte, hEmpty, if_true, ite_self]

/-- The body that ends its message gives it whole, and nothing of the padding is left. -/
theorem takeMsgs_finished {m : Msg} (hKind : m.kind ≠ 0) (hLen : m.data.length = m.len) {part body : List Byte} {z : Nat}
    (hBody : body ≠ []) (hAll : part ++ body = m.bytes ++ List.replicate z 0) (k : Nat) (acc : List Msg) :
    takeMsgs (k + 2) part body acc = (acc ++ [m], []) := by
  have hStart : (part ++ body).take 8 = m.bytes.take 8 := by
    rw [hAll, List.take_append_of_le_length (by rw [length_msgBytes]; omega)]
  obtain ⟨hTotal, -⟩ := header_of_take8 hLen hStart
  have hHead := not_padding hKind hLen hStart
  have hLong : ¬ (part ++ body).length < m.bytes.length := by rw [hAll, List.length_append]; omega
  have hTake : (part ++ body).take m.bytes.length = m.bytes := by rw [hAll, List.take_left]
  have hDrop : (part ++ body).drop m.bytes.length = List.replicate z 0 := by rw [hAll, List.drop_left]
  rw [takeMsgs]
  simp only [List.isEmpty_eq_false_iff.2 hBody, hHead, hTotal, if_neg hLong, hTake, hDrop, ofBytes_bytes m hLen,
    takeMsgs_padding, Bool.false_eq_true, if_false]

/-- What a receiver holds after a body: whole messages, and the bytes of one that goes on. -/
def takeBody (a : List Msg × List Byte) (f : Nat × List Byte) : List Msg × List Byte :=
  (a.1 ++ (takeMsgs 64 a.2 f.2 []).1, (takeMsgs 64 a.2 f.2 []).2)

/-- The bytes in flit i with their padding. -/
def flitBody (bs : List Byte) (i : Nat) : List Byte :=
  (bs.drop (624 * i)).take 624 ++ List.replicate (624 - ((bs.drop (624 * i)).take 624).length) 0

theorem bodies_eq {bs : List Byte} {n : Nat} (h : cdiv bs.length 624 = n) :
    bodies bs = (List.range n).map fun i => (if i = 0 then 0 else 0x3F, flitBody bs i) := by
  subst h; rfl

/-- A flit before the last holds no padding. -/
theorem flitBody_full {bs : List Byte} {i : Nat} (h : 624 * (i + 1) ≤ bs.length) :
    flitBody bs i = (bs.drop (624 * i)).take 624 := by
  have : ((bs.drop (624 * i)).take 624).length = 624 := by rw [List.length_take, List.length_drop]; omega
  rw [flitBody, this, Nat.sub_self, List.replicate_zero, List.append_nil]

theorem take_append_flit (bs : List Byte) (i : Nat) :
    bs.take (624 * i) ++ (bs.drop (624 * i)).take 624 = bs.take (624 * (i + 1)) := by
  rw [Nat.mul_add, Nat.mul_one, List.take_add]

theorem flitBody_ne_nil (bs : List Byte) (i : Nat) : flitBody bs i ≠ [] := by
  have : (flitBody bs i).length = 624 := by
    have := List.length_take_le 624 (bs.drop (624 * i))
    rw [flitBody, List.length_append, List.length_replicate]; omega
  intro h
  rw [h] at this
  exact absurd this (by decide)

/-- Before the last flit of the message every flit adds its bytes. -/
theorem takeBody_flits {m : Msg} (hKind : m.kind ≠ 0) (hLen : m.data.length = m.len) {k : Nat}
    (hk : 624 * k < m.bytes.length) (first : Nat → Nat) :
    ((List.range k).map fun i => (first i, flitBody m.bytes i)).foldl takeBody ([], []) = ([], m.bytes.take (624 * k)) := by
  induction k with
  | zero => rfl
  | succ k ih =>
    have hAll : m.bytes.take (624 * k) ++ flitBody m.bytes k = m.bytes.take (624 * (k + 1)) := by
      rw [flitBody_full (by omega), take_append_flit]
    have hGoes : takeMsgs 64 (m.bytes.take (624 * k)) (flitBody m.bytes k) [] = ([], m.bytes.take (624 * (k + 1))) := by
      rw [← hAll]
      refine takeMsgs_unfinished hKind hLen (flitBody_ne_nil _ _) ?_ ?_ 63 []
      · rw [hAll, List.take_take, Nat.min_eq_left (by omega)]
      · rw [hAll, List.length_take]; omega
    rw [List.range_succ, List.map_append, List.foldl_append, ih (by omega), List.map_singleton, List.foldl_cons,
      List.foldl_nil, takeBody, hGoes, List.append_nil]

/-- Settles O17: the flits before the last add their bytes, and the last ends the message. -/
theorem messageReassembly : Obligations.MessageReassembly := by
  unfold Obligations.MessageReassembly
  intro m hKind hLen
  obtain ⟨k, hCount, hLow, hHigh⟩ : ∃ k, cdiv m.bytes.length 624 = k + 1 ∧ 624 * k < m.bytes.length ∧
      m.bytes.length ≤ 624 * (k + 1) := by
    have hPos : 32 ≤ m.bytes.length := by rw [length_msgBytes]; omega
    refine ⟨(m.bytes.length - 1) / 624, ?_, by omega, by omega⟩
    rw [cdiv, if_neg (by decide)]
    omega
  have hEnds : takeMsgs 64 (m.bytes.take (624 * k)) (flitBody m.bytes k) [] = ([m], []) := by
    refine takeMsgs_finished (z := 624 - ((m.bytes.drop (624 * k)).take 624).length) hKind hLen (flitBody_ne_nil _ _) ?_ 62 []
    rw [flitBody, ← List.append_assoc, take_append_flit, List.take_of_length_le hHigh]
  have hFold := takeBody_flits hKind hLen hLow (fun i => if i = 0 then 0 else 0x3F)
  rw [bodies_eq hCount, List.range_succ, List.map_append, List.foldl_append]
  refine Eq.trans (congrArg (List.foldl takeBody · [(if k = 0 then 0 else 0x3F, flitBody m.bytes k)]) hFold) ?_
  rw [List.foldl_cons, List.foldl_nil, takeBody, hEnds, List.nil_append]

/-! ### A segment and its blocks -/

theorem length_flatMap_const {α β : Type} {f : α → List β} {c : Nat} {l : List α} (h : ∀ x ∈ l, (f x).length = c) :
    (l.flatMap f).length = c * l.length := by
  induction l with
  | nil => rfl
  | cons x l ih =>
    rw [List.flatMap_cons, List.length_append, h x List.mem_cons_self, ih fun y hy => h y (List.mem_cons_of_mem _ hy),
      List.length_cons, Nat.mul_succ, Nat.add_comm]

/-- Pieces of one length in a row: those after the first i. -/
theorem drop_flatMap_const {α β : Type} {f : α → List β} {c : Nat} {l : List α} (h : ∀ x ∈ l, (f x).length = c) (i : Nat) :
    (l.flatMap f).drop (c * i) = (l.drop i).flatMap f := by
  induction i generalizing l with
  | zero => rfl
  | succ i ih =>
    cases l with
    | nil => simp
    | cons x l =>
      have hFirst : (f x).length = c := h x List.mem_cons_self
      rw [List.flatMap_cons, Nat.mul_succ, Nat.add_comm, ← List.drop_drop, List.drop_left' hFirst,
        ih fun y hy => h y (List.mem_cons_of_mem _ hy), List.drop_succ_cons]

/-- A 16-bit element is read back as it was written. -/
theorem signed_leBytes {v : Int} (h : -32768 ≤ v ∧ v < 32768) : signed 16 (leNat (leBytes 2 (unsigned 16 v))) = v := by
  rw [leNat_leBytes, signed, unsigned]
  split <;> omega

/-- Scale and flag byte of a block. -/
def blockHead (b : Block6) : List Byte := [BitVec.ofNat 8 b.e, BitVec.ofNat 8 b.flags]

/-- The elements of a block. -/
def blockElems (b : Block6) : List Byte := b.n.flatMap fun v => leBytes 2 (unsigned 16 v)

theorem segBytes_eq (bl : List Block6) : segBytes bl = bl.flatMap blockHead ++ [0, 0] ++ bl.flatMap blockElems := rfl

theorem length_blockElems {b : Block6} (h : b.n.length = 32) : (blockElems b).length = 64 := by
  rw [blockElems, length_flatMap_const fun _ _ => length_leBytes 2 _, h]

theorem drop_blockElems (b : Block6) (i : Nat) (rest : List Byte) (hi : i < b.n.length) :
    ((blockElems b ++ rest).drop (2 * i)).take 2 = leBytes 2 (unsigned 16 b.n[i]) := by
  have hWhole : 2 * i ≤ (blockElems b).length := by
    rw [blockElems, length_flatMap_const fun _ _ => length_leBytes 2 _]; omega
  rw [List.drop_append_of_le_length hWhole, blockElems, drop_flatMap_const fun _ _ => length_leBytes 2 _,
    List.drop_eq_getElem_cons hi, List.flatMap_cons, List.append_assoc, List.take_left' (length_leBytes _ _)]

/-- A block of a segment, where every block has 32 elements. -/
theorem blockAt_segBytes {bl : List Block6} {k : Nat} {b : Block6} (hLength : bl.length = 31) (hk : bl[k]? = some b)
    (hElems : ∀ c ∈ bl, c.n.length = 32) :
    blockAt (segBytes bl) k = ⟨b.e % 256, b.flags % 256, b.n.map fun v => signed 16 (leNat (leBytes 2 (unsigned 16 v)))⟩ := by
  obtain ⟨hlt, rfl⟩ := List.getElem?_eq_some_iff.1 hk
  have hHeads : (bl.flatMap blockHead).length = 62 := by
    rw [length_flatMap_const (c := 2) fun _ _ => rfl, hLength]
  have hHead (j : Nat) (hj : j < 2) : (segBytes bl).getD (2 * k + j) 0 = (blockHead bl[k]).getD j 0 := by
    have hDrop : (segBytes bl).drop (2 * k) = blockHead bl[k] ++ ((bl.drop (k + 1)).flatMap blockHead ++
        ([0, 0] ++ bl.flatMap blockElems)) := by
      rw [segBytes_eq, List.append_assoc, List.drop_append_of_le_length (by omega),
        drop_flatMap_const (c := 2) fun _ _ => rfl, List.drop_eq_getElem_cons hlt, List.flatMap_cons, List.append_assoc]
    rw [List.getD_eq_getElem?_getD, ← List.getElem?_drop, hDrop, List.getElem?_append_left (by exact hj),
      ← List.getD_eq_getElem?_getD]
  have hElem (i : Nat) (hi : i < 32) : ((segBytes bl).drop (64 + 64 * k + 2 * i)).take 2 =
      leBytes 2 (unsigned 16 (bl[k].n[i]'(by rw [hElems _ (List.getElem_mem hlt)]; exact hi))) := by
    have hFront : (bl.flatMap blockHead ++ [0, 0]).length = 64 := by rw [List.length_append, hHeads]; rfl
    have hDrop : (segBytes bl).drop (64 + 64 * k) = blockElems bl[k] ++ (bl.drop (k + 1)).flatMap blockElems := by
      rw [segBytes_eq, ← List.drop_drop, List.drop_left' hFront,
        drop_flatMap_const fun c hc => length_blockElems (hElems c hc), List.drop_eq_getElem_cons hlt, List.flatMap_cons]
    rw [← List.drop_drop, hDrop, drop_blockElems]
  rw [blockAt, Block6.mk.injEq]
  refine ⟨?_, ?_, ?_⟩
  · rw [← Nat.add_zero (2 * k), hHead 0 (by decide)]
    exact BitVec.toNat_ofNat _ _
  · rw [hHead 1 (by decide)]
    exact BitVec.toNat_ofNat _ _
  · have hn : bl[k].n.length = 32 := hElems _ (List.getElem_mem hlt)
    refine List.ext_getElem (by simp [hn]) fun i hi _ => ?_
    rw [List.getElem_map, List.getElem_range, hElem i (by simpa using hi), List.getElem_map]

/-- Settles O42: the heads stand in the first 64 bytes, the elements of block k from byte 64 + 64 * k on. -/
theorem segmentBytes : Obligations.SegmentBytes := by
  unfold Obligations.SegmentBytes
  intro bl k b hLength hk hFits
  have hElems : ∀ c ∈ bl, c.n.length = 32 := fun c hc => (hFits c hc).2.2.1
  obtain ⟨hScale, hFlags, -, hRange⟩ := hFits b (List.mem_of_getElem? hk)
  constructor
  · rw [segBytes_eq, List.length_append, List.length_append, length_flatMap_const (c := 2) fun _ _ => rfl,
      length_flatMap_const fun c hc => length_blockElems (hElems c hc), hLength]
    rfl
  · have hBack : b.n.map (fun v => signed 16 (leNat (leBytes 2 (unsigned 16 v)))) = b.n :=
      (List.map_congr_left fun v hv => signed_leBytes (hRange v hv)).trans (List.map_id' b.n)
    rw [blockAt_segBytes hLength hk hElems, hBack, Nat.mod_eq_of_lt hScale, Nat.mod_eq_of_lt hFlags]

end Sys2Proof.Machine
end

section
/-! PROOFS. The 144/128 code, words rewritten, and the residency map (O32, O33, O35). -/

namespace Sys2Proof.Machine

/-! ### The code corrects one symbol -/

theorem gfAlpha_zero (k : Nat) : gfAlpha k 0 = 0 := by
  induction k with
  | zero => rfl
  | succ k ih => rw [gfAlpha, ih]; rfl

theorem gfAlpha_add (a b x : Nat) : gfAlpha (a + b) x = gfAlpha a (gfAlpha b x) := by
  induction a with
  | zero => rw [Nat.zero_add]; rfl
  | succ a ih => rw [Nat.succ_add, gfAlpha, ih, gfAlpha]

theorem gfDouble_symbol : ∀ x < 256, 0 < x → 0 < gfDouble x ∧ gfDouble x < 256 := by decide +kernel

theorem gfAlpha_symbol {x : Nat} (h0 : 0 < x) (h : x < 256) (k : Nat) : 0 < gfAlpha k x ∧ gfAlpha k x < 256 := by
  induction k with
  | zero => exact ⟨h0, h⟩
  | succ k ih => exact gfDouble_symbol _ ih.2 ih.1

/-- No power of α below the 18th is 1: it moves every symbol. -/
theorem gfAlpha_moves : ∀ x < 256, 0 < x → ∀ d < 17, gfAlpha (d + 1) x ≠ x := by decide +kernel

/-- Two places of a word never give the same syndrome. -/
theorem gfAlpha_ne {x j k : Nat} (h0 : 0 < x) (h : x < 256) (hjk : j < k) (hk : k < 18) : gfAlpha j x ≠ gfAlpha k x := by
  obtain ⟨hPos, hLt⟩ := gfAlpha_symbol h0 h j
  intro hEq
  refine gfAlpha_moves _ hLt hPos (k - j - 1) (by omega) ?_
  rw [← gfAlpha_add, show k - j - 1 + 1 + j = k by omega, hEq]

/-- The sum of a list with one entry that is not zero. -/
theorem foldl_xor_single {n k : Nat} (e : Nat) (hk : k < n) :
    ((List.range n).map fun j => if j = k then e else 0).foldl (· ^^^ ·) 0 = e := by
  induction n with
  | zero => omega
  | succ n ih =>
    rw [List.range_succ, List.map_append, List.foldl_append]
    by_cases hLast : k = n
    · have hZero : ∀ l : List Nat, (∀ x ∈ l, x = 0) → l.foldl (· ^^^ ·) 0 = 0 := fun l hl =>
        List.foldlRecOn (motive := (· = 0)) _ _ rfl fun a ha x hx => by rw [ha, hl x hx, Nat.xor_zero]
      rw [hZero _ fun x hx => ?_]
      · simp [hLast]
      · obtain ⟨j, hj, rfl⟩ := List.mem_map.1 hx
        exact if_neg (by have := List.mem_range.1 hj; omega)
    · rw [ih (by omega)]
      simp [Ne.symm hLast]

/-- Settles O32: the first syndrome is the error, and only the struck place explains the second. -/
theorem eccCorrects : Obligations.EccCorrects := by
  unfold Obligations.EccCorrects
  intro k e hk hPos hLt
  have hSum : ((List.range 18).map fun j => if j = k then e else 0).foldl (· ^^^ ·) 0 = e := foldl_xor_single e hk
  have hSyndromes : (((List.range 18).map fun j => if j = k then e else 0).zipIdx.map fun p => gfAlpha p.2 p.1) =
      (List.range 18).map fun j => if j = k then gfAlpha k e else 0 := by
    refine List.ext_getElem (by simp) fun i hi _ => ?_
    simp only [List.getElem_map, List.getElem_zipIdx, List.getElem_range, Nat.zero_add]
    split
    · next h => rw [h]
    · exact gfAlpha_zero i
  have hWeighted := foldl_xor_single (gfAlpha k e) hk
  have hFind : (List.range 18).find? (fun j => gfAlpha j e == gfAlpha k e) = some k := by
    rw [List.find?_range_eq_some]
    exact ⟨by simp, List.mem_range.2 hk, fun j hj => by simpa using gfAlpha_ne hPos hLt hj hk⟩
  rw [decodeErrs, hSum, hSyndromes, hWeighted]
  simp only [if_neg (Nat.pos_iff_ne_zero.1 hPos), hFind]

/-! ### Words stored and their errors -/

@[simp] theorem storeRaw_errs (s : State) (a : Nat) (bs : List Byte) : (storeRaw s a bs).errs = s.errs := by
  induction bs generalizing s a with
  | nil => rfl
  | cons b bs ih => rw [storeRaw, ih]

/-- A byte after bytes are stored. -/
theorem mget_storeRaw (s : State) (a : Nat) (bs : List Byte) (x : Nat) :
    mget 0 (storeRaw s a bs).mem x = if a ≤ x ∧ x < a + bs.length then bs.getD (x - a) 0 else mget 0 s.mem x := by
  induction bs generalizing s a with
  | nil => rw [storeRaw, if_neg (by simp)]
  | cons b bs ih =>
    rw [storeRaw, ih, mget_mset]
    by_cases hFirst : a = x
    · subst hFirst
      rw [if_neg (by omega), if_pos rfl, if_pos (by simp), Nat.sub_self, List.getD_cons_zero]
    · rw [if_neg hFirst]
      by_cases hIn : a + 1 ≤ x ∧ x < a + 1 + bs.length
      · rw [if_pos hIn, if_pos (by rw [List.length_cons]; omega), show x - a = x - (a + 1) + 1 by omega, List.getD_cons_succ]
      · rw [if_neg hIn, if_neg (by rw [List.length_cons]; omega)]

/-- The error symbols after those of a word are cleared. -/
theorem mget_clearErrs (s : State) (w k : Nat) :
    mget 0 (clearErrs s w).errs k = if 18 * w ≤ k ∧ k < 18 * w + 18 then 0 else mget 0 s.errs k := by
  have hFold (n : Nat) : mget 0 ((List.range n).foldl (fun m k => mset 0 m (18 * w + k) 0) s.errs) k =
      if 18 * w ≤ k ∧ k < 18 * w + n then 0 else mget 0 s.errs k := by
    induction n with
    | zero => rw [if_neg (by omega)]; rfl
    | succ n ih =>
      rw [List.range_succ, List.foldl_append, List.foldl_cons, List.foldl_nil, mget_mset, ih]
      by_cases hk : 18 * w + n = k
      · rw [if_pos hk, if_pos (by omega)]
      · rw [if_neg hk]
        exact if_congr (by omega) rfl rfl
  have hErrs : (clearErrs s w).errs = (List.range 18).foldl (fun m k => mset 0 m (18 * w + k) 0) s.errs := by
    unfold clearErrs; dsimp only
  rw [hErrs, hFold]

theorem wordErrs_congr {s t : State} {w : Nat} (h : ∀ k < 18, mget 0 t.errs (18 * w + k) = mget 0 s.errs (18 * w + k)) :
    wordErrs t w = wordErrs s w :=
  List.map_congr_left fun k hk => by rw [h k (List.mem_range.1 hk)]

/-- A word without errors is clean. -/
theorem decodeWord_of_zero {s : State} {w : Nat} (h : ∀ k < 18, mget 0 s.errs (18 * w + k) = 0) :
    decodeWord s w = .clean := by
  have hErrs : wordErrs s w = wordErrs { s with errs := [] } w := wordErrs_congr h
  rw [decodeWord, hErrs, ← decodeWord, decodeWord_clean rfl]

theorem decodeWord_clearErrs (s : State) (w : Nat) : decodeWord (clearErrs s w) w = .clean :=
  decodeWord_of_zero fun k hk => by rw [mget_clearErrs, if_pos (by omega)]

@[simp] theorem length_goodBytes (s : State) (a n : Nat) : (goodBytes s a n).length = n := by simp [goodBytes]

theorem rewriteWord_errs (s : State) (w k : Nat) :
    mget 0 (rewriteWord s w).errs k = if 18 * w ≤ k ∧ k < 18 * w + 18 then 0 else mget 0 s.errs k := by
  rw [rewriteWord, mget_clearErrs, storeRaw_errs]

theorem rewriteWord_byte (s : State) (w x : Nat) : mget 0 (rewriteWord s w).mem x =
    if 16 * w ≤ x ∧ x < 16 * w + 16 then goodByte s x else mget 0 s.mem x := by
  rw [rewriteWord, clearErrs_mem, mget_storeRaw, length_goodBytes]
  split
  · next h =>
    have hIx : x - 16 * w < (goodBytes s (16 * w) 16).length := by rw [length_goodBytes]; omega
    rw [List.getD_eq_getElem _ _ hIx]
    simp only [goodBytes, List.getElem_map, List.getElem_range]
    rw [show 16 * w + (x - 16 * w) = x by omega]
  · rfl

theorem decodeWord_rewriteWord (s : State) (w : Nat) : decodeWord (rewriteWord s w) w = .clean :=
  decodeWord_clearErrs _ w

/-- A rewritten word is delivered as before. -/
theorem goodBytes_rewriteWord (s : State) (w : Nat) : goodBytes (rewriteWord s w) (16 * w) 16 = goodBytes s (16 * w) 16 := by
  refine List.map_congr_left fun i hi => ?_
  have hi := List.mem_range.1 hi
  have hWord : (16 * w + i) / 16 = w := by omega
  rw [goodByte, hWord, decodeWord_rewriteWord]
  simp only
  rw [rewriteWord_byte, if_pos (by omega), rewriteWord_errs, if_pos (by omega)]
  exact BitVec.xor_zero

@[simp] theorem storeRaw_chans (s : State) (a : Nat) (bs : List Byte) : (storeRaw s a bs).chans = s.chans := by
  induction bs generalizing s a with
  | nil => rfl
  | cons b bs ih => rw [storeRaw, ih]

@[simp] theorem storeRaw_pending (s : State) (a : Nat) (bs : List Byte) : (storeRaw s a bs).pending = s.pending := by
  induction bs generalizing s a with
  | nil => rfl
  | cons b bs ih => rw [storeRaw, ih]

@[simp] theorem clearErrs_chans (s : State) (w : Nat) : (clearErrs s w).chans = s.chans := by
  unfold clearErrs; dsimp only

@[simp] theorem clearErrs_pending (s : State) (w : Nat) : (clearErrs s w).pending = s.pending := by
  unfold clearErrs; dsimp only

theorem writeBackWord_keeps (s : State) (w : Nat) :
    (writeBackWord s w).chans = s.chans ∧ (writeBackWord s w).pending = s.pending := by
  unfold writeBackWord
  split
  · exact ⟨clearErrs_chans s w, clearErrs_pending s w⟩
  · rw [rewriteWord, clearErrs_chans, clearErrs_pending, storeRaw_chans, storeRaw_pending]
    exact ⟨rfl, rfl⟩

/-- The first channel that owes the word writes it back. -/
theorem opDramWriteBack_owed {word n : Nat} {s : State} (hn : n < 4) (hOwed : word ∈ (s.chan n).wb)
    (hFirst : ∀ m < n, word ∉ (s.chan m).wb) :
    opDramWriteBack word s = (writeBackWord s word).setChan n
      { s.chan n with wb := (s.chan n).wb.filter (· != word) } := by
  have hFind : (List.range 4).find? (fun n => (s.chan n).wb.contains word) = some n := by
    rw [List.find?_range_eq_some]
    exact ⟨by simpa using hOwed, List.mem_range.2 hn, fun m hm => by simpa using hFirst m hm⟩
  have hChan : (writeBackWord s word).chan n = s.chan n := by rw [State.chan, (writeBackWord_keeps s word).1, State.chan]
  simp only [opDramWriteBack, hFind, hChan]

/-- Settles O33: a rewritten word holds what the decoder delivered, and its 18 error symbols are gone. -/
theorem rewrite : Obligations.Rewrite := by
  unfold Obligations.Rewrite
  constructor
  · intro s w
    refine ⟨goodBytes_rewriteWord s w, decodeWord_rewriteWord s w, fun a ha => ?_, fun v hv => wordErrs_congr fun k hk => ?_⟩
    · rw [rewriteWord_byte, if_neg (by omega)]
    · rw [rewriteWord_errs, if_neg (by omega)]
  · intro word n s hOwed hFirst
    have hExec : exec (.dramWriteBack word) s = .next (keepQueue s (opDramWriteBack word s)) := rfl
    have hOp := opDramWriteBack_owed n.isLt hOwed hFirst
    rw [hExec, keepQueue_eq (by rw [hOp, State.setChan_pending, (writeBackWord_keeps s word).2]), hOp]

/-! ### The residency map -/

/-- Taking a frame out of the intervals takes out that frame alone. -/
theorem any_dropFrame (ivs : List (Nat × Nat)) (f g : Nat) :
    (dropFrame ivs f).any (fun p => decide (p.1 ≤ g) && decide (g ≤ p.2)) =
      (decide (g ≠ f) && ivs.any fun p => decide (p.1 ≤ g) && decide (g ≤ p.2)) := by
  induction ivs with
  | nil => simp [dropFrame]
  | cons p ivs ih =>
    rw [dropFrame] at ih ⊢
    rw [List.flatMap_cons, List.any_append, ih, List.any_cons, Bool.eq_iff_iff]
    simp only [Bool.or_eq_true, Bool.and_eq_true, decide_eq_true_eq]
    have hPiece : ((if p.1 ≤ f ∧ f ≤ p.2 then
        (if p.1 < f then [(p.1, f - 1)] else []) ++ (if f < p.2 then [(f + 1, p.2)] else []) else [p]).any
          fun p => decide (p.1 ≤ g) && decide (g ≤ p.2)) = true ↔ g ≠ f ∧ p.1 ≤ g ∧ g ≤ p.2 := by
      split_ifs <;> simp <;> omega
    rw [hPiece]
    tauto

/-- A frame's intervals after it is marked. -/
def markIn (ivs : List (Nat × Nat)) (f : Nat) (present : Bool) : List (Nat × Nat) :=
  if present then dropFrame ivs f else (f, f) :: dropFrame ivs f

theorem any_markIn (ivs : List (Nat × Nat)) (f g : Nat) (present : Bool) :
    (markIn ivs f present).any (fun p => decide (p.1 ≤ g) && decide (g ≤ p.2)) =
      if g = f then !present else ivs.any fun p => decide (p.1 ≤ g) && decide (g ≤ p.2) := by
  have hSelf : (decide (f ≤ g) && decide (g ≤ f)) = decide (g = f) := by
    rw [Bool.eq_iff_iff]; simp; omega
  cases present
  · rw [markIn, if_neg Bool.false_ne_true, List.any_cons, any_dropFrame, hSelf]
    by_cases h : g = f <;> simp [h]
  · rw [markIn, if_pos rfl, any_dropFrame]
    by_cases h : g = f <;> simp [h]

/-- A frame marked in one channel. -/
def markOne (s : State) (n f : Nat) (present : Bool) : State :=
  s.setChan n { s.chan n with absent := markIn (s.chan n).absent f present }

theorem markFrame_eq (s : State) (n f : Nat) (present : Bool) :
    markFrame s n f present =
      if mirrored s n (32768 * f) then markOne (markOne s n f present) (partner n) f present else markOne s n f present := rfl

theorem absent_markOne_same (s : State) (n f g : Nat) (present : Bool) :
    absent (markOne s n f present) n g = if g = f then !present else absent s n g := by
  rw [absent, markOne, chan_setChan_same, any_markIn, absent]

theorem chan_markOne_other (s : State) {n m : Nat} (f : Nat) (present : Bool) (h : n ≠ m) :
    (markOne s n f present).chan m = s.chan m := by rw [markOne, chan_setChan, if_neg h]

theorem absent_congr {s t : State} {n : Nat} (h : t.chan n = s.chan n) (g : Nat) : absent t n g = absent s n g := by
  rw [absent, h, absent]

theorem partner_ne (n : Nat) : partner n ≠ n := by
  intro h
  have hBit := congrArg (fun k => k.testBit 1) h
  rw [partner, Nat.testBit_xor, show Nat.testBit 2 1 = true from rfl, Bool.xor_true] at hBit
  exact absurd hBit (by simp)

/-- Nothing but the channels differs. -/
theorem markFrame_frame (s : State) (n f : Nat) (present : Bool) :
    markFrame s n f present = { s with chans := (markFrame s n f present).chans } := by
  rw [markFrame_eq]
  split <;> rfl

theorem absent_markFrame (s : State) (n f g : Nat) (present : Bool) :
    absent (markFrame s n f present) n g = if g = f then !present else absent s n g := by
  rw [markFrame_eq]
  split
  · rw [absent_congr (chan_markOne_other _ f present (partner_ne n)), absent_markOne_same]
  · exact absent_markOne_same ..

theorem absent_markFrame_partner (s : State) {n f : Nat} (g : Nat) (present : Bool) (h : mirrored s n (32768 * f) = true) :
    absent (markFrame s n f present) (partner n) g = if g = f then !present else absent s (partner n) g := by
  rw [markFrame_eq, if_pos h, absent_markOne_same, absent_congr (chan_markOne_other s f present (partner_ne n).symm)]

theorem chan_markFrame_other (s : State) {n m : Nat} (f : Nat) (present : Bool) (hn : m ≠ n)
    (hp : m ≠ partner n ∨ mirrored s n (32768 * f) = false) : (markFrame s n f present).chan m = s.chan m := by
  rw [markFrame_eq]
  split
  · next h =>
    have hOther : partner n ≠ m := hp.elim Ne.symm fun h' => absurd (h.symm.trans h') (by decide)
    rw [chan_markOne_other _ f present hOther, chan_markOne_other s f present hn.symm]
  · exact chan_markOne_other s f present hn.symm

theorem sameMemory_markFrame (s : State) (n f : Nat) (present : Bool) : SameMemory s (markFrame s n f present) := by
  rw [markFrame_frame]; exact ⟨rfl, rfl⟩

theorem regsBut_markFrame (s : State) (n f : Nat) (present : Bool) : RegsBut [] s (markFrame s n f present) := by
  rw [markFrame_frame]; exact fun _ _ => rfl

/-- Settles O35: a frame is marked in the channel and, where its range is mirrored, in the partner. -/
theorem residencyMap : Obligations.ResidencyMap := by
  unfold Obligations.ResidencyMap
  intro n f g present s
  rw [Nat.mul_comm f]
  exact ⟨absent_markFrame s n f g present,
    fun m hm hp => chan_markFrame_other s f present (fun h => hm (Fin.ext h)) hp,
    absent_markFrame_partner s g present, sameMemory_markFrame s n f present, regsBut_markFrame s n f present⟩

end Sys2Proof.Machine
end

section
/-! PROOFS. Acknowledgements, window checks, the order of migrations, hops, and the queue of commands (O19, O23, O38, O43,
O46, O47). -/

namespace Sys2Proof.Machine

/-! ### Acknowledgements -/

/-- Nothing but the channels and the ports differs. -/
theorem applyAck_frame (s : State) (p ack : Nat) :
    applyAck s p ack = { s with chans := (applyAck s p ack).chans, ports := (applyAck s p ack).ports } := by
  unfold applyAck
  refine List.foldlRecOn (motive := fun t : State => t = { s with chans := t.chans, ports := t.ports }) _ _ rfl
    fun t ht f _ => ?_
  dsimp only
  split
  · exact ht
  · exact congrArg (fun u : State => u.setChan _ _) ht

theorem port_applyAck (s : State) (p ack : Nat) : (applyAck s p ack).port p =
    { s.port p with replay := (s.port p).replay.filter fun f => !decide ((ack + 4096 - f.seq) % 4096 < 512) } := by
  unfold applyAck
  refine List.foldlRecOn (motive := fun t : State => t.port p = _) _ _ (port_setPort_same ..) fun t ht f _ => ?_
  dsimp only
  split
  · exact ht
  · exact ht

/-- The 512 numbers from a flit's on are those that acknowledge it. -/
theorem any_window {seq ack : Nat} (hSeq : seq < 4096) (hAck : ack < 4096) :
    ((List.range 512).any fun d => (seq + d) % 4096 == ack) = decide ((ack + 4096 - seq) % 4096 < 512) := by
  rw [Bool.eq_iff_iff, List.any_eq_true, decide_eq_true_eq]
  constructor
  · rintro ⟨d, hd, hEq⟩
    have hd := List.mem_range.1 hd
    have hEq : (seq + d) % 4096 = ack := by simpa using hEq
    omega
  · intro h
    exact ⟨(ack + 4096 - seq) % 4096, List.mem_range.2 h, by rw [beq_iff_eq]; omega⟩

/-- Settles O19: the flits that stay are those whose window the acknowledgement misses. -/
theorem replayWindow : Obligations.ReplayWindow := by
  unfold Obligations.ReplayWindow
  intro p ack s hAck hSeqs
  refine ⟨?_, ?_, ?_⟩
  · rw [port_applyAck]
    exact List.filter_congr fun f hf => by rw [any_window (hSeqs f hf) hAck]
  · rw [applyAck_frame]; exact ⟨rfl, rfl⟩
  · rw [applyAck_frame]; exact fun _ _ => rfl

/-! ### Window checks -/

/-- An outcome that is not the first branch's is the second's. -/
theorem ite_eq_of_ne {α : Type} {c : Prop} [Decidable c] {a b x : α} (h : (if c then a else b) = x) (ha : a ≠ x) :
    ¬ c ∧ b = x := by
  by_cases hc : c
  · exact absurd ((if_pos hc).symm.trans h) ha
  · exact ⟨hc, (if_neg hc).symm.trans h⟩

/-- A write that no check stops has passed every one of them; the kind of its window says where it goes (R482). -/
theorem checkWindow_passed {s : State} {m : Msg} {dataBad : Bool} {w : WinCheck} (h : checkWindow s m dataBad = w)
    (hStale : w ≠ .stale) (hReject : ∀ reason core, w ≠ .reject reason core) :
    let ctrl := Reg.glbWinCtrl (m.f1 63 56)
    let n := fld s ctrl 44 43
    let i := physOf s n (fld s ctrl 42 33)
    let k := fld s ctrl 32 30
    let off := fld s (Reg.coreRecvWindow n i k) 8 0 * 512 + m.f1 31 0
    let a := fld s (Reg.glbWinBase (m.f1 63 56)) 47 0 + m.f1 31 0
    dataBad = false ∧ flag s ctrl 63 = true ∧ bit (fld s ctrl 52 45) m.src = true ∧ isDormant s = false ∧
      ((w = .core n i off k ∧ flag s (Reg.coreRecvWindow n i k) 31 = true ∧
          m.f1 31 0 + m.len ≤ fld s (Reg.coreRecvWindow n i k) 25 16 * 512 ∧ storeMapped s n i = true ∧
          ∀ x ∈ wordsOf off m.len, rowPowered s n i (x / 32) = true) ∨
        (w = .memory a ∧ m.f1 31 0 + m.len ≤ fld s (Reg.glbWinLen (m.f1 63 56)) 31 0 ∧
          rangeServes s a m.len = true)) := by
  intro ctrl n i k off a
  unfold checkWindow at h
  obtain ⟨-, h⟩ := ite_eq_of_ne h hStale.symm
  obtain ⟨-, h⟩ := ite_eq_of_ne h hStale.symm
  obtain ⟨hOpen, h⟩ := ite_eq_of_ne h (hReject 1 none).symm
  obtain ⟨hSource, h⟩ := ite_eq_of_ne h (hReject 2 none).symm
  obtain ⟨hWindow, h⟩ := ite_eq_of_ne h (hReject 3 (some n)).symm
  obtain ⟨hRange, h⟩ := ite_eq_of_ne h (hReject 3 none).symm
  obtain ⟨hAwake, h⟩ := ite_eq_of_ne h (hReject 4 none).symm
  obtain ⟨hMapped, h⟩ := ite_eq_of_ne h (hReject 4 none).symm
  obtain ⟨hServes, h⟩ := ite_eq_of_ne h (hReject 4 none).symm
  obtain ⟨hClean, h⟩ := ite_eq_of_ne h (hReject 5 none).symm
  simp only [Bool.or_eq_true, Bool.not_eq_true', not_or, Bool.not_eq_false, beq_iff_eq] at hOpen
  obtain ⟨hFlag, hKind⟩ := hOpen
  refine ⟨by simpa using hClean, hFlag, by simpa using hSource, by simpa using hAwake, ?_⟩
  by_cases hStore : fld s ctrl 62 61 = 1
  · left
    have hStore' : decide (fld s ctrl 62 61 = 1) = true := decide_eq_true hStore
    have hWindow' : ¬ (decide (fld s ctrl 62 61 = 1) && !(flag s (Reg.coreRecvWindow n i k) 31 &&
      decide (m.f1 31 0 + m.len ≤ fld s (Reg.coreRecvWindow n i k) 25 16 * 512))) = true := hWindow
    have hMapped' : ¬ (decide (fld s ctrl 62 61 = 1) && !(storeMapped s n i &&
      (wordsOf off m.len).all fun x => rowPowered s n i (x / 32))) = true := hMapped
    rw [hStore', Bool.true_and] at hWindow' hMapped'
    simp only [Bool.not_eq_true, Bool.not_eq_false', Bool.and_eq_true, decide_eq_true_eq, List.all_eq_true] at hWindow' hMapped'
    exact ⟨((if_pos hStore).symm.trans h).symm, hWindow'.1, hWindow'.2, hMapped'⟩
  · right
    have hMemory : fld s ctrl 62 61 = 2 := hKind.resolve_left hStore
    have hMemory' : decide (fld s ctrl 62 61 = 2) = true := decide_eq_true hMemory
    have hRange' : ¬ (decide (fld s ctrl 62 61 = 2) &&
      decide (fld s (Reg.glbWinLen (m.f1 63 56)) 31 0 < m.f1 31 0 + m.len)) = true := hRange
    have hServes' : ¬ (decide (fld s ctrl 62 61 = 2) && !rangeServes s a m.len) = true := hServes
    rw [hMemory', Bool.true_and] at hRange' hServes'
    exact ⟨((if_neg hStore).symm.trans h).symm, by simpa using hRange', by simpa using hServes'⟩

/-- Settles O23: the first checks by their branch, the writes let through by what they have passed. -/
theorem windowChecks : Obligations.WindowChecks := by
  unfold Obligations.WindowChecks
  intro m dataBad s
  refine ⟨fun hGen => ?_, fun hGen hSv hClosed => ?_, fun n i off k hCore => ?_, fun a hMemory => ?_⟩
  · rw [checkWindow]; exact if_pos hGen
  · simp [checkWindow, hGen, hSv, hClosed]
  · obtain ⟨hClean, hOpen, hSource, hAwake, ⟨hWhere, hWindow, hFits, hMapped, hPowered⟩ | ⟨hWhere, -⟩⟩ :=
      checkWindow_passed hCore nofun nofun
    · obtain ⟨rfl, rfl, rfl, rfl⟩ := WinCheck.core.inj hWhere
      exact ⟨hClean, hOpen, hSource, hMapped, hAwake, hWindow, by omega, hPowered⟩
    · exact absurd hWhere nofun
  · obtain ⟨hClean, hOpen, hSource, hAwake, ⟨hWhere, -⟩ | ⟨hWhere, hFits, hServes⟩⟩ :=
      checkWindow_passed hMemory nofun nofun
    · exact absurd hWhere nofun
    · obtain rfl := WinCheck.memory.inj hWhere
      exact ⟨hClean, hOpen, hSource, hAwake, rfl, hFits, hServes⟩

/-! ### The order of migrations -/

/-- What the pick of a queue says, from a place on where `seen` are the frames named before. -/
theorem migPick_spec {o i k : Nat} {c : MigCmd} {l : List MigCmd} {seen : List Nat} (h : migPick o l seen k = some (i, c)) :
    k ≤ i ∧ l[i - k]? = some c ∧ c.op = o ∧ c.moved = false ∧ c.frame ∉ seen ∧
      (∀ j < i - k, (l[j]?).map (·.frame) ≠ some c.frame) ∧
      ∀ j < i - k, ∀ d, l[j]? = some d → d.op = o → d.moved = false →
        d.frame ∈ seen ∨ ∃ x < j, (l[x]?).map (·.frame) = some d.frame := by
  induction l generalizing seen k with
  | nil => exact absurd h (by simp [migPick])
  | cons e r ih =>
    rw [migPick] at h
    split at h
    · next hTaken =>
      obtain ⟨rfl, rfl⟩ : k = i ∧ e = c := by simpa using h
      simp only [Bool.and_eq_true, beq_iff_eq, Bool.not_eq_true', List.contains_eq_mem, decide_eq_false_iff_not] at hTaken
      obtain ⟨⟨hOp, hMoved⟩, hSeen⟩ := hTaken
      rw [Nat.sub_self]
      exact ⟨Nat.le_refl k, rfl, hOp, hMoved, hSeen, fun j hj => absurd hj (Nat.not_lt_zero j), fun j hj => absurd hj (Nat.not_lt_zero j)⟩
    · next hSkipped =>
      obtain ⟨hLe, hAt, hOp, hMoved, hSeen, hFrames, hOthers⟩ := ih h
      have hIx : i - k = i - (k + 1) + 1 := by omega
      rw [hIx]
      refine ⟨by omega, by simpa using hAt, hOp, hMoved, fun hIn => hSeen (List.mem_cons_of_mem _ hIn), fun j hj => ?_,
        fun j hj d hd hdOp hdMoved => ?_⟩
      · cases j with
        | zero => simpa using fun hEq => hSeen (by rw [hEq]; exact List.mem_cons_self)
        | succ j => simpa using hFrames j (by omega)
      · cases j with
        | zero =>
          obtain rfl : e = d := by simpa using hd
          refine .inl ?_
          by_contra hNew
          exact hSkipped (by simp [hdOp, hdMoved, hNew])
        | succ j =>
          rcases hOthers j (by omega) d (by simpa using hd) hdOp hdMoved with hIn | ⟨x, hx, hFrame⟩
          · rcases List.mem_cons.1 hIn with hEq | hIn
            · exact .inr ⟨0, by omega, by simp [hEq]⟩
            · exact .inl hIn
          · exact .inr ⟨x + 1, by omega, by simpa using hFrame⟩

/-- Settles O38: the pick passes over a command only where its frame has been named. -/
theorem migrationOrder : Obligations.MigrationOrder := by
  unfold Obligations.MigrationOrder
  intro o i c l h
  obtain ⟨-, hAt, hOp, hMoved, -, hFrames, hOthers⟩ := migPick_spec h
  exact ⟨hAt, hOp, hMoved, hFrames, fun j hj d hd hdOp hdMoved =>
    (hOthers j hj d hd hdOp hdMoved).resolve_left List.not_mem_nil⟩

/-! ### Hops -/

theorem hop_nan {b : Block6} (x : List Num) (h : b.e = 0xFF) :
    hop b x = ({ b with e := 0xFF, n := List.replicate 32 0 }, ⟨0, false, true⟩) := by
  rw [hop, if_pos (by simp [h])]

/-- The parts of a hop of finite numbers into a block that is not NaN: a rescale that keeps the scale below NaN, and 32
elements held to 16 bits. -/
theorem hop_finite {b : Block6} {x : List Num} (hScale : b.e ≤ 0xFE) (hFin : ∀ v ∈ x, v.isFin = true) :
    ∃ k fl sat, ∃ t : List Int, t.length = 32 ∧ b.e + k ≤ 0xFE ∧
      hop b x = (⟨b.e + k, fl, t.map fun v => max (-32767) (min 32767 (shiftRne v k))⟩, ⟨k, sat, false⟩) := by
  have hGo : (b.e = 0xFF || x.any (fun v => !v.isFin)) = false := by
    have : b.e ≠ 0xFF := by omega
    simpa [this] using hFin
  rw [hop]
  simp only [hGo]
  refine ⟨_, _, _, _, ?_, ?_, rfl⟩
  · rw [List.length_map, List.length_range]
  · split
    · omega
    · next h => simpa using h

/-- Settles O43: a rescale that would pass the largest scale is cut, and every element is held to its bounds. -/
theorem hopBounds : Obligations.HopBounds := by
  unfold Obligations.HopBounds
  refine ⟨fun b x hNan => ?_, fun b x hScale hFin => ?_⟩
  · rw [hop_nan x hNan]; exact ⟨rfl, rfl, rfl⟩
  · obtain ⟨k, fl, sat, t, hLength, hTop, hHop⟩ := hop_finite hScale hFin
    rw [hHop]
    refine ⟨Nat.le_add_right _ _, hTop, by rw [List.length_map, hLength], fun v hv => ?_, rfl, rfl⟩
    obtain ⟨w, -, rfl⟩ := List.mem_map.1 hv
    omega

/-! ### The queue of commands -/

/-- Nothing but registers and channels differs. -/
def OnlyRegsAndChans (s t : State) : Prop := t = { s with regs := t.regs, chans := t.chans }

theorem OnlyRegsAndChans.trans {s t u : State} (h : OnlyRegsAndChans s t) (h' : OnlyRegsAndChans t u) :
    OnlyRegsAndChans s u := by
  rw [OnlyRegsAndChans] at *; rw [h', h]

theorem onlyRegsAndChans_foldl {α : Type} {f : State → α → State} (hf : ∀ s a, OnlyRegsAndChans s (f s a)) (l : List α)
    (s : State) : OnlyRegsAndChans s (l.foldl f s) :=
  foldl_keeps (OnlyRegsAndChans s) f (fun t a h => h.trans (hf t a)) l rfl

theorem onlyRegsAndChans_stretchTick (t : Nat) (s : State) (n : Nat) : OnlyRegsAndChans s (stretchTick t s n) := by
  unfold stretchTick
  split <;> rfl

/-- A tick changes registers and the cycles of the channels alone. -/
theorem onlyRegsAndChans_idleTick (s : State) : OnlyRegsAndChans s (idleTick s) := by
  have hCycles (t : Nat) (u : State) : OnlyRegsAndChans u ((List.range 4).foldl (cycleTick t) u) :=
    onlyRegsAndChans_foldl (f := cycleTick t) (fun _ _ => rfl) _ u
  have hStretch (t : Nat) (u : State) : OnlyRegsAndChans u ((List.range 4).foldl (stretchTick t) u) :=
    onlyRegsAndChans_foldl (onlyRegsAndChans_stretchTick t) _ u
  have hTime : OnlyRegsAndChans s (wr s Reg.glbTime (rd s Reg.glbTime + 10)) := rfl
  unfold idleTick
  split
  · rfl
  · dsimp only
    split
    · exact hTime
    · exact (hTime.trans (hCycles ..)).trans (hStretch ..)

theorem rd_time_idleTick {s : State} (h : outOfReset s = true) : rd (idleTick s) Reg.glbTime = rd s Reg.glbTime + 10 := by
  have hTicked : rd (wr s Reg.glbTime (rd s Reg.glbTime + 10)) Reg.glbTime = rd s Reg.glbTime + 10 := rd_wr ..
  have hApart : ∀ n < 4, (Reg.chClkStretchCycles n).addr ≠ Reg.glbTime.addr := by decide
  rw [idleTick, if_neg (by simp [h])]
  dsimp only
  split
  · exact hTicked
  · refine List.foldlRecOn (motive := fun u => rd u Reg.glbTime = rd s Reg.glbTime + 10) _ _ ?_ fun u hu n hn => ?_
    · exact foldl_keeps (fun u => rd u Reg.glbTime = rd s Reg.glbTime + 10) (cycleTick _) (fun u n hu => hu) _ hTicked
    · rw [stretchTick]
      split
      · exact hu
      · rw [rd_count64_other _ _ (hApart n (List.mem_range.1 hn)), hu]

/-- Settles O46. -/
theorem stepRunsFront : Obligations.StepRunsFront := by
  unfold Obligations.StepRunsFront
  refine ⟨fun c r s h => step_cons h, fun s h => step_nil h, fun s h => ⟨rd_time_idleTick h, ?_, ?_⟩, fun s h => ?_⟩
  · rw [onlyRegsAndChans_idleTick s]; exact ⟨rfl, rfl⟩
  · rw [onlyRegsAndChans_idleTick s]
  · rw [idleTick, if_pos (by simp [h])]

theorem exec_keeps_pending (c : Instr) (s : State) : Answers c s fun t => t.pending = s.pending := by
  obtain ⟨t, ht⟩ := exec_next c s
  exact ⟨keepQueue s t, ht, rfl⟩

/-- A step takes the front of the queue away and leaves the rest. -/
theorem step_pending (s : State) : ∃ t, step s = .next t ∧ t.pending = s.pending.tail := by
  cases h : s.pending with
  | nil =>
    refine ⟨idleTick s, step_nil h, ?_⟩
    rw [onlyRegsAndChans_idleTick s]
    exact h
  | cons c r =>
    obtain ⟨t, ht, hPending⟩ := exec_keeps_pending c { s with pending := r }
    exact ⟨t, by rw [step_cons h, ht], hPending⟩

theorem run_pending (k : Nat) (s : State) : ∃ t, run k s = some t ∧ t.pending = s.pending.drop k := by
  induction k generalizing s with
  | zero => exact ⟨s, rfl, rfl⟩
  | succ k ih =>
    obtain ⟨u, hStep, hTail⟩ := step_pending s
    obtain ⟨t, hRun, hDrop⟩ := ih u
    exact ⟨t, by rw [run, hStep]; exact hRun, by rw [hDrop, hTail, List.drop_tail]⟩

/-- Settles O47: each step takes the front away, so k of them take the first k. -/
theorem queueOrder : Obligations.QueueOrder := by
  unfold Obligations.QueueOrder
  refine ⟨exec_keeps_pending, fun k s _ => run_pending k s, fun s t hOk hStep => ?_⟩
  obtain ⟨u, hNext, hTail⟩ := step_pending s
  obtain rfl : u = t := by rw [hNext] at hStep; exact Host.Outcome.next.inj hStep
  rw [QueueOk, hTail]
  exact fun c hc => hOk c (List.mem_of_mem_tail hc)

end Sys2Proof.Machine
end

section
/-! PROOFS. The clock stretch and the input limits, the power states, and the reset sources (O1, O2, O4 to O7). -/

namespace Sys2Proof.Machine

/-! ### CH_CLK_STATUS -/

/-- What R611 puts into CH_CLK_STATUS. -/
def clkWord (s : State) (n : Nat) : Nat :=
  freqKHz (ceilingOf s n) (stretchOf s n) / 1000 * 2 ^ 22 + ceilingOf s n * 2 ^ 18 + stretchOf s n * 2 ^ 16 +
    b2n s.board.ilimit * 2 ^ 15 + b2n s.board.vinLow * 2 ^ 14 +
    b2n (decide (thermStep s n = ceilingOf s n) && decide (thermStep s n < 8)) * 2 ^ 13 +
    b2n (decide (s.board.capStep = ceilingOf s n) && decide (s.board.capStep < 8)) * 2 ^ 12

theorem clockStatus_eq (s : State) (n : Nat) : clockStatus s n = wr s (Reg.chClkStatus n) (BitVec.ofNat 64 (clkWord s n)) := rfl

@[simp] theorem board_clockStatus (s : State) (n : Nat) : (clockStatus s n).board = s.board := by
  rw [clockStatus_eq, wr_board]

section
variable {l : List RegRef} {s t : State} (h : OnlyRegs l s t)
include h

theorem OnlyRegs.pending_eq : t.pending = s.pending := by rw [h.1]
theorem OnlyRegs.mem_eq : t.mem = s.mem := by rw [h.1]
theorem OnlyRegs.errs_eq : t.errs = s.errs := by rw [h.1]
theorem OnlyRegs.chans_eq : t.chans = s.chans := by rw [h.1]
theorem OnlyRegs.cores_eq : t.cores = s.cores := by rw [h.1]
theorem OnlyRegs.streams_eq : t.streams = s.streams := by rw [h.1]
theorem OnlyRegs.ports_eq : t.ports = s.ports := by rw [h.1]
theorem OnlyRegs.ref_eq : t.ref = s.ref := by rw [h.1]
theorem OnlyRegs.fuses_eq : t.fuses = s.fuses := by rw [h.1]
theorem OnlyRegs.flash_eq : t.flash = s.flash := by rw [h.1]
theorem OnlyRegs.sameMemory : SameMemory s t := ⟨h.mem_eq, h.errs_eq⟩

end

theorem chan_congr {s t : State} (h : t.chans = s.chans) (n : Nat) : t.chan n = s.chan n := by
  unfold State.chan; rw [h]

theorem b2n_le (b : Bool) : b2n b ≤ 1 := by cases b <;> decide

theorem ceilingOf_le (s : State) (n : Nat) : ceilingOf s n ≤ 8 := by
  have hHost : hostStep s ≤ 8 := Nat.min_le_left _ _
  rw [ceilingOf]
  split <;> omega

theorem freqKHz_lt {k : Nat} (level : Nat) (hk : k ≤ 8) : freqKHz k level / 1000 < 1024 := by
  rw [freqKHz]
  split_ifs <;> omega

/-- The fields of CH_CLK_STATUS, read from the word. -/
theorem clkWord_fields (s : State) (n : Nat) :
    clkWord s n < 2 ^ 64 ∧ bits (clkWord s n) 31 22 = freqKHz (ceilingOf s n) (stretchOf s n) / 1000 ∧
      bits (clkWord s n) 21 18 = ceilingOf s n ∧ bits (clkWord s n) 17 16 = stretchOf s n ∧
      bits (clkWord s n) 15 15 = b2n s.board.ilimit ∧ bits (clkWord s n) 14 14 = b2n s.board.vinLow := by
  have hFreq := freqKHz_lt (stretchOf s n) (ceilingOf_le s n)
  have hCeiling := ceilingOf_le s n
  have hStretch : stretchOf s n < 4 := bits_lt _ _ _
  have hLimit := b2n_le s.board.ilimit
  have hLow := b2n_le s.board.vinLow
  have hTherm := b2n_le (decide (thermStep s n = ceilingOf s n) && decide (thermStep s n < 8))
  have hCap := b2n_le (decide (s.board.capStep = ceilingOf s n) && decide (s.board.capStep < 8))
  simp only [bits, clkWord, Nat.shiftRight_eq_div_pow]
  omega

theorem fld_of_rd {s : State} {r : RegRef} {v : Nat} (h : rd s r = BitVec.ofNat 64 v) (hv : v < 2 ^ 64) (hi lo : Nat) :
    fld s r hi lo = bits v hi lo := by
  rw [fld, h, BitVec.toNat_ofNat, Nat.mod_eq_of_lt hv]

/-- What CH_CLK_STATUS says once it follows its sources. -/
structure ClkShown (u t : State) (n : Nat) : Prop where
  freq    : fld t (Reg.chClkStatus n) 31 22 = freqKHz (ceilingOf u n) (stretchOf u n) / 1000
  ceiling : fld t (Reg.chClkStatus n) 21 18 = ceilingOf u n
  stretch : stretchOf t n = stretchOf u n
  ilimit  : flag t (Reg.chClkStatus n) 15 = u.board.ilimit
  low     : flag t (Reg.chClkStatus n) 14 = u.board.vinLow

theorem clkShown_of_rd {u t : State} {n : Nat} (h : rd t (Reg.chClkStatus n) = BitVec.ofNat 64 (clkWord u n)) :
    ClkShown u t n := by
  obtain ⟨hLt, hFreq, hCeiling, hStretch, hLimit, hLow⟩ := clkWord_fields u n
  have hFld := fld_of_rd h hLt
  have hBool (b : Bool) : (b2n b == 1) = b := by cases b <;> rfl
  exact ⟨(hFld 31 22).trans hFreq, (hFld 21 18).trans hCeiling, (hFld 17 16).trans hStretch,
    by rw [flag, hFld, hLimit, hBool], by rw [flag, hFld, hLow, hBool]⟩

theorem addr_chClkStatus (n : Nat) : (Reg.chClkStatus n).addr = 0x07F000000000 + 0x01000000 * n + 0x1050 := rfl

theorem chClkStatus_ne_glbPwrCap {n : Nat} (h : n < 4) : (Reg.chClkStatus n).addr ≠ Reg.glbPwrCap.addr := by
  have : Reg.glbPwrCap.addr = 0x07F400000000 + (Reg.glbPwrCap.addr - 0x07F400000000) := by decide
  rw [addr_chClkStatus, this]
  omega

theorem ceilingOf_congr {s t : State} (n : Nat) (hCap : rd t Reg.glbPwrCap = rd s Reg.glbPwrCap) (hBoard : t.board = s.board) :
    ceilingOf t n = ceilingOf s n := by
  simp only [ceilingOf, hostStep, thermStep, fld, hCap, hBoard]

/-- The word that a channel shows does not depend on what any channel showed before, beside its stretch. -/
theorem clkWord_congr {s t : State} (n : Nat) (hCap : rd t Reg.glbPwrCap = rd s Reg.glbPwrCap) (hBoard : t.board = s.board)
    (hStretch : stretchOf t n = stretchOf s n) : clkWord t n = clkWord s n := by
  rw [clkWord, clkWord, ceilingOf_congr n hCap hBoard, hStretch, thermStep, thermStep, hBoard]

theorem clkShown_clockStatus (s : State) (n : Nat) : ClkShown s (clockStatus s n) n := clkShown_of_rd (rd_wr ..)

theorem rd_glbPwrCap_clockStatus (s : State) {n : Nat} (h : n < 4) : rd (clockStatus s n) Reg.glbPwrCap = rd s Reg.glbPwrCap :=
  rd_wr_other s _ (chClkStatus_ne_glbPwrCap h)

theorem stretchOf_clockStatus (s : State) (n m : Nat) : stretchOf (clockStatus s n) m = stretchOf s m := by
  by_cases h : n = m
  · subst h; exact (clkShown_clockStatus s n).stretch
  · have hApart : (Reg.chClkStatus n).addr ≠ (Reg.chClkStatus m).addr := by simp only [addr_chClkStatus]; omega
    rw [clockStatus_eq, stretchOf, fld, rd_wr_other s _ hApart, ← fld, stretchOf]

/-- The first k channels show their sources, and nothing that their words rest on has changed. -/
theorem clockStatus_foldl (s : State) {k : Nat} (hk : k ≤ 4) :
    ((List.range k).foldl clockStatus s).board = s.board ∧
      rd ((List.range k).foldl clockStatus s) Reg.glbPwrCap = rd s Reg.glbPwrCap ∧
      (∀ n, stretchOf ((List.range k).foldl clockStatus s) n = stretchOf s n) ∧
      ∀ n < k, rd ((List.range k).foldl clockStatus s) (Reg.chClkStatus n) = BitVec.ofNat 64 (clkWord s n) := by
  induction k with
  | zero => exact ⟨rfl, rfl, fun _ => rfl, fun n hn => absurd hn (Nat.not_lt_zero n)⟩
  | succ k ih =>
    obtain ⟨hBoard, hCap, hStretch, hShown⟩ := ih (by omega)
    rw [List.range_succ, List.foldl_append, List.foldl_cons, List.foldl_nil]
    refine ⟨by rw [board_clockStatus, hBoard], by rw [rd_glbPwrCap_clockStatus _ (by omega), hCap], fun n => by rw [stretchOf_clockStatus, hStretch],
      fun n hn => ?_⟩
    rw [clockStatus_eq]
    by_cases hLast : n = k
    · rw [hLast, rd_wr, clkWord_congr k hCap hBoard (hStretch k)]
    · have hApart : (Reg.chClkStatus k).addr ≠ (Reg.chClkStatus n).addr := by simp only [addr_chClkStatus]; omega
      rw [rd_wr_other _ _ hApart, hShown n (by omega)]

/-- Every channel shows its sources. -/
theorem clkShown_clockAll (s : State) {n : Nat} (h : n < 4) : ClkShown s (clockAll s) n :=
  clkShown_of_rd ((clockStatus_foldl s (Nat.le_refl 4)).2.2.2 n h)

theorem ceilingOf_clockAll (s : State) (n : Nat) : ceilingOf (clockAll s) n = ceilingOf s n := by
  obtain ⟨hBoard, hCap, -, -⟩ := clockStatus_foldl s (Nat.le_refl 4)
  exact ceilingOf_congr n hCap hBoard

/-! ### The clock stretch -/

/-- What a channel shows once a stretch level is set. -/
theorem stretchShown {s u : State} {n level : Nat} (hSet : stretchOf u n = level)
    (hCap : rd u Reg.glbPwrCap = rd s Reg.glbPwrCap) (hBoard : u.board = s.board) :
    stretchOf (clockStatus u n) n = level ∧
      fld (clockStatus u n) (Reg.chClkStatus n) 31 22 = freqKHz (ceilingOf s n) level / 1000 ∧
      fld (clockStatus u n) (Reg.chClkStatus n) 21 18 = ceilingOf s n := by
  obtain ⟨hFreq, hStep, hStretch, -, -⟩ := clkShown_clockStatus u n
  rw [hSet, ceilingOf_congr n hCap hBoard] at hFreq
  exact ⟨hStretch.trans hSet, hFreq, hStep.trans (ceilingOf_congr n hCap hBoard)⟩

theorem stretchOf_setFld (s : State) (n : Nat) {level : Nat} (h : level < 4) :
    stretchOf (setFld s (Reg.chClkStatus n) 17 16 level) n = level := by
  rw [stretchOf, fld_setFld _ _ _ _ _ (by decide) (by decide)]
  exact Nat.mod_eq_of_lt h

theorem chClkStretchCount_apart : ∀ n < 4, (Reg.chClkStretchCount n).addr ≠ (Reg.chClkStatus n).addr ∧
    (Reg.chClkStretchCount n).addr ≠ Reg.glbPwrCap.addr := by decide

theorem stretchOf_congr {s t : State} {n : Nat} (h : rd t (Reg.chClkStatus n) = rd s (Reg.chClkStatus n)) :
    stretchOf t n = stretchOf s n := by rw [stretchOf, stretchOf, fld, fld, h]

/-- A sag set and counted: the status register and the counter differ, and the status follows. -/
theorem sag_effect (s : State) {n level : Nat} (hn : n < 4) (hLevel : level < 4) :
    let t := clockStatus (count32 (setFld s (Reg.chClkStatus n) 17 16 level) (Reg.chClkStretchCount n) 1) n
    OnlyRegs [Reg.chClkStatus n, Reg.chClkStretchCount n] s t ∧ stretchOf t n = level ∧
      Counted (Reg.chClkStretchCount n) 1 s t ∧
      fld t (Reg.chClkStatus n) 31 22 = freqKHz (ceilingOf s n) level / 1000 ∧
      fld t (Reg.chClkStatus n) 21 18 = ceilingOf s n := by
  intro t
  obtain ⟨hCounter, hCap⟩ := chClkStretchCount_apart n hn
  have hStatus := rd_count32_other (setFld s (Reg.chClkStatus n) 17 16 level) 1 hCounter
  obtain ⟨hStretch, hFreq, hStep⟩ := stretchShown (s := s) ((stretchOf_congr hStatus).trans (stretchOf_setFld s n hLevel))
    ((rd_count32_other _ 1 hCap).trans (rd_setFld_other _ _ _ _ (chClkStatus_ne_glbPwrCap hn))) rfl
  have hFrame : OnlyRegs [Reg.chClkStatus n, Reg.chClkStretchCount n] s t :=
    (((onlyRegs_setFld s (Reg.chClkStatus n) 17 16 level).mono (by simp)).trans
      ((onlyRegs_count32 _ (Reg.chClkStretchCount n) 1).mono (by simp))).trans ((onlyRegs_wr _ _ _).mono (by simp))
  refine ⟨hFrame, hStretch, ?_, hFreq, hStep⟩
  have hKept : rd t (Reg.chClkStretchCount n) = rd (count32 (setFld s (Reg.chClkStatus n) 17 16 level) (Reg.chClkStretchCount n) 1)
      (Reg.chClkStretchCount n) := rd_wr_other _ _ hCounter.symm
  rw [Counted, hKept, rd_count32, rd_setFld_other _ _ _ _ hCounter.symm]

/-- Settles O1: the level is set, and CH_CLK_STATUS says what follows from it. -/
theorem clockStretch : Obligations.ClockStretch := by
  unfold Obligations.ClockStretch
  constructor
  · intro n level s hOut hDeeper
    have hEffect := sag_effect s n.isLt (level := level.val) (by omega)
    exact .of_effect rfl (if_neg (by simpa [hOut] using hDeeper)) hEffect.1.pending_eq hEffect
  · intro n s hStretched
    have hLevel : stretchOf s n.val - 1 < 4 := by
      have : stretchOf s n.val < 4 := bits_lt _ _ _
      omega
    have hFrame : OnlyRegs [Reg.chClkStatus n.val] s
        (clockStatus (setFld s (Reg.chClkStatus n.val) 17 16 (stretchOf s n.val - 1)) n.val) :=
      (onlyRegs_setFld ..).trans (onlyRegs_wr ..)
    obtain ⟨hStretch, hFreq, -⟩ := stretchShown (s := s) (stretchOf_setFld s n.val hLevel)
      (rd_setFld_other _ _ _ _ (chClkStatus_ne_glbPwrCap n.isLt)) rfl
    exact .of_effect rfl (if_neg hStretched) hFrame.pending_eq ⟨hFrame, hStretch, hFreq⟩

/-! ### The input limits -/

theorem clkStatus_apart_glbIlimitCount : ∀ x ∈ clkStatusRegs, x.addr ≠ Reg.glbIlimitCount.addr := by decide

theorem rd_clockAll_other (s : State) {r : RegRef} (h : ∀ x ∈ clkStatusRegs, x.addr ≠ r.addr) :
    rd (clockAll s) r = rd s r := (onlyRegs_clockAll s).2 r h

theorem ceilingOf_limited {s : State} (h : s.board.ilimit = true ∨ s.board.vinLow = true) (n : Nat) : ceilingOf s n = 0 := by
  rw [ceilingOf, if_pos (by simpa using h)]

/-- The limit counted while the board holds it. -/
theorem limitSet_effect (s : State) :
    let u := count32 { s with board := { s.board with ilimit := true } } Reg.glbIlimitCount 1
    OnlyBoard (Reg.glbIlimitCount :: clkStatusRegs) s (clockAll u) ∧
      (clockAll u).board = { s.board with ilimit := true } ∧ Counted Reg.glbIlimitCount 1 s (clockAll u) ∧
      ∀ n < 4, fld (clockAll u) (Reg.chClkStatus n) 21 18 = 0 ∧ flag (clockAll u) (Reg.chClkStatus n) 15 = true ∧
        stretchOf (clockAll u) n = stretchOf s n := by
  intro u
  have hBoard : u.board = { s.board with ilimit := true } := by rw [count32_board]
  have hFrame : OnlyBoard (Reg.glbIlimitCount :: clkStatusRegs) s u :=
    (onlyBoard_board _ s _).trans ((onlyRegs_count32 _ Reg.glbIlimitCount 1).onlyBoard.mono (by simp))
  refine ⟨hFrame.trans ((onlyRegs_clockAll u).onlyBoard.mono fun _ => List.mem_cons_of_mem _), ?_, ?_, fun n hn => ?_⟩
  · rw [board_clockAll, hBoard]
  · rw [Counted, rd_clockAll_other u clkStatus_apart_glbIlimitCount]
    exact rd_count32 ..
  · obtain ⟨-, hStep, hStretch, hLimit, -⟩ := clkShown_clockAll u hn
    have hApart : Reg.glbIlimitCount.addr ≠ (Reg.chClkStatus n).addr := by
      have := clkStatus_apart_glbIlimitCount (Reg.chClkStatus n) (List.mem_map_of_mem (List.mem_range.2 hn))
      exact this.symm
    refine ⟨?_, ?_, ?_⟩
    · rw [hStep, ceilingOf_limited (.inl (by rw [hBoard]))]
    · rw [hLimit, hBoard]
    · rw [hStretch]
      exact stretchOf_congr (rd_count32_other _ _ hApart)

/-- Settles O2: in each clause the board's change is followed by every channel. -/
theorem inputLimits : Obligations.InputLimits := by
  unfold Obligations.InputLimits
  refine ⟨?_, ?_, ?_⟩
  · intro s hUp hFree
    have hEffect := limitSet_effect s
    exact .of_effect rfl (if_neg (by simp [hUp, hFree])) hEffect.1.pending_eq hEffect
  · intro s hHeld
    have hFrame := onlyBoard_clockAll s
      { s.board with ilimit := false, capStep := if flag s Reg.glbPwrCap 31 then 0 else 8 }
    refine .of_effect rfl (if_neg (by simp [hHeld])) hFrame.pending_eq ⟨hFrame, board_clockAll _, fun n hn => ?_⟩
    obtain ⟨-, hStep, -, hLimit, -⟩ := clkShown_clockAll { s with board :=
      { s.board with ilimit := false, capStep := if flag s Reg.glbPwrCap 31 then 0 else 8 } } hn
    exact ⟨hStep.trans (ceilingOf_clockAll _ n).symm, hLimit⟩
  · intro low s
    have hFrame := onlyBoard_clockAll s { s.board with vinLow := low }
    refine .of_effect rfl rfl hFrame.pending_eq ⟨hFrame, board_clockAll _, fun n hn => ?_⟩
    obtain ⟨-, hStep, -, -, hLow⟩ := clkShown_clockAll { s with board := { s.board with vinLow := low } } hn
    exact ⟨fun h => hStep.trans (ceilingOf_limited (.inr h) n), hLow⟩

/-! ### Channels changed one by one -/

theorem chan_foldl_setChan (f : Nat → Chan → Chan) (k : Nat) (s : State) (n : Nat) :
    ((List.range k).foldl (fun (s : State) m => s.setChan m (f m (s.chan m))) s).chan n =
      if n < k then f n (s.chan n) else s.chan n := by
  induction k with
  | zero => rfl
  | succ k ih =>
    rw [List.range_succ, List.foldl_append, List.foldl_cons, List.foldl_nil, chan_setChan]
    by_cases h : k = n
    · subst h
      rw [if_pos rfl, ih, if_neg (Nat.lt_irrefl k), if_pos (Nat.lt_succ_self k)]
    · rw [if_neg h, ih]
      exact if_congr (by omega) rfl rfl

/-- Nothing but the channels differs. -/
theorem foldl_setChan_frame (f : Nat → Chan → Chan) (l : List Nat) (s : State) :
    l.foldl (fun (s : State) m => s.setChan m (f m (s.chan m))) s =
      { s with chans := (l.foldl (fun (s : State) m => s.setChan m (f m (s.chan m))) s).chans } :=
  foldl_keeps (fun t : State => t = { s with chans := t.chans }) _
    (fun _ _ h => h ▸ rfl) l rfl

/-! ### The power states -/

theorem powerState_setPower (s : State) {k : Nat} (h : k < 8) : powerState (setPower s k) = k := by
  rw [powerState, setPower, setRelays, fld_setFld_apart _ _ _ _ _ _ (by decide), fld_setFld _ _ _ _ _ (by decide) (by decide)]
  exact Nat.mod_eq_of_lt h

theorem powerState_clockAll (s : State) : powerState (clockAll s) = powerState s := by
  rw [powerState, fld, rd_clockAll_other s (by decide), powerState, fld]

theorem setPower_frame (s : State) (k : Nat) : OnlyRegs [Reg.glbPwrStatus, Reg.glbByeStatus] s (setPower s k) :=
  ((onlyRegs_setFld s Reg.glbPwrStatus 31 29 k).mono (by simp)).trans ((onlyRegs_setFld _ Reg.glbByeStatus ..).mono (by simp))

/-- Every shared cache lost. -/
def dropCaches (s : State) : State := (List.range 4).foldl (fun (s : State) n => s.setChan n { s.chan n with cache := [] }) s

theorem cache_dropCaches (s : State) {n : Nat} (h : n < 4) : ((dropCaches s).chan n).cache = [] := by
  rw [dropCaches, chan_foldl_setChan (fun _ c => { c with cache := [] }), if_pos h]

theorem dropCaches_frame (s : State) : dropCaches s = { s with chans := (dropCaches s).chans } :=
  foldl_setChan_frame (fun _ c => { c with cache := [] }) (List.range 4) s

/-- The module asleep after what DORMANT does first. -/
def putToSleep (s : State) : State := setPower { dropCaches s with board := { (dropCaches s).board with retained := true } } 4

theorem opDormant_enters {s : State} (hActive : powerState s = 3) (hFree : dormantBlocked s = false) :
    opDormant s = putToSleep ((List.range 4).foldl syncNow (setFld s Reg.glbPwrCtrl 1 0 1)) := by
  unfold opDormant putToSleep dropCaches
  simp only [hActive, hFree, ne_eq, not_true_eq_false, Bool.false_eq_true, if_false]

theorem opDormant_refused {s : State} (hActive : powerState s = 3) (hBlocked : dormantBlocked s = true) :
    opDormant s = setFlag s Reg.glbPwrStatus 26 true := by
  rw [opDormant, if_neg (by simp [hActive]), if_pos hBlocked]

theorem putToSleep_effect (s : State) : powerState (putToSleep s) = 4 ∧ (putToSleep s).board.retained = true ∧
    ∀ n < 4, ((putToSleep s).chan n).cache = [] := by
  refine ⟨powerState_setPower _ (by decide), ?_, fun n hn => ?_⟩
  · rw [putToSleep, (setPower_frame _ 4).board_eq]
  · rw [putToSleep, chan_congr (setPower_frame _ 4).chans_eq]
    exact cache_dropCaches s hn

theorem onlyRegs_setFlag (s : State) (r : RegRef) (i : Nat) (b : Bool) : OnlyRegs [r] s (setFlag s r i b) :=
  onlyRegs_setFld ..

theorem fld_setFlag_apart (s : State) (r : RegRef) (i : Nat) (b : Bool) (hi lo : Nat) (hlt : i < 64) (h : i < lo ∨ hi < i) :
    fld (setFlag s r i b) r hi lo = fld s r hi lo := fld_setFld_other _ _ _ _ _ _ _ (Nat.le_refl i) hlt h

theorem opActive_dormant {s : State} (h : powerState s = 4) :
    opActive s = setFld (setFld s Reg.glbPwrCtrl 1 0 0) Reg.glbPwrStatus 31 29 6 := by
  have hState : fld (setFld s Reg.glbPwrCtrl 1 0 0) Reg.glbPwrStatus 31 29 = 4 := by
    rw [fld_setFld_apart _ _ _ _ _ _ (by decide)]
    exact h
  rw [opActive, startWake, if_pos hState]

/-- The module awake after its wake completes. -/
theorem opWakeComplete_waking {s : State} (h : powerState s = 6) :
    opWakeComplete s =
      clockAll (setPower { dropCaches s with board := { (dropCaches s).board with retained := false } } 3) := by
  unfold opWakeComplete dropCaches
  simp only [h, ne_eq, not_true_eq_false, if_false]

/-- Settles O4. -/
theorem powerStates : Obligations.PowerStates := by
  unfold Obligations.PowerStates
  refine ⟨?_, ?_, ?_, ?_, ?_⟩
  · intro s hActive hFree
    obtain ⟨hState, hRetained, hCaches⟩ := putToSleep_effect ((List.range 4).foldl syncNow (setFld s Reg.glbPwrCtrl 1 0 1))
    rw [← opDormant_enters hActive hFree] at hState hRetained hCaches
    exact ⟨keepQueue s (opDormant s), rfl, hState, hRetained, hCaches⟩
  · intro s hActive hBlocked
    refine .of_effect rfl (opDormant_refused hActive hBlocked) (setFlag_pending ..)
      ⟨onlyRegs_setFlag .., flag_setFlag _ _ _ _ (by decide), ?_⟩
    rw [powerState, fld_setFlag_apart _ _ _ _ _ _ (by decide) (by decide)]
    exact hActive
  · intro s hDormant
    have hFrame : OnlyRegs [Reg.glbPwrCtrl, Reg.glbPwrStatus] s
        (setFld (setFld s Reg.glbPwrCtrl 1 0 0) Reg.glbPwrStatus 31 29 6) :=
      ((onlyRegs_setFld s Reg.glbPwrCtrl 1 0 0).mono (by simp)).trans ((onlyRegs_setFld _ Reg.glbPwrStatus 31 29 6).mono (by simp))
    refine .of_effect rfl (opActive_dormant hDormant) hFrame.pending_eq ⟨hFrame, ?_, ?_⟩
    · exact fld_setFld _ _ _ _ _ (by decide) (by decide)
    · rw [fld_setFld_apart _ _ _ _ _ _ (by decide)]
      exact fld_setFld _ _ _ _ _ (by decide) (by decide)
  · intro s hWaking
    have hClock := onlyRegs_clockAll (setPower { dropCaches s with board := { (dropCaches s).board with retained := false } } 3)
    have hPower := setPower_frame { dropCaches s with board := { (dropCaches s).board with retained := false } } 3
    refine .of_effect rfl (opWakeComplete_waking hWaking) ?_ ⟨?_, ?_, ⟨?_, ?_⟩, ?_, ?_⟩
    · rw [hClock.pending_eq, hPower.pending_eq, dropCaches_frame]
    · rw [powerState_clockAll, powerState_setPower _ (by decide)]
    · rw [hClock.board_eq, hPower.board_eq]
    · rw [hClock.mem_eq, hPower.mem_eq, dropCaches_frame]
    · rw [hClock.errs_eq, hPower.errs_eq, dropCaches_frame]
    · rw [hClock.cores_eq, hPower.cores_eq, dropCaches_frame]
    · rw [hClock.streams_eq, hPower.streams_eq, dropCaches_frame]
  · intro n i s hOut hArray hBehind hVec hFill hDeck hGather
    have hOp : opCoreClockGate n.val i.val s = s.setCore n.val i.val { s.core n.val i.val with gated := true } :=
      if_neg (by simp [hOut, hArray, hBehind, hVec, hFill, hDeck, hGather])
    have hExec : exec (.coreClockGate n i) s = .next (keepQueue s (opCoreClockGate n.val i.val s)) := rfl
    rw [hExec, hOp, keepQueue_eq (State.setCore_pending ..)]

end Sys2Proof.Machine
end

section
/-! PROOFS. The reset sources, the thermal trip and the power sequence (O5, O6, O7). -/

namespace Sys2Proof.Machine

/-! ### What a reset leaves -/

/-- The module without anything but what outlives a reset: queue, board controller and its registers, fuses and flash. -/
def resetCleared (causes : Nat) (s : State) : State :=
  { State.reset with
    pending := s.pending
    regs := mkeep (fun k => boardRegs.any fun r => r.addr == k) s.regs
    board := { s.board with causes := causes, retained := false, capStep := 8, therm := [8, 8, 8, 8] }
    fuses := s.fuses
    flash := s.flash
    draws := s.draws
    out := s.out }

/-- The cores that do not respond are known after a reset (R179). -/
def keepDead (s t : State) : State :=
  (List.range 4).foldl (fun (t : State) n => t.setChan n { t.chan n with dead := (s.chan n).dead }) t

/-- The registers that a reset writes. -/
def writeResetRegs (causes : Nat) (toAux : Bool) (t : State) : State :=
  setInsert (setFld (wr (wr (wr t Reg.glbDieStatus 0) Reg.glbResetCause (BitVec.ofNat 64 causes)) Reg.glbResetCtrl 0)
    Reg.glbPwrStatus 31 29 (if toAux then 1 else 2)) false

/-- A reset before its registers are written. -/
def resetKept (causes : Nat) (s : State) : State :=
  keepDead s (setFld (resetCleared causes s) Reg.glbLcCmd 29 26 (fld s Reg.glbLcCmd 29 26))

theorem enterReset_eq (causes : Nat) (toAux : Bool) (s : State) :
    enterReset causes toAux s = clockAll (writeResetRegs causes toAux (resetKept causes s)) := by
  unfold enterReset writeResetRegs resetKept keepDead resetCleared mkeep
  rfl

/-- The registers that a reset writes anew. -/
abbrev resetWritten : List RegRef :=
  [Reg.glbDieStatus, Reg.glbResetCause, Reg.glbResetCtrl, Reg.glbPwrStatus, Reg.glbByeCtrl, Reg.glbByeStatus]

theorem onlyRegs_writeResetRegs (causes : Nat) (toAux : Bool) (t : State) :
    OnlyRegs resetWritten t (writeResetRegs causes toAux t) :=
  (((((onlyRegs_wr t Reg.glbDieStatus 0).mono (by simp)).trans ((onlyRegs_wr _ Reg.glbResetCause _).mono (by simp))).trans
    ((onlyRegs_wr _ Reg.glbResetCtrl 0).mono (by simp))).trans ((onlyRegs_setFld _ Reg.glbPwrStatus 31 29 _).mono (by simp))).trans
    ((onlyRegs_setInsert _ false).mono (by simp))

theorem rd_setInsert_other (s : State) (b : Bool) {r : RegRef} (hCtrl : Reg.glbByeCtrl.addr ≠ r.addr)
    (hStatus : Reg.glbByeStatus.addr ≠ r.addr) : rd (setInsert s b) r = rd s r :=
  (onlyRegs_setInsert s b).2 r (by simp [hCtrl, hStatus])

/-- A reset puts the power state and its cause into their registers, and clears insert. -/
theorem writeResetRegs_reads (causes : Nat) (toAux : Bool) (t : State) :
    powerState (writeResetRegs causes toAux t) = (if toAux then 1 else 2) ∧
      rd (writeResetRegs causes toAux t) Reg.glbResetCause = BitVec.ofNat 64 causes ∧
      flag (writeResetRegs causes toAux t) Reg.glbByeCtrl 0 = false := by
  refine ⟨?_, ?_, flag_setInsert _ _⟩
  · rw [powerState, fld, writeResetRegs, rd_setInsert_other _ _ (by decide) (by decide), ← fld,
      fld_setFld _ _ _ _ _ (by decide) (by decide)]
    cases toAux <;> rfl
  · rw [writeResetRegs, rd_setInsert_other _ _ (by decide) (by decide), rd_setFld_other _ _ _ _ (by decide),
      rd_wr_other _ _ (by decide), rd_wr]

theorem fld_pwrStatus_writeResetRegs (causes : Nat) (toAux : Bool) (t : State) {hi lo : Nat} (h : hi < 29) :
    fld (writeResetRegs causes toAux t) Reg.glbPwrStatus hi lo = fld t Reg.glbPwrStatus hi lo := by
  rw [fld, writeResetRegs, rd_setInsert_other _ _ (by decide) (by decide), ← fld,
    fld_setFld_other _ _ _ _ _ _ _ (by decide) (by decide) (.inr h), fld, rd_wr_other _ _ (by decide),
    rd_wr_other _ _ (by decide), rd_wr_other _ _ (by decide), fld]

theorem keepDead_frame (s t : State) : keepDead s t = { t with chans := (keepDead s t).chans } :=
  foldl_setChan_frame (fun n c => { c with dead := (s.chan n).dead }) (List.range 4) t

theorem chan_keepDead (s t : State) {n : Nat} (h : n < 4) :
    (keepDead s t).chan n = { t.chan n with dead := (s.chan n).dead } := by
  rw [keepDead, chan_foldl_setChan (fun n c => { c with dead := (s.chan n).dead }), if_pos h]

theorem OnlyRegs.onlyRegsAndChans {l : List RegRef} {s t : State} (h : OnlyRegs l s t) : OnlyRegsAndChans s t := by
  have hFrame := h.1
  rw [OnlyRegsAndChans, h.chans_eq]
  exact hFrame

theorem onlyRegsAndChans_keepDead (s t : State) : OnlyRegsAndChans t (keepDead s t) := by
  have hFrame := keepDead_frame s t
  have hRegs : (keepDead s t).regs = t.regs := by rw [hFrame]
  rw [OnlyRegsAndChans, hRegs]
  exact hFrame

section
variable {s t : State} (h : OnlyRegsAndChans s t)
include h

theorem OnlyRegsAndChans.pending_eq : t.pending = s.pending := by rw [h]
theorem OnlyRegsAndChans.mem_eq : t.mem = s.mem := by rw [h]
theorem OnlyRegsAndChans.errs_eq : t.errs = s.errs := by rw [h]
theorem OnlyRegsAndChans.cores_eq : t.cores = s.cores := by rw [h]
theorem OnlyRegsAndChans.streams_eq : t.streams = s.streams := by rw [h]
theorem OnlyRegsAndChans.ports_eq : t.ports = s.ports := by rw [h]
theorem OnlyRegsAndChans.board_eq : t.board = s.board := by rw [h]
theorem OnlyRegsAndChans.fuses_eq : t.fuses = s.fuses := by rw [h]
theorem OnlyRegsAndChans.flash_eq : t.flash = s.flash := by rw [h]

end

theorem resetKept_frame (causes : Nat) (s : State) : OnlyRegsAndChans (resetCleared causes s) (resetKept causes s) :=
  (onlyRegs_setFld ..).onlyRegsAndChans.trans (onlyRegsAndChans_keepDead ..)

/-- A register of the board controller is kept. -/
theorem rd_resetKept (causes : Nat) (s : State) {r : RegRef} (hKept : (boardRegs.any fun q => q.addr == r.addr) = true)
    (hApart : Reg.glbLcCmd.addr ≠ r.addr) : rd (resetKept causes s) r = rd s r := by
  have hDead : rd (resetKept causes s) r = rd (setFld (resetCleared causes s) Reg.glbLcCmd 29 26 (fld s Reg.glbLcCmd 29 26)) r := by
    have hRegs : (keepDead s (setFld (resetCleared causes s) Reg.glbLcCmd 29 26 (fld s Reg.glbLcCmd 29 26))).regs =
        (setFld (resetCleared causes s) Reg.glbLcCmd 29 26 (fld s Reg.glbLcCmd 29 26)).regs := by rw [keepDead_frame]
    exact rd_congr hRegs r
  rw [hDead, rd_setFld_other _ _ _ _ hApart, rd, resetCleared, mget_mkeep, hKept, if_pos rfl, rd]

theorem chan_resetKept (causes : Nat) (s : State) {n : Nat} (h : n < 4) :
    (resetKept causes s).chan n = { Chan.reset with dead := (s.chan n).dead } := by
  have hEmpty : (resetCleared causes s).chan n = Chan.reset := rfl
  rw [resetKept, chan_keepDead _ _ h, chan_setFld, hEmpty]

/-- Every reset ends like this (R644 to R646). -/
theorem wipedInto_enterReset (causes : Nat) (toAux : Bool) (s : State) :
    WipedInto (if toAux then 1 else 2) causes s (enterReset causes toAux s) := by
  obtain ⟨hPower, hCause, hInsert⟩ := writeResetRegs_reads causes toAux (resetKept causes s)
  have hRegs := onlyRegs_writeResetRegs causes toAux (resetKept causes s)
  have hClock := onlyRegs_clockAll (writeResetRegs causes toAux (resetKept causes s))
  rw [enterReset_eq]
  refine ⟨?_, ?_, ?_, ?_, fun n hn => ?_, ?_, ?_, ?_, ?_, ?_⟩
  · rw [powerState_clockAll, hPower]
  · rw [rd_clockAll_other _ (by decide), hCause]
  · rw [hClock.mem_eq, hRegs.mem_eq, (resetKept_frame causes s).mem_eq]; rfl
  · rw [hClock.errs_eq, hRegs.errs_eq, (resetKept_frame causes s).errs_eq]; rfl
  · rw [chan_congr hClock.chans_eq, chan_congr hRegs.chans_eq, chan_resetKept causes s hn]
  · rw [hClock.cores_eq, hRegs.cores_eq, (resetKept_frame causes s).cores_eq]; rfl
  · rw [hClock.streams_eq, hRegs.streams_eq, (resetKept_frame causes s).streams_eq]; rfl
  · rw [hClock.ports_eq, hRegs.ports_eq, (resetKept_frame causes s).ports_eq]; rfl
  · rw [flag, fld, rd_clockAll_other _ (by decide), ← fld, ← flag, hInsert]
  · rw [hClock.pending_eq, hRegs.pending_eq, (resetKept_frame causes s).pending_eq]; rfl

theorem keptFuses_enterReset (causes : Nat) (toAux : Bool) (s : State) : KeptFuses s (enterReset causes toAux s) := by
  have hRegs := onlyRegs_writeResetRegs causes toAux (resetKept causes s)
  have hClock := onlyRegs_clockAll (writeResetRegs causes toAux (resetKept causes s))
  rw [enterReset_eq]
  constructor
  · rw [hClock.fuses_eq, hRegs.fuses_eq, (resetKept_frame causes s).fuses_eq]; rfl
  · rw [hClock.flash_eq, hRegs.flash_eq, (resetKept_frame causes s).flash_eq]; rfl

theorem board_enterReset (causes : Nat) (toAux : Bool) (s : State) : (enterReset causes toAux s).board =
    { s.board with causes := causes, retained := false, capStep := 8, therm := [8, 8, 8, 8] } := by
  rw [enterReset_eq, board_clockAll, (onlyRegs_writeResetRegs ..).board_eq, (resetKept_frame causes s).board_eq, resetCleared]

/-- The fault bits of GLB_PWR_STATUS outlive a reset. -/
theorem fld_pwrStatus_enterReset (causes : Nat) (toAux : Bool) (s : State) {hi lo : Nat} (h : hi < 29) :
    fld (enterReset causes toAux s) Reg.glbPwrStatus hi lo = fld s Reg.glbPwrStatus hi lo := by
  rw [enterReset_eq, fld, rd_clockAll_other _ (by decide), ← fld, fld_pwrStatus_writeResetRegs _ _ _ h, fld,
    rd_resetKept causes s (by decide) (by decide), fld]

theorem rd_thermStatus_enterReset (causes : Nat) (toAux : Bool) (s : State) :
    rd (enterReset causes toAux s) Reg.glbThermStatus = rd s Reg.glbThermStatus := by
  rw [enterReset_eq, rd_clockAll_other _ (by decide), (onlyRegs_writeResetRegs ..).2 _ (by decide),
    rd_resetKept causes s (by decide) (by decide)]

/-- A reset wipes what stood before it was prepared, where the preparation changed registers and the board alone. -/
theorem WipedInto.of_before {power causes : Nat} {s u t : State} (h : WipedInto power causes u t)
    (hChans : u.chans = s.chans) (hQueue : u.pending = s.pending) : WipedInto power causes s t := by
  obtain ⟨hPower, hCause, hMem, hErrs, hChan, hCores, hStreams, hPorts, hInsert, hPending⟩ := h
  refine ⟨hPower, hCause, hMem, hErrs, fun n hn => ?_, hCores, hStreams, hPorts, hInsert, hPending.trans hQueue⟩
  rw [hChan n hn, chan_congr hChans]

theorem WipedInto.pending_eq {power causes : Nat} {s t : State} (h : WipedInto power causes s t) : t.pending = s.pending := by
  obtain ⟨-, -, -, -, -, -, -, -, -, hPending⟩ := h
  exact hPending

theorem KeptFuses.of_before {s u t : State} (h : KeptFuses u t) (hFuses : u.fuses = s.fuses) (hFlash : u.flash = s.flash) :
    KeptFuses s t := ⟨h.1.trans hFuses, h.2.trans hFlash⟩

/-- What a reset wipes does not include the board controller. -/
theorem WipedInto.withBoard {power causes : Nat} {s t : State} (h : WipedInto power causes s t) (b : Board) :
    WipedInto power causes s { t with board := b } := h

theorem KeptFuses.withBoard {s t : State} (h : KeptFuses s t) (b : Board) : KeptFuses s { t with board := b } := h

section
variable {l : List RegRef} {s t : State} (h : OnlyBoard l s t)
include h

theorem OnlyBoard.chans_eq : t.chans = s.chans := by rw [h.1]
theorem OnlyBoard.fuses_eq : t.fuses = s.fuses := by rw [h.1]
theorem OnlyBoard.flash_eq : t.flash = s.flash := by rw [h.1]
theorem OnlyBoard.sameMemory : SameMemory s t := by rw [h.1]; exact ⟨rfl, rfl⟩

end

/-! ### The sources -/

/-- VIN and its sequence lost (R597). -/
def vinLost (s : State) : State := setRelays (setFlag (setFlag s Reg.glbPwrStatus 28 false) Reg.glbPwrStatus 24 true)

theorem onlyRegs_vinLost (s : State) : OnlyRegs [Reg.glbPwrStatus, Reg.glbByeStatus] s (vinLost s) :=
  (((onlyRegs_setFlag s Reg.glbPwrStatus 28 false).mono (by simp)).trans
    ((onlyRegs_setFlag _ Reg.glbPwrStatus 24 true).mono (by simp))).trans ((onlyRegs_setFld _ Reg.glbByeStatus ..).mono (by simp))

theorem flag_vinLost (s : State) : flag (vinLost s) Reg.glbPwrStatus 24 = true ∧ flag (vinLost s) Reg.glbPwrStatus 28 = false := by
  constructor
  · rw [vinLost, setRelays, flag_setFld_apart _ _ _ _ _ (by decide), flag_setFlag _ _ _ _ (by decide)]
  · rw [vinLost, setRelays, flag_setFld_apart _ _ _ _ _ (by decide), flag_setFlag_other _ _ _ (by decide) (by decide),
      flag_setFlag _ _ _ _ (by decide)]

theorem opBrownout_powered {s : State} (hUp : railsUp s = true) (hVin : flag s Reg.glbPwrStatus 28 = true) :
    opBrownout s = enterReset 16 true (vinLost s) := by
  unfold opBrownout vinLost
  simp only [hVin, hUp, Bool.not_true, Bool.false_eq_true, if_false, if_true]

/-- A rail's fault recorded, and the wait of R615 begun (R600). -/
def railLost (s : State) (page : Nat) : State :=
  { setFld (setFlag s Reg.glbPwrStatus 25 true) Reg.glbPwrStatus 23 19 page with
    board := { (setFld (setFlag s Reg.glbPwrStatus 25 true) Reg.glbPwrStatus 23 19 page).board with lockout := true } }

theorem onlyBoard_railLost (s : State) (page : Nat) : OnlyBoard [Reg.glbPwrStatus] s (railLost s page) :=
  ((onlyRegs_setFlag s Reg.glbPwrStatus 25 true).trans (onlyRegs_setFld _ _ 23 19 page)).onlyBoard.trans (onlyBoard_board ..)

theorem railLost_reads (s : State) {page : Nat} (h : page < 32) :
    flag (railLost s page) Reg.glbPwrStatus 25 = true ∧ fld (railLost s page) Reg.glbPwrStatus 23 19 = page := by
  have hRd : rd (railLost s page) Reg.glbPwrStatus =
      rd (setFld (setFlag s Reg.glbPwrStatus 25 true) Reg.glbPwrStatus 23 19 page) Reg.glbPwrStatus :=
    rd_congr (by rw [railLost]) _
  constructor
  · rw [flag, fld, hRd, ← fld, fld_setFld_other _ _ _ _ _ _ _ (by decide) (by decide) (by decide)]
    exact flag_setFlag s Reg.glbPwrStatus 25 true (by decide)
  · rw [fld, hRd, ← fld, fld_setFld _ _ _ _ _ (by decide) (by decide)]
    exact Nat.mod_eq_of_lt h

theorem opRailFault_rail {s : State} {page : Nat} (hUp : railsUp s = true) (h0 : page ≠ 0) (h15 : page ≤ 15) :
    opRailFault page s = enterReset 32 true (railLost s page) := if_neg (by simp [hUp, h0, h15])

theorem opResetSignal_low {lowNs : Nat} {s : State} (hUp : railsUp s = true) (hOn : s.board.off = false)
    (hHigh : s.board.held = false) (hLong : 1000 ≤ lowNs) :
    opResetSignal false lowNs s =
      { enterReset 2 false s with board := { (enterReset 2 false s).board with held := true } } := by
  unfold opResetSignal
  simp only [hLong, hHigh, hUp, hOn, decide_true, Bool.not_false, Bool.and_self, if_true, Bool.or_true,
    Bool.false_eq_true, if_false]

theorem opManagementReset_powered {s : State} (hUp : railsUp s = true) : opManagementReset s = enterReset 4 false s :=
  if_pos hUp

theorem opTapLeave_powered {s : State} (hUp : railsUp s = true) (hInside : s.board.tap.outside = false) :
    opTapLeaveTestLogicReset s = { enterReset 2 false s with
      board := { (enterReset 2 false s).board with tap := { (enterReset 2 false s).board.tap with outside := true } } } := by
  unfold opTapLeaveTestLogicReset
  simp only [hInside, hUp, Bool.false_eq_true, if_false, if_true]

/-- Settles O5: each source prepares its reset, and all of them end in the same one. -/
theorem resetSources : Obligations.ResetSources := by
  unfold Obligations.ResetSources
  refine ⟨?_, ?_, ?_, ?_, ?_, ?_⟩
  · intro s hUp hVin
    have hFrame := onlyRegs_vinLost s
    have hWiped := (wipedInto_enterReset 16 true (vinLost s)).of_before hFrame.chans_eq hFrame.pending_eq
    obtain ⟨hFault, hGone⟩ := flag_vinLost s
    refine .of_effect rfl (opBrownout_powered hUp hVin) hWiped.pending_eq ⟨hWiped,
      (keptFuses_enterReset ..).of_before hFrame.fuses_eq hFrame.flash_eq, ?_, ?_⟩
    · rw [flag, fld_pwrStatus_enterReset _ _ _ (by decide), ← flag, hFault]
    · rw [flag, fld_pwrStatus_enterReset _ _ _ (by decide), ← flag, hGone]
  · intro page s hUp h0 h15
    have hFrame := onlyBoard_railLost s page.val
    have hWiped := (wipedInto_enterReset 32 true (railLost s page)).of_before hFrame.chans_eq hFrame.pending_eq
    obtain ⟨hFault, hPage⟩ := railLost_reads s (page := page) (by omega)
    refine .of_effect rfl (opRailFault_rail hUp h0 h15) hWiped.pending_eq ⟨hWiped,
      (keptFuses_enterReset ..).of_before hFrame.fuses_eq hFrame.flash_eq, ?_, ?_, ?_⟩
    · rw [flag, fld_pwrStatus_enterReset _ _ _ (by decide), ← flag, hFault]
    · rw [fld_pwrStatus_enterReset _ _ _ (by decide), hPage]
    · rw [board_enterReset, railLost]
  · intro lowNs s hUp hOn hHigh hLong
    have hWiped := wipedInto_enterReset 2 false s
    exact .of_effect rfl (opResetSignal_low hUp hOn hHigh hLong) (hWiped.withBoard _).pending_eq
      ⟨hWiped.withBoard _, (keptFuses_enterReset ..).withBoard _, rfl⟩
  · intro s hUp
    have hWiped := wipedInto_enterReset 4 false s
    exact .of_effect rfl (opManagementReset_powered hUp) hWiped.pending_eq ⟨hWiped, keptFuses_enterReset ..⟩
  · intro s hUp hInside
    have hWiped := wipedInto_enterReset 2 false s
    exact .of_effect rfl (opTapLeave_powered hUp hInside) (hWiped.withBoard _).pending_eq
      ⟨hWiped.withBoard _, (keptFuses_enterReset ..).withBoard _, rfl⟩
  · intro s hUp hOn
    have hWiped := wipedInto_enterReset 4 false s
    have hOp : opMfrModuleReset true s = enterReset 4 false s := by
      rw [opMfrModuleReset, guarded, if_neg (by simp [hOn]), if_pos rfl, opManagementReset_powered hUp]
    exact .of_effect rfl hOp hWiped.pending_eq ⟨hWiped, keptFuses_enterReset ..⟩

/-! ### The thermal trip -/

theorem onlyRegs_refl (l : List RegRef) (s : State) : OnlyRegs l s s := ⟨rfl, fun _ _ => rfl⟩

theorem onlyRegs_foldl {α : Type} {l : List RegRef} {f : State → α → State} (hf : ∀ s a, OnlyRegs l s (f s a)) (as : List α)
    (s : State) : OnlyRegs l s (as.foldl f s) :=
  foldl_keeps (OnlyRegs l s) f (fun t a h => h.trans (hf t a)) as (onlyRegs_refl l s)

theorem onlyRegs_thermStatus (s : State) : OnlyRegs [Reg.glbThermStatus] s (thermStatus s) := by
  have hFlags (b : State → Nat → Bool) (u : State) : OnlyRegs [Reg.glbThermStatus] u
      ((List.range 5).foldl (fun s c => setFlag s Reg.glbThermStatus (c + 1) (b s c)) u) :=
    onlyRegs_foldl (fun s c => onlyRegs_setFlag s Reg.glbThermStatus (c + 1) (b s c)) _ u
  unfold thermStatus
  dsimp only
  split
  · exact ((onlyRegs_setFld _ _ _ _ _).trans (onlyRegs_setFld _ _ _ _ _)).trans
      (hFlags (fun s c => s.board.temps.any fun r => r.1.cls.val == c + 1 && reaches r (throttleOf r.1)) _)
  · exact hFlags (fun s c => s.board.temps.any fun r => r.1.cls.val == c + 1 && reaches r (throttleOf r.1)) _

/-- The sensors of a sample that stand at their trip point. -/
def tripping (readings : List (Sensor × Int)) : List Sensor := (readings.filter fun r => reaches r (tripOf r.1)).map (·.1)

/-- The board after a sample. -/
def sampledBoard (b : Board) (readings : List (Sensor × Int)) : Board :=
  { b with
    temps := mergeTemps b.temps readings
    hotOnce := (b.hotOnce.filter fun x => !readings.any fun r => r.1 == x) ++ tripping readings
    warmed := b.warmed ++ ((readings.filter fun r => match throttleOf r.1 with
      | some t => decide (t - 3 < r.2)
      | none => false).map (·.1)).filter fun x => !b.warmed.contains x }

/-- The state after a sample, before it is judged. -/
def sampled (readings : List (Sensor × Int)) (s : State) : State :=
  thermStatus { s with board := sampledBoard s.board readings }

/-- A trip recorded, and the wait of R615 begun (R614). -/
def tripped (x : Sensor) (s : State) : State :=
  { setFld (setFlag s Reg.glbThermStatus 0 true) Reg.glbThermStatus 19 16 x.cls.val with
    board := { (setFld (setFlag s Reg.glbThermStatus 0 true) Reg.glbThermStatus 19 16 x.cls.val).board with lockout := true } }

theorem opThermalSensorSample_trip {readings : List (Sensor × Int)} {x : Sensor} {s : State}
    (hAgain : (tripping readings).find? (s.board.hotOnce.contains ·) = some x) (hUp : railsUp (sampled readings s) = true) :
    opThermalSensorSample readings s = enterReset 64 true (tripped x (sampled readings s)) := by
  unfold sampled sampledBoard tripping at hUp
  unfold tripping at hAgain
  unfold opThermalSensorSample tripped sampled sampledBoard tripping
  dsimp only
  rw [hAgain]
  exact if_pos hUp

theorem opThermalSensorSample_cool {readings : List (Sensor × Int)} {s : State}
    (hAgain : (tripping readings).find? (s.board.hotOnce.contains ·) = none) :
    opThermalSensorSample readings s = tryUnlock (sampled readings s) := by
  unfold tripping at hAgain
  unfold opThermalSensorSample sampled sampledBoard tripping
  dsimp only
  rw [hAgain] <;> rfl

theorem tripping_single (x : Sensor) (v : Int) :
    tripping [(x, v)] = if reaches (x, v) (tripOf x) = true then [x] else [] := by
  cases h : reaches (x, v) (tripOf x) <;> simp [tripping, h]

theorem tryUnlock_free {s : State} (h : s.board.lockout = false) : tryUnlock s = s :=
  if_neg (by simp [h])

theorem onlyBoard_tripped (x : Sensor) (s : State) : OnlyBoard [Reg.glbThermStatus] s (tripped x s) :=
  ((onlyRegs_setFlag s Reg.glbThermStatus 0 true).trans (onlyRegs_setFld _ _ 19 16 _)).onlyBoard.trans (onlyBoard_board ..)

theorem tripped_reads (x : Sensor) (s : State) :
    flag (tripped x s) Reg.glbThermStatus 0 = true ∧ fld (tripped x s) Reg.glbThermStatus 19 16 = x.cls.val := by
  have hRd : rd (tripped x s) Reg.glbThermStatus =
      rd (setFld (setFlag s Reg.glbThermStatus 0 true) Reg.glbThermStatus 19 16 x.cls.val) Reg.glbThermStatus :=
    rd_congr (by rw [tripped]) _
  constructor
  · rw [flag, fld, hRd, ← fld, fld_setFld_other _ _ _ _ _ _ _ (by decide) (by decide) (by decide)]
    exact flag_setFlag s Reg.glbThermStatus 0 true (by decide)
  · rw [fld, hRd, ← fld, fld_setFld _ _ _ _ _ (by decide) (by decide)]
    exact Nat.mod_eq_of_lt (by omega)

theorem railsUp_congr {s t : State} (h : rd t Reg.glbPwrStatus = rd s Reg.glbPwrStatus) : railsUp t = railsUp s := by
  rw [railsUp, railsUp, powerState, powerState, fld, fld, h]

theorem onlyBoard_sampled (readings : List (Sensor × Int)) (s : State) :
    OnlyBoard [Reg.glbThermStatus] s (sampled readings s) :=
  (onlyBoard_board _ s _).trans (onlyRegs_thermStatus _).onlyBoard

theorem board_sampled (readings : List (Sensor × Int)) (s : State) :
    (sampled readings s).board = sampledBoard s.board readings := by rw [sampled, (onlyRegs_thermStatus _).board_eq]

/-- Settles O6: the second sample finds the sensor among those of the first. -/
theorem thermalTrip : Obligations.ThermalTrip := by
  unfold Obligations.ThermalTrip
  constructor
  · intro x v s hUp hHot hTrip
    have hSampled := onlyBoard_sampled [(x, v)] s
    have hTripped := onlyBoard_tripped x (sampled [(x, v)] s)
    obtain ⟨hFault, hClass⟩ := tripped_reads x (sampled [(x, v)] s)
    have hAgain : (tripping [(x, v)]).find? (s.board.hotOnce.contains ·) = some x := by
      simp [tripping_single, hTrip, hHot]
    have hStill : railsUp (sampled [(x, v)] s) = true := by rw [railsUp_congr (hSampled.2 _ (by decide)), hUp]
    have hWiped := (wipedInto_enterReset 64 true (tripped x (sampled [(x, v)] s))).of_before
      (hTripped.chans_eq.trans hSampled.chans_eq) (hTripped.pending_eq.trans hSampled.pending_eq)
    refine .of_effect rfl (opThermalSensorSample_trip hAgain hStill) hWiped.pending_eq ⟨hWiped,
      (keptFuses_enterReset ..).of_before (hTripped.fuses_eq.trans hSampled.fuses_eq)
        (hTripped.flash_eq.trans hSampled.flash_eq), ?_, ?_, ?_⟩
    · rw [flag, fld, rd_thermStatus_enterReset, ← fld, ← flag, hFault]
    · rw [fld, rd_thermStatus_enterReset, ← fld, hClass]
    · rw [board_enterReset, tripped]
  · intro x v s hHot hFree
    have hFrame := onlyBoard_sampled [(x, v)] s
    have hBoard := board_sampled [(x, v)] s
    have hNone : (tripping [(x, v)]).find? (s.board.hotOnce.contains ·) = none := by simp [hHot]
    have hOp := (opThermalSensorSample_cool hNone).trans (tryUnlock_free (by rw [hBoard, sampledBoard, hFree]))
    refine .of_effect rfl hOp hFrame.pending_eq ⟨hFrame, ?_, ?_⟩
    · rw [hBoard, sampledBoard]
    · rw [hBoard, sampledBoard, tripping_single, hHot]
      by_cases hTrip : reaches (x, v) (tripOf x) = true <;> simp [hTrip]

/-! ### The power sequence -/

theorem sequenceUp_ready {s : State} (hAux : powerState s = 1) (hVin : flag s Reg.glbPwrStatus 28 = true)
    (hOn : s.board.off = false) (hHigh : s.board.held = false) (hFree : s.board.lockout = false) :
    sequenceUp s = setPower s 2 := if_pos (by simp [hAux, hVin, hOn, hHigh, hFree])

/-- Below the power state, setting it changes nothing of GLB_PWR_STATUS. -/
theorem flag_pwrStatus_setPower (s : State) (k : Nat) {i : Nat} (h : i < 29) :
    flag (setPower s k) Reg.glbPwrStatus i = flag s Reg.glbPwrStatus i := by
  rw [flag, setPower, setRelays, fld_setFld_apart _ _ _ _ _ _ (by decide),
    fld_setFld_other _ _ _ _ _ _ _ (by decide) (by decide) (.inr h), flag]

/-- The module powered from AUX: VAUX and VIN good, and the cause recorded (R644, R647). -/
def vinGood (s : State) : State :=
  wr (setFlag (setFlag s Reg.glbPwrStatus 27 true) Reg.glbPwrStatus 28 true) Reg.glbResetCause 1

theorem vinGood_reads (s : State) : powerState (vinGood s) = powerState s ∧ flag (vinGood s) Reg.glbPwrStatus 28 = true ∧
    flag (vinGood s) Reg.glbPwrStatus 27 = true := by
  have hRd : rd (vinGood s) Reg.glbPwrStatus =
      rd (setFlag (setFlag s Reg.glbPwrStatus 27 true) Reg.glbPwrStatus 28 true) Reg.glbPwrStatus :=
    rd_wr_other _ _ (by decide)
  refine ⟨?_, ?_, ?_⟩
  · rw [powerState, fld, hRd, ← fld, fld_setFlag_apart _ _ _ _ _ _ (by decide) (by decide),
      fld_setFlag_apart _ _ _ _ _ _ (by decide) (by decide), powerState]
  · rw [flag, fld, hRd, ← fld, ← flag, flag_setFlag _ _ _ _ (by decide)]
  · rw [flag, fld, hRd, ← fld, ← flag, flag_setFlag_other _ _ _ (by decide) (by decide), flag_setFlag _ _ _ _ (by decide)]

theorem onlyRegs_vinGood (s : State) : OnlyRegs [Reg.glbPwrStatus, Reg.glbResetCause] s (vinGood s) :=
  (((onlyRegs_setFlag s Reg.glbPwrStatus 27 true).mono (by simp)).trans
    ((onlyRegs_setFlag _ Reg.glbPwrStatus 28 true).mono (by simp))).trans ((onlyRegs_wr _ Reg.glbResetCause 1).mono (by simp))

theorem opPowerOn_aux {s : State} (hAux : powerState s = 1) (hOn : s.board.off = false) (hFree : s.board.lockout = false)
    (hHigh : s.board.held = false) (hCause : (s.board.causes / 16) % 2 = 0) : opPowerOn s = setPower (vinGood s) 2 := by
  obtain ⟨hState, hVin, -⟩ := vinGood_reads s
  have hBoard := (onlyRegs_vinGood s).board_eq
  have hUp : sequenceUp (vinGood s) = setPower (vinGood s) 2 :=
    sequenceUp_ready (hState.trans hAux) hVin (by rw [hBoard, hOn]) (by rw [hBoard, hHigh]) (by rw [hBoard, hFree])
  have hDown : railsUp s = false := by rw [railsUp, hAux]; rfl
  rw [← hUp]
  unfold opPowerOn vinGood
  dsimp only
  have hNotUp : ¬ (railsUp s && !s.board.off) = true := by simp [hDown]
  have hNotOff : ¬ s.board.off = true := by simp [hOn]
  have hGo : ¬ ((setFlag s Reg.glbPwrStatus 27 true).board.lockout ||
      decide ((setFlag s Reg.glbPwrStatus 27 true).board.causes / 16 % 2 = 1)) = true := by
    rw [setFlag_board, hFree, hCause]
    decide
  rw [if_neg hNotUp, if_neg hNotOff, if_neg hGo]

/-- VIN good again after a brownout (R644). -/
def vinBack (s : State) : State := setFlag { s with board := { s.board with causes := 0 } } Reg.glbPwrStatus 28 true

theorem opBrownoutRestart_aux {s : State} (hAux : powerState s = 1) (hOn : s.board.off = false)
    (hFree : s.board.lockout = false) (hHigh : s.board.held = false) (hVin : flag s Reg.glbPwrStatus 28 = false)
    (hCause : (s.board.causes / 16) % 2 = 1) : opBrownoutRestart s = setPower (vinBack s) 2 := by
  have hState : powerState (vinBack s) = 1 := by
    rw [powerState, vinBack, fld_setFlag_apart _ _ _ _ _ _ (by decide) (by decide)]
    exact hAux
  have hBoard : (vinBack s).board = { s.board with causes := 0 } := by rw [vinBack, setFlag_board]
  have hUp : sequenceUp (vinBack s) = setPower (vinBack s) 2 :=
    sequenceUp_ready hState (flag_setFlag _ _ _ _ (by decide)) (by rw [hBoard, hOn]) (by rw [hBoard, hHigh]) (by rw [hBoard, hFree])
  rw [← hUp, opBrownoutRestart, if_neg (by simp [hOn, hVin, hCause]), vinBack]

theorem opTapReturn_powered {s : State} (hOutside : s.board.tap.outside = true) (hUp : railsUp s = true) :
    opTapReturnTestLogicReset s =
      setFlag { s with board := { s.board with tap := Tap.reset } } Reg.glbResetCause 1 true := by
  have hStill : railsUp { s with board := { s.board with tap := Tap.reset } } = true := hUp
  unfold opTapReturnTestLogicReset
  simp only [hOutside, hStill, Bool.not_true, Bool.false_eq_true, if_false, if_true]

/-- What the loss of the auxiliary input leaves, before GLB_PWR_STATUS says so (R601). -/
def auxLost (s : State) : State :=
  { State.reset with
    pending := s.pending, fuses := s.fuses, flash := s.flash, draws := s.draws, out := s.out
    board := { Board.aux with off := true, mac := s.board.mac, held := s.board.held, tap := s.board.tap } }

theorem opAuxInputLoss_eq (s : State) : opAuxInputLoss s = setFlag (auxLost s) Reg.glbPwrStatus 27 false := by
  unfold opAuxInputLoss auxLost
  rfl

theorem rd_auxLost (s : State) (r : RegRef) : rd (auxLost s) r = r.reset := by
  have hRegs : (auxLost s).regs = State.reset.regs := by rw [auxLost]
  rw [rd_congr hRegs]
  simp [rd, State.reset, mget]

/-- Settles O7. -/
theorem powerSequence : Obligations.PowerSequence := by
  unfold Obligations.PowerSequence
  refine ⟨?_, ?_, ?_, ?_⟩
  · intro s hAux hOn hFree hHigh hCause
    obtain ⟨-, hVin, hAuxGood⟩ := vinGood_reads s
    have hPower := setPower_frame (vinGood s) 2
    have hGood := onlyRegs_vinGood s
    refine .of_effect rfl (opPowerOn_aux hAux hOn hFree hHigh hCause) (hPower.pending_eq.trans hGood.pending_eq)
      ⟨powerState_setPower _ (by decide), ?_, ?_, ?_, ⟨hPower.mem_eq.trans hGood.mem_eq, hPower.errs_eq.trans hGood.errs_eq⟩,
        hPower.board_eq.trans hGood.board_eq⟩
    · rw [hPower.2 _ (by decide), vinGood, rd_wr]
    · rw [flag_pwrStatus_setPower _ _ (by decide), hVin]
    · rw [flag_pwrStatus_setPower _ _ (by decide), hAuxGood]
  · intro s hAux hOn hFree hHigh hVin hCause
    have hPower := setPower_frame (vinBack s) 2
    refine .of_effect rfl (opBrownoutRestart_aux hAux hOn hFree hHigh hVin hCause) ?_ ⟨powerState_setPower _ (by decide), ?_, ?_⟩
    · rw [hPower.pending_eq, vinBack, setFlag_pending]
    · rw [flag_pwrStatus_setPower _ _ (by decide), vinBack, flag_setFlag _ _ _ _ (by decide)]
    · rw [hPower.board_eq, vinBack, setFlag_board]
  · intro s hOutside hUp
    have hFrame : OnlyBoard [Reg.glbResetCause] s
        (setFlag { s with board := { s.board with tap := Tap.reset } } Reg.glbResetCause 1 true) :=
      (onlyBoard_board _ s _).trans (onlyRegs_setFlag ..).onlyBoard
    exact .of_effect rfl (opTapReturn_powered hOutside hUp) hFrame.pending_eq
      ⟨hFrame, flag_setFlag _ _ _ _ (by decide), by rw [setFlag_board]⟩
  · intro s
    have hFrame := onlyRegs_setFlag (auxLost s) Reg.glbPwrStatus 27 false
    refine .of_effect rfl (opAuxInputLoss_eq s) hFrame.pending_eq ⟨?_, hFrame.fuses_eq, hFrame.flash_eq, hFrame.mem_eq,
      hFrame.chans_eq, hFrame.cores_eq, flag_setFlag _ _ _ _ (by decide), fun r hr => ?_⟩
    · rw [hFrame.board_eq, auxLost]
    · rw [hFrame.2 r (by simpa using hr.symm), rd_auxLost]

end Sys2Proof.Machine
end


section
/-! PROOFS. The PMBus commands and the event queues (O8, O9, O11, O12). -/

namespace Sys2Proof.Machine

theorem exec_of_eq {c : Instr} {s u t : State} (hExec : exec c s = .next (keepQueue s u)) (hu : u = t)
    (hPending : t.pending = s.pending) : exec c s = .next t := by rw [hExec, hu, keepQueue_eq hPending]

/-! ### PMBus -/

theorem answer_on {s : State} (hOn : s.board.off = false) (bs : List Byte) : answer s bs = answered s bs :=
  if_neg (by simp [hOn])

theorem answerWord_on {s : State} (hOn : s.board.off = false) (v : Nat) :
    answerWord s v = answered s (leBytes 2 (v % 65536)) := answer_on hOn _

theorem answerWord_small {s : State} (hOn : s.board.off = false) {v : Nat} (hv : v < 65536) :
    answerWord s v = answered s (leBytes 2 v) := by rw [answerWord_on hOn, Nat.mod_eq_of_lt hv]

theorem exec_of_answered {c : Instr} {s u : State} {bs : List Byte} (hExec : exec c s = .next (keepQueue s u))
    (hu : u = answered s bs) : exec c s = .next (answered s bs) := exec_of_eq hExec hu rfl

theorem fld_low_lt (s : State) (r : RegRef) : fld s r 15 0 < 65536 := bits_lt _ 15 0
theorem fld_high_lt (s : State) (r : RegRef) : fld s r 31 16 < 65536 := bits_lt _ 31 16

theorem onPages_answered {s : State} (hOn : s.board.off = false) {ok : Nat → Bool} (hPage : ok s.board.page = true) (v : Nat) :
    onPages s ok v = answered s (leBytes 2 (v % 65536)) := by rw [onPages, if_pos hPage, answerWord_on hOn]

theorem commFault_on {s : State} (hOn : s.board.off = false) : commFault s = { s with board := { s.board with comm := true } } :=
  if_neg (by simp [hOn])

/-- Settles O8: each read is an answer of the state as it stands. -/
theorem pmbusReads : Obligations.PmbusReads := by
  unfold Obligations.PmbusReads
  constructor
  · intro s hOn
    exact ⟨exec_of_answered rfl (answerWord_on hOn _), exec_of_answered rfl (answer_on hOn _),
      exec_of_answered rfl (answer_on hOn _), exec_of_answered rfl (answer_on hOn _), exec_of_answered rfl (answer_on hOn _),
      exec_of_answered rfl (answer_on hOn _), exec_of_answered rfl (answerWord_small hOn (fld_low_lt ..)),
      exec_of_answered rfl (answerWord_small hOn (fld_high_lt ..)), exec_of_answered rfl (answerWord_small hOn (fld_low_lt ..)),
      exec_of_answered rfl (answerWord_small hOn (fld_high_lt ..)), exec_of_answered rfl (answerWord_small hOn (fld_low_lt ..)),
      exec_of_answered rfl (answerWord_small hOn (fld_low_lt ..)), exec_of_answered rfl (answerWord_small hOn (fld_low_lt ..)),
      exec_of_answered rfl (answerWord_small hOn (fld_low_lt ..)), exec_of_answered rfl (answerWord_small hOn (fld_low_lt ..))⟩
  · intro milli s hOn
    refine ⟨exec_of_answered rfl (answer_on hOn _), exec_of_answered rfl (answer_on hOn _),
      exec_of_answered rfl (answer_on hOn _), exec_of_answered rfl (answer_on hOn _), fun hPage => ?_, fun hLow hHigh => ?_, ?_,
      fun code => ?_⟩
    · exact ⟨exec_of_answered rfl (onPages_answered hOn (by rw [hPage]; rfl) _),
        exec_of_answered rfl (onPages_answered hOn (by rw [hPage]; rfl) _),
        exec_of_answered rfl (onPages_answered hOn (by rw [hPage]; rfl) _)⟩
    · have hRail : railPage s.board.page = true := by simp [railPage, hLow, hHigh]
      have hVolts : scaledMilli milli (-12) = (milli * 8192 + 1000) / 2000 := by
        simp [scaledMilli, Nat.mul_assoc]
      exact ⟨hVolts ▸ exec_of_answered rfl (onPages_answered hOn hRail _),
        exec_of_answered rfl (onPages_answered hOn hRail _), exec_of_answered rfl (onPages_answered hOn hRail _)⟩
    · exact ⟨_, exec_of_answered rfl (answerWord_on hOn _), _, rfl⟩
    · have hAnswer : opPmbusUnsupported code s = answered { s with board := { s.board with comm := true } } [] := by
        rw [opPmbusUnsupported, commFault_on hOn, answer, if_neg (by simp [hOn]), answered]
      exact exec_of_eq rfl hAnswer rfl

theorem guarded_ok {s : State} (hOn : s.board.off = false) (f : State → State) : guarded s true f = f s := by
  rw [guarded, if_neg (by simp [hOn]), if_pos rfl]

theorem mfrWord_write {s : State} (hOn : s.board.off = false) (r : RegRef) (hi : Bool) (w : W16) (put : W16 → State → State) :
    mfrWord r hi (some w) true put s = put w s := guarded_ok hOn _

/-- What is left of a number without the bits of a mask. -/
theorem testBit_sub_and (v m i : Nat) : (v - (v &&& m)).testBit i = (v.testBit i && !m.testBit i) := by
  have hOdd := @Nat.and_mod_two_eq_one v m
  have hLe : v &&& m ≤ v := Nat.and_le_left
  induction i generalizing v m with
  | zero =>
    simp only [Nat.testBit_zero, ← decide_not, ← Bool.decide_and, decide_eq_decide]
    omega
  | succ i ih =>
    have hHalf : (v - (v &&& m)) / 2 = v / 2 - (v / 2 &&& m / 2) := by
      rw [← Nat.and_div_two]
      omega
    rw [Nat.testBit_succ, Nat.testBit_succ, Nat.testBit_succ, hHalf, ih _ _ Nat.and_mod_two_eq_one Nat.and_le_left]

theorem flag_eq_testBit (s : State) (r : RegRef) (i : Nat) : flag s r i = (rd s r).toNat.testBit i :=
  bit_eq_testBit (rd s r).toNat i

/-- The bits of the mask that are written as 1 are cleared, and no other. -/
theorem flag_clearBits (s : State) (r : RegRef) (mask w i : Nat) :
    flag (clearBits s r mask w) r i = (flag s r i && !(mask.testBit i && w.testBit i)) := by
  have hLt : (rd s r).toNat - ((rd s r).toNat &&& mask &&& w) < 2 ^ 64 := by
    have := (rd s r).isLt
    omega
  rw [flag_eq_testBit, flag_eq_testBit, clearBits, rd_wr, BitVec.toNat_ofNat, Nat.mod_eq_of_lt hLt, Nat.and_assoc,
    testBit_sub_and, Nat.testBit_and]

theorem onlyRegs_clearBits (s : State) (r : RegRef) (mask w : Nat) : OnlyRegs [r] s (clearBits s r mask w) := onlyRegs_wr ..

/-- The latched faults of the power and thermal status and the communication bit cleared (R615). -/
def faultsCleared (s : State) : State :=
  let s := setFlag (setFlag s Reg.glbPwrStatus 25 false) Reg.glbPwrStatus 24 false
  let s := setFlag s Reg.glbThermStatus 0 false
  { s with board := { s.board with comm := false } }

theorem onlyBoard_faultsCleared (s : State) : OnlyBoard [Reg.glbPwrStatus, Reg.glbThermStatus] s (faultsCleared s) :=
  ((((onlyRegs_setFlag s Reg.glbPwrStatus 25 false).mono (by simp)).trans
    ((onlyRegs_setFlag _ Reg.glbPwrStatus 24 false).mono (by simp))).trans
      ((onlyRegs_setFlag _ Reg.glbThermStatus 0 false).mono (by simp))).onlyBoard.trans (onlyBoard_board ..)

theorem board_faultsCleared (s : State) : (faultsCleared s).board = { s.board with comm := false } := by
  have hBoard : (setFlag (setFlag (setFlag s Reg.glbPwrStatus 25 false) Reg.glbPwrStatus 24 false)
      Reg.glbThermStatus 0 false).board = s.board := by rw [setFlag_board, setFlag_board, setFlag_board]
  rw [faultsCleared, hBoard]

theorem rd_faultsCleared (s : State) (r : RegRef) : rd (faultsCleared s) r =
    rd (setFlag (setFlag (setFlag s Reg.glbPwrStatus 25 false) Reg.glbPwrStatus 24 false) Reg.glbThermStatus 0 false) r :=
  rd_congr (by rw [faultsCleared]) _

theorem fld_pwrStatus_faultsCleared (s : State) (hi lo : Nat) : fld (faultsCleared s) Reg.glbPwrStatus hi lo =
    fld (setFlag (setFlag s Reg.glbPwrStatus 25 false) Reg.glbPwrStatus 24 false) Reg.glbPwrStatus hi lo := by
  rw [fld, rd_faultsCleared, ← fld, setFlag, fld_setFld_apart _ _ _ _ _ _ (by decide)]

theorem flag_thermStatus_faultsCleared (s : State) : flag (faultsCleared s) Reg.glbThermStatus 0 = false := by
  rw [flag, fld, rd_faultsCleared, ← fld, ← flag, flag_setFlag _ _ _ _ (by decide)]

/-- Settles O9: a write is let through by its checking byte and changes its own register. -/
theorem pmbusWrites : Obligations.PmbusWrites := by
  unfold Obligations.PmbusWrites
  refine ⟨?_, ?_, ?_, ?_, ?_, ?_, ?_, ?_⟩
  · intro b s hOn hb
    have hOp : opPage (some b) true s = { s with board := { s.board with page := b.toNat } } := by
      rw [opPage, guarded_ok hOn, if_neg (by omega)]
    exact exec_of_eq rfl hOp rfl
  · intro b s hOn
    have hOp : opPage (some b) false s = { s with board := { s.board with comm := true } } := by
      rw [opPage, guarded, if_neg (by simp [hOn]), if_neg (by simp), commFault_on hOn]
    exact exec_of_eq rfl hOp rfl
  · intro s hOn hFree
    have hFrame := onlyBoard_faultsCleared s
    have hWaits : (faultsCleared s).board.lockout = false := by rw [board_faultsCleared]; exact hFree
    have hOp : opClearFaults true s = faultsCleared s := (guarded_ok hOn _).trans (tryUnlock_free hWaits)
    refine .of_effect rfl hOp hFrame.pending_eq
      ⟨hFrame, ?_, ?_, flag_thermStatus_faultsCleared s, ?_, board_faultsCleared s⟩
    · rw [flag, fld_pwrStatus_faultsCleared, ← flag, flag_setFlag_other _ _ _ (by decide) (by decide),
        flag_setFlag _ _ _ _ (by decide)]
    · rw [flag, fld_pwrStatus_faultsCleared, ← flag, flag_setFlag _ _ _ _ (by decide)]
    · rw [powerState, fld_pwrStatus_faultsCleared, fld_setFlag_apart _ _ _ _ _ _ (by decide) (by decide),
        fld_setFlag_apart _ _ _ _ _ _ (by decide) (by decide), powerState]
  · intro w s hOn hFree
    have hFrame := onlyRegs_clearBits s Reg.glbPwrStatus 0x7000000 (w.toNat * 65536)
    have hOp : opMfrPwrStatusHi (some w) true s = clearBits s Reg.glbPwrStatus 0x7000000 (w.toNat * 65536) :=
      (mfrWord_write hOn _ _ w _).trans (tryUnlock_free (by rw [hFrame.board_eq, hFree]))
    refine .of_effect rfl hOp hFrame.pending_eq ⟨hFrame, fun i hi => ?_⟩
    have hMask : Nat.testBit 0x7000000 i = decide (24 ≤ i ∧ i ≤ 26) :=
      (by decide : ∀ i < 64, Nat.testBit 0x7000000 i = decide (24 ≤ i ∧ i ≤ 26)) i hi
    have hShift : (w.toNat * 65536).testBit i = (decide (16 ≤ i) && w.toNat.testBit (i - 16)) :=
      Nat.testBit_mul_two_pow (i := 16) ..
    rw [flag_clearBits, bit_eq_testBit, hMask, hShift]
    congr 2
    by_cases h : 24 ≤ i ∧ i ≤ 26
    · rw [decide_eq_true (show 16 ≤ i by omega), Bool.true_and]
    · rw [decide_eq_false h, Bool.false_and, Bool.false_and]
  · intro w s hOn hFree
    have hFrame := onlyRegs_clearBits s Reg.glbThermStatus 1 w.toNat
    have hOp : opMfrThermStatusLo (some w) true s = clearBits s Reg.glbThermStatus 1 w.toNat :=
      (mfrWord_write hOn _ _ w _).trans (tryUnlock_free (by rw [hFrame.board_eq, hFree]))
    refine .of_effect rfl hOp hFrame.pending_eq ⟨hFrame, fun i hi => ?_⟩
    have hMask : Nat.testBit 1 i = decide (i = 0) :=
      (by decide : ∀ i < 64, Nat.testBit 1 i = decide (i = 0)) i hi
    rw [flag_clearBits, bit_eq_testBit, hMask]
    by_cases h : i = 0
    · rw [h]
    · rw [decide_eq_false h, Bool.false_and, Bool.false_and]
  · intro w s hOn
    have hFrame := onlyRegs_clearBits s Reg.glbByeStatus 0xFF00 w.toNat
    refine .of_effect rfl (mfrWord_write hOn _ _ w _) hFrame.pending_eq ⟨hFrame, fun i hi => ?_⟩
    have hMask : Nat.testBit 0xFF00 i = decide (8 ≤ i ∧ i ≤ 15) :=
      (by decide : ∀ i < 64, Nat.testBit 0xFF00 i = decide (8 ≤ i ∧ i ≤ 15)) i hi
    rw [flag_clearBits, bit_eq_testBit, hMask]
  · intro w s hOn hw
    have hWord : (BitVec.ofNat 64 w.toNat).toNat = w.toNat := by
      rw [BitVec.toNat_ofNat, Nat.mod_eq_of_lt (by omega)]
    have hOp : opMfrByeCtrl (some w) true s = setInsert s (bit w.toNat 0) :=
      (mfrWord_write hOn _ _ w _).trans ((opByeInsertWrite_eq (by rw [hWord]; exact hw)).trans (by rw [hWord]))
    exact .of_effect rfl hOp (onlyRegs_setInsert ..).pending_eq ⟨onlyRegs_setInsert .., flag_setInsert ..⟩
  · intro w s hOn hw
    have hOp : opMfrStartCtrl (some w) true s = setFlag s Reg.glbStartCtrl 0 (bit w.toNat 0) :=
      (mfrWord_write hOn _ _ w _).trans (if_pos hw)
    exact .of_effect rfl hOp (onlyRegs_setFlag ..).pending_eq ⟨onlyRegs_setFlag .., flag_setFlag _ _ _ _ (by decide)⟩

/-! ### Records of the event queues -/

theorem rd_pokeBytes (s : State) (a : Nat) (bs : List Byte) (r : RegRef) : rd (pokeBytes s a bs) r = rd s r :=
  (keepsUnitsBut_pokeBytes [] s a bs).1 r (by simp)

theorem mget_pokeBytes (s : State) (a : Nat) (bs : List Byte) (x : Nat) : mget 0 (pokeBytes s a bs).mem x =
    if a ≤ x ∧ x < a + bs.length then bs.getD (x - a) 0 else mget 0 s.mem x := by
  induction bs generalizing s a with
  | nil => rw [pokeBytes, if_neg (by simp)]
  | cons b bs ih =>
    rw [pokeBytes, ih, mget_mset, List.length_cons]
    by_cases hHere : a = x
    · subst hHere
      rw [if_neg (by omega), if_pos rfl, if_pos (by omega), Nat.sub_self, List.getD_cons_zero]
    · rw [if_neg hHere]
      by_cases hIn : a + 1 ≤ x ∧ x < a + 1 + bs.length
      · rw [if_pos hIn, if_pos (by omega), show x - a = x - (a + 1) + 1 by omega, List.getD_cons_succ]
      · rw [if_neg hIn, if_neg (by omega)]

/-- Bytes just written read back. -/
theorem peekBytes_pokeBytes {s t : State} {a : Nat} {bs : List Byte} (h : t.mem = (pokeBytes s a bs).mem) :
    peekBytes t a bs.length = bs := by
  refine List.ext_getElem (by simp [peekBytes]) fun i hi hi' => ?_
  simp only [peekBytes, List.getElem_map, List.getElem_range, h, mget_pokeBytes]
  rw [if_pos (by omega), Nat.add_sub_cancel_left, List.getD_eq_getElem _ _ hi']

theorem setEq_regs (s : State) (q : Nat) (h : EvQueue) : (setEq s q h).regs = s.regs := by
  unfold setEq
  split <;> rfl

theorem setEq_errs (s : State) (q : Nat) (h : EvQueue) : (setEq s q h).errs = s.errs := by
  unfold setEq
  split <;> rfl

@[simp] theorem getEq_setEq (s : State) (q : Nat) (h : EvQueue) : getEq (setEq s q h) q = h := by
  unfold getEq setEq
  split
  · rw [chan_setChan_same]
  · rfl

theorem getEq_congr {s t : State} (hChans : t.chans = s.chans) (hGlobal : t.geq = s.geq) (q : Nat) : getEq t q = getEq s q := by
  rw [getEq, getEq, chan_congr hChans, hGlobal]

/-- The state once a record has been written and the tail moved, before the sequence number follows. -/
def recorded (s : State) (q : Nat) (e : Ev) : State :=
  let t := pokeBytes s (fld s (eqBase q) 47 0 + 32 * fld s (eqTail q) 9 0) ((evWords s e (getEq s q).seq).flatMap (leBytes 8))
  setFld t (eqTail q) 9 0 ((fld t (eqTail q) 9 0 + 1) % 1024)

theorem evWrite_eq (s : State) (q : Nat) (e : Ev) :
    evWrite s q e = setEq (recorded s q e) q { getEq s q with seq := ((getEq s q).seq + 1) % 2 ^ 32 } := rfl

theorem length_evWords (s : State) (e : Ev) (seq : Nat) : ((evWords s e seq).flatMap (leBytes 8)).length = 32 := by
  rw [length_flatMap_const (c := 8) fun _ _ => length_leBytes ..]
  rfl

/-- Settles O12. -/
theorem eventRecord : Obligations.EventRecord := by
  unfold Obligations.EventRecord
  intro q e s
  refine ⟨fun hRoom => ?_, fun hFull hFault => ?_, fun hFull hPlain => ?_⟩
  · have hEnter : evEnter s q.val e = evWrite s q.val e := if_neg (by simp [hRoom])
    rw [hEnter, evWrite_eq]
    have hMem : (setEq (recorded s q.val e) q.val { getEq s q.val with seq := ((getEq s q.val).seq + 1) % 2 ^ 32 }).mem =
        (pokeBytes s (fld s (eqBase q.val) 47 0 + 32 * fld s (eqTail q.val) 9 0)
          ((evWords s e (getEq s q.val).seq).flatMap (leBytes 8))).mem := by
      rw [setEq_mem, recorded, setFld_mem]
    refine ⟨?_, ?_, ?_, fun a ha => ?_⟩
    · have hRead := peekBytes_pokeBytes hMem
      rwa [length_evWords] at hRead
    · rw [fld, rd_congr (setEq_regs ..), ← fld, recorded, fld_setFld _ _ _ _ _ (by decide) (by decide), fld, rd_pokeBytes,
        ← fld]
      omega
    · rw [getEq_setEq]
    · rw [hMem, mget_pokeBytes, length_evWords, if_neg (by omega)]
  · have hEnter : evEnter s q.val e = setEq s q.val { getEq s q.val with waiting := (getEq s q.val).waiting ++ [e] } := by
      rw [evEnter, if_pos hFull, if_pos hFault]
    rw [hEnter]
    exact ⟨by rw [getEq_setEq], ⟨setEq_mem .., setEq_errs ..⟩, fun r _ => rd_congr (setEq_regs ..) r⟩
  · have hEnter : evEnter s q.val e = setEq (count32 s (eqLost q.val) 1) q.val
        { getEq (count32 s (eqLost q.val) 1) q.val with lost := (getEq (count32 s (eqLost q.val) 1) q.val).lost + 1 } := by
      rw [evEnter, if_pos hFull, if_neg (by simp [hPlain])]
    rw [hEnter]
    have hFrame := onlyRegs_count32 s (eqLost q.val) 1
    have hCount := counted_count32 s (eqLost q.val) 1
    refine ⟨?_, ⟨(setEq_mem ..).trans hFrame.mem_eq, (setEq_errs ..).trans hFrame.errs_eq⟩, fun r hr => ?_⟩
    · rw [Counted, rd_congr (setEq_regs ..)]
      exact hCount
    · rw [rd_congr (setEq_regs ..), hFrame.2 r hr]

/-! ### The queues as firmware and host use them -/

/-- A queue without waiting and without lost records has nothing to enter when it gains room. -/
theorem evRoom_quiet {s : State} {q : Nat} (hWaiting : (getEq s q).waiting = []) (hLost : (getEq s q).lost = 0) :
    evRoom s q = s := by
  have hDrain : evDrain 1024 s q = s := by rw [evDrain, hWaiting]
  rw [evRoom, hDrain, hLost]
  exact if_neg (by simp)

theorem OnlyRegs.getEq_eq {l : List RegRef} {s t : State} (h : OnlyRegs l s t) (q : Nat) : getEq t q = getEq s q :=
  getEq_congr h.chans_eq (by rw [h.1]) q

theorem getEq_setFld (s : State) (r : RegRef) (hi lo x q : Nat) : getEq (setFld s r hi lo x) q = getEq s q :=
  (onlyRegs_setFld s r hi lo x).getEq_eq q

theorem place_tier1_own {n off : Nat} (hn : n < 4) (hOff : off < tier1Size) : place (tier1Base n + off) = .tier1 n off := by
  unfold place tier1Base
  unfold tier1Size at *
  unfold tier0Size
  rw [if_neg (by omega), if_pos (by omega)]
  have hChannel : (0x10000000000 + 0x6000000000 * n + off - 0x10000000000) / 0x6000000000 = n := by omega
  have hOffset : (0x10000000000 + 0x6000000000 * n + off - 0x10000000000) % 0x6000000000 = off := by omega
  rw [hChannel, hOffset]

/-- A channel's queue may stand anywhere in its own tier 1. -/
theorem eqBaseOk_own (q : Fin 4) {off : Nat} (hAlign : off % 64 = 0) (hEnd : off + 32768 ≤ tier1Size) :
    eqBaseOk q.val (tier1Base q.val + off) = true := by
  have hBase : (tier1Base q.val + off) % 64 = 0 := by
    unfold tier1Base tier1Size
    omega
  have hFirst : place (tier1Base q.val + off) = .tier1 q.val off := place_tier1_own q.isLt (by omega)
  have hLast : place (tier1Base q.val + off + 32767) = .tier1 q.val (off + 32767) := by
    rw [Nat.add_assoc]
    exact place_tier1_own q.isLt (by omega)
  simp [eqBaseOk, hBase, hFirst, hLast]

/-- With nothing new to look at, forwarding only marks the queue as looked at. -/
theorem opEventForward_none {c : Nat} {s : State} (hCaptain : captainOf s = some c) (hNone : unforwarded s = []) :
    opEventForward s = { s with geq := { s.geq with fwd := s.geq.seq } } := by
  unfold opEventForward
  rw [hCaptain, hNone]
  rfl

theorem opEventForward_one {c q : Nat} {r : List Byte} {s : State} (hCaptain : captainOf s = some c)
    (hOne : unforwarded s = [q]) (hRecord : globalRecord s q = some r) (hHost : bit (leNat (r.take 8)) 52 = true)
    (hPlain : bit (leNat (r.take 8)) 53 = false) :
    opEventForward s = count64 (emit { s with geq := { s.geq with fwd := (q + 1) % 2 ^ 32 } } none none
      (noticeMsg { s with geq := { s.geq with fwd := (q + 1) % 2 ^ 32 } } c [r])) Reg.glbEvtNoticeCount 1 := by
  have hMine : (([q].filterMap fun q => (globalRecord s q).map fun r => (q, r)).filter
      fun e => bit (leNat (e.2.take 8)) 52).take 64 = [(q, r)] := by simp [hRecord, hHost]
  have hQuiet : ([(q, r)].any fun e => bit (leNat (e.2.take 8)) 53) = false := by simp [hPlain]
  unfold opEventForward
  rw [hCaptain, hOne]
  generalize globalRecord s = record at hMine ⊢
  dsimp only
  rw [hMine, List.getLast?_singleton]
  dsimp only
  rw [hQuiet, if_neg Bool.false_ne_true, List.map_singleton, List.length_singleton]

/-- Settles O11. -/
theorem eventQueues : Obligations.EventQueues := by
  unfold Obligations.EventQueues
  refine ⟨?_, ?_, ?_, ?_, ?_⟩
  · intro q v s hv hWaiting hLost
    have hValue : bits v.toNat 9 0 = v.toNat := by rw [bits_eq_div (by decide) (by omega)]; omega
    have hOp : opEventQueueHeadWrite q.val v s = setFld s (eqHead q.val) 9 0 v.toNat := by
      rw [opEventQueueHeadWrite, if_neg (by simp [bits_above (lo := 10) 63 hv]), hValue]
      exact evRoom_quiet (by rw [getEq_setFld, hWaiting]) (by rw [getEq_setFld, hLost])
    refine .of_effect rfl hOp (onlyRegs_setFld ..).pending_eq ⟨onlyRegs_setFld .., ?_⟩
    rw [fld_setFld _ _ _ _ _ (by decide) (by decide), Nat.mod_eq_of_lt (by omega)]
  · intro q off s hAlign hEnd hWaiting hLost
    have hLow : tier1Base q.val + off < 2 ^ 48 := by
      unfold tier1Base
      unfold tier1Size at *
      omega
    have hWord : (BitVec.ofNat 64 (tier1Base q.val + off)).toNat = tier1Base q.val + off := by
      rw [BitVec.toNat_ofNat, Nat.mod_eq_of_lt (by omega)]
    have hValue : bits (tier1Base q.val + off) 47 0 = tier1Base q.val + off := by
      rw [bits_eq_div (by decide) hLow, Nat.pow_zero, Nat.div_one]
    have hOp : opEventQueueBaseWrite q.val (BitVec.ofNat 64 (tier1Base q.val + off)) s =
        setFld s (eqBase q.val) 47 0 (tier1Base q.val + off) := by
      rw [opEventQueueBaseWrite, hWord, hValue, if_neg (by simp [bits_above (lo := 48) 63 hLow, eqBaseOk_own q hAlign hEnd])]
      exact evRoom_quiet (by rw [getEq_setFld, hWaiting]) (by rw [getEq_setFld, hLost])
    refine .of_effect rfl hOp (onlyRegs_setFld ..).pending_eq ⟨onlyRegs_setFld .., ?_⟩
    rw [fld_setFld _ _ _ _ _ (by decide) (by decide), Nat.mod_eq_of_lt (by omega)]
  · intro s
    exact .of_effect rfl rfl (onlyRegs_setFlag ..).pending_eq ⟨onlyRegs_setFlag .., flag_setFlag _ _ _ _ (by decide)⟩
  · intro c s hCaptain hNone
    exact exec_of_eq rfl (opEventForward_none hCaptain hNone) rfl
  · intro c q r s hCaptain hOne hRecord hHost hPlain
    have hExec : exec .eventForward s = .next (keepQueue s (opEventForward s)) := rfl
    rw [hExec, opEventForward_one hCaptain hOne hRecord hHost hPlain]

end Sys2Proof.Machine
end


section
/-! PROOFS. Start-up and the timing mode (O13, O14). -/

namespace Sys2Proof.Machine

/-! ### Phases -/

theorem setPhase_eq {s : State} (h : isReady s = false) (p : Nat) : setPhase s p =
    setFld (setFld s Reg.glbStartStatus 30 27 p) Reg.glbStartStatus 22 0
      (min 0x7FFFFF (timeNs (setFld s Reg.glbStartStatus 30 27 p) / 1000000)) := if_neg (by simp [h])

theorem onlyRegs_setPhase (s : State) (p : Nat) : OnlyRegs [Reg.glbStartStatus] s (setPhase s p) := by
  cases h : isReady s
  · rw [setPhase_eq h]
    exact (onlyRegs_setFld s Reg.glbStartStatus 30 27 p).trans (onlyRegs_setFld _ _ _ _ _)
  · rw [setPhase, if_pos h]
    exact onlyRegs_refl _ s

theorem phase_setPhase {s : State} (h : isReady s = false) {p : Nat} (hp : p < 16) : phase (setPhase s p) = p := by
  rw [phase, setPhase_eq h, fld_setFld_other _ _ _ _ _ _ _ (by decide) (by decide) (by decide),
    fld_setFld _ _ _ _ _ (by decide) (by decide)]
  exact Nat.mod_eq_of_lt hp

theorem timeNs_setFld_start (s : State) (hi lo x : Nat) : timeNs (setFld s Reg.glbStartStatus hi lo x) = timeNs s := by
  rw [timeNs, rd_setFld_other _ _ _ _ (by decide), timeNs]

theorem elapsed_setPhase {s : State} (h : isReady s = false) (p : Nat) :
    fld (setPhase s p) Reg.glbStartStatus 22 0 = min 0x7FFFFF (timeNs s / 1000000) := by
  rw [setPhase_eq h, fld_setFld _ _ _ _ _ (by decide) (by decide), timeNs_setFld_start]
  exact Nat.mod_eq_of_lt (by omega)

/-! ### What the boot ROM leaves of a release -/

/-- The registers whose values stand from the release of reset on. -/
abbrev releaseRegs : List RegRef := [Reg.glbLcStatus, Reg.glbLcNonce, Reg.glbGroupStatus, Reg.glbRefStatus]

/-- What loading the fuses and running the boot ROM keep. -/
structure BootKeeps (s t : State) : Prop where
  memory : SameMemory s t
  board : t.board = s.board
  pending : t.pending = s.pending
  regs : ∀ r ∈ [Reg.glbLcNonce, Reg.glbGroupStatus, Reg.glbRefStatus], rd t r = rd s r
  state : fld t Reg.glbLcStatus 31 28 = fld s Reg.glbLcStatus 31 28

theorem BootKeeps.refl (s : State) : BootKeeps s s := ⟨⟨rfl, rfl⟩, rfl, rfl, fun _ _ => rfl, rfl⟩

theorem BootKeeps.trans {s t u : State} (h : BootKeeps s t) (h' : BootKeeps t u) : BootKeeps s u where
  memory := ⟨h'.memory.1.trans h.memory.1, h'.memory.2.trans h.memory.2⟩
  board := h'.board.trans h.board
  pending := h'.pending.trans h.pending
  regs r hr := (h'.regs r hr).trans (h.regs r hr)
  state := h'.state.trans h.state

theorem OnlyRegs.bootKeeps {l : List RegRef} {s t : State} (h : OnlyRegs l s t)
    (hApart : ∀ x ∈ l, ∀ r ∈ releaseRegs, x.addr ≠ r.addr) : BootKeeps s t where
  memory := h.sameMemory
  board := h.board_eq
  pending := h.pending_eq
  regs r hr := h.2 r fun x hx => hApart x hx r (List.mem_cons_of_mem _ hr)
  state := by rw [fld, fld, h.2 _ fun x hx => hApart x hx _ (by simp)]

theorem bootKeeps_lcFlag (s : State) {i : Nat} (hi : i < 28) (b : Bool) : BootKeeps s (setFlag s Reg.glbLcStatus i b) := by
  have hFrame := onlyRegs_setFlag s Reg.glbLcStatus i b
  refine ⟨hFrame.sameMemory, hFrame.board_eq, hFrame.pending_eq, fun r hr => hFrame.2 r fun x hx => ?_,
    fld_setFlag_apart _ _ _ _ _ _ (by omega) (.inl hi)⟩
  rw [List.mem_singleton] at hx
  subst hx
  revert r
  decide

theorem bootKeeps_sec (s : State) (x : Sec) : BootKeeps s { s with sec := x } :=
  ⟨⟨rfl, rfl⟩, rfl, rfl, fun _ _ => rfl, rfl⟩

theorem bootKeeps_setPhase (s : State) (p : Nat) : BootKeeps s (setPhase s p) :=
  (onlyRegs_setPhase s p).bootKeeps (by decide)

theorem bootKeeps_imageFault (s : State) : BootKeeps s (imageFault s) :=
  (((bootKeeps_lcFlag s (by decide) true).trans (bootKeeps_setPhase _ 0xF)).trans
    ((onlyRegs_setFld _ Reg.glbStartStatus 26 23 1).bootKeeps (by decide))).trans
      ((onlyRegs_setFld _ Reg.glbPwrStatus 31 29 2).bootKeeps (by decide))

theorem bootKeeps_extend (s : State) (d : BitVec 512) : BootKeeps s (extend s 0 d) := by
  have hWide (v : Nat) : BootKeeps s (setWide s (meas 0) 8 v) := by
    refine List.foldlRecOn (motive := BootKeeps s) _ _ (.refl s) fun t ht k hk => ht.trans ?_
    refine (onlyRegs_wr t (meas 0 k) _).bootKeeps ?_
    have hAddr : ∀ k < 8, ∀ r ∈ releaseRegs, (meas 0 k).addr ≠ r.addr := by decide
    simpa using hAddr k (List.mem_range.mp hk)
  unfold extend
  dsimp only
  split
  · exact (hWide _).trans (bootKeeps_lcFlag _ (by decide) true)
  · exact (hWide _).trans (bootKeeps_sec _ _)

theorem bootKeeps_bootRom (s : State) : BootKeeps s (bootRom s) := by
  unfold bootRom
  dsimp only
  split
  · exact bootKeeps_setPhase s 1
  · split
    · exact (bootKeeps_sec s _).trans (bootKeeps_imageFault _)
    · exact ((((bootKeeps_sec s _).trans (bootKeeps_sec _ _)).trans (bootKeeps_extend _ _)).trans
        (bootKeeps_extend _ _)).trans (bootKeeps_setPhase _ 1)

/-- A register of a channel's block is none of the global block's. -/
theorem bootKeeps_below {s t : State} {r : RegRef} (h : OnlyRegs [r] s t) (hr : r.addr < 0x07F400000000) : BootKeeps s t := by
  refine h.bootKeeps fun x hx y hy => ?_
  rw [List.mem_singleton] at hx
  subst hx
  have hGlobal : ∀ y ∈ releaseRegs, 0x07F400000000 ≤ y.addr := by decide
  have := hGlobal y hy
  omega

theorem zipIdx_lt {α : Type} {l : List α} {n : Nat} {e : α × Nat} (h : e ∈ (l.take n).zipIdx) : e.2 < n := by
  obtain ⟨x, i⟩ := e
  have := List.snd_lt_of_mem_zipIdx h
  simp at this ⊢
  omega

theorem bootKeeps_loadFuses (s : State) : BootKeeps s (loadFuses s) := by
  unfold loadFuses
  dsimp only
  have hCores : BootKeeps s ((s.fuses.coreMap.take 4).zipIdx.foldl (fun s (p : List Nat × Nat) =>
      (p.1.take 768).zipIdx.foldl (fun s (q : Nat × Nat) => setFld s (Reg.chCoreMap p.2 q.2) 9 0 q.1) s) s) := by
    refine List.foldlRecOn (motive := BootKeeps s) _ _ (.refl s) fun t ht p hp => ?_
    refine List.foldlRecOn (motive := BootKeeps s) _ _ ht fun u hu q hq => hu.trans (bootKeeps_below (onlyRegs_setFld ..) ?_)
    have hChannel := zipIdx_lt hp
    have hCore := zipIdx_lt hq
    simp only [Reg.chCoreMap, chBlock]
    omega
  refine List.foldlRecOn (motive := BootKeeps s) _ _ hCores fun t ht e _ => ?_
  split
  case isFalse => exact ht
  case isTrue hIn =>
    simp only [Bool.and_eq_true, decide_eq_true_eq] at hIn
    obtain ⟨⟨hChannel, hCore⟩, hRow⟩ := hIn
    have hBelow : (Reg.coreRowMap e.1 e.2.1 e.2.2.1).addr < 0x07F400000000 := by
      simp only [Reg.coreRowMap, corePage, chBlock]
      omega
    exact (ht.trans (bootKeeps_below (onlyRegs_setFlag ..) hBelow)).trans (bootKeeps_below (onlyRegs_setFld ..) hBelow)

/-! ### Reset release -/

/-- The state as released, before the boot ROM runs (R505, R647, R648). -/
def released (straps : Nat) (primary : Bool) (nonce : W64) (s : State) : State :=
  let s := setPower { s with board := { s.board with straps := straps, causes := 0 } } 3
  let s := wr (setFld s Reg.glbGroupStatus 27 25 straps) Reg.glbLcNonce nonce
  if primary then s else setFld (setFlag s Reg.glbRefStatus 29 true) Reg.glbRefStatus 31 30 2

theorem opResetRelease_eq {straps : Nat} {primary : Bool} {nonce : W64} {s : State} (hReset : powerState s = 2)
    (hHigh : s.board.held = false) (hInside : s.board.tap.outside = false) (hPhase : phase s = 0) :
    opResetRelease straps primary nonce s = bootRom (loadFuses (lcStatus (released straps primary nonce s))) :=
  if_neg (by simp [hReset, hHigh, hInside, hPhase])

theorem onlyBoard_released (straps : Nat) (primary : Bool) (nonce : W64) (s : State) :
    OnlyBoard [Reg.glbPwrStatus, Reg.glbByeStatus, Reg.glbGroupStatus, Reg.glbLcNonce, Reg.glbRefStatus] s
      (released straps primary nonce s) := by
  have hNonce : OnlyBoard [Reg.glbPwrStatus, Reg.glbByeStatus, Reg.glbGroupStatus, Reg.glbLcNonce, Reg.glbRefStatus] s
      (wr (setFld (setPower { s with board := { s.board with straps := straps, causes := 0 } } 3) Reg.glbGroupStatus 27 25 straps)
        Reg.glbLcNonce nonce) :=
    (onlyBoard_board _ s _).trans ((((setPower_frame _ 3).mono (by simp)).trans
      ((onlyRegs_setFld _ Reg.glbGroupStatus 27 25 straps).mono (by simp))).trans
        ((onlyRegs_wr _ Reg.glbLcNonce nonce).mono (by simp))).onlyBoard
  unfold released
  cases primary
  · exact hNonce.trans (((onlyRegs_setFlag _ Reg.glbRefStatus 29 true).trans
      (onlyRegs_setFld _ Reg.glbRefStatus 31 30 2)).mono (by simp)).onlyBoard
  · exact hNonce

theorem board_released (straps : Nat) (primary : Bool) (nonce : W64) (s : State) :
    (released straps primary nonce s).board = { s.board with straps := straps, causes := 0 } := by
  unfold released
  cases primary
  · dsimp only
    rw [if_neg Bool.false_ne_true, setFld_board, setFlag_board, wr_board, setFld_board, (setPower_frame _ 3).board_eq]
  · dsimp only
    rw [if_pos rfl, wr_board, setFld_board, (setPower_frame _ 3).board_eq]

/-- Nothing but GLB_REF_STATUS tells which control core has started. -/
theorem rd_released (straps : Nat) (primary : Bool) (nonce : W64) (s : State) {r : RegRef}
    (h : Reg.glbRefStatus.addr ≠ r.addr) : rd (released straps primary nonce s) r =
      rd (wr (setFld (setPower { s with board := { s.board with straps := straps, causes := 0 } } 3) Reg.glbGroupStatus 27 25
        straps) Reg.glbLcNonce nonce) r := by
  unfold released
  cases primary
  · exact ((onlyRegs_setFlag _ Reg.glbRefStatus 29 true).trans (onlyRegs_setFld _ Reg.glbRefStatus 31 30 2)).2 r (by simpa using h)
  · rfl

theorem nonce_released (straps : Nat) (primary : Bool) (nonce : W64) (s : State) :
    rd (released straps primary nonce s) Reg.glbLcNonce = nonce := by
  rw [rd_released _ _ _ _ (by decide), rd_wr]

theorem straps_released (straps : Fin 8) (primary : Bool) (nonce : W64) (s : State) :
    fld (released straps.val primary nonce s) Reg.glbGroupStatus 27 25 = straps.val := by
  rw [fld, rd_released _ _ _ _ (by decide), rd_wr_other _ _ (by decide), ← fld, fld_setFld _ _ _ _ _ (by decide) (by decide)]
  exact Nat.mod_eq_of_lt straps.isLt

theorem refStatus_released (straps : Nat) (nonce : W64) (s : State) :
    fld (released straps false nonce s) Reg.glbRefStatus 31 30 = 2 ∧ flag (released straps false nonce s) Reg.glbRefStatus 29 = true := by
  unfold released
  dsimp only
  rw [if_neg Bool.false_ne_true]
  constructor
  · exact fld_setFld _ _ _ _ _ (by decide) (by decide)
  · rw [flag, fld_setFld_other _ _ _ _ _ _ _ (by decide) (by decide) (by decide), ← flag, flag_setFlag _ _ _ _ (by decide)]

theorem onlyRegs_lcStatus (s : State) : OnlyRegs [Reg.glbLcStatus] s (lcStatus s) :=
  ((onlyRegs_setFld s Reg.glbLcStatus 31 28 _).trans (onlyRegs_setFlag _ Reg.glbLcStatus 24 _)).trans
    ((onlyRegs_setFld _ Reg.glbLcStatus 27 26 _).trans (onlyRegs_setFlag _ Reg.glbLcStatus 25 _))

theorem lifeState_lcStatus (s : State) : fld (lcStatus s) Reg.glbLcStatus 31 28 = s.fuses.state1 % 16 := by
  unfold lcStatus
  dsimp only
  rw [fld_setFlag_apart _ _ _ _ _ _ (by decide) (by decide), fld_setFld_other _ _ _ _ _ _ _ (by decide) (by decide) (by decide),
    fld_setFlag_apart _ _ _ _ _ _ (by decide) (by decide), fld_setFld _ _ _ _ _ (by decide) (by decide), lifeState]
  rfl

/-! ### The wipe -/

/-- What the steps of the wipe keep once memory is empty: all but the cores and the registers of the core pages. -/
structure WipeKeeps (s t : State) : Prop where
  units : t = { s with regs := t.regs, cores := t.cores }
  regs : ∀ r : RegRef, chBlock 4 ≤ r.addr → r.addr % 0x1000 ≠ 0x18 → rd t r = rd s r

theorem WipeKeeps.refl (s : State) : WipeKeeps s s := ⟨rfl, fun _ _ _ => rfl⟩

theorem WipeKeeps.trans {s t u : State} (h : WipeKeeps s t) (h' : WipeKeeps t u) : WipeKeeps s u where
  units := by rw [h'.units, h.units]
  regs r hr hPlace := (h'.regs r hr hPlace).trans (h.regs r hr hPlace)

theorem wipeKeeps_cores (s : State) (c : List (Nat × Core)) : WipeKeeps s { s with cores := c } := ⟨rfl, fun _ _ _ => rfl⟩

theorem wipeKeeps_csPower (s : State) (n i x : Nat) : WipeKeeps s (setFld s (Reg.coreCsPower n i) 3 1 x) where
  units := by
    have h := (onlyRegs_setFld s (Reg.coreCsPower n i) 3 1 x).1
    rw [h]
  regs r _ hPlace := (onlyRegs_setFld s (Reg.coreCsPower n i) 3 1 x).2 r fun y hy hSame => by
    rw [List.mem_singleton] at hy
    subst hy
    simp only [Reg.coreCsPower, corePage, chBlock] at hSame
    omega

/-- Memory, the core stores and the registers of the core pages wiped (R179, R642). -/
def wiped (s : State) : State :=
  { s with mem := [], errs := [], regs := mkeep (fun a => !wipedReg a) s.regs }

theorem wipeKeeps_wipeAll (s : State) : WipeKeeps (wiped s) (wipeAll s) := by
  have hCores : WipeKeeps (wiped s) ((wiped s).cores.foldl (fun (s : State) e =>
      { s with cores := mset Core.idle s.cores e.1 { e.2 with gather := [], score := [], wb := [] } }) (wiped s)) :=
    foldl_keeps (WipeKeeps (wiped s)) _ (fun t _ ht => ht.trans (wipeKeeps_cores t _)) _ (.refl _)
  exact foldl_keeps (WipeKeeps (wiped s)) _ (fun t n ht =>
    foldl_keeps (WipeKeeps (wiped s)) _ (fun u i hu => hu.trans (wipeKeeps_csPower u n i 0)) _ ht) _ hCores

/-- A register of the global block outlives the wipe. -/
theorem rd_wipeAll (s : State) {r : RegRef} (hr : chBlock 4 ≤ r.addr) (hPlace : r.addr % 0x1000 ≠ 0x18) :
    rd (wipeAll s) r = rd s r := by
  have hKept : (!wipedReg r.addr) = true := by simp [wipedReg, Nat.not_lt.mpr hr]
  have hRegs : (wiped s).regs = mkeep (fun a => !wipedReg a) s.regs := by rw [wiped]
  rw [(wipeKeeps_wipeAll s).regs r hr hPlace, rd, hRegs, mget_mkeep, if_pos hKept, rd]

theorem mem_wipeAll (s : State) : (wipeAll s).mem = [] := by rw [(wipeKeeps_wipeAll s).units, wiped]
theorem errs_wipeAll (s : State) : (wipeAll s).errs = [] := by rw [(wipeKeeps_wipeAll s).units, wiped]
theorem chans_wipeAll (s : State) : (wipeAll s).chans = s.chans := by rw [(wipeKeeps_wipeAll s).units, wiped]
theorem sec_wipeAll (s : State) : (wipeAll s).sec = s.sec := by rw [(wipeKeeps_wipeAll s).units, wiped]
theorem pending_wipeAll (s : State) : (wipeAll s).pending = s.pending := by rw [(wipeKeeps_wipeAll s).units, wiped]

/-- The state with wiped set (R642). -/
def wipeDone (s : State) : State := setFlag (wipeAll s) Reg.glbLcStatus 23 true

theorem wipeDone_frame (s : State) : OnlyRegs [Reg.glbLcStatus] (wipeAll s) (wipeDone s) := onlyRegs_setFlag ..

theorem startStatus_wipeDone (s : State) : rd (wipeDone s) Reg.glbStartStatus = rd s Reg.glbStartStatus := by
  rw [(wipeDone_frame s).2 _ (by decide), rd_wipeAll s (by decide) (by decide)]

theorem boot_wipeDone (s : State) : (wipeDone s).sec.boot = s.sec.boot := by
  rw [(wipeDone_frame s).1, sec_wipeAll]

theorem opWipeComplete_noBoot {s : State} (hPhase : phase s = 2) (hNone : s.sec.boot = none) :
    opWipeComplete s = setFld (setPhase (wipeDone s) 0xF) Reg.glbStartStatus 26 23 2 := by
  rw [opWipeComplete, if_neg (by simp [hPhase])]
  exact if_pos (by rw [← wipeDone, boot_wipeDone, hNone]; rfl)

theorem opWipeComplete_boot {s : State} (hPhase : phase s = 2) (hBoot : s.sec.boot ≠ none) :
    opWipeComplete s = bootFirmware (setPhase (wipeDone s) 3) := by
  rw [opWipeComplete, if_neg (by simp [hPhase])]
  exact if_neg (by rw [← wipeDone, boot_wipeDone]; simpa using hBoot)

theorem opMemoryTrainingDone_all {s : State} (hPhase : phase s = 1) :
    opMemoryTrainingDone [] [] false false s = setPhase s 2 := by
  rw [opMemoryTrainingDone, if_neg (by simp [hPhase]), if_neg Bool.false_ne_true, if_neg Bool.false_ne_true]
  rfl

/-- Settles O13. -/
theorem startUp : Obligations.StartUp := by
  unfold Obligations.StartUp
  refine ⟨?_, ?_, ?_, ?_, fun s => ⟨mem_wipeAll s, errs_wipeAll s, chans_wipeAll s⟩⟩
  · intro straps primary nonce s hReset hHigh hInside hPhase
    have hReleased := onlyBoard_released straps.val primary nonce s
    have hLoaded := onlyRegs_lcStatus (released straps.val primary nonce s)
    have hBoot := (bootKeeps_loadFuses (lcStatus (released straps.val primary nonce s))).trans (bootKeeps_bootRom _)
    have hOther {r : RegRef} (hr : r ∈ [Reg.glbLcNonce, Reg.glbGroupStatus, Reg.glbRefStatus])
        (hApart : Reg.glbLcStatus.addr ≠ r.addr) :
        rd (bootRom (loadFuses (lcStatus (released straps.val primary nonce s)))) r = rd (released straps.val primary nonce s) r := by
      rw [hBoot.regs r hr, hLoaded.2 r (by simpa using hApart)]
    refine .of_effect rfl (opResetRelease_eq hReset hHigh hInside hPhase)
      (hBoot.pending.trans (hLoaded.pending_eq.trans hReleased.pending_eq)) ⟨?_, ?_, ?_, ?_, ?_, fun hStandby => ?_⟩
    · rw [hOther (by simp) (by decide), nonce_released]
    · rw [fld, hOther (by simp) (by decide), ← fld, straps_released]
    · rw [hBoot.board, hLoaded.board_eq, board_released]
    · rw [hBoot.state, lifeState_lcStatus, hReleased.fuses_eq]
    · exact ⟨hBoot.memory.1.trans (hLoaded.mem_eq.trans hReleased.sameMemory.1),
        hBoot.memory.2.trans (hLoaded.errs_eq.trans hReleased.sameMemory.2)⟩
    · subst hStandby
      obtain ⟨hActive, hFailed⟩ := refStatus_released straps.val nonce s
      have hRef := hOther (r := Reg.glbRefStatus) (by simp) (by decide)
      exact ⟨by rw [fld, hRef, ← fld, hActive], by rw [flag, fld, hRef, ← fld, ← flag, hFailed]⟩
  · intro s hPhase hNotReady
    exact .of_effect rfl (opMemoryTrainingDone_all hPhase) (onlyRegs_setPhase ..).pending_eq
      ⟨onlyRegs_setPhase .., phase_setPhase hNotReady (by decide), elapsed_setPhase hNotReady 2⟩
  · intro s hPhase hNotReady hNone
    have hStill : isReady (wipeDone s) = false := by rw [isReady, flag, fld, startStatus_wipeDone, ← fld, ← flag, ← isReady, hNotReady]
    have hFrame := (wipeDone_frame s).mono (m := [Reg.glbLcStatus, Reg.glbStartStatus]) (by simp) |>.trans
      (((onlyRegs_setPhase (wipeDone s) 0xF).trans (onlyRegs_setFld _ Reg.glbStartStatus 26 23 2)).mono (by simp))
    refine .of_effect rfl (opWipeComplete_noBoot hPhase hNone) (hFrame.pending_eq.trans (pending_wipeAll s))
      ⟨hFrame.mem_eq.trans (mem_wipeAll s), hFrame.errs_eq.trans (errs_wipeAll s), ?_, ?_, ?_⟩
    · rw [flag_setFld_apart _ _ _ _ _ (by decide), flag, fld, (onlyRegs_setPhase ..).2 _ (by decide), ← fld, ← flag, wipeDone,
        flag_setFlag _ _ _ _ (by decide)]
    · rw [phase, fld_setFld_other _ _ _ _ _ _ _ (by decide) (by decide) (by decide), ← phase, phase_setPhase hStill (by decide)]
    · exact fld_setFld _ _ _ _ _ (by decide) (by decide)
  · intro s hPhase hBoot
    have hExec : exec .wipeComplete s = .next (keepQueue s (opWipeComplete s)) := rfl
    rw [hExec, opWipeComplete_boot hPhase hBoot, wipeDone]

/-! ### The timing mode -/

/-- Memory and the queue stand, and every register but those listed reads as before. -/
structure QuietBut (l : List RegRef) (s t : State) : Prop where
  memory : SameMemory s t
  pending : t.pending = s.pending
  regs : RegsBut l s t

theorem QuietBut.refl (l : List RegRef) (s : State) : QuietBut l s s := ⟨⟨rfl, rfl⟩, rfl, fun _ _ => rfl⟩

theorem QuietBut.trans {l : List RegRef} {s t u : State} (h : QuietBut l s t) (h' : QuietBut l t u) : QuietBut l s u where
  memory := ⟨h'.memory.1.trans h.memory.1, h'.memory.2.trans h.memory.2⟩
  pending := h'.pending.trans h.pending
  regs := h.regs.trans h'.regs

theorem QuietBut.mono {l m : List RegRef} {s t : State} (h : QuietBut l s t) (hm : ∀ x ∈ l, x ∈ m) : QuietBut m s t :=
  ⟨h.memory, h.pending, h.regs.mono hm⟩

theorem OnlyRegs.quietBut {l m : List RegRef} {s t : State} (h : OnlyRegs l s t) (hm : ∀ x ∈ l, x ∈ m) : QuietBut m s t :=
  ⟨h.sameMemory, h.pending_eq, h.2.mono hm⟩

theorem quietBut_setChan (l : List RegRef) (s : State) (n : Nat) (c : Chan) : QuietBut l s (s.setChan n c) :=
  ⟨⟨rfl, rfl⟩, rfl, fun _ _ => rfl⟩

theorem quietBut_commitSvn (l : List RegRef) (s : State) : QuietBut l s (commitSvn s) :=
  ⟨⟨by rw [commitSvn], by rw [commitSvn]⟩, by rw [commitSvn], fun r _ => rd_congr (by rw [commitSvn]) r⟩

theorem quietBut_tryReady (s : State) : QuietBut [Reg.glbStartStatus, Reg.glbStartCtrl] s (tryReady s) := by
  unfold tryReady
  split
  · exact .refl _ s
  · have hReady : QuietBut [Reg.glbStartStatus, Reg.glbStartCtrl] s
        (setFlag (setFlag (setPhase s 9) Reg.glbStartStatus 31 true) Reg.glbStartCtrl 0 false) :=
      (((onlyRegs_setPhase s 9).quietBut (by simp)).trans ((onlyRegs_setFlag _ Reg.glbStartStatus 31 true).quietBut (by simp))).trans
        ((onlyRegs_setFlag _ Reg.glbStartCtrl 0 false).quietBut (by simp))
    exact hReady.trans (quietBut_commitSvn _ _)

/-- The stall counters of a channel read by firmware and cleared (R658). -/
def stallsNoted (n : Nat) (s : State) : State :=
  (stallRegs n).foldl (fun s r => wr s r 0)
    (s.setChan n { s.chan n with book := { (s.chan n).book with stalls := (stallRegs n).map fun r => (rd s r).toNat } })

theorem quietBut_stallsNoted (n : Nat) (s : State) : QuietBut (stallRegs n) s (stallsNoted n s) := by
  refine List.foldlRecOn (motive := QuietBut (stallRegs n) s) _ _ (quietBut_setChan _ s n _) fun t ht r hr => ht.trans ?_
  exact (onlyRegs_wr t r 0).quietBut (by simpa using hr)

/-- The state on which a change of mode rests: the counters noted before service mode is first entered. -/
def modeBase (n m : Nat) (s : State) : State := if m = 1 && !isReady s then stallsNoted n s else s

theorem quietBut_modeBase (n m : Nat) (s : State) : QuietBut (stallRegs n) s (modeBase n m s) := by
  unfold modeBase
  split
  · exact quietBut_stallsNoted n s
  · exact .refl _ s

/-- Checksums turned on again as test mode is left (R651). -/
def checksumsBack (n m : Nat) (s : State) : State :=
  if inTest s n && m ≠ 2 then setFlag s (Reg.chChkCtrl n) 0 true else s

theorem onlyRegs_checksumsBack (n m : Nat) (s : State) : OnlyRegs [Reg.chChkCtrl n] s (checksumsBack n m s) := by
  unfold checksumsBack
  split
  · exact onlyRegs_setFlag ..
  · exact onlyRegs_refl _ s

theorem opTimingModeWrite_eq {n : Nat} {v : W64} (hv : v.toNat < 8) (s : State) :
    opTimingModeWrite n v s = tryReady (setFld (checksumsBack n (v.toNat % 4) (modeBase n (v.toNat % 4) s))
      (Reg.chTimingMode n) 1 0 (v.toNat % 4)) := by
  have hMode : bits v.toNat 1 0 = v.toNat % 4 := by simp [bits]
  rw [opTimingModeWrite, if_neg (by simp [bits_above (lo := 3) 63 hv]), hMode]
  rfl

theorem chTimingMode_lt {n : Nat} (h : n < 4) : (Reg.chTimingMode n).addr < 0x07F400000000 := by
  simp only [Reg.chTimingMode, chBlock]
  omega

/-- Settles O14. -/
theorem timingMode : Obligations.TimingMode := by
  unfold Obligations.TimingMode
  intro n v s hv
  have hBase := quietBut_modeBase n.val (v.toNat % 4) s
  have hBack := onlyRegs_checksumsBack n.val (v.toNat % 4) (modeBase n.val (v.toNat % 4) s)
  have hMode := onlyRegs_setFld (checksumsBack n.val (v.toNat % 4) (modeBase n.val (v.toNat % 4) s)) (Reg.chTimingMode n.val) 1 0
    (v.toNat % 4)
  have hReady := quietBut_tryReady (setFld (checksumsBack n.val (v.toNat % 4) (modeBase n.val (v.toNat % 4) s))
    (Reg.chTimingMode n.val) 1 0 (v.toNat % 4))
  have hAll : QuietBut ([Reg.chTimingMode n.val, Reg.chChkCtrl n.val, Reg.glbStartStatus, Reg.glbStartCtrl] ++ stallRegs n.val) s _ :=
    (((hBase.mono fun x hx => List.mem_append_right _ hx).trans (hBack.quietBut (by simp))).trans (hMode.quietBut (by simp))).trans (hReady.mono (by simp))
  have hStart : ∀ x ∈ [Reg.glbStartStatus, Reg.glbStartCtrl], 0x07F400000000 ≤ x.addr := by decide
  have hTiming := chTimingMode_lt n.isLt
  refine .of_effect rfl (opTimingModeWrite_eq hv s) hAll.pending ⟨?_, fun hTest hLeaves => ?_, hAll.memory, hAll.regs⟩
  · rw [fld, hReady.regs _ fun x hx => by have := hStart x hx; omega, ← fld, fld_setFld _ _ _ _ _ (by decide) (by decide)]
    omega
  · have hStill : inTest (modeBase n.val (v.toNat % 4) s) n.val = true := by
      rw [inTest, fld, hBase.regs _ (by simp [stallRegs, Reg.chStallFault, Reg.chStallRefresh, Reg.chStallDebug,
        Reg.chStallCredit, Reg.chStallArbiter, Reg.chStallD2d, Reg.chStallOther, Reg.chTimingMode]), ← fld, ← inTest, hTest]
    have hBelow : (Reg.chChkCtrl n.val).addr < 0x07F400000000 := by
      have := n.isLt
      simp only [Reg.chChkCtrl, chBlock]
      omega
    rw [flag, fld, hReady.regs _ fun x hx => by have := hStart x hx; omega, ← fld, ← flag,
      flag_setFld_apart _ _ _ _ _ (by simp [Reg.chTimingMode, Reg.chChkCtrl]), checksumsBack,
      if_pos (by simp [hStill, hLeaves]), flag_setFlag _ _ _ _ (by decide)]

end Sys2Proof.Machine
end


section
/-! PROOFS. The life cycle, attestation and the digests of models (O15, O16). -/

namespace Sys2Proof.Machine

/-! ### Measurements -/

/-- Nothing but the security state and the listed registers differs. -/
structure OnlySec (l : List RegRef) (s t : State) : Prop where
  units : t = { s with regs := t.regs, sec := t.sec }
  regs : RegsBut l s t

theorem OnlySec.trans {l : List RegRef} {s t u : State} (h : OnlySec l s t) (h' : OnlySec l t u) : OnlySec l s u where
  units := by rw [h'.units, h.units]
  regs := h.regs.trans h'.regs

theorem OnlySec.mono {l m : List RegRef} {s t : State} (h : OnlySec l s t) (hm : ∀ x ∈ l, x ∈ m) : OnlySec m s t :=
  ⟨h.units, h.regs.mono hm⟩

theorem OnlyRegs.onlySec {l m : List RegRef} {s t : State} (h : OnlyRegs l s t) (hm : ∀ x ∈ l, x ∈ m) : OnlySec m s t where
  units := by
    have hSec : t.sec = s.sec := by rw [h.1]
    rw [hSec]
    exact h.1
  regs := h.2.mono hm

theorem onlySec_sec (l : List RegRef) (s : State) (x : Sec) : OnlySec l s { s with sec := x } := ⟨rfl, fun _ _ => rfl⟩

section
variable {l : List RegRef} {s t : State} (h : OnlySec l s t)
include h
theorem OnlySec.pending_eq : t.pending = s.pending := by rw [h.units]
theorem OnlySec.fuses_eq : t.fuses = s.fuses := by rw [h.units]
theorem OnlySec.flash_eq : t.flash = s.flash := by rw [h.units]
theorem OnlySec.chans_eq : t.chans = s.chans := by rw [h.units]
theorem OnlySec.ref_eq : t.ref = s.ref := by rw [h.units]
theorem OnlySec.mem_eq : t.mem = s.mem := by rw [h.units]
theorem OnlySec.errs_eq : t.errs = s.errs := by rw [h.units]
end

/-- The words written into a row of registers. -/
theorem onlyRegs_foldl_wr {r : Nat → RegRef} (v : Nat → W64) (ks : List Nat) (s : State) :
    OnlyRegs (ks.map r) s (ks.foldl (fun s k => wr s (r k) (v k)) s) := by
  refine List.foldlRecOn (motive := OnlyRegs (ks.map r) s) _ _ (onlyRegs_refl _ s) fun t ht k hk => ht.trans ?_
  exact (onlyRegs_wr t (r k) (v k)).mono (by simpa using ⟨k, hk, rfl⟩)

/-- The registers of measurement i. -/
abbrev measRegs (i : Nat) : List RegRef := (List.range 8).map (meas i)

theorem onlySec_extend (s : State) (i : Nat) (d : BitVec 512) :
    OnlySec (Reg.glbLcStatus :: measRegs i) s (extend s i d) := by
  have hWide (v : Nat) : OnlySec (Reg.glbLcStatus :: measRegs i) s (setWide s (meas i) 8 v) :=
    (onlyRegs_foldl_wr (r := meas i) (fun k => BitVec.ofNat 64 (v / 2 ^ (64 * k))) (List.range 8) s).onlySec
      fun x hx => List.mem_cons_of_mem _ hx
  unfold extend
  dsimp only
  split
  · exact (hWide _).trans ((onlyRegs_setFlag _ Reg.glbLcStatus 21 true).onlySec (by simp))
  · exact (hWide _).trans (onlySec_sec _ _ _)

theorem flag_of_regs {s t : State} (h : t.regs = s.regs) (r : RegRef) (i : Nat) : flag t r i = flag s r i := by
  rw [flag, fld, rd_congr h, ← fld, ← flag]

/-- A measurement may mark the log as full in GLB_LC_STATUS, and nothing else there. -/
theorem flag_extend (s : State) (i : Nat) (d : BitVec 512) {j : Nat} (hj : j ≠ 21)
    (hApart : ∀ k < 8, (meas i k).addr ≠ Reg.glbLcStatus.addr) :
    flag (extend s i d) Reg.glbLcStatus j = flag s Reg.glbLcStatus j := by
  have hWide (v : Nat) : rd (setWide s (meas i) 8 v) Reg.glbLcStatus = rd s Reg.glbLcStatus :=
    (onlyRegs_foldl_wr (r := meas i) (fun k => BitVec.ofNat 64 (v / 2 ^ (64 * k))) (List.range 8) s).2 _ (by simpa using hApart)
  unfold extend
  dsimp only
  have hRd := hWide (Config.sha3 (leBytes 64 (wide s (meas i) 8) ++ digestBytes d)).toNat
  generalize setWide s (meas i) 8 (Config.sha3 (leBytes 64 (wide s (meas i) 8) ++ digestBytes d)).toNat = t at hRd ⊢
  have hFlag : flag t Reg.glbLcStatus j = flag s Reg.glbLcStatus j := by rw [flag, fld, hRd, ← fld, ← flag]
  split
  · rw [flag_setFlag_other _ _ _ (by decide) hj.symm, hFlag]
  · exact (flag_of_regs rfl _ _).trans hFlag

/-! ### The end of an attempt -/

theorem onlyRegs_endAttempt (s : State) (r : Nat) (nonce : W64) :
    OnlyRegs [Reg.glbLcCmd, Reg.glbLcNonce] s (endAttempt s r nonce) :=
  ((((onlyRegs_setFlag s Reg.glbLcCmd 31 false).trans (onlyRegs_setFlag _ Reg.glbLcCmd 30 false)).trans
    (onlyRegs_setFld _ Reg.glbLcCmd 29 26 r)).mono (by simp)).trans ((onlyRegs_wr _ Reg.glbLcNonce nonce).mono (by simp))

theorem endAttempt_reads (s : State) (r : Nat) (nonce : W64) :
    fld (endAttempt s r nonce) Reg.glbLcCmd 29 26 = r % 16 ∧ flag (endAttempt s r nonce) Reg.glbLcCmd 31 = false ∧
      rd (endAttempt s r nonce) Reg.glbLcNonce = nonce := by
  unfold endAttempt
  dsimp only
  refine ⟨?_, ?_, rd_wr ..⟩
  · rw [fld, rd_wr_other _ _ (by decide), ← fld]
    exact fld_setFld _ _ _ _ _ (by decide) (by decide)
  · rw [flag, fld, rd_wr_other _ _ (by decide), ← fld, fld_setFld_other _ _ _ _ _ _ _ (by decide) (by decide) (by decide), ← flag,
      flag_setFlag_other _ _ _ (by decide) (by decide), flag_setFlag _ _ _ _ (by decide)]

/-- A token without an authority is refused as none that the table lists. -/
theorem tokenResult_none (s : State) : tokenResult s none = 4 := rfl

theorem tokenResult_le (s : State) (a : Option Authority) : tokenResult s a ≤ 6 := by
  unfold tokenResult
  split
  · decide
  · split
    · decide
    · split_ifs <;> decide

/-! ### The three ways on from a token that passes -/

theorem opLcTransition_refused {seed back : List Byte} {nonce : W64} {cut : Option BurnCut} {s : State}
    (h : tokenResult s (transition (lifeState s) (tokenNat s 0 1)) ≠ 0) : opLcTransition seed back nonce cut s =
      endAttempt s (tokenResult s (transition (lifeState s) (tokenNat s 0 1))) nonce := if_pos h

theorem opLcTransition_cut {seed back : List Byte} {nonce : W64} {c : BurnCut} {s : State}
    (h : tokenResult s (transition (lifeState s) (tokenNat s 0 1)) = 0) :
    opLcTransition seed back nonce (some c) s = cutBurn s (tokenNat s 0 1) c := if_neg (not_not.mpr h)

/-- The seed copies as an enrolment burns them. -/
def seedsBurned (seed back : List Byte) (s : State) : State :=
  { s with fuses := { s.fuses with seed0 := burnSeed s.fuses.seed0 seed, seed1 := burnSeed s.fuses.seed1 back } }

theorem opLcTransition_mismatch {seed back : List Byte} {nonce : W64} {s : State}
    (h : tokenResult s (transition (lifeState s) (tokenNat s 0 1)) = 0) (hTo : tokenNat s 0 1 = 2)
    (hSeeds : burnSeed s.fuses.seed0 seed ≠ burnSeed s.fuses.seed1 back) :
    opLcTransition seed back nonce none s = endAttempt (seedsBurned seed back s) 7 nonce := by
  rw [opLcTransition, if_neg (not_not.mpr h)]
  exact if_pos (by simp [hTo, hSeeds])

/-- The fuses and the flash of a transition that is carried out: its row's action, and both state words. -/
def transitionBurned (to_ : Nat) (seed : List Byte) (s : State) : State :=
  { transitionAct s to_ seed with fuses := { (transitionAct s to_ seed).fuses with state0 := to_, state1 := to_ } }

theorem opLcTransition_carried {seed back : List Byte} {nonce : W64} {s : State}
    (h : tokenResult s (transition (lifeState s) (tokenNat s 0 1)) = 0)
    (hSeeds : ¬ (tokenNat s 0 1 = 2 ∧ burnSeed s.fuses.seed0 seed ≠ burnSeed s.fuses.seed1 back)) :
    opLcTransition seed back nonce none s =
      enterReset 8 false (endAttempt (transitionBurned (tokenNat s 0 1) seed s) 0 nonce) := by
  rw [opLcTransition, if_neg (not_not.mpr h)]
  exact if_neg (by simpa using hSeeds)

/-- A row's action touches fuses and flash alone. -/
theorem transitionAct_units (s : State) (to_ : Nat) (seed : List Byte) : transitionAct s to_ seed =
    { s with fuses := (transitionAct s to_ seed).fuses, flash := (transitionAct s to_ seed).flash } := by
  unfold transitionAct
  split <;> rfl

theorem chans_transitionBurned (to_ : Nat) (seed : List Byte) (s : State) : (transitionBurned to_ seed s).chans = s.chans := by
  rw [transitionBurned, transitionAct_units]

theorem pending_transitionBurned (to_ : Nat) (seed : List Byte) (s : State) : (transitionBurned to_ seed s).pending = s.pending := by
  rw [transitionBurned, transitionAct_units]

/-- The fuses with the first state word burned. -/
def firstBurned (to_ : Nat) (s : State) : State := { s with fuses := { s.fuses with state0 := to_ } }

/-- Whatever cuts a burn short, the fuses and the flash outlive it. -/
theorem keptFuses_cutBurn (s : State) (to_ : Nat) (c : BurnCut) : KeptFuses (firstBurned to_ s) (cutBurn s to_ c) := by
  unfold cutBurn
  cases c <;> exact keptFuses_enterReset _ _ (firstBurned to_ s)

theorem pending_enterReset (causes : Nat) (toAux : Bool) (s : State) : (enterReset causes toAux s).pending = s.pending :=
  (wipedInto_enterReset causes toAux s).pending_eq

theorem pending_cutBurn (s : State) (to_ : Nat) (c : BurnCut) : (cutBurn s to_ c).pending = s.pending := by
  have hFirst : (firstBurned to_ s).pending = s.pending := by rw [firstBurned]
  rw [← hFirst]
  unfold cutBurn
  cases c <;> exact pending_enterReset _ _ (firstBurned to_ s)

theorem lifeState_of_fuses {s t : State} (h : t.fuses = s.fuses) : lifeState t = lifeState s := by
  rw [lifeState, h, lifeState]

/-- The state word in force after a transition that is carried out. -/
theorem fuses_carried (to_ : Nat) (seed : List Byte) (nonce : W64) (s : State) :
    (enterReset 8 false (endAttempt (transitionBurned to_ seed s) 0 nonce)).fuses.state0 = to_ ∧
      lifeState (enterReset 8 false (endAttempt (transitionBurned to_ seed s) 0 nonce)) = to_ := by
  have hFuses := (keptFuses_enterReset 8 false (endAttempt (transitionBurned to_ seed s) 0 nonce)).1.trans
    (onlyRegs_endAttempt (transitionBurned to_ seed s) 0 nonce).fuses_eq
  exact ⟨by rw [hFuses, transitionBurned], by rw [lifeState_of_fuses hFuses, lifeState, transitionBurned]⟩

theorem pending_carried (to_ : Nat) (seed : List Byte) (nonce : W64) (s : State) :
    (enterReset 8 false (endAttempt (transitionBurned to_ seed s) 0 nonce)).pending = s.pending := by
  rw [pending_enterReset, (onlyRegs_endAttempt ..).pending_eq, pending_transitionBurned]

/-- A token whose every check has passed names a row of the table. -/
theorem transition_of_result {s : State} {a : Option Authority} (h : tokenResult s a = 0) : a ≠ none := by
  rintro rfl
  exact absurd h (by rw [tokenResult_none]; decide)

theorem fuses_seedsBurned (seed back : List Byte) (s : State) : lifeState (seedsBurned seed back s) = lifeState s := by
  rw [lifeState, seedsBurned, lifeState]

/-! ### Debug tokens -/

theorem opDebugToken_refused {nonce : W64} {s : State} (h : lifeState s ≠ 4) :
    opDebugToken nonce s = endAttempt (setFlag s Reg.glbLcCmd 25 true) 4 nonce := by
  have hNone : tokenResult s (if (lifeState s == 4 && tokenNat s 0 1 == 0xD) = true then some .vendor else none) = 4 := by
    rw [if_neg (by simp [h]), tokenResult_none]
  rw [opDebugToken, hNone]
  exact if_pos (by decide)

/-- The debug port opened and measured (R633, R641). -/
def debugOpened (s : State) : State :=
  let s := setFlag (setFlag s Reg.glbLcCmd 25 true) Reg.glbLcStatus 24 true
  extend s 2 (stateDigest s)

theorem opDebugToken_allowed {nonce : W64} {s : State} (hState : lifeState s = 4) (hToken : tokenNat s 0 1 = 0xD) :
    opDebugToken nonce s = if tokenResult s (some .vendor) ≠ 0 then
      endAttempt (setFlag s Reg.glbLcCmd 25 true) (tokenResult s (some .vendor)) nonce
    else endAttempt (debugOpened s) 0 nonce := by
  have hAllowed : (if (lifeState s == 4 && tokenNat s 0 1 == 0xD) = true then some Authority.vendor else none) = some .vendor :=
    if_pos (by simp [hState, hToken])
  rw [opDebugToken, hAllowed]
  rfl

theorem onlySec_debugOpened (s : State) : OnlySec (Reg.glbLcCmd :: Reg.glbLcStatus :: measRegs 2) s (debugOpened s) :=
  (((onlyRegs_setFlag s Reg.glbLcCmd 25 true).onlySec (by simp)).trans
    ((onlyRegs_setFlag _ Reg.glbLcStatus 24 true).onlySec (by simp))).trans
      ((onlySec_extend _ 2 _).mono fun x hx => List.mem_cons_of_mem _ hx)

theorem flag_debugOpened (s : State) : flag (debugOpened s) Reg.glbLcStatus 24 = true := by
  rw [debugOpened, flag_extend _ _ _ (by decide) (by decide), flag_setFlag _ _ _ _ (by decide)]

theorem flag_lcStatus_endAttempt (s : State) (r : Nat) (nonce : W64) :
    flag (endAttempt s r nonce) Reg.glbLcStatus 24 = flag s Reg.glbLcStatus 24 := by
  rw [flag, fld, (onlyRegs_endAttempt s r nonce).2 _ (by decide), ← fld, ← flag]

/-- Settles O15, by the four ends of a token: refused, cut short, its seed copies unlike, carried out. -/
theorem lifeCycle : Obligations.LifeCycle := by
  unfold Obligations.LifeCycle
  refine ⟨?_, ?_, ?_, ?_, ?_, ?_⟩
  · intro seed back nonce cut s
    by_cases hResult : tokenResult s (transition (lifeState s) (tokenNat s 0 1)) = 0
    case neg =>
      have hFrame := onlyRegs_endAttempt s (tokenResult s (transition (lifeState s) (tokenNat s 0 1))) nonce
      exact .of_effect rfl (opLcTransition_refused hResult) hFrame.pending_eq (.inl (lifeState_of_fuses hFrame.fuses_eq))
    case pos =>
      cases cut with
      | some c =>
        refine .of_effect rfl (opLcTransition_cut hResult) (pending_cutBurn ..) (.inl ?_)
        rw [lifeState_of_fuses (keptFuses_cutBurn ..).1, lifeState, firstBurned, lifeState]
      | none =>
        by_cases hSeeds : tokenNat s 0 1 = 2 ∧ burnSeed s.fuses.seed0 seed ≠ burnSeed s.fuses.seed1 back
        · obtain ⟨hTo, hUnlike⟩ := hSeeds
          have hFrame := onlyRegs_endAttempt (seedsBurned seed back s) 7 nonce
          refine .of_effect rfl (opLcTransition_mismatch hResult hTo hUnlike) (hFrame.pending_eq.trans rfl) (.inl ?_)
          rw [lifeState_of_fuses hFrame.fuses_eq, fuses_seedsBurned]
        · refine .of_effect rfl (opLcTransition_carried hResult hSeeds) (pending_carried ..) (.inr ?_)
          rw [(fuses_carried ..).2]
          exact ⟨transition_of_result hResult, hResult⟩
  · intro seed back nonce c s
    by_cases hResult : tokenResult s (transition (lifeState s) (tokenNat s 0 1)) = 0
    · have hKept := keptFuses_cutBurn s (tokenNat s 0 1) c
      refine .of_effect rfl (opLcTransition_cut hResult) (pending_cutBurn ..) ⟨?_, fun _ => ⟨?_, ?_⟩⟩
      · rw [lifeState_of_fuses hKept.1, lifeState, firstBurned, lifeState]
      · rw [hKept.1, firstBurned]
      · rw [hKept.2, firstBurned]
    · have hFrame := onlyRegs_endAttempt s (tokenResult s (transition (lifeState s) (tokenNat s 0 1))) nonce
      exact .of_effect rfl (opLcTransition_refused hResult) hFrame.pending_eq
        ⟨lifeState_of_fuses hFrame.fuses_eq, fun h => absurd h hResult⟩
  · intro seed back nonce s hTo hUnlike
    by_cases hResult : tokenResult s (transition (lifeState s) (tokenNat s 0 1)) = 0
    · have hFrame := onlyRegs_endAttempt (seedsBurned seed back s) 7 nonce
      refine .of_effect rfl (opLcTransition_mismatch hResult hTo hUnlike) (hFrame.pending_eq.trans rfl)
        ⟨by rw [lifeState_of_fuses hFrame.fuses_eq, fuses_seedsBurned], fun _ => ⟨(endAttempt_reads ..).1, ?_⟩⟩
      rw [hFrame.fuses_eq]
      exact hFrame
    · have hFrame := onlyRegs_endAttempt s (tokenResult s (transition (lifeState s) (tokenNat s 0 1))) nonce
      refine .of_effect rfl (opLcTransition_refused hResult) hFrame.pending_eq
        ⟨lifeState_of_fuses hFrame.fuses_eq, fun h => absurd h ?_⟩
      rwa [hTo] at hResult
  · intro seed nonce s hAlike
    by_cases hResult : tokenResult s (transition (lifeState s) (tokenNat s 0 1)) = 0
    · obtain ⟨hFirst, hLife⟩ := fuses_carried (tokenNat s 0 1) seed nonce s
      refine .of_effect rfl (opLcTransition_carried hResult (by rw [hAlike]; simp)) (pending_carried ..)
        ⟨fun _ => ⟨hLife, hFirst, ?_⟩, fun h => absurd hResult h⟩
      have hFrame := onlyRegs_endAttempt (transitionBurned (tokenNat s 0 1) seed s) 0 nonce
      exact (wipedInto_enterReset 8 false _).of_before (hFrame.chans_eq.trans (chans_transitionBurned ..))
        (hFrame.pending_eq.trans (pending_transitionBurned ..))
    · have hFrame := onlyRegs_endAttempt s (tokenResult s (transition (lifeState s) (tokenNat s 0 1))) nonce
      exact .of_effect rfl (opLcTransition_refused hResult) hFrame.pending_eq
        ⟨fun h => absurd h hResult, fun _ => ⟨hFrame, endAttempt_reads ..⟩⟩
  · intro nonce s hState hToken
    by_cases hResult : tokenResult s (some .vendor) = 0
    · have hFrame := onlyRegs_endAttempt (debugOpened s) 0 nonce
      have hOpened := onlySec_debugOpened s
      obtain ⟨hCode, -, hNonce⟩ := endAttempt_reads (debugOpened s) 0 nonce
      refine .of_effect rfl ((opDebugToken_allowed hState hToken).trans (if_neg (not_not.mpr hResult)))
        (hFrame.pending_eq.trans hOpened.pending_eq) ⟨fun _ => ?_, fun h => absurd hResult h, ?_, hNonce,
          hFrame.fuses_eq.trans hOpened.fuses_eq, hFrame.mem_eq.trans hOpened.mem_eq, hFrame.errs_eq.trans hOpened.errs_eq⟩
      · rw [flag_lcStatus_endAttempt, flag_debugOpened]
      · rw [hCode, hResult]
    · have hMarked := onlyRegs_setFlag s Reg.glbLcCmd 25 true
      have hFrame := onlyRegs_endAttempt (setFlag s Reg.glbLcCmd 25 true) (tokenResult s (some .vendor)) nonce
      obtain ⟨hCode, -, hNonce⟩ := endAttempt_reads (setFlag s Reg.glbLcCmd 25 true) (tokenResult s (some .vendor)) nonce
      have hSmall := tokenResult_le s (some .vendor)
      refine .of_effect rfl ((opDebugToken_allowed hState hToken).trans (if_pos hResult))
        (hFrame.pending_eq.trans hMarked.pending_eq) ⟨fun h => absurd h hResult, fun _ => ?_, ?_, hNonce,
          hFrame.fuses_eq.trans hMarked.fuses_eq, hFrame.mem_eq.trans hMarked.mem_eq, hFrame.errs_eq.trans hMarked.errs_eq⟩
      · rw [flag_lcStatus_endAttempt, setFlag, flag_setFld_apart _ _ _ _ _ (by decide)]
      · rw [hCode, Nat.mod_eq_of_lt (by omega)]
  · intro nonce s hState
    have hFrame := ((onlyRegs_setFlag s Reg.glbLcCmd 25 true).mono (m := [Reg.glbLcCmd, Reg.glbLcNonce]) (by simp)).trans
      (onlyRegs_endAttempt _ 4 nonce)
    refine .of_effect rfl (opDebugToken_refused hState) hFrame.pending_eq ⟨hFrame, (endAttempt_reads ..).1, ?_⟩
    rw [flag_lcStatus_endAttempt, setFlag, flag_setFld_apart _ _ _ _ _ (by decide)]

/-! ### Attestation -/

theorem length_fit (n : Nat) (bs : List Byte) : (fit n bs).length = n := by simp [fit]

theorem onlyRegs_setWindow {s : State} {r : Nat → RegRef} {bs : List Byte} {n : Nat} (h : cdiv bs.length 8 = n) :
    OnlyRegs ((List.range n).map r) s (setWindow s r bs) := by
  rw [setWindow, h]
  exact onlyRegs_foldl_wr (r := r) (fun k => BitVec.ofNat 64 (leNat ((bs.drop (8 * k)).take 8))) (List.range n) s

/-- The report written and the command ended (R635, R643). -/
def attested (key : List Byte) (s : State) : State :=
  let n := s.sec.count + 1
  let bs := fit 8192 (reportBody s n ++ fit 4627 (Config.sign key (reportBody s n)))
  let s := { s with sec := { s.sec with count := n } }
  setFlag (setFlag (setWindow s Reg.glbAttReport bs) Reg.glbAttCmd 31 false) Reg.glbAttCmd 29 true

theorem opAttestationRequest_keyed {key : List Byte} {s : State} (h : s.sec.key = some key) :
    opAttestationRequest s = attested key s := by
  rw [opAttestationRequest, h, attested]

theorem onlyRegs_attested (key : List Byte) (s : State) :
    OnlyRegs (Reg.glbAttCmd :: (List.range 1024).map Reg.glbAttReport)
      { s with sec := { s.sec with count := s.sec.count + 1 } } (attested key s) := by
  have hWords : cdiv (fit 8192 (reportBody s (s.sec.count + 1) ++
      fit 4627 (Config.sign key (reportBody s (s.sec.count + 1))))).length 8 = 1024 := by
    rw [length_fit]
    decide
  exact (((onlyRegs_setWindow hWords).mono fun x hx => List.mem_cons_of_mem _ hx).trans
    ((onlyRegs_setFlag _ Reg.glbAttCmd 31 false).mono (by simp))).trans ((onlyRegs_setFlag _ Reg.glbAttCmd 29 true).mono (by simp))

theorem flags_attested (key : List Byte) (s : State) :
    flag (attested key s) Reg.glbAttCmd 31 = false ∧ flag (attested key s) Reg.glbAttCmd 29 = true := by
  unfold attested
  exact ⟨by rw [flag_setFlag_other _ _ _ (by decide) (by decide), flag_setFlag _ _ _ _ (by decide)],
    flag_setFlag _ _ _ _ (by decide)⟩

/-! ### Weight digests -/

theorem tryReady_units (s : State) : tryReady s = { s with regs := (tryReady s).regs, fuses := (tryReady s).fuses } := by
  unfold tryReady
  split
  · rfl
  · have hReady := ((onlyRegs_setPhase s 9).mono (m := [Reg.glbStartStatus, Reg.glbStartCtrl]) (by simp)).trans
      (((onlyRegs_setFlag _ Reg.glbStartStatus 31 true).mono (by simp)).trans
        ((onlyRegs_setFlag _ Reg.glbStartCtrl 0 false).mono (by simp)))
    rw [commitSvn, hReady.1]

/-- The model's entry of the model table marked. -/
def modelMarked (model : Nat) (st : ModelState) (s : State) : State :=
  setRef s { s.ref with models := s.ref.models.map fun e => if e.1 == model then (model, st) else e }

theorem opModelWeightDigest_present {model : Nat} {m : ModelPlan} {s : State} (hModel : modelOf s model = some m)
    (hWaits : (model, ModelState.notReady) ∈ s.ref.models) (hPresent : weightsPresent s m = true) :
    opModelWeightDigest model s = tryReady (modelMarked model
      (if weightDigest s m = m.digest then .ready else .failed) (extend s 3 (weightDigest s m))) := by
  rw [opModelWeightDigest, hModel]
  exact if_neg (by simp [hWaits, hPresent])

theorem models_modelMarked (model : Nat) (st : ModelState) (s : State) {e : Nat × ModelState}
    (he : e ∈ (modelMarked model st s).ref.models) (hModel : e.1 = model) : e.2 = st := by
  simp only [modelMarked, setRef, List.mem_map] at he
  obtain ⟨x, -, rfl⟩ := he
  by_cases h : x.1 = model <;> simp [h] at hModel ⊢

/-- Settles O16. -/
theorem attestation : Obligations.Attestation := by
  unfold Obligations.Attestation
  constructor
  · intro key s hKey
    have hFrame := onlyRegs_attested key s
    obtain ⟨hGo, hDone⟩ := flags_attested key s
    have hSec : (attested key s).sec = { s.sec with count := s.sec.count + 1 } := by rw [hFrame.1]
    refine .of_effect rfl (opAttestationRequest_keyed hKey) (hFrame.pending_eq.trans rfl) ⟨hSec, hGo, hDone, fun r hr => ?_, ?_⟩
    · exact (hFrame.2 r hr).trans rfl
    · rw [hSec]
      exact hFrame.1
  · intro model m s hModel hWaits hPresent
    have hMeasured := onlySec_extend s 3 (weightDigest s m)
    have hUnits := tryReady_units (modelMarked model (if weightDigest s m = m.digest then .ready else .failed)
      (extend s 3 (weightDigest s m)))
    refine .of_effect rfl (opModelWeightDigest_present hModel hWaits hPresent) ?_ ⟨fun e he hOf => ?_, ⟨?_, ?_⟩, ?_⟩
    · rw [hUnits, modelMarked, setRef, hMeasured.pending_eq]
    · rw [hUnits] at he
      exact models_modelMarked _ _ _ he hOf
    · rw [hUnits, modelMarked, setRef, hMeasured.mem_eq]
    · rw [hUnits, modelMarked, setRef, hMeasured.errs_eq]
    · rw [hUnits, modelMarked, setRef, hMeasured.chans_eq]

end Sys2Proof.Machine
end


section
/-! PROOFS. Flits and window writes (O20, O22). -/

namespace Sys2Proof.Machine

/-! ### Flits -/

/-- A good flit of a type that is not reserved has its header applied; then its type tells (R465 to R468). -/
theorem receiveFlit_good {s : State} {p : Nat} {f : Flit} (hUp : linkUp s p = true) (hType : f.ftype < 3) :
    receiveFlit s p f ⟨false, false, true⟩ =
      if f.ftype = 1 then
        if f.seq = ((applyHeader s p f).port p).rxNext then
          acceptMsgs ((applyHeader s p f).setPort p { (applyHeader s p f).port p with
            rxNext := (((applyHeader s p f).port p).rxNext + 1) % 4096, rxAny := true, nak := false,
            part := (takeMsgs 64 ((applyHeader s p f).port p).part f.body []).2 }) p
            (takeMsgs 64 ((applyHeader s p f).port p).part f.body []).1
        else discardFlit (applyHeader s p f) p
      else if f.ftype = 2 then countedResend (applyHeader s p f) p
      else applyHeader s p f := by
  have hLow : ¬ 3 ≤ f.ftype := by omega
  rw [receiveFlit, if_neg (by simp [hUp]), if_neg Bool.false_ne_true]
  dsimp only
  rw [if_neg Bool.false_ne_true, if_neg (by simp), if_neg hLow]

theorem receiveFlit_uncorrectable {s : State} {p : Nat} {f : Flit} {c : FlitCheck} (hUp : linkUp s p = true)
    (hBad : c.uncorrectable = true) :
    receiveFlit s p f c = discardFlit (count32 s (Reg.chLinkFecUncorrCount (p / 2) (p % 2)) 1) p := by
  rw [receiveFlit, if_neg (by simp [hUp]), if_pos hBad]

theorem receiveFlit_badCrc {s : State} {p : Nat} {f : Flit} (hUp : linkUp s p = true) :
    receiveFlit s p f ⟨false, false, false⟩ = discardFlit (count32 s (Reg.chLinkCrcCount (p / 2) (p % 2)) 1) p := by
  rw [receiveFlit, if_neg (by simp [hUp]), if_neg Bool.false_ne_true]
  dsimp only
  rw [if_neg Bool.false_ne_true, if_pos (by simp)]

/-- A data flit, before the receive buffer is found to hold something uncorrectable. -/
theorem opDataFlit_data {p : Nat} {f : Flit} (c : FlitCheck) (s : State) (hType : f.ftype = 1) :
    opDataFlit p f c [] s = receiveFlit s p f c := by
  rw [opDataFlit, if_pos (by simp [hType])]
  rfl

/-- One place of the receive buffer is struck once the flit is taken. -/
theorem opDataFlit_one (p : Nat) (f : Flit) (c : FlitCheck) {i : Nat} {m : Msg} (s : State)
    (h : ((opDataFlit p f c [] s).port p).rxq[i]? = some m) :
    opDataFlit p f c [i] s = strikeMsg p (opDataFlit p f c [] s) m := by
  have hNone : opDataFlit p f c [] s = if f.ftype = 1 || 3 ≤ f.ftype then receiveFlit s p f c else s := rfl
  rw [hNone] at h ⊢
  unfold opDataFlit
  generalize (if f.ftype = 1 || 3 ≤ f.ftype then receiveFlit s p f c else s) = t at h ⊢
  have hOnce : [i].eraseDups = [i] := rfl
  simp [hOnce, h]

/-- A struck message changes its port alone. -/
theorem strikeMsg_frame (p : Nat) (s : State) (m : Msg) :
    strikeMsg p s m = { s with ports := (strikeMsg p s m).ports } := by
  unfold strikeMsg
  split <;> rfl

theorem strikeMsg_window (p : Nat) (s : State) {m : Msg} (h : m.kind = 1) :
    (strikeMsg p s m).port p = { s.port p with bad := m :: (s.port p).bad } := by
  rw [strikeMsg, if_pos h, port_setPort_same]

theorem rxq_strikeMsg_other (p : Nat) (s : State) {m : Msg} (h : m.kind ≠ 1) :
    ((strikeMsg p s m).port p).rxq = (s.port p).rxq.erase m := by
  rw [strikeMsg, if_neg h, port_dropMsg]

theorem nak_discardFlit {s : State} {p : Nat} (h : (s.port p).nak = false) : discardFlit s p = sendNak s p :=
  if_neg (by simp [h])

/-- A nak sent is a flit of type 2, and the expected number stands. -/
theorem port_sendNak (s : State) (p : Nat) : ((sendNak s p).port p).out.map (·.ftype) = some 2 ∧
    ((sendNak s p).port p).nak = true ∧ ((sendNak s p).port p).rxNext = (s.port p).rxNext := by
  rw [sendNak, port_setPort_same]
  exact ⟨rfl, rfl, rfl⟩

/-- Flits sent again leave the replay buffer as it is; the last of them is the last one sent. -/
theorem resent_flits (l : List TxFlit) (x : Port) :
    (l.foldl (fun (x : Port) (f : TxFlit) => sendFlit x 1 f.seq f.first f.body) x).replay = x.replay ∧
      (l ≠ [] → (l.foldl (fun (x : Port) (f : TxFlit) => sendFlit x 1 f.seq f.first f.body) x).out.map (·.seq) =
        l.getLast?.map (·.seq)) := by
  induction l using List.reverseRecOn with
  | nil => exact ⟨rfl, fun h => absurd rfl h⟩
  | append_singleton l f ih =>
    rw [List.foldl_append]
    refine ⟨ih.1, fun _ => ?_⟩
    rw [List.getLast?_concat]
    rfl

theorem port_resend (s : State) (p : Nat) : ((resend s p).port p).replay = (s.port p).replay ∧
    ((s.port p).replay ≠ [] → ((resend s p).port p).out.map (·.seq) = (s.port p).replay.getLast?.map (·.seq)) := by
  rw [resend, port_setPort_same]
  exact resent_flits _ _

theorem countedResend_waits {s : State} {p : Nat} (h : (s.port p).replay ≠ []) :
    countedResend s p = count32 (resend s p) (Reg.chLinkReplayCount (p / 2) (p % 2)) 1 := if_neg (by simpa using h)

/-- Settles O20. -/
theorem flits : Obligations.Flits := by
  unfold Obligations.Flits
  refine ⟨?_, ?_, ?_, ?_, ?_, ?_, ?_, ?_⟩
  · intro p f s hUp hType hNext
    have hExec : exec (.dataFlit p f ⟨false, false, true⟩) s = .next (keepQueue s (opDataFlit p.val f ⟨false, false, true⟩ [] s)) := rfl
    rw [hExec, opDataFlit_data _ s hType, receiveFlit_good hUp (by omega), if_pos hType, if_pos hNext.symm, hNext]
  · intro p f c i m s s' hExec hAt
    have hPlain : exec (.dataFlit p f c) s = .next (keepQueue s (opDataFlit p.val f c [] s)) := rfl
    rw [hPlain] at hExec
    injection hExec with hState
    subst hState
    have hStruck := opDataFlit_one p.val f c s hAt
    have hFrame := strikeMsg_frame p.val (opDataFlit p.val f c [] s) m
    refine ⟨keepQueue s (strikeMsg p.val (opDataFlit p.val f c [] s) m), ?_, ?_, fun r _ => ?_, fun hKind => ?_, fun hKind => ?_⟩
    · rw [← hStruck]
      rfl
    · rw [hFrame]
      rfl
    · rw [hFrame]
      rfl
    · have hPort : (keepQueue s (strikeMsg p.val (opDataFlit p.val f c [] s) m)).port p.val = _ :=
        strikeMsg_window p.val (opDataFlit p.val f c [] s) hKind
      rw [hPort]
      exact ⟨rfl, List.mem_cons_self⟩
    · exact rxq_strikeMsg_other p.val (opDataFlit p.val f c [] s) hKind
  · intro p f s hUp hType
    have hExec : exec (.idleFlit p f ⟨false, false, true⟩) s = .next (keepQueue s (opIdleFlit p.val f ⟨false, false, true⟩ s)) := rfl
    rw [hExec, opIdleFlit, if_pos hType, receiveFlit_good hUp (by omega), if_neg (by omega), if_neg (by omega)]
  · intro p f s hUp hType
    have hExec : exec (.nakFlit p f ⟨false, false, true⟩) s = .next (keepQueue s (opNakFlit p.val f ⟨false, false, true⟩ s)) := rfl
    rw [hExec, opNakFlit, if_pos hType, receiveFlit_good hUp (by omega), if_neg (by omega), if_pos hType]
  · intro p f corr s hUp hType hNak
    have hKept : discardFlit (count32 s (Reg.chLinkFecUncorrCount (p.val / 2) (p.val % 2)) 1) p.val =
        count32 s (Reg.chLinkFecUncorrCount (p.val / 2) (p.val % 2)) 1 := if_pos (by rw [port_count32, hNak])
    exact .of_effect rfl ((opDataFlit_data _ s hType).trans ((receiveFlit_uncorrectable hUp rfl).trans hKept))
      (onlyRegs_count32 ..).pending_eq ⟨onlyRegs_count32 .., counted_count32 ..⟩
  · intro p f s hUp hType hNak
    have hOp := (opDataFlit_data ⟨false, false, false⟩ s hType).trans ((receiveFlit_badCrc hUp).trans
      (nak_discardFlit (by rw [port_count32, hNak])))
    obtain ⟨hOut, hWaits, hNext⟩ := port_sendNak (count32 s (Reg.chLinkCrcCount (p.val / 2) (p.val % 2)) 1) p.val
    have hCrc := onlyRegs_count32 s (Reg.chLinkCrcCount (p.val / 2) (p.val % 2)) 1
    exact .of_effect rfl hOp rfl ⟨rfl, hCrc.2, counted_count32 s _ 1, hWaits, hNext.trans (by rw [port_count32]), hOut⟩
  · intro p s hUp hReplay
    obtain ⟨hKept, hLast⟩ := port_resend s p.val
    have hOp : opReplayTimeout p.val s = count32 (resend s p.val) (Reg.chLinkReplayCount (p.val / 2) (p.val % 2)) 1 := by
      rw [opReplayTimeout, if_pos hUp, countedResend_waits hReplay]
    have hCount := onlyRegs_count32 (resend s p.val) (Reg.chLinkReplayCount (p.val / 2) (p.val % 2)) 1
    refine .of_effect rfl hOp rfl ⟨rfl, hCount.2, counted_count32 (resend s p.val) _ 1, ?_, ?_⟩
    · rw [port_count32, hKept]
    · rw [port_count32, hLast hReplay]
  · intro p s hUp hNak
    obtain ⟨hOut, hWaits, -⟩ := port_sendNak s p.val
    exact .of_effect rfl (if_pos (by simp [hUp, hNak])) rfl ⟨rfl, fun _ _ => rfl, hOut, hWaits⟩

/-! ### Window writes -/

/-- A window write for this module, and what its checks say of it, give the command's effect. -/
theorem opWindowWrite_core {p n i off k : Nat} {bad : Bool} {m : Msg} {s : State} (hTake : takeFor s p 1 [] = some m)
    (hCheck : checkWindow s m (bad || (s.port p).bad.contains m) = .core n i off k) :
    opWindowWrite p bad s = arriveAt (((List.range (m.len / 16)).map fun j =>
      (off / 16 + j, leNat ((m.data.drop (16 * j)).take 16), 2 ^ 128 - 1)).foldl
        (fun (s : State) (x : Nat × Nat × Nat) => csWrite s n i 3 (x.1 / 32) (x.1 % 32) x.2.1 x.2.2) (dropMsg s p m)) n i k := by
  rw [opWindowWrite, hTake]
  dsimp only
  rw [hCheck]

theorem opWindowWrite_memory {p a : Nat} {bad : Bool} {m : Msg} {s : State} (hTake : takeFor s p 1 [] = some m)
    (hCheck : checkWindow s m (bad || (s.port p).bad.contains m) = .memory a) : opWindowWrite p bad s =
      setFld (writeRange (dropMsg s p m) a m.data).1 (Reg.glbWinArrival (m.f1 63 56)) 31 0
        ((fld (writeRange (dropMsg s p m) a m.data).1 (Reg.glbWinArrival (m.f1 63 56)) 31 0 + 1) % 2 ^ 32) := by
  rw [opWindowWrite, hTake]
  dsimp only
  rw [hCheck]

theorem opWindowWrite_stale {p : Nat} {bad : Bool} {m : Msg} {s : State} (hTake : takeFor s p 1 [] = some m)
    (hCheck : checkWindow s m (bad || (s.port p).bad.contains m) = .stale) : opWindowWrite p bad s = staleMsg s p m := by
  rw [opWindowWrite, hTake]
  dsimp only
  rw [hCheck]

theorem opWindowWrite_reject {p reason : Nat} {core : Option Nat} {bad : Bool} {m : Msg} {s : State}
    (hTake : takeFor s p 1 [] = some m) (hCheck : checkWindow s m (bad || (s.port p).bad.contains m) = .reject reason core)
    (hAwake : isDormant s = false) : opWindowWrite p bad s = sendReject (core.elim (dropMsg s p m)
      fun n => count32 (dropMsg s p m) (Reg.chCsWindowRejectCount n) 1) m reason := by
  have hStill (t : State) (h : rd t Reg.glbPwrStatus = rd s Reg.glbPwrStatus) : ¬ isDormant t = true := by
    rw [isDormant, fld, h, ← fld, ← isDormant, hAwake]
    exact Bool.false_ne_true
  rw [opWindowWrite, hTake]
  dsimp only
  rw [hCheck]
  cases core with
  | none =>
    dsimp only [Option.elim]
    rw [if_neg (hStill (dropMsg s p m) rfl)]
  | some n =>
    have hStatus : Reg.glbPwrStatus.addr = 0x07F400005010 := by decide
    have hCounter : (Reg.chCsWindowRejectCount n).addr = 0x07F000000000 + 0x01000000 * n + 0x7128 := rfl
    have hCount : rd (count32 (dropMsg s p m) (Reg.chCsWindowRejectCount n) 1) Reg.glbPwrStatus = rd s Reg.glbPwrStatus :=
      (regsBut_count32 (dropMsg s p m) _ 1 _ (by simp only [List.mem_singleton, forall_eq]; omega)).trans rfl
    dsimp only [Option.elim]
    rw [if_neg (hStill (count32 (dropMsg s p m) (Reg.chCsWindowRejectCount n) 1) hCount)]

/-- Settles O22. -/
theorem windows : Obligations.Windows := by
  unfold Obligations.Windows
  refine ⟨?_, ?_, ?_, ?_, ?_⟩
  · intro p n i off k m s hTake hCheck
    have hExec : exec (.windowWrite p false) s = .next (keepQueue s (opWindowWrite p.val false s)) := rfl
    rw [hExec, opWindowWrite_core (bad := false) hTake hCheck]
  · intro p a m s hTake hCheck
    have hExec : exec (.windowWrite p false) s = .next (keepQueue s (opWindowWrite p.val false s)) := rfl
    rw [hExec, opWindowWrite_memory (bad := false) hTake hCheck]
  · intro p bad m s hTake hCheck
    obtain ⟨hPorts, hRegs, hCount⟩ := countedDrop_frame s p.val m Reg.glbLinkStaleCount
    exact .of_effect rfl (opWindowWrite_stale hTake hCheck) rfl ⟨hPorts, hRegs, hCount⟩
  · intro p bad m reason core s hTake hCheck hAwake
    have hExec : exec (.windowWrite p bad) s = .next (keepQueue s (opWindowWrite p.val bad s)) := rfl
    rw [hExec, opWindowWrite_reject hTake hCheck hAwake]
  · intro p m s hTake
    have hExec : exec (.reject p) s = .next (keepQueue s (opReject p.val s)) := rfl
    rw [hExec, opReject, hTake]

end Sys2Proof.Machine
end


section
/-! PROOFS. What an event leaves alone, sends, and the states of the ports (O24 to O26). -/

namespace Sys2Proof.Machine

/-! ### What an event leaves alone -/

/-- Nothing but memory, the registers and the event queues differs. -/
structure EventOnly (s t : State) : Prop where
  units : t = { s with mem := t.mem, errs := t.errs, regs := t.regs, chans := t.chans, geq := t.geq }
  chan : ∀ n, t.chan n = { s.chan n with eq := (t.chan n).eq }

theorem EventOnly.refl (s : State) : EventOnly s s := ⟨rfl, fun _ => rfl⟩

theorem EventOnly.trans {s t u : State} (h : EventOnly s t) (h' : EventOnly t u) : EventOnly s u where
  units := by rw [h'.units, h.units]
  chan n := by rw [h'.chan n, h.chan n]

theorem OnlyRegs.eventOnly {l : List RegRef} {s t : State} (h : OnlyRegs l s t) : EventOnly s t where
  units := by
    have hMem := h.mem_eq
    have hErrs := h.errs_eq
    have hChans := h.chans_eq
    have hGlobal : t.geq = s.geq := by rw [h.1]
    rw [hMem, hErrs, hChans, hGlobal]
    exact h.1
  chan n := by rw [chan_congr h.chans_eq]

theorem eventOnly_pokeBytes (s : State) (a : Nat) (bs : List Byte) : EventOnly s (pokeBytes s a bs) := by
  induction bs generalizing s a with
  | nil => exact .refl s
  | cons b bs ih =>
    rw [pokeBytes]
    refine EventOnly.trans ?_ (ih _ (a + 1))
    exact ⟨rfl, fun _ => rfl⟩

theorem eventOnly_setEq (s : State) (q : Nat) (h : EvQueue) : EventOnly s (setEq s q h) := by
  unfold setEq
  split
  · refine ⟨rfl, fun n => ?_⟩
    rw [chan_setChan]
    split
    case isTrue hn => rw [hn]
    case isFalse => rfl
  · exact ⟨rfl, fun _ => rfl⟩

theorem eventOnly_evWrite (s : State) (q : Nat) (e : Ev) : EventOnly s (evWrite s q e) :=
  ((eventOnly_pokeBytes s _ _).trans (onlyRegs_setFld _ (eqTail q) 9 0 _).eventOnly).trans (eventOnly_setEq _ q _)

theorem eventOnly_evEnter (s : State) (q : Nat) (e : Ev) : EventOnly s (evEnter s q e) := by
  unfold evEnter
  split
  · split
    · exact eventOnly_setEq s q _
    · exact (onlyRegs_count32 s (eqLost q) 1).eventOnly.trans (eventOnly_setEq _ q _)
  · exact eventOnly_evWrite s q e

theorem eventOnly_post (s : State) (q code : Nat) (op : W32) (args : List (Nat × Nat)) :
    EventOnly s (post s q code op args) := by
  unfold post
  dsimp only
  split
  · exact (eventOnly_evEnter s q _).trans (eventOnly_evEnter _ 4 _)
  · exact eventOnly_evEnter s q _

section
variable {s t : State} (h : EventOnly s t)
include h
theorem EventOnly.pending_eq : t.pending = s.pending := by rw [h.units]
theorem EventOnly.ref_eq : t.ref = s.ref := by rw [h.units]
theorem EventOnly.cores_eq : t.cores = s.cores := by rw [h.units]
theorem EventOnly.ports_eq : t.ports = s.ports := by rw [h.units]
theorem EventOnly.board_eq : t.board = s.board := by rw [h.units]
end

/-! ### Sends -/

theorem startWake_awake {s : State} (h : isDormant s = false) : startWake s = s := by
  have hState : ¬ fld s Reg.glbPwrStatus 31 29 = 4 := by
    intro hDormant
    rw [isDormant, hDormant] at h
    exact absurd h (by decide)
  exact if_neg hState

theorem isDormant_congr {s t : State} (h : rd t Reg.glbPwrStatus = rd s Reg.glbPwrStatus) : isDormant t = isDormant s := by
  rw [isDormant, isDormant, fld, fld, h]

/-- A send command queued (R486). -/
def sendQueued (n : Nat) (v : W64) (s : State) : State :=
  let t := wr s (Reg.chLinkSendCmd3 n) v
  let c := s.chan n
  t.setChan n { t.chan n with
    sends := c.sends ++ [⟨c.book.sendNo, rd t (Reg.chLinkSendCmd0 n), rd t (Reg.chLinkSendCmd1 n), rd t (Reg.chLinkSendCmd2 n),
      v, false, 0, 0⟩]
    book := { c.book with sendNo := c.book.sendNo + 1 } }

theorem opSendCommand_queued {n : Nat} {v : W64} {s : State} (hv : v.toNat % 32 = 0) (hRoom : (s.chan n).sends.length < 64) :
    opSendCommand n v s = startWake (sendQueued n v s) := by
  have hLow : bits v.toNat 4 0 = 0 := by simp [bits, hv]
  rw [opSendCommand, if_neg (by simp [hLow])]
  exact if_neg (by omega)

theorem opSendCommand_full {n : Nat} {v : W64} {s : State} (hv : v.toNat % 32 = 0) (hFull : 64 ≤ (s.chan n).sends.length) :
    opSendCommand n v s = setFlag s (Reg.chLinkSendStatus n) 9 true := by
  have hLow : bits v.toNat 4 0 = 0 := by simp [bits, hv]
  rw [opSendCommand, if_neg (by simp [hLow])]
  exact if_pos hFull

/-- The send command c of a channel changed. -/
def sendPut (n : Nat) (c : SendCmd) (f : SendCmd → SendCmd) (s : State) : State :=
  s.setChan n { s.chan n with sends := (s.chan n).sends.map fun (x : SendCmd) => if x.no == c.no then f x else x }

theorem sendPut_one {n : Nat} {c : SendCmd} {s : State} (hOne : (s.chan n).sends = [c]) (f : SendCmd → SendCmd) :
    sendPut n c f s = s.setChan n { s.chan n with sends := [f c] } := by
  have hMap : ([c].map fun (x : SendCmd) => if x.no == c.no then f x else x) = [f c] := by simp
  rw [sendPut, hOne, hMap]

theorem opSendStart_first {n : Nat} {c : SendCmd} {s : State}
    (hFirst : (s.chan n).sends.find? (fun (c : SendCmd) => !c.sent) = some c) (hAwake : isDormant s = false)
    (hFree : bit c.w3.toNat 6 = false) : opSendStart n s =
      if (sendParts n c (cdiv (bits c.w2.toNat 63 32) 2048) 0 (sendPut n c (fun x => { x with sent := true }) s)).2 then
        (sendParts n c (cdiv (bits c.w2.toNat 63 32) 2048) 0 (sendPut n c (fun x => { x with sent := true }) s)).1
      else sendPut n c (fun x => { x with err := 2 })
        (sendParts n c (cdiv (bits c.w2.toNat 63 32) 2048) 0 (sendPut n c (fun x => { x with sent := true }) s)).1 := by
  rw [opSendStart, hFirst]
  exact if_neg (by simp [hAwake, hFree])

theorem opSendStart_one {n : Nat} {c : SendCmd} {s : State} (hOne : (s.chan n).sends = [c]) (hNew : c.sent = false)
    (hAwake : isDormant s = false) (hFree : bit c.w3.toNat 6 = false)
    (hRead : (sendParts n c (cdiv (bits c.w2.toNat 63 32) 2048) 0
      (s.setChan n { s.chan n with sends := [{ c with sent := true }] })).2 = true) :
    opSendStart n s = (sendParts n c (cdiv (bits c.w2.toNat 63 32) 2048) 0
      (s.setChan n { s.chan n with sends := [{ c with sent := true }] })).1 := by
  have hFirst : (s.chan n).sends.find? (fun (c : SendCmd) => !c.sent) = some c := by simp [hOne, hNew]
  rw [opSendStart_first hFirst hAwake hFree, sendPut_one hOne, if_pos hRead]

theorem opSendComplete_one {n : Nat} {c : SendCmd} {s : State} (hOne : (s.chan n).sends = [c]) (hSent : c.sent = true)
    (hGood : c.err = 0) (hAcked : c.left = 0) (hGone : sendWaits s n c.no = false) : opSendComplete n s =
      if bit c.w3.toNat 5 then post (s.setChan n { s.chan n with sends := [] }) n 0x24 0 [(32, bits c.w2.toNat 31 0)]
      else s.setChan n { s.chan n with sends := [] } := by
  have hFirst : [c].find? (fun (c : SendCmd) => c.sent && (c.err != 0 || (c.left == 0 && !sendWaits s n c.no))) = some c := by
    simp [hSent, hGood, hAcked, hGone]
  have hLeft : ([c].filter fun (x : SendCmd) => x.no != c.no) = [] := by simp
  rw [opSendComplete, hOne, hFirst]
  dsimp only
  rw [hLeft, if_pos hGood]

/-- Settles O24. -/
theorem sends : Obligations.Sends := by
  unfold Obligations.Sends
  refine ⟨?_, ?_, ?_, ?_, ?_⟩
  · intro n v s hv hRoom hAwake
    have hCmd : (Reg.chLinkSendCmd3 n.val).addr = 0x07F000000000 + 0x01000000 * n.val + 0x3070 := rfl
    have hStatus : Reg.glbPwrStatus.addr = 0x07F400005010 := by decide
    have hRegs : RegsBut [Reg.chLinkSendCmd3 n.val] s (sendQueued n.val v s) := (regsBut_wr s _ v).trans fun _ _ => rfl
    have hStill : isDormant (sendQueued n.val v s) = false := by
      rw [isDormant_congr (hRegs _ (by simp only [List.mem_singleton, forall_eq]; omega)), hAwake]
    refine .of_effect rfl ((opSendCommand_queued hv hRoom).trans (startWake_awake hStill)) rfl ⟨rfl, hRegs, ?_⟩
    rw [sendQueued, chan_setChan_same]
    dsimp only
    rw [rd_wr_other _ _ (by simp [Reg.chLinkSendCmd3, Reg.chLinkSendCmd0]),
      rd_wr_other _ _ (by simp [Reg.chLinkSendCmd3, Reg.chLinkSendCmd1]),
      rd_wr_other _ _ (by simp [Reg.chLinkSendCmd3, Reg.chLinkSendCmd2])]
  · intro n v s hv hFull
    exact .of_effect rfl (opSendCommand_full hv hFull) (onlyRegs_setFlag ..).pending_eq
      ⟨onlyRegs_setFlag .., flag_setFlag _ _ _ _ (by decide)⟩
  · intro n c s hOne hNew hAwake hFree hRead
    have hExec : exec (.sendStart n) s = .next (keepQueue s (opSendStart n.val s)) := rfl
    rw [hExec, opSendStart_one hOne hNew hAwake hFree hRead]
  · intro n c s hOne hSent hGood hAcked hGone hQuiet
    exact exec_of_eq rfl ((opSendComplete_one hOne hSent hGood hAcked hGone).trans (if_neg (by simp [hQuiet]))) rfl
  · intro n c s hOne hSent hGood hAcked hGone hAsks
    have hExec : exec (.sendComplete n) s = .next (keepQueue s (opSendComplete n.val s)) := rfl
    rw [hExec, opSendComplete_one hOne hSent hGood hAcked hGone, if_pos hAsks]

/-! ### Recoveries -/

theorem onlyRecovery_refl (n : Nat) (l : List RegRef) (s : State) : OnlyRecovery n l s s :=
  ⟨rfl, fun _ _ => rfl, fun _ _ => rfl, rfl⟩

theorem OnlyRecovery.trans {n : Nat} {l : List RegRef} {s t u : State} (h : OnlyRecovery n l s t) (h' : OnlyRecovery n l t u) :
    OnlyRecovery n l s u := by
  obtain ⟨hUnits, hRegs, hOther, hOwn⟩ := h
  obtain ⟨hUnits', hRegs', hOther', hOwn'⟩ := h'
  refine ⟨by rw [hUnits', hUnits], hRegs.trans hRegs', fun m hm => (hOther' m hm).trans (hOther m hm), ?_⟩
  rw [hOwn', hOwn]

theorem OnlyRegs.onlyRecovery {l m : List RegRef} {s t : State} (h : OnlyRegs l s t) (n : Nat) (hm : ∀ x ∈ l, x ∈ m) :
    OnlyRecovery n m s t := by
  refine ⟨?_, h.2.mono fun x hx => List.mem_cons_of_mem _ (hm x hx), fun k _ => chan_congr h.chans_eq k, ?_⟩
  · rw [h.chans_eq]
    exact h.1
  · rw [chan_congr h.chans_eq]

theorem OnlyRecovery.pending_eq {n : Nat} {l : List RegRef} {s t : State} (h : OnlyRecovery n l s t) : t.pending = s.pending := by
  rw [h.1]

/-- A recovery entered in the journal and the list of those under way changed (R37, R551). -/
theorem onlyRecovery_setRecov (n : Nat) (l : List RegRef) (s : State) (begins : Bool) (x : Recovery) (rs : List Recovery) :
    OnlyRecovery n l s (setRecov (journal s n begins x) n rs) := by
  refine ⟨rfl, ?_, fun m hm => ?_, ?_⟩
  · exact RegsBut.mono (l := [Reg.chTimingMode n]) (onlyRegs_setFlag _ (Reg.chTimingMode n) 2 _).2 (by simp)
  · rw [setRecov, journal, chan_setFlag, chan_setChan, if_neg hm.symm, chan_setChan, if_neg hm.symm]
  · rw [setRecov, journal, chan_setFlag, chan_setChan_same, chan_setChan_same]

theorem onlyRecovery_endRecovery (s : State) (n : Nat) (x : Recovery) (l : List RegRef) :
    OnlyRecovery n l s (endRecovery s n x) := by
  unfold endRecovery
  split
  · exact onlyRecovery_setRecov n l s false x _
  · exact onlyRecovery_refl n l s

/-! ### The state of a port -/

theorem addr_linkReg (p : Nat) : (linkReg p).addr = 0x07F000000000 + 0x01000000 * (p / 2) + 0x3080 + p % 2 * 8 := rfl
theorem addr_linkCtl (p : Nat) : (linkCtl p).addr = 0x07F000000000 + 0x01000000 * (p / 2) + 0x3090 + p % 2 * 8 := rfl
theorem addr_chTimingMode (n : Nat) : (Reg.chTimingMode n).addr = 0x07F000000000 + 0x01000000 * n + 0x1000 := rfl

theorem onlyRegs_setState (s : State) (p st lanes : Nat) : OnlyRegs [linkReg p] s (setState s p st lanes) :=
  (onlyRegs_setFld s (linkReg p) 31 29 st).trans (onlyRegs_setFld _ (linkReg p) 28 25 lanes)

theorem portState_setState (s : State) (p lanes : Nat) {st : Nat} (h : st < 8) : portState (setState s p st lanes) p = st := by
  rw [portState, setState, fld_setFld_other _ _ _ _ _ _ _ (by decide) (by decide) (by decide),
    fld_setFld _ _ _ _ _ (by decide) (by decide)]
  exact Nat.mod_eq_of_lt h

theorem lanes_setState (s : State) (p st : Nat) {lanes : Nat} (h : lanes < 16) :
    fld (setState s p st lanes) (linkReg p) 28 25 = lanes := by
  rw [setState, fld_setFld _ _ _ _ _ (by decide) (by decide)]
  exact Nat.mod_eq_of_lt h

theorem OnlyRegs.port_eq {l : List RegRef} {s t : State} (h : OnlyRegs l s t) (p : Nat) : t.port p = s.port p := by
  have hPorts : t.ports = s.ports := by rw [h.1]
  rw [State.port, hPorts, State.port]

theorem OnlyRegs.onlyPorts_setPort {l : List RegRef} {s t : State} (h : OnlyRegs l s t) (p : Nat) (x : Port) :
    OnlyPorts s (t.setPort p x) := by
  obtain ⟨hUnits, -⟩ := h
  generalize t.regs = regs at hUnits
  subst hUnits
  rfl

theorem portState_congr {s t : State} {p : Nat} (h : rd t (linkReg p) = rd s (linkReg p)) : portState t p = portState s p := by
  rw [portState, portState, fld, fld, h]

theorem onlyRecovery_startTrain (s : State) (p : Nat) : OnlyRecovery (p / 2) [linkReg p] s (startTrain s p) :=
  (onlyRecovery_endRecovery s (p / 2) (.port p) _).trans ((onlyRegs_setState _ p 1 0).onlyRecovery _ (by simp))

theorem portState_startTrain (s : State) (p : Nat) : portState (startTrain s p) p = 1 := portState_setState _ _ _ (by decide)

theorem OnlyRecovery.mono {n : Nat} {l m : List RegRef} {s t : State} (h : OnlyRecovery n l s t) (hm : ∀ x ∈ l, x ∈ m) :
    OnlyRecovery n m s t := by
  obtain ⟨hUnits, hRegs, hOther, hOwn⟩ := h
  refine ⟨hUnits, hRegs.mono fun x hx => ?_, hOther, hOwn⟩
  rcases List.mem_cons.mp hx with rfl | hx
  · exact List.mem_cons_self
  · exact List.mem_cons_of_mem _ (hm x hx)

/-- Whether a port is in host mode does not depend on its own control register. -/
theorem hostPort_setFlag_linkCtl (s : State) (p : Fin 8) (b : Bool) :
    hostPort (setFlag s (linkCtl p.val) 31 b) p.val = hostPort s p.val := by
  have hCtl := addr_linkCtl p.val
  have hCfg : Reg.glbHostCfg.addr = 0x07F400003048 := by decide
  have hRd : rd (setFlag s (linkCtl p.val) 31 b) Reg.glbHostCfg = rd s Reg.glbHostCfg :=
    (onlyRegs_setFlag s (linkCtl p.val) 31 b).2 _ (by simp only [List.mem_singleton, forall_eq]; omega)
  simp only [hostPort, flag, fld, hRd]

theorem linkUp_of_active {s : State} {p : Nat} (h : portState s p = 2) : linkUp s p = true := by rw [linkUp, h]; rfl

/-- The control register of a port survives what its training does. -/
theorem ctl_after_recovery {s t : State} {p : Fin 8} (h : OnlyRecovery (p.val / 2) [linkReg p.val] s t) (i : Nat) :
    flag t (linkCtl p.val) i = flag s (linkCtl p.val) i := by
  have hCtl := addr_linkCtl p.val
  have hReg := addr_linkReg p.val
  have hMode := addr_chTimingMode (p.val / 2)
  rw [flag, fld, h.2.1 _ (by simp only [List.mem_cons, List.not_mem_nil, or_false, forall_eq_or_imp, forall_eq]; omega), ← fld,
    ← flag]

/-! ### Enabling and disabling -/

theorem opLinkEnable_host {p : Fin 8} {v : W64} {s : State} (hHigh : bits v.toNat 63 32 = 0) (hLow : bits v.toNat 28 0 = 0)
    (hHost : hostPort s p.val = true) : opLinkEnable p.val v s = setFlag s (linkCtl p.val) 31 (bit v.toNat 31) := by
  rw [opLinkEnable, if_neg (by simp [hHigh, hLow])]
  exact if_pos (by rw [hostPort_setFlag_linkCtl, hHost])

theorem opLinkEnable_on {p : Fin 8} {s : State} (hPort : hostPort s p.val = false) (hOff : flag s (linkCtl p.val) 31 = false) :
    opLinkEnable p.val (BitVec.ofNat 64 (2 ^ 31)) s = startTrain (setFlag s (linkCtl p.val) 31 true) p.val := by
  have hWord : (BitVec.ofNat 64 (2 ^ 31)).toNat = 2 ^ 31 := by decide
  have hBit : bit (2 ^ 31) 31 = true := by decide
  rw [opLinkEnable, hWord, if_neg (by decide)]
  dsimp only
  rw [hBit, hostPort_setFlag_linkCtl, hPort, hOff, if_neg Bool.false_ne_true, if_neg (by decide), if_pos (by decide)]

theorem opLinkEnable_off {p : Fin 8} {s : State} (hPort : hostPort s p.val = false) :
    opLinkEnable p.val 0 s =
      setState (endRecovery (setFlag s (linkCtl p.val) 31 false) (p.val / 2) (.port p.val)) p.val 0 0 := by
  have hWord : (0 : W64).toNat = 0 := rfl
  have hBit : bit 0 31 = false := by decide
  rw [opLinkEnable, hWord, if_neg (by decide)]
  dsimp only
  rw [hBit, hostPort_setFlag_linkCtl, hPort, if_neg Bool.false_ne_true, if_pos (by decide)]

/-! ### Loss of signal -/

theorem failPort_ref (s : State) (p reason : Nat) : (failPort s p reason).ref = s.ref := by
  rw [failPort, (eventOnly_post ..).ref_eq, ((onlyRegs_setState s p 5 0).trans (onlyRegs_setFld _ (linkReg p) 21 19 reason)).1]

theorem signalLost_train {s : State} {p : Nat} (hActive : portState s p = 2)
    (hNoRing : ¬ (ringPort p && !flag s (linkReg p) 24 && flag s (linkReg p) 22) = true) : signalLost p s = startTrain s p := by
  rw [signalLost, if_neg (by simp [hActive]), if_neg hNoRing]

theorem opLossOfSignal_quiet {s : State} {p : Nat} (hUp : linkUp s p = true)
    (hNoJob : ¬ (s.ref.formed && ringPort p && !flag s (linkReg p) 24) = true) :
    opLossOfSignal p s = rewriteRoutes (signalLost p s) := by
  rw [opLossOfSignal, if_neg (by simp [hUp])]
  dsimp only
  rw [if_neg hNoJob]

theorem ringPort_false {p : Nat} (h : 4 ≤ p) : ringPort p = false := decide_eq_false (by omega)
theorem ringPort_true {p : Nat} (h : p < 4) : ringPort p = true := decide_eq_true h

theorem litLanes_chord (s : State) {p : Nat} (h : 4 ≤ p) (lanes : Nat) : litLanes s p lanes = lanes :=
  if_neg (by simp [ringPort_false h])

/-- A training that times out fails its port; no update of the view follows it here. -/
theorem opTrainingTimeout_plain {s : State} {p : Nat} (seen : Bool) (hTrains : portState s p = 1)
    (hQuiet : (!s.ref.formed && ringPort p) = false) : opTrainingTimeout p seen s =
      afterPort (failPort s p (if seen && litLanes s p 15 != 0 then 2 else 1)) p := by
  have hStill (r : Nat) : (!(failPort s p r).ref.formed && ringPort p) = false := by rw [failPort_ref, hQuiet]
  rw [opTrainingTimeout, if_neg (by simp [hTrains])]
  dsimp only
  congr 1
  split
  · rw [hStill, Bool.false_and, Bool.false_and, if_neg Bool.false_ne_true]
  · rfl

/-- Settles O25. -/
theorem portStates : Obligations.PortStates := by
  unfold Obligations.PortStates
  refine ⟨?_, ?_, ?_, ?_, ?_, ?_, ?_, ?_, ?_, ?_, ?_, ?_, ?_⟩
  · intro p s hPort hOff
    have hTrain := onlyRecovery_startTrain (setFlag s (linkCtl p.val) 31 true) p.val
    have hFrame := ((onlyRegs_setFlag s (linkCtl p.val) 31 true).onlyRecovery (p.val / 2)
      (m := [linkReg p.val, linkCtl p.val]) (by simp)).trans (hTrain.mono (by simp))
    refine .of_effect rfl (opLinkEnable_on hPort hOff) hFrame.pending_eq ⟨hFrame, portState_startTrain .., ?_⟩
    rw [ctl_after_recovery hTrain, flag_setFlag _ _ _ _ (by decide)]
  · intro p s hPort
    have hEnd : OnlyRecovery (p.val / 2) [linkReg p.val] (setFlag s (linkCtl p.val) 31 false)
        (setState (endRecovery (setFlag s (linkCtl p.val) 31 false) (p.val / 2) (.port p.val)) p.val 0 0) :=
      (onlyRecovery_endRecovery _ (p.val / 2) (.port p.val) _).trans ((onlyRegs_setState _ p.val 0 0).onlyRecovery _ (by simp))
    have hFrame := ((onlyRegs_setFlag s (linkCtl p.val) 31 false).onlyRecovery (p.val / 2)
      (m := [linkReg p.val, linkCtl p.val]) (by simp)).trans (hEnd.mono (by simp))
    refine .of_effect rfl (opLinkEnable_off hPort) hFrame.pending_eq ⟨hFrame, portState_setState _ _ _ (by decide), ?_⟩
    rw [ctl_after_recovery hEnd, flag_setFlag _ _ _ _ (by decide)]
  · intro p v s hHigh hLow hHost
    exact .of_effect rfl (opLinkEnable_host hHigh hLow hHost) (onlyRegs_setFlag ..).pending_eq
      ⟨onlyRegs_setFlag .., flag_setFlag _ _ _ _ (by decide)⟩
  · intro p v s hReserved
    exact exec_of_kept rfl (if_pos (by simpa using hReserved))
  · intro p s hPort hOn
    have hFrame := onlyRecovery_startTrain s p.val
    have hOp : opRetrain p.val s = startTrain s p.val := by rw [opRetrain, if_pos (by simp [hPort, hOn])]
    exact .of_effect rfl hOp hFrame.pending_eq
      ⟨hFrame, portState_startTrain .., lanes_setState _ _ _ (by decide)⟩
  · intro p s hPort hOn hRing hAlive hDirect
    have hOp : opRelockDirect p.val s = (setState s p.val 4 0).setPort p.val { s.port p.val with direct := true } := by
      rw [opRelockDirect, if_neg (by simp [hPort, hOn, ringPort_true hRing, hAlive]), if_pos hDirect]
    have hState := onlyRegs_setState s p.val 4 0
    refine .of_effect rfl hOp ((State.setPort_pending ..).trans hState.pending_eq) ⟨hState.onlyPorts_setPort _ _, fun r hr => (rd_setPort ..).trans (hState.2 r hr), ?_,
      by rw [port_setPort_same]⟩
    rw [portState_congr (rd_setPort ..), portState_setState s p.val 0 (by decide)]
  · intro p s hRelocks
    have hFrame := onlyRecovery_startTrain s p.val
    have hOp : opRelockTimeout p.val s = startTrain s p.val := by rw [opRelockTimeout, if_pos hRelocks]
    exact .of_effect rfl hOp hFrame.pending_eq ⟨hFrame, portState_startTrain ..⟩
  · intro p lane s hActive hLane
    have hExec : exec (.laneLoss p lane lane) s = .next (keepQueue s (opLaneLoss p.val lane.val lane.val s)) := rfl
    have hUp := linkUp_of_active hActive
    rw [hExec, opLaneLoss, if_neg (by simp [hUp, hLane]), laneLost]
    dsimp only
    rw [if_neg (by simp [hUp, hLane]), if_neg (by omega), if_neg (by simp)]
  · intro p s hActive hRing hDirect hBypass hForming
    have hExec : exec (.lossOfSignal p) s = .next (keepQueue s (opLossOfSignal p.val s)) := rfl
    rw [hExec, opLossOfSignal_quiet (linkUp_of_active hActive) (by simp [hForming]), signalLost, if_neg (by simp [hActive]),
      if_pos (by simp [ringPort_true hRing, hDirect, hBypass])]
  · intro p s hActive hChord
    have hExec : exec (.lossOfSignal p) s = .next (keepQueue s (opLossOfSignal p.val s)) := rfl
    rw [hExec, opLossOfSignal_quiet (linkUp_of_active hActive) (by simp [ringPort_false hChord]),
      signalLost_train hActive (by simp [ringPort_false hChord])]
  · intro p s hActive hRing hBypassed
    have hExec : exec (.lossOfSignal p) s = .next (keepQueue s (opLossOfSignal p.val s)) := rfl
    rw [hExec, opLossOfSignal_quiet (linkUp_of_active hActive) (by simp [hBypassed]),
      signalLost_train hActive (by simp [hBypassed])]
  · intro p seen s hTrains hFormed
    have hExec : exec (.trainingTimeout p seen) s = .next (keepQueue s (opTrainingTimeout p.val seen s)) := rfl
    rw [hExec, opTrainingTimeout_plain seen hTrains (by simp [hFormed])]
  · intro p seen s hTrains hChord
    have hExec : exec (.trainingTimeout p seen) s = .next (keepQueue s (opTrainingTimeout p.val seen s)) := rfl
    have hSeen : (seen && litLanes s p.val 15 != 0) = seen := by rw [litLanes_chord s hChord]; simp
    rw [hExec, opTrainingTimeout_plain seen hTrains (by simp [ringPort_false hChord]), hSeen]

/-! ### Ports that come up -/

theorem opRelockComplete_lit {s : State} {p : Nat} (lanes : BitVec 4) (partner pport : Nat) (hRelocks : portState s p = 4)
    (hLit : 3 ≤ laneCount (litLanes s p lanes.toNat)) : opRelockComplete p lanes partner pport s =
      afterPort (count32 (comeUp s p (litLanes s p lanes.toNat) partner pport (!(s.port p).direct))
        (Reg.chLinkRelockCount (p / 2) (p % 2)) 1) p := by
  rw [opRelockComplete, if_neg (by simp [hRelocks, hLit])]

/-- A chord port that trained to a partner the cabling lists. -/
theorem opTrainingComplete_chord {s : State} {p : Nat} (lanes : BitVec 4) (partner pport : Nat) (hTrains : portState s p = 1)
    (hLit : 3 ≤ laneCount lanes.toNat) (hChord : 4 ≤ p)
    (hCabled : cablingOk (comeUp s p lanes.toNat partner pport false) p partner pport = true) :
    opTrainingComplete p lanes partner pport s = afterPort (comeUp s p lanes.toNat partner pport false) p := by
  have hLanes := litLanes_chord s hChord lanes.toNat
  rw [opTrainingComplete, hLanes, if_neg (by simp [hTrains, hLit])]
  dsimp only
  rw [ringPort_false hChord, Bool.false_and, if_pos hCabled]
  simp only [Bool.false_and, Bool.false_eq_true, if_false]

/-- A ring port that trained to a partner it should not face is turned off and reported (R506, R653). -/
theorem opTrainingComplete_miscabled {s : State} {p : Nat} (lanes : BitVec 4) (partner pport : Nat) (hTrains : portState s p = 1)
    (hRing : p < 4) (hLit : 3 ≤ laneCount (litLanes s p lanes.toNat)) {u : State}
    (hu : u = comeUp s p (litLanes s p lanes.toNat) partner pport
      (!(partner == stepModule (groupSize s) (ownModule s) 1 (facesEast p))))
    (hCabled : cablingOk u p partner pport = false) :
    opTrainingComplete p lanes partner pport s = afterPort (post (setState (setFlag u (linkCtl p) 31 false) p 0 0) (p / 2) 0x26 0
      [(3, p), (3, partner), (3, pport)]) p := by
  subst hu
  rw [opTrainingComplete, if_neg (by simp [hTrains, hLit])]
  dsimp only
  rw [ringPort_true hRing, Bool.true_and, if_neg (by rw [hCabled]; exact Bool.false_ne_true)]

/-- The registers of a port that has come up: state and lanes, partner, and the bypass (R492). -/
def upRegs (s : State) (p lanes partner pport : Nat) (bypassed : Bool) : State :=
  let s := setState s p (if lanes = 15 then 2 else 3) lanes
  let s := setFld (setFld s (linkReg p) 18 16 partner) (linkReg p) 15 13 pport
  setFlag s (linkReg p) 24 bypassed

theorem upRegs_reads (s : State) (p : Nat) {lanes partner pport : Nat} (bypassed : Bool) (hLanes : lanes < 16)
    (hPartner : partner < 8) (hPort : pport < 8) :
    portState (upRegs s p lanes partner pport bypassed) p = (if lanes = 15 then 2 else 3) ∧
    fld (upRegs s p lanes partner pport bypassed) (linkReg p) 28 25 = lanes ∧
    fld (upRegs s p lanes partner pport bypassed) (linkReg p) 18 16 = partner ∧
    fld (upRegs s p lanes partner pport bypassed) (linkReg p) 15 13 = pport ∧
    flag (upRegs s p lanes partner pport bypassed) (linkReg p) 24 = bypassed := by
  unfold upRegs
  dsimp only
  refine ⟨?_, ?_, ?_, ?_, flag_setFlag _ _ _ _ (by decide)⟩
  · rw [portState, fld_setFlag_apart _ _ _ _ _ _ (by decide) (by decide),
      fld_setFld_other _ _ _ _ _ _ _ (by decide) (by decide) (by decide),
      fld_setFld_other _ _ _ _ _ _ _ (by decide) (by decide) (by decide), ← portState]
    exact portState_setState s p lanes (by split <;> decide)
  · rw [fld_setFlag_apart _ _ _ _ _ _ (by decide) (by decide),
      fld_setFld_other _ _ _ _ _ _ _ (by decide) (by decide) (by decide),
      fld_setFld_other _ _ _ _ _ _ _ (by decide) (by decide) (by decide), lanes_setState s p _ hLanes]
  · rw [fld_setFlag_apart _ _ _ _ _ _ (by decide) (by decide),
      fld_setFld_other _ _ _ _ _ _ _ (by decide) (by decide) (by decide), fld_setFld _ _ _ _ _ (by decide) (by decide)]
    exact Nat.mod_eq_of_lt hPartner
  · rw [fld_setFlag_apart _ _ _ _ _ _ (by decide) (by decide), fld_setFld _ _ _ _ _ (by decide) (by decide)]
    exact Nat.mod_eq_of_lt hPort

theorem upRegs_units (s : State) (p lanes partner pport : Nat) (bypassed : Bool) :
    OnlyRegs [linkReg p] s (upRegs s p lanes partner pport bypassed) :=
  (((onlyRegs_setState s p _ lanes).trans (onlyRegs_setFld _ (linkReg p) 18 16 partner)).trans
    (onlyRegs_setFld _ (linkReg p) 15 13 pport)).trans (onlyRegs_setFlag _ (linkReg p) 24 bypassed)

theorem regs_resend (s : State) (p : Nat) : (resend s p).regs = s.regs := by rw [resend, State.setPort_regs]

/-- A port with nothing waiting sends nothing. -/
theorem regs_pump_idle {s : State} {p : Nat} (h : (s.port p).waiting = []) : (pump s p).regs = s.regs := by
  unfold pump
  dsimp only
  split
  · rw [h]
    rfl
  · rfl

theorem waiting_resend (s : State) (p : Nat) : ((resend s p).port p).waiting = (s.port p).waiting := by
  rw [resend, port_setPort_same]
  exact foldl_keeps (fun (x : Port) => x.waiting = (s.port p).waiting)
    (fun (x : Port) (f : TxFlit) => sendFlit x 1 f.seq f.first f.body) (fun x f h => h) _ rfl

/-- A port that faces no other partner than before comes up as its registers say. -/
theorem regs_comeUp {s : State} {p : Nat} (lanes partner pport : Nat) (bypassed : Bool) (hFaced : (s.port p).faced = none)
    (hWaiting : (s.port p).waiting = []) : (comeUp s p lanes partner pport bypassed).regs =
      (upRegs ((endRecovery s (p / 2) (.port p)).setPort p
        { s.port p with faced := some (partner, pport), direct := false, beat := timeNs s }) p lanes partner pport bypassed).regs := by
  have hUnits := upRegs_units ((endRecovery s (p / 2) (.port p)).setPort p
    { s.port p with faced := some (partner, pport), direct := false, beat := timeNs s }) p lanes partner pport bypassed
  have hPort : (upRegs ((endRecovery s (p / 2) (.port p)).setPort p
      { s.port p with faced := some (partner, pport), direct := false, beat := timeNs s }) p lanes partner pport bypassed).port p =
      { s.port p with faced := some (partner, pport), direct := false, beat := timeNs s } := by
    rw [hUnits.port_eq, port_setPort_same]
  have hUp : comeUp s p lanes partner pport bypassed = pump (resend (upRegs ((endRecovery s (p / 2) (.port p)).setPort p
      { s.port p with faced := some (partner, pport), direct := false, beat := timeNs s }) p lanes partner pport bypassed) p) p := by
    rw [comeUp, hFaced]
    rfl
  rw [hUp, regs_pump_idle (by rw [waiting_resend, hPort]; exact hWaiting), regs_resend]

/-- Settles O26. -/
theorem portsComeUp : Obligations.PortsComeUp := by
  unfold Obligations.PortsComeUp
  refine ⟨?_, ?_, ?_, ?_⟩
  · intro p lanes partner pport s hRelocks hLit
    have hExec : exec (.relockComplete p lanes partner pport) s =
      .next (keepQueue s (opRelockComplete p.val lanes partner.val pport.val s)) := rfl
    rw [hExec, opRelockComplete_lit lanes _ _ hRelocks hLit]
  · intro p lanes partner pport s hTrains hLit hChord hCabled
    have hExec : exec (.trainingComplete p lanes partner pport) s =
      .next (keepQueue s (opTrainingComplete p.val lanes partner.val pport.val s)) := rfl
    rw [hExec, opTrainingComplete_chord lanes _ _ hTrains hLit hChord hCabled]
  · intro p lanes partner pport s hTrains hRing hLit next u hCabled
    have hExec : exec (.trainingComplete p lanes partner pport) s =
      .next (keepQueue s (opTrainingComplete p.val lanes partner.val pport.val s)) := rfl
    rw [hExec, opTrainingComplete_miscabled lanes _ _ hTrains hRing hLit rfl hCabled]
  · intro p lanes partner pport byp s hFaced hWaiting _
    have hRegs := regs_comeUp lanes.toNat partner.val pport.val byp hFaced hWaiting
    obtain ⟨hState, hLanes, hPartner, hPort, hBypass⟩ := upRegs_reads ((endRecovery s (p.val / 2) (.port p.val)).setPort p.val
      { s.port p.val with faced := some (partner.val, pport.val), direct := false, beat := timeNs s }) p.val byp
      lanes.isLt partner.isLt pport.isLt
    have hRd := rd_congr hRegs (linkReg p.val)
    refine ⟨(portState_congr hRd).trans hState, ?_, ?_, ?_, ?_⟩
    · rw [fld, hRd, ← fld, hLanes]
    · rw [fld, hRd, ← fld, hPartner]
    · rw [fld, hRd, ← fld, hPort]
    · rw [flag, fld, hRd, ← fld, ← flag, hBypass]

end Sys2Proof.Machine
end


section
/-! PROOFS. The host link, its messages and requests, and the group (O28 to O31). -/

namespace Sys2Proof.Machine

/-! ### What sending leaves alone -/

/-- Nothing but the registers, the channels and the ports differs: what a message sent can change. -/
def SendOnly (s t : State) : Prop := t = { s with regs := t.regs, chans := t.chans, ports := t.ports }

theorem SendOnly.trans {s t u : State} (h : SendOnly s t) (h' : SendOnly t u) : SendOnly s u := by
  rw [SendOnly] at *
  rw [h', h]

theorem SendOnly.ref_eq {s t : State} (h : SendOnly s t) : t.ref = s.ref := by
  rw [SendOnly] at h
  rw [h]

theorem sendOnly_refl (s : State) : SendOnly s s := rfl
theorem sendOnly_setPort (s : State) (p : Nat) (x : Port) : SendOnly s (s.setPort p x) := rfl

theorem sendOnly_noteSent (s : State) (send : Option (Nat × Nat)) (n : Nat) : SendOnly s (noteSent s send n) := by
  cases send <;> rfl

theorem sendOnly_pumpGo (p : Nat) (ts : List TxMsg) (s : State) (blocked : List Nat) (keep : List TxMsg) :
    SendOnly s (pumpGo s p ts blocked keep) := by
  induction ts generalizing s blocked keep with
  | nil => exact sendOnly_setPort ..
  | cons t ts ih =>
    rw [pumpGo]
    dsimp only
    split
    · exact ((sendOnly_setPort s p _).trans (sendOnly_noteSent _ _ _)).trans (ih _ _ _)
    · exact ih _ _ _

theorem sendOnly_pump (s : State) (p : Nat) : SendOnly s (pump s p) := by
  unfold pump
  dsimp only
  split
  · exact sendOnly_pumpGo ..
  · exact sendOnly_refl s

theorem sendOnly_sendOn (s : State) (p : Nat) (t : TxMsg) : SendOnly s (sendOn s p t) :=
  (sendOnly_setPort s p _).trans (sendOnly_pump _ p)

theorem sendOnly_sendCtl (s : State) (p : Nat) (w1 : W64) : SendOnly s (sendCtl s p w1) := by
  unfold sendCtl
  dsimp only
  split
  · exact sendOnly_refl s
  · exact sendOnly_sendOn ..

theorem sendOnly_flood (s : State) (skip : Option Nat) (w1 : W64) : SendOnly s (flood s skip w1) :=
  foldl_keeps (SendOnly s) (fun s p => sendCtl s p w1) (fun t p h => h.trans (sendOnly_sendCtl t p w1)) _ (sendOnly_refl s)

theorem OnlyPorts.trans {s t u : State} (h : OnlyPorts s t) (h' : OnlyPorts t u) : OnlyPorts s u := by
  rw [OnlyPorts] at *
  rw [h', h]

theorem onlyPorts_setPort (s : State) (p : Nat) (x : Port) : OnlyPorts s (s.setPort p x) := rfl

theorem OnlyRegs.onlyPorts {l : List RegRef} {s t : State} (h : OnlyRegs l s t) : OnlyPorts s t := by
  obtain ⟨hUnits, -⟩ := h
  generalize t.regs = regs at hUnits
  subst hUnits
  rfl

theorem onlyPorts_dropMsg (s : State) (p : Nat) (m : Msg) : OnlyPorts s (dropMsg s p m) :=
  (onlyPorts_setPort s p _).trans (onlyPorts_setPort _ p _)

theorem OnlyPorts.setRef {s t : State} (h : OnlyPorts s t) (r : Referee) : OnlyPortsAndReferee s (setRef t r) := by
  rw [OnlyPorts] at h
  generalize t.regs = regs, t.ports = ports at h
  subst h
  rfl

theorem OnlyPortsAndReferee.pending_eq {s t : State} (h : OnlyPortsAndReferee s t) : t.pending = s.pending := by
  rw [OnlyPortsAndReferee] at h
  rw [h]

/-! ### The host link -/

theorem opHostLinkUp_on {s : State} {p : Nat} (hHost : hostPort s p = true) (hOn : flag s (linkCtl p) 31 = true) :
    opHostLinkUp p s = s.setPort p { s.port p with hup := true, hmac := none, htx := 0, hrx := 0, hun := [], hwait := [] } := by
  rw [opHostLinkUp, if_neg (by simp [hHost, hOn])]

theorem opHostFrame_other {s : State} {p : Nat} {f : HostFrame} (hHost : hostPort s p = true) (hUp : (s.port p).hup = true)
    (hOther : f.dstMac ≠ s.board.mac) : opHostFrame p f s = count32 s Reg.glbHostDropCount 1 := by
  rw [opHostFrame, if_neg (by simp [hHost, hUp])]
  exact if_pos (by simp [hOther])

/-- A port with no frame unacknowledged and none waiting has nothing to do for an acknowledgement. -/
theorem hostAck_idle {s : State} {p : Nat} (hUn : (s.port p).hun = []) (hWait : (s.port p).hwait = []) (hack : Nat) :
    hostAck s p hack = s.setPort p { s.port p with hun := [], hwait := [] } := by
  rw [hostAck, hUn, hWait]
  rfl

/-- The host's address learned and its acknowledgement applied (R517, R519). -/
def frameHeard (p : Nat) (f : HostFrame) (hack : Nat) (s : State) : State :=
  hostAck (s.setPort p { s.port p with hmac := some ((s.port p).hmac.getD f.srcMac) }) p hack

/-- The next frame in order taken: the number moved on and the frame counted. -/
def frameTaken (p : Nat) (s : State) : State :=
  count64 (s.setPort p { s.port p with hrx := ((s.port p).hrx + 1) % 65536 }) Reg.glbHostRxFrameCount 1

theorem frameHeard_idle {s : State} {p : Nat} (f : HostFrame) (hack : Nat) (hUn : (s.port p).hun = [])
    (hWait : (s.port p).hwait = []) :
    frameHeard p f hack s = (s.setPort p { s.port p with hmac := some ((s.port p).hmac.getD f.srcMac) }).setPort p
      { s.port p with hmac := some ((s.port p).hmac.getD f.srcMac), hun := [], hwait := [] } := by
  rw [frameHeard, hostAck_idle (by rw [port_setPort_same]; exact hUn) (by rw [port_setPort_same]; exact hWait), port_setPort_same]

/-- A frame that passes every check and is the next in order gives its messages (R516 to R520). -/
theorem opHostFrame_next {s : State} {p : Nat} {f : HostFrame} {ms : List Msg} (hHost : hostPort s p = true)
    (hUp : (s.port p).hup = true) (hMac : f.dstMac = s.board.mac) (hPlain : f.tagged = false) (hShort : f.payload.length ≤ 8336)
    (hLong : 16 ≤ f.payload.length) (hEther : f.ethertype.toNat = fld s Reg.glbHostCfg 31 16)
    (hVersion : bits (leNat (f.payload.take 8)) 63 56 = 1) (hSome : 1 ≤ bits (leNat (f.payload.take 8)) 47 32)
    (hFew : bits (leNat (f.payload.take 8)) 47 32 ≤ 4)
    (hMsgs : frameMsgs (bits (leNat (f.payload.take 8)) 47 32) (f.payload.drop 16) [] = some ms)
    (hOrder : bits (leNat (f.payload.take 8)) 31 16 = ((frameHeard p f (bits (leNat (f.payload.take 8)) 15 0) s).port p).hrx)
    (hRoom : heldIn ((frameHeard p f (bits (leNat (f.payload.take 8)) 15 0) s).port p).rxq + heldIn ms ≤ 512) :
    opHostFrame p f s = ms.foldl (hostMsg p) (frameTaken p (frameHeard p f (bits (leNat (f.payload.take 8)) 15 0) s)) := by
  rw [opHostFrame, if_neg (by simp [hHost, hUp]), if_neg (by simp [hMac, hPlain, hShort]), if_neg (not_not.mpr hEther)]
  dsimp only
  rw [if_neg (by simp [hLong, hVersion]; omega), hMsgs]
  exact if_neg (by rw [← frameHeard]; simp [hOrder, hRoom])

/-- A received message stands last in its buffer; of the rest only the referee's book of arrivals can differ. -/
theorem receive_frame (s : State) (p : Nat) (m : Msg) :
    receive s p m = { s with ports := (receive s p m).ports, ref := (receive s p m).ref } ∧
      (receive s p m).port p = { s.port p with rxq := (s.port p).rxq ++ [m] } := by
  unfold receive
  dsimp only
  split
  · exact ⟨rfl, port_setPort_same ..⟩
  · exact ⟨rfl, port_setPort_same ..⟩

theorem kind_setSrc (m : Msg) (t : Nat) : (m.setSrc t).kind = m.kind := by
  have hWord : putBits m.w0.toNat 54 52 t < 2 ^ 64 := putBits_lt _ _ _ _ (by decide) (by decide) m.w0.isLt
  have hFirst : (m.setSrc t).w0 = BitVec.ofNat 64 (putBits m.w0.toNat 54 52 t) := by rw [Msg.setSrc]
  rw [Msg.kind, hFirst, BitVec.toNat_ofNat, Nat.mod_eq_of_lt hWord, bits_putBits_other _ _ _ _ _ _ (by decide) (by decide),
    Msg.kind]

theorem sub_setSrc (m : Msg) (t : Nat) : (m.setSrc t).sub = m.sub := by rw [Msg.sub, Msg.setSrc, Msg.sub]

/-- What a host message leaves alone: all but the registers, the ports and the referee, and at its port what does not
belong to the receive buffer. -/
structure HostMsgKeeps (p : Nat) (s t : State) : Prop where
  units : OnlyPortsAndReferee s t
  hrx : (t.port p).hrx = (s.port p).hrx
  hmac : (t.port p).hmac = (s.port p).hmac

theorem HostMsgKeeps.trans {p : Nat} {s t u : State} (h : HostMsgKeeps p s t) (h' : HostMsgKeeps p t u) : HostMsgKeeps p s u where
  units := by
    have hFirst := h.units
    have hSecond := h'.units
    rw [OnlyPortsAndReferee] at *
    rw [hSecond, hFirst]
  hrx := h'.hrx.trans h.hrx
  hmac := h'.hmac.trans h.hmac

theorem HostMsgKeeps.refl (p : Nat) (s : State) : HostMsgKeeps p s s := ⟨rfl, rfl, rfl⟩

theorem hostMsgKeeps_count32 (p : Nat) (s : State) (r : RegRef) (n : Nat) : HostMsgKeeps p s (count32 s r n) := ⟨rfl, rfl, rfl⟩

theorem hostMsgKeeps_receive (p : Nat) (s : State) (m : Msg) : HostMsgKeeps p s (receive s p m) := by
  obtain ⟨hUnits, hPort⟩ := receive_frame s p m
  refine ⟨?_, by rw [hPort], by rw [hPort]⟩
  rw [OnlyPortsAndReferee]
  have hRegs : (receive s p m).regs = s.regs := by rw [hUnits]
  rw [hRegs]
  exact hUnits

theorem hostMsgKeeps_hostMsg (p : Nat) (s : State) (m : Msg) : HostMsgKeeps p s (hostMsg p s m) := by
  unfold hostMsg
  dsimp only
  split
  · exact HostMsgKeeps.trans (t := { s with ref := { s.ref with via := minsert s.ref.via (hostKey (m.setSrc (ownModule s))) p } })
      ⟨rfl, rfl, rfl⟩ (hostMsgKeeps_receive p _ _)
  · exact hostMsgKeeps_count32 ..

theorem hostMsgKeeps_hostMsgs (p : Nat) (ms : List Msg) (s : State) : HostMsgKeeps p s (ms.foldl (hostMsg p) s) :=
  foldl_keeps (HostMsgKeeps p s) (hostMsg p) (fun t m h => h.trans (hostMsgKeeps_hostMsg p t m)) ms (.refl p s)

/-- A host message that the host may send enters the buffer as the captain's own, and the registers stand. -/
theorem hostMsg_good {p : Nat} {s : State} {m : Msg} (hOk : (m.setSrc (ownModule s)).ok = true) (hMay : ¬ (m.kind = 4 ∧ m.sub = 5)) :
    ((hostMsg p s m).port p).rxq = (s.port p).rxq ++ [m.setSrc (ownModule s)] ∧ (hostMsg p s m).regs = s.regs := by
  have hSent : ((m.setSrc (ownModule s)).ok && !((m.setSrc (ownModule s)).kind == 4 && (m.setSrc (ownModule s)).sub == 5)) = true := by
    rw [hOk, kind_setSrc, sub_setSrc]
    simpa [imp_iff_not_or] using hMay
  obtain ⟨hUnits, hPort⟩ := receive_frame
    { s with ref := { s.ref with via := minsert s.ref.via (hostKey (m.setSrc (ownModule s))) p } } p (m.setSrc (ownModule s))
  rw [hostMsg, if_pos hSent]
  exact ⟨by rw [hPort]; rfl, by rw [hUnits]⟩

theorem ownModule_congr {s t : State} (h : t.regs = s.regs) : ownModule t = ownModule s := by
  rw [ownModule, ownModule, fld, fld, rd_congr h]

/-- Messages that the host may send stand in the buffer in their order. -/
theorem rxq_hostMsgs {p own : Nat} (ms : List Msg) {s : State} (hOwn : ownModule s = own)
    (hGood : ∀ m ∈ ms, (m.setSrc own).ok = true ∧ ¬ (m.kind = 4 ∧ m.sub = 5)) :
    ((ms.foldl (hostMsg p) s).port p).rxq = (s.port p).rxq ++ ms.map (·.setSrc own) := by
  induction ms generalizing s with
  | nil => simp
  | cons m ms ih =>
    obtain ⟨hOk, hMay⟩ := hGood m List.mem_cons_self
    subst hOwn
    obtain ⟨hQueue, hRegs⟩ := hostMsg_good (p := p) hOk hMay
    rw [List.foldl_cons, ih (ownModule_congr hRegs) fun x hx => hGood x (List.mem_cons_of_mem _ hx), hQueue, List.map_cons,
      List.append_assoc, List.singleton_append]

/-- A frame taken in order while nothing waits for an acknowledgement. -/
theorem frameTaken_reads {s : State} {p : Nat} (f : HostFrame) (hack : Nat) (hUn : (s.port p).hun = [])
    (hWait : (s.port p).hwait = []) :
    OnlyPorts s (frameTaken p (frameHeard p f hack s)) ∧
      (frameTaken p (frameHeard p f hack s)).port p = { s.port p with
        hmac := some ((s.port p).hmac.getD f.srcMac), hun := [], hwait := [], hrx := ((s.port p).hrx + 1) % 65536 } ∧
      ownModule (frameTaken p (frameHeard p f hack s)) = ownModule s := by
  rw [frameHeard_idle f hack hUn hWait, frameTaken, port_setPort_same]
  refine ⟨((((onlyPorts_setPort s p _).trans (onlyPorts_setPort _ p _)).trans (onlyPorts_setPort _ p _)).trans
    (onlyRegs_wr _ Reg.glbHostRxFrameCount _).onlyPorts), ?_, ?_⟩
  · rw [count64, port_wr, port_setPort_same]
  · have hRd (t : State) : rd (count64 t Reg.glbHostRxFrameCount 1) Reg.glbGroupStatus = rd t Reg.glbGroupStatus :=
      rd_wr_other _ _ (by decide)
    rw [ownModule, fld, hRd, rd_setPort, rd_setPort, rd_setPort, ← fld, ownModule]

/-- Host frames sent again leave the unacknowledged ones as they are; the last of them is the last one sent. -/
theorem resent_frames (l : List (Nat × Msg)) (x : Port) :
    (l.foldl (fun (y : Port) (f : Nat × Msg) => { y with hout := some (f.1, (y.hrx + 65535) % 65536, f.2) }) x).hun = x.hun ∧
      (l ≠ [] → (l.foldl (fun (y : Port) (f : Nat × Msg) => { y with hout := some (f.1, (y.hrx + 65535) % 65536, f.2) }) x).hout.map
        (·.1) = l.getLast?.map (·.1)) := by
  induction l using List.reverseRecOn with
  | nil => exact ⟨rfl, fun h => absurd rfl h⟩
  | append_singleton l f ih =>
    rw [List.foldl_append]
    refine ⟨ih.1, fun _ => ?_⟩
    rw [List.getLast?_concat]
    rfl

/-- Settles O28. -/
theorem hostLink : Obligations.HostLink := by
  unfold Obligations.HostLink
  refine ⟨?_, ?_, ?_, ?_⟩
  · intro p s hHost hOn
    exact exec_of_eq rfl (opHostLinkUp_on hHost hOn) rfl
  · intro p f s hHost hUp hOther
    exact .of_effect rfl (opHostFrame_other hHost hUp hOther) (onlyRegs_count32 ..).pending_eq
      ⟨onlyRegs_count32 .., counted_count32 ..⟩
  · intro p f ms s hHost hUp hMac hPlain hShort hLong hEther hVersion hSome hFew hMsgs hUn hWait hOrder hRoom
    have hHeard := frameHeard_idle f (bits (leNat (f.payload.take 8)) 15 0) hUn hWait
    obtain ⟨hUnits, hPort, hOwn⟩ := frameTaken_reads f (bits (leNat (f.payload.take 8)) 15 0) hUn hWait
    have hMsgsKeep := hostMsgKeeps_hostMsgs p.val ms (frameTaken p.val (frameHeard p.val f (bits (leNat (f.payload.take 8)) 15 0) s))
    have hOp := opHostFrame_next hHost hUp hMac hPlain hShort hLong hEther hVersion hSome hFew hMsgs
      (by rw [hHeard, port_setPort_same]; exact hOrder) (by rw [hHeard, port_setPort_same]; exact hRoom)
    have hFrame : OnlyPortsAndReferee s
        (ms.foldl (hostMsg p.val) (frameTaken p.val (frameHeard p.val f (bits (leNat (f.payload.take 8)) 15 0) s))) := by
      have hLast := hMsgsKeep.units
      rw [OnlyPortsAndReferee] at *
      rw [OnlyPorts] at hUnits
      rw [hLast, hUnits]
    refine .of_effect rfl hOp hFrame.pending_eq ⟨hFrame, ?_, ?_, fun hGood => ?_⟩
    · rw [hMsgsKeep.hrx, hPort]
    · rw [hMsgsKeep.hmac, hPort]
    · rw [rxq_hostMsgs ms hOwn hGood, hPort]
  · intro p s hHost hUp hUnacked
    have hOp : opHostResendTimeout p.val s = count32 (hostResend s p.val) Reg.glbHostResendCount 1 := by
      rw [opHostResendTimeout, if_neg (by simp [hHost, hUp, hUnacked])]
    obtain ⟨hKept, hLast⟩ := resent_frames (s.port p.val).hun (s.port p.val)
    refine .of_effect rfl hOp rfl ⟨rfl, (onlyRegs_count32 (hostResend s p.val) _ 1).2, counted_count32 (hostResend s p.val) _ 1, ?_, ?_⟩
    · rw [port_count32, hostResend, port_setPort_same, hKept]
    · rw [port_count32, hostResend, port_setPort_same, hLast hUnacked]

/-! ### Management messages -/

theorem toHost_bound {s : State} {p q : Nat} {m : Msg} (hBound : m.toh = true) (hPick : hostPick s none m = some q) :
    toHost s p m = hostSend (dropMsg s p m) q m := by
  rw [toHost, if_neg (by simp [hBound]), hPick]

theorem opRegisterRead_served {s : State} {p : Nat} {m : Msg} (hTake : takeFor s p 4 [1] = some m)
    (hWiped : flag s Reg.glbLcStatus 23 = true) : opRegisterRead p s =
      mgmtReply (mgmtRead (m.f1 59 48) (m.f1 47 0) [] (dropMsg s p m)).1 p m
        (mgmtRead (m.f1 59 48) (m.f1 47 0) [] (dropMsg s p m)).2.1 (mgmtRead (m.f1 59 48) (m.f1 47 0) [] (dropMsg s p m)).2.2 := by
  rw [opRegisterRead, hTake]
  exact if_neg (by simp [hWiped])

theorem opRegisterWrite_served {s : State} {p : Nat} {m : Msg} (hTake : takeFor s p 4 [2] = some m)
    (hWiped : flag s Reg.glbLcStatus 23 = true) : opRegisterWrite p s =
      mgmtReply (mgmtWrite (m.f1 59 48) (m.f1 47 0) m.data (dropMsg s p m)).1 p m
        (mgmtWrite (m.f1 59 48) (m.f1 47 0) m.data (dropMsg s p m)).2 [] := by
  rw [opRegisterWrite, hTake]
  exact if_neg (by simp [hWiped])

/-- A transfer with one more of its pieces. -/
def withPiece (t : Xfer) (piece : Nat) : Xfer :=
  { t with pieces := if t.pieces.contains piece then t.pieces else t.pieces ++ [piece] }

theorem mem_withPiece (t : Xfer) (piece : Nat) : piece ∈ (withPiece t piece).pieces := by
  unfold withPiece
  by_cases h : piece ∈ t.pieces <;> simp [h]

/-- The bytes of a piece stored and the piece noted (R526). -/
def pieceStored (p : Nat) (m : Msg) (t : Xfer) (s : State) : State :=
  let s := (writeRange (dropMsg s p m) (slotAddr (dropMsg s p m) (m.f1 55 54) t.slot + 2048 * m.f1 59 56) m.data).1
  setBook s (m.f1 55 54) { book s (m.f1 55 54) with
    xfers := ((book s (m.f1 55 54)).xfers.filter fun (e : Xfer) => e.xfer != BitVec.ofNat 32 (m.f1 31 0)) ++
      [withPiece t (m.f1 59 56)] }

theorem mem_pieceStored (p : Nat) (m : Msg) (t : Xfer) (s : State) : (pieceStored p m t s).mem =
    (writeRange (dropMsg s p m) (slotAddr (dropMsg s p m) (m.f1 55 54) t.slot + 2048 * m.f1 59 56) m.data).1.mem := by
  rw [pieceStored, setBook, State.setChan_mem]

theorem opTransferData_stored {s : State} {p : Nat} {m : Msg} {t : Xfer} (hTake : takeFor s p 4 [4] = some m)
    (hXfer : xferOf (dropMsg s p m) (m.f1 55 54) (BitVec.ofNat 32 (m.f1 31 0)) = some t) :
    opTransferData p s = pieceStored p m t s := by
  rw [opTransferData, hTake]
  dsimp only
  rw [hXfer]
  rfl

/-- Settles O29. -/
theorem management : Obligations.Management := by
  unfold Obligations.Management
  refine ⟨?_, ?_, ?_, ?_⟩
  · intro p m s hTake hWiped
    have hExec : exec (.registerRead p) s = .next (keepQueue s (opRegisterRead p.val s)) := rfl
    rw [hExec, opRegisterRead_served hTake hWiped]
  · intro p m s hTake hWiped
    have hExec : exec (.registerWrite p) s = .next (keepQueue s (opRegisterWrite p.val s)) := rfl
    rw [hExec, opRegisterWrite_served hTake hWiped]
  · intro p q m s hBound hPick
    refine ⟨fun hTake => ?_, fun hTake => ?_, fun hTake => ?_, fun hTake => ?_⟩
    · have hExec : exec (.reply p) s = .next (keepQueue s (opReply p.val s)) := rfl
      rw [hExec, opReply, hTake]
      exact congrArg (fun t => Host.Outcome.next (keepQueue s t)) (toHost_bound hBound hPick)
    · have hExec : exec (.eventNotice p) s = .next (keepQueue s (opEventNotice p.val s)) := rfl
      rw [hExec, opEventNotice, hTake]
      exact congrArg (fun t => Host.Outcome.next (keepQueue s t)) (toHost_bound hBound hPick)
    · have hExec : exec (.response p) s = .next (keepQueue s (opResponse p.val s)) := rfl
      rw [hExec, opResponse, hTake]
      exact congrArg (fun t => Host.Outcome.next (keepQueue s t)) (toHost_bound hBound hPick)
    · have hExec : exec (.status p) s = .next (keepQueue s (opStatus p.val s)) := rfl
      rw [hExec, opStatus, hTake]
      exact congrArg (fun t => Host.Outcome.next (keepQueue s t)) (toHost_bound hBound hPick)
  · intro p m t s hTake hXfer
    have hExec : exec (.transferData p) s = .next (keepQueue s (opTransferData p.val s)) := rfl
    refine ⟨keepQueue s (pieceStored p.val m t s), by rw [hExec, opTransferData_stored hTake hXfer],
      mem_pieceStored .., withPiece t (m.f1 59 56), ?_, rfl, rfl, mem_withPiece ..⟩
    have hChan : (keepQueue s (pieceStored p.val m t s)).chan (m.f1 55 54) = (pieceStored p.val m t s).chan (m.f1 55 54) := rfl
    rw [hChan, pieceStored, setBook, chan_setChan_same]
    simp

/-! ### Requests -/

/-- The first part of a request, as the referee books it. -/
def firstPart (p : Nat) (m : Msg) : Request := ⟨m.src, p, m.model, m.htag, m.f1 19 8 + 1, m.maxNew, [(0, tokensOf m)]⟩

theorem opRequest_first {s : State} {p : Nat} {m : Msg} (hTake : takeFor s p 5 [1] = some m)
    (hFirst : arrivedFirst s p m = true) (hNone : s.ref.partial_ = []) (hIndex : m.index = 0) : opRequest p s =
      if (firstPart p m).complete then takeRequest (setRef (dropMsg s p m) { s.ref with partial_ := [] }) (firstPart p m)
      else setRef (dropMsg s p m) { s.ref with partial_ := [firstPart p m] } := by
  have hRef : (dropMsg s p m).ref = s.ref := rfl
  rw [opRequest, hTake]
  dsimp only
  rw [if_neg (by simp [hFirst]), hRef, hNone, hIndex]
  rfl

theorem complete_firstPart (p : Nat) (m : Msg) : (firstPart p m).complete = decide (m.f1 19 8 = 0) := by
  rw [Bool.eq_iff_iff, decide_eq_true_eq]
  simp only [Request.complete, firstPart, List.all_eq_true, List.mem_range, List.any_cons, List.any_nil, Bool.or_false, beq_iff_eq]
  constructor
  · intro h
    by_contra hMore
    exact absurd (h 1 (by omega)) (by decide)
  · intro h k hk
    omega

theorem onSequence_current {s : State} {p k : Nat} {m : Msg} {q : Live} (act : State → Msg → Live → State)
    (hTake : takeFor s p 5 [k] = some m) (hSeq : currentSeq s m = some q) : onSequence s p k act = act s m q := by
  rw [onSequence, hTake]
  dsimp only
  rw [hSeq]

theorem onSequence_stale {s : State} {p k : Nat} {m : Msg} (act : State → Msg → Live → State)
    (hTake : takeFor s p 5 [k] = some m) (hSeq : currentSeq s m = none) :
    onSequence s p k act = emit (dropMsg s p m) (some p) none (statusMsg s m.src m.model m.htag 2 0) := by
  rw [onSequence, hTake]
  dsimp only
  rw [hSeq]

theorem statusMsg_congr {s t : State} (h : t.regs = s.regs) (src model : Nat) (htag : W32) (code index : Nat) :
    statusMsg t src model htag code index = statusMsg s src model htag code index := by
  rw [statusMsg, statusMsg, ownModule_congr h]

theorem opContinueSequence_goes {s : State} {p : Nat} {m : Msg} {q : Live} (hTake : takeFor s p 5 [2] = some m)
    (hSeq : currentSeq s m = some q) (hIdle : q.work = none) (hFree : q.waits = false) (hServed : refusal s q.model = none) :
    opContinueSequence p s = expandStep (startWake (putLive (dropMsg s p m)
      { q with htag := m.htag, src := m.src, input := q.input ++ tokensOf m, maxNew := q.made + m.maxNew })) q.id := by
  rw [opContinueSequence, onSequence_current _ hTake hSeq, if_neg (by simp [hIdle, hFree]), hServed]

/-- Settles O30. -/
theorem requests : Obligations.Requests := by
  unfold Obligations.Requests
  refine ⟨?_, ?_, ?_, ?_, ?_, ?_, ?_, ?_⟩
  · intro p m s hTake hFirst hNone hIndex hMore
    have hOp : opRequest p.val s = setRef (dropMsg s p.val m) { s.ref with partial_ := [firstPart p.val m] } := by
      rw [opRequest_first hTake hFirst hNone hIndex, complete_firstPart, if_neg (by simp; omega)]
    have hFrame := (onlyPorts_dropMsg s p.val m).setRef { s.ref with partial_ := [firstPart p.val m] }
    exact .of_effect rfl hOp hFrame.pending_eq ⟨rfl, hFrame⟩
  · intro p m s hTake hFirst hNone hIndex hOnly
    have hExec : exec (.request p) s = .next (keepQueue s (opRequest p.val s)) := rfl
    rw [hExec, opRequest_first hTake hFirst hNone hIndex, complete_firstPart, if_pos (by simp [hOnly]), firstPart, hOnly]
  · intro p m s hTake hLate
    have hOp : opRequest p.val s = s := by
      rw [opRequest, hTake]
      exact if_pos (by simp [hLate])
    exact exec_of_kept rfl hOp
  · intro r s hOne
    have hExec : exec (.requestIncompleteTimeout r.htag) s = .next (keepQueue s (opRequestIncompleteTimeout r.htag s)) := rfl
    have hFind : [r].find? (·.htag == r.htag) = some r := by simp
    have hErase : [r].erase r = [] := by simp
    rw [hExec, opRequestIncompleteTimeout, hOne, hFind]
    dsimp only
    rw [hErase]
  · intro p m q s hTake hSeq hIdle hFree hServed
    have hExec : exec (.continueSequence p) s = .next (keepQueue s (opContinueSequence p.val s)) := rfl
    rw [hExec, opContinueSequence_goes hTake hSeq hIdle hFree hServed]
  · intro p m q s hTake hSeq
    have hExec : exec (.cancel p) s = .next (keepQueue s (opCancel p.val s)) := rfl
    rw [hExec, opCancel, onSequence_current _ hTake hSeq]
  · intro p m q s hTake hSeq
    have hExec : exec (.replay p) s = .next (keepQueue s (opReplay p.val s)) := rfl
    rw [hExec, opReplay, onSequence_current _ hTake hSeq]
  · intro p m s hTake hSeq
    have hExec : exec (.cancel p) s = .next (keepQueue s (opCancel p.val s)) := rfl
    rw [hExec, opCancel, onSequence_stale _ hTake hSeq, statusMsg_congr (t := dropMsg s p.val m) (s := s) rfl]

/-! ### The group -/

theorem opMembershipUpdate_stale {s : State} {p : Nat} {m : Msg} (hTake : takeFor s p 3 [2] = some m)
    (hStale : staleCtl s m = true) : opMembershipUpdate p s = staleMsg s p m := by
  rw [opMembershipUpdate, hTake]
  exact if_pos hStale

theorem opMembershipUpdate_newer {s : State} {p : Nat} {m : Msg} (hTake : takeFor s p 3 [2] = some m)
    (hFresh : staleCtl s m = false) (hEpoch : m.f1 59 44 ≠ epochNow (dropMsg s p m)) : opMembershipUpdate p s =
      flood (adoptView (dropMsg s p m) (m.f1 59 44) (m.f1 43 36) (optField m 33 32) (optField m 29 28)) (some p) m.w1 := by
  rw [opMembershipUpdate, hTake]
  dsimp only
  rw [if_neg (by simp [hFresh]), if_neg hEpoch]

/-- Two updates of one epoch that do not agree are settled by a third (R508). -/
theorem opMembershipUpdate_differs {s : State} {p : Nat} {m : Msg} (hTake : takeFor s p 3 [2] = some m)
    (hFresh : staleCtl s m = false) (hEpoch : m.f1 59 44 = epochNow (dropMsg s p m))
    (hMask : m.f1 43 36 ≠ membersMask (dropMsg s p m)) : opMembershipUpdate p s =
      issueUpdate (dropMsg s p m) (m.f1 43 36 &&& membersMask (dropMsg s p m)) := by
  rw [opMembershipUpdate, hTake]
  dsimp only
  rw [if_neg (by simp [hFresh]), if_pos hEpoch, if_neg hMask]

theorem rejoinTake_fresh {s : State} {p sub : Nat} {m : Msg} {fresh : State → Nat → Bool} {act : State → Nat → State}
    (hTake : takeFor s p 3 [sub] = some m) (hNew : staleCtl s m = false) (hFresh : fresh (dropMsg s p m) (m.f1 27 25) = true) :
    rejoinTake s p sub fresh act = act (flood (dropMsg s p m) (some p) m.w1) (m.f1 27 25) := by
  rw [rejoinTake, hTake]
  dsimp only
  rw [if_neg (by simp [hNew]), if_pos hFresh]

/-- Settles O31. -/
theorem group : Obligations.Group := by
  unfold Obligations.Group
  refine ⟨?_, ?_, ?_, ?_, ?_, ?_, ?_, ?_, ?_⟩
  · intro p m s hTake
    have hOp : opHeartbeat p.val s =
        (dropMsg s p.val m).setPort p.val { (dropMsg s p.val m).port p.val with beat := timeNs (dropMsg s p.val m) } := by
      rw [opHeartbeat, hTake]
    have hFrame := (onlyPorts_dropMsg s p.val m).trans (onlyPorts_setPort (dropMsg s p.val m) p.val
      { (dropMsg s p.val m).port p.val with beat := timeNs (dropMsg s p.val m) })
    refine .of_effect rfl hOp (by rw [hFrame]) ⟨hFrame, fun _ _ => rfl, ?_, ?_⟩
    · rw [port_setPort_same]
      rfl
    · rw [port_setPort_same, port_dropMsg]
  · intro s hQuiet
    have hOp : opHeartbeatSend s = s := if_pos (by simpa using hQuiet)
    exact exec_of_kept rfl hOp
  · intro s hFormed hActive
    have hExec : exec .heartbeatSend s = .next (keepQueue s (opHeartbeatSend s)) := rfl
    rw [hExec, opHeartbeatSend, if_neg (by simp [hFormed, hActive])]
  · intro p s hFormed hUp hOther hMember hSilent hWest
    have hExec : exec (.neighbourHung p) s = .next (keepQueue s (opNeighbourHung p.val s)) := rfl
    have hNotYet : ¬ timeNs s < (s.port p.val).beat + 100000 := by omega
    rw [hExec, opNeighbourHung, if_neg (by simp [hFormed, hUp, hOther, hMember, hNotYet, hWest])]
  · intro p m s hTake hFresh hEpoch
    have hExec : exec (.membershipUpdate p) s = .next (keepQueue s (opMembershipUpdate p.val s)) := rfl
    rw [hExec, opMembershipUpdate_newer hTake hFresh hEpoch]
  · intro p m s hTake hFresh hEpoch hMask
    have hExec : exec (.membershipUpdate p) s = .next (keepQueue s (opMembershipUpdate p.val s)) := rfl
    rw [hExec, opMembershipUpdate_differs hTake hFresh hEpoch hMask]
  · intro p m s hTake hStale
    obtain ⟨hPorts, hRegs, hCount⟩ := countedDrop_frame s p.val m Reg.glbLinkStaleCount
    exact .of_effect rfl (opMembershipUpdate_stale hTake hStale) rfl ⟨hPorts, hRegs, hCount⟩
  · intro p m s hTake hFresh hNone hForming
    have hExec : exec (.rejoinStart p) s = .next (keepQueue s (opRejoinStart p.val s)) := rfl
    have hRef : (flood (dropMsg s p.val m) (some p.val) m.w1).ref = s.ref := (sendOnly_flood ..).ref_eq
    have hNew : ((dropMsg s p.val m).ref.rejoin != some (m.f1 27 25)) = true := by
      have hDropped : (dropMsg s p.val m).ref = s.ref := rfl
      rw [hDropped, hNone]
      rfl
    rw [hExec, opRejoinStart, rejoinTake_fresh hTake hFresh hNew, if_pos (by rw [setRef, hRef]; simp [hForming])]
  · intro p m s hTake hFresh hRejoin hFormed
    have hExec : exec (.rejoinDone p) s = .next (keepQueue s (opRejoinDone p.val s)) := rfl
    have hOwn : ((dropMsg s p.val m).ref.rejoin == some (m.f1 27 25)) = true := by
      have hDropped : (dropMsg s p.val m).ref = s.ref := rfl
      rw [hDropped, hRejoin]
      simp
    rw [hExec, opRejoinDone, rejoinTake_fresh hTake hFresh hOwn, if_pos hFormed]

end Sys2Proof.Machine
end


section
/-! PROOFS. Where an access is served, the commands of the memory tiers, the shadow and the words of a vector program
(O36, O34, O39, O59). -/

namespace Sys2Proof.Machine

/-! ### Where an access is served -/

theorem place_tier0_own {n off : Nat} (hn : n < 4) (hOff : off < tier0Size) : place (tier0Base n + off) = .tier0 n off := by
  unfold place tier0Base
  unfold tier0Size at *
  rw [if_pos (by omega)]
  have hChannel : (0x2400000000 * n + off) / 0x2400000000 = n := by omega
  have hOffset : (0x2400000000 * n + off) % 0x2400000000 = off := by omega
  rw [hChannel, hOffset]

/-- Between the tiers nothing is mapped. -/
theorem place_between {a : Nat} (hLow : 4 * tier0Size ≤ a) (hHigh : a < 0x10000000000) : place a = .none := by
  unfold place
  rw [if_neg (by omega), if_neg (by omega), if_neg (by omega)]

/-- What a place of tier 0 answers, in the order of R338. -/
theorem resolve_tier0 {s : State} {a n off : Nat} (write : Bool) (hPlace : place a = .tier0 n off) :
    resolve s a write =
      if fenced s n then
        if mirrored s n off && !fenced s (partner n) then
          if absent s (partner n) (off / 32768) then .error (.page (partner n) off write)
          else .ok (tier0Base (partner n) + off)
        else .error .fence
      else if absent s n (off / 32768) then .error (.page n off write) else .ok a := by
  rw [resolve, hPlace]

/-- Settles O36: the place of the address decides, and in tier 0 the fence, the mirror and the residency map. -/
theorem resolve_settled : Obligations.Resolve := by
  unfold Obligations.Resolve
  intro n off write s hOff
  have hOwn := resolve_tier0 (s := s) write (place_tier0_own n.isLt hOff)
  refine ⟨fun hFence hPresent => ?_, fun hFence hAbsent => ?_, fun hFence hPlain => ?_, fun hFence hMirror hOpen hPresent => ?_,
    fun o ho => ?_, fun a hLow hHigh => ?_⟩
  · rw [hOwn, if_neg (by simp [hFence]), if_neg (by simp [hPresent])]
  · rw [hOwn, if_neg (by simp [hFence]), if_pos hAbsent]
  · rw [hOwn, if_pos hFence, if_neg (by simp [hPlain])]
  · rw [hOwn, if_pos hFence, if_pos (by simp [hMirror, hOpen]), if_neg (by simp [hPresent])]
  · rw [resolve, place_tier1_own n.isLt ho]
  · rw [resolve, place_between hLow hHigh]

/-! ### Refresh, hot channels, the fence and the lock -/

theorem opHotChannelSample_off {n : Nat} {s : State} (occ : List Nat) (hOff : flag s (Reg.chHotCtrl n) 31 = false) :
    opHotChannelSample n occ s = s.setChan n { s.chan n with hot := none } := by
  rw [opHotChannelSample]
  dsimp only
  rw [if_pos (by simp [hOff])]

/-- What a sample that finds a pseudo-channel standing high makes of its episode (R328 to R330). -/
def sampleEpisode (n : Nat) (old : Episode) (q sum : Nat) (s : State) : State :=
  let e := { old with samples := old.samples + 1, peak := max old.peak q }
  let full := decide (fld s (Reg.chHotCtrl n) 11 0 * 10000 * 12 ≤ (e.samples - 1) * 10240)
  let notes := !e.posted && full && !flag s (Reg.chHotLast n) 63
  let s := s.setChan n { s.chan n with hot := some { e with posted := e.posted || full, noted := e.noted || notes } }
  if e.posted then
    if e.noted && flag s (Reg.chHotLast n) 63 then
      let s := setFld s (Reg.chHotLast n) 47 40 e.peak
      setFld s (Reg.chHotLast n) 31 0 (min e.samples 0xFFFFFFFF)
    else s
  else if full then
    let s := count32 s (Reg.chHotCount n) 1
    let s := recordOnce s (Reg.chHotLast n) (e.stack * 2 ^ 61 + e.pc * 2 ^ 56 + e.peak * 2 ^ 40
      + min 255 (sum * 8 / 96) * 2 ^ 32 + min e.samples 0xFFFFFFFF)
    post s n 0x0D 0 [(2, e.stack), (5, e.pc), (8, e.peak)]
  else s

/-- The pseudo-channel whose episode a sample continues or begins: the one of the episode while it still stands high,
otherwise the lowest one that does (R328). -/
def highPlace (s : State) (n : Nat) (occ : List Nat) : Option Nat :=
  match (match (s.chan n).hot with
    | some e => if standsHigh s n occ (32 * e.stack + e.pc) then some (32 * e.stack + e.pc) else none
    | none => none) with
  | some i => some i
  | none => (List.range 96).find? (standsHigh s n occ)

/-- The episode that a sample continues or begins. -/
def episodeBefore (s : State) (n : Nat) (occ : List Nat) (i : Nat) : Episode :=
  match (s.chan n).hot, (match (s.chan n).hot with
    | some e => if standsHigh s n occ (32 * e.stack + e.pc) then some (32 * e.stack + e.pc) else none
    | none => none) with
  | some e, some _ => e
  | _, _ => ⟨i / 32, i % 32, 0, 0, false, false⟩

theorem highPlace_none {n : Nat} {occ : List Nat} {s : State} (hNone : ∀ i, standsHigh s n occ i = false) :
    highPlace s n occ = none := by
  have hFind : (List.range 96).find? (standsHigh s n occ) = none := List.find?_eq_none.2 fun i _ => by simp [hNone i]
  rw [highPlace]
  cases (s.chan n).hot with
  | none => exact hFind
  | some e =>
    dsimp only
    rw [if_neg (by simp [hNone])]
    exact hFind

theorem highPlace_begins {n i : Nat} {occ : List Nat} {s : State} (hIdle : (s.chan n).hot = none) (hi : i < 96)
    (hHigh : standsHigh s n occ i = true) (hFirst : ∀ j < i, standsHigh s n occ j = false) :
    highPlace s n occ = some i := by
  rw [highPlace, hIdle]
  exact List.find?_range_eq_some.2 ⟨hHigh, by simpa using hi, fun j hj => by simp [hFirst j hj]⟩

theorem highPlace_goes {n : Nat} {occ : List Nat} {e : Episode} {s : State} (hEpisode : (s.chan n).hot = some e)
    (hHigh : standsHigh s n occ (32 * e.stack + e.pc) = true) : highPlace s n occ = some (32 * e.stack + e.pc) := by
  rw [highPlace, hEpisode]
  simp only [hHigh, if_true]

theorem episodeBefore_begins {n : Nat} (i : Nat) (occ : List Nat) {s : State} (hIdle : (s.chan n).hot = none) :
    episodeBefore s n occ i = ⟨i / 32, i % 32, 0, 0, false, false⟩ := by
  rw [episodeBefore, hIdle]

theorem episodeBefore_goes {n : Nat} (i : Nat) {occ : List Nat} {e : Episode} {s : State} (hEpisode : (s.chan n).hot = some e)
    (hHigh : standsHigh s n occ (32 * e.stack + e.pc) = true) : episodeBefore s n occ i = e := by
  rw [episodeBefore, hEpisode]
  simp only [hHigh, if_true]

/-- A sample while the monitor is on, by the place it finds. -/
theorem opHotChannelSample_on {n : Nat} (occ : List Nat) {s : State} (hOn : flag s (Reg.chHotCtrl n) 31 = true) :
    opHotChannelSample n occ s = match highPlace s n occ with
      | none => s.setChan n { s.chan n with hot := none }
      | some i => sampleEpisode n (episodeBefore s n occ i) (min 32 (occ.getD i 0))
          ((List.range 96).foldl (fun a j => a + min 32 (occ.getD j 0)) 0) s := by
  rw [opHotChannelSample]
  dsimp only
  rw [if_neg (by simp [hOn])]
  rfl

theorem sampleEpisode_short {n : Nat} {e : Episode} (q sum : Nat) {s : State} (hNew : e.posted = false)
    (hShort : e.samples * 10240 < fld s (Reg.chHotCtrl n) 11 0 * 120000) :
    sampleEpisode n e q sum s = s.setChan n { s.chan n with
      hot := some { e with samples := e.samples + 1, peak := max e.peak q } } := by
  have hFull : decide (fld s (Reg.chHotCtrl n) 11 0 * 10000 * 12 ≤ (e.samples + 1 - 1) * 10240) = false :=
    decide_eq_false (by omega)
  rw [sampleEpisode]
  dsimp only
  rw [hFull, hNew]
  simp

/-- The episode of a sample that fills the window. -/
def filledEpisode (n : Nat) (e : Episode) (q : Nat) (s : State) : Episode :=
  { e with samples := e.samples + 1, peak := max e.peak q, posted := true, noted := e.noted || !flag s (Reg.chHotLast n) 63 }

/-- What CH_HOT_LAST records of an episode (R330). -/
def episodeRecord (e : Episode) (sum : Nat) : Nat :=
  e.stack * 2 ^ 61 + e.pc * 2 ^ 56 + e.peak * 2 ^ 40 + min 255 (sum * 8 / 96) * 2 ^ 32 + min e.samples 0xFFFFFFFF

theorem episodeRecord_lt {e : Episode} (sum : Nat) (hStack : e.stack < 3) (hPc : e.pc < 32) (hPeak : e.peak ≤ 32) :
    episodeRecord e sum < 2 ^ 63 := by
  unfold episodeRecord
  omega

/-- The state of a sample that fills the window, before its event. -/
def windowFilled (n : Nat) (e : Episode) (q sum : Nat) (s : State) : State :=
  recordOnce (count32 (s.setChan n { s.chan n with hot := some (filledEpisode n e q s) }) (Reg.chHotCount n) 1)
    (Reg.chHotLast n) (episodeRecord (filledEpisode n e q s) sum)

theorem sampleEpisode_filled {n : Nat} {e : Episode} (q sum : Nat) {s : State} (hNew : e.posted = false)
    (hFull : fld s (Reg.chHotCtrl n) 11 0 * 120000 ≤ e.samples * 10240) :
    sampleEpisode n e q sum s = post (windowFilled n e q sum s) n 0x0D 0
      [(2, e.stack), (5, e.pc), (8, max e.peak q)] := by
  have hWindow : decide (fld s (Reg.chHotCtrl n) 11 0 * 10000 * 12 ≤ (e.samples + 1 - 1) * 10240) = true :=
    decide_eq_true (by omega)
  rw [sampleEpisode]
  dsimp only
  rw [hWindow, hNew]
  rfl

/-- A record that is set stays set; a first one sets it. -/
theorem flag_recordOnce (s : State) (r : RegRef) {v : Nat} (hv : v < 2 ^ 63) : flag (recordOnce s r v) r 63 = true := by
  rw [recordOnce]
  split
  case isTrue hSet => exact hSet
  case isFalse =>
    have hTop : bits (2 ^ 63 + v) 63 63 = 1 := by
      rw [bits_eq_div (by decide) (by omega)]
      omega
    rw [flag, fld, rd_wr, BitVec.toNat_ofNat, Nat.mod_eq_of_lt (by omega), hTop]
    rfl

theorem onlyRegs_recordOnce (s : State) (r : RegRef) (v : Nat) : OnlyRegs [r] s (recordOnce s r v) := by
  rw [recordOnce]
  split
  · exact onlyRegs_refl [r] s
  · exact onlyRegs_wr s r _

/-- A command answers with its effect on the queue as it stood. -/
theorem Answers.of_kept {c : Instr} {s u : State} {P : State → Prop} (he : exec c s = .next (keepQueue s u))
    (hp : P (keepQueue s u)) : Answers c s P := ⟨keepQueue s u, he, hp⟩

theorem rd_post (s : State) (q code : Nat) (op : W32) (args : List (Nat × Nat)) {r : RegRef}
    (hr : ∀ x ∈ postRegs q, x.addr ≠ r.addr) : rd (post s q code op args) r = rd s r :=
  (keepsUnitsBut_post s q code op args).1 r hr

theorem flag_post (s : State) (q code : Nat) (op : W32) (args : List (Nat × Nat)) {r : RegRef} (i : Nat)
    (hr : ∀ x ∈ postRegs q, x.addr ≠ r.addr) : flag (post s q code op args) r i = flag s r i := by
  rw [flag, fld, rd_post s q code op args hr, ← fld, ← flag]

theorem post_spares_chHotLast (n : Fin 4) : ∀ x ∈ postRegs n.val, x.addr ≠ (Reg.chHotLast n.val).addr := by
  revert n; decide

theorem post_spares_chHotCount (n : Fin 4) : ∀ x ∈ postRegs n.val, x.addr ≠ (Reg.chHotCount n.val).addr := by
  revert n; decide

theorem post_spares_chT0Fence (n : Fin 4) : ∀ x ∈ postRegs n.val, x.addr ≠ (Reg.chT0Fence n.val).addr := by
  revert n; decide

theorem fence_open {s : State} {n : Nat} (unit : Nat) (die : Bool) (hOpen : fenced s n = false) :
    fence s n unit die = post (wr s (Reg.chT0Fence n) (BitVec.ofNat 64 (2 ^ 31 + b2n die * 4 + unit % 4))) n 0x12 0
      [(2, unit), (1, b2n die)] := by
  rw [fence, if_neg (by simp [hOpen])]

/-- The bit of a fence that is recorded. -/
theorem fenced_of_rd {s : State} {n k : Nat} (hk : k < 2 ^ 31) (h : rd s (Reg.chT0Fence n) = BitVec.ofNat 64 (2 ^ 31 + k)) :
    fenced s n = true := by
  have hTop : bits (2 ^ 31 + k) 31 31 = 1 := by
    rw [bits_eq_div (by decide) (by omega)]
    omega
  rw [fenced, flag, fld, h, BitVec.toNat_ofNat, Nat.mod_eq_of_lt (by omega), hTop]
  rfl

theorem rd_fence (n : Fin 4) (unit : Nat) (die : Bool) {s : State} (hOpen : fenced s n.val = false) :
    rd (fence s n.val unit die) (Reg.chT0Fence n.val) = BitVec.ofNat 64 (2 ^ 31 + (b2n die * 4 + unit % 4)) := by
  rw [fence_open unit die hOpen, rd_post _ _ _ _ _ (post_spares_chT0Fence n), rd_wr, Nat.add_assoc]

theorem fenced_fence (n : Fin 4) (unit : Nat) (die : Bool) {s : State} (hOpen : fenced s n.val = false) :
    fenced (fence s n.val unit die) n.val = true := by
  refine fenced_of_rd ?_ (rd_fence n unit die hOpen)
  have hDie : b2n die ≤ 1 := by cases die <;> decide
  omega

theorem eventOnly_fence (n unit : Nat) (die : Bool) {s : State} (hOpen : fenced s n = false) :
    EventOnly s (fence s n unit die) := by
  rw [fence_open unit die hOpen]
  exact (onlyRegs_wr s (Reg.chT0Fence n) _).eventOnly.trans (eventOnly_post _ n _ _ _)

theorem opT0FenceWrite_sets {n : Nat} {v : W64} {s : State} (hHigh : bits v.toNat 63 32 = 0) (hLow : bits v.toNat 30 3 = 0)
    (hSet : bit v.toNat 31 = true) : opT0FenceWrite n v s = fence s n 0 false := by
  rw [opT0FenceWrite, if_neg (by simp [hHigh, hLow]), if_pos hSet]

theorem opT0FenceWrite_keeps {n : Nat} {v : W64} {s : State} (h : bit v.toNat 31 = false ∨ fenced s n = true) :
    opT0FenceWrite n v s = s := by
  rw [opT0FenceWrite]
  split
  · rfl
  · split
    case isTrue hSet =>
      have hFenced : fenced s n = true := h.resolve_left (by simp [hSet])
      rw [fence, if_pos hFenced]
    case isFalse => rfl

theorem opFenceWrite_keeps {n : Nat} {v : W64} {s : State} (h : bit v.toNat 31 = false ∨ fenced s n = true) :
    opFenceWrite n v s = s := by
  rw [opFenceWrite, opT0FenceWrite_keeps h]
  exact if_pos (by cases fenced s n <;> rfl)

theorem opIlLockWrite_keeps {v : W64} {s : State} (h : bits v.toNat 63 1 ≠ 0 ∨ bit v.toNat 0 = false) :
    opIlLockWrite v s = s := by
  rw [opIlLockWrite]
  split
  · rfl
  · rw [if_neg (by simp [h.resolve_left ‹_›])]

/-- A sample that fills the window counts the episode, records it and keeps it as posted. -/
theorem sampleEpisode_filled_spec (n : Fin 4) {e : Episode} (q sum : Nat) {s : State} (hNew : e.posted = false)
    (hStack : e.stack < 3) (hPc : e.pc < 32) (hPeak : e.peak ≤ 32) (hq : q ≤ 32)
    (hFull : fld s (Reg.chHotCtrl n.val) 11 0 * 120000 ≤ e.samples * 10240) :
    let t := sampleEpisode n.val e q sum s
    Counted (Reg.chHotCount n.val) 1 s t ∧ (t.chan n.val).hot = some (filledEpisode n.val e q s) ∧
      flag t (Reg.chHotLast n.val) 63 = true := by
  intro t
  have ht : t = post (windowFilled n.val e q sum s) n.val 0x0D 0 [(2, e.stack), (5, e.pc), (8, max e.peak q)] :=
    sampleEpisode_filled q sum hNew hFull
  have hRecord : episodeRecord (filledEpisode n.val e q s) sum < 2 ^ 63 :=
    episodeRecord_lt sum hStack hPc (Nat.max_le.2 ⟨hPeak, hq⟩)
  rw [ht]
  refine ⟨?_, ?_, ?_⟩
  · rw [Counted, rd_post _ _ _ _ _ (post_spares_chHotCount n), windowFilled,
      (onlyRegs_recordOnce _ _ _).2 _ (by simp [Reg.chHotLast, Reg.chHotCount]), rd_count32, rd_setChan]
  · rw [(eventOnly_post _ n.val _ _ _).chan n.val, windowFilled, chan_congr (onlyRegs_recordOnce _ _ _).chans_eq,
      chan_congr (count32_chans _ _ _), chan_setChan_same]
  · rw [flag_post _ _ _ _ _ _ (post_spares_chHotLast n), windowFilled]
    exact flag_recordOnce _ _ hRecord

/-- Settles O34: a sample by the place that stands high, and a fence, which is recorded once. -/
theorem tierCommands : Obligations.TierCommands := by
  unfold Obligations.TierCommands
  refine ⟨fun n tier1 device pc bank s hOn hKept => ?_, fun n tier1 device pc bank s hOff => ?_, fun n occ s hOff => ?_,
    fun n occ s hOn hNone => ?_, fun n occ i s hOn hIdle hi hHigh hFirst hWindow => ?_,
    fun n occ e s hOn hEpisode hHigh hNew hShort => ?_,
    fun n occ e s hOn hEpisode hHigh hNew hStack hPc hPeak hFull => ?_, fun n v s hHigh hLow hSet hOpen => ?_,
    fun n v s h => ?_, fun v s hHigh hSet => ?_, fun v s h => ?_⟩
  · rw [powerState] at hOn
    have hOp : opDramRefresh n.val tier1 device.val pc.val (bank.map (·.val)) s = s.setChan n.val { s.chan n.val with
        lastRef := some (tier1, device.val, pc.val,
          if inService s n.val && (tier1 || !stackHot s (3 * n.val + device.val) 95) then bank.map (·.val) else none) } := by
      rw [opDramRefresh, if_neg (by simp [hKept, hOn])]
    exact exec_of_eq rfl hOp rfl
  · rw [powerState] at hOff
    refine exec_of_kept rfl ?_
    rw [opDramRefresh, if_pos (by simpa using hOff.symm)]
  · exact exec_of_eq rfl (opHotChannelSample_off occ hOff) rfl
  · exact exec_of_eq rfl (by rw [opHotChannelSample_on occ hOn, highPlace_none hNone]) rfl
  · have hOp : opHotChannelSample n.val occ s = s.setChan n.val { s.chan n.val with
        hot := some ⟨i / 32, i % 32, 1, min 32 (occ.getD i 0), false, false⟩ } := by
      rw [opHotChannelSample_on occ hOn, highPlace_begins hIdle hi hHigh hFirst]
      dsimp only
      rw [episodeBefore_begins i occ hIdle, sampleEpisode_short _ _ rfl (by simpa using hWindow)]
      simp only [Nat.zero_add, Nat.zero_max]
    exact exec_of_eq rfl hOp rfl
  · have hOp : opHotChannelSample n.val occ s = s.setChan n.val { s.chan n.val with
        hot := some { e with samples := e.samples + 1, peak := max e.peak (min 32 (occ.getD (32 * e.stack + e.pc) 0)) } } := by
      rw [opHotChannelSample_on occ hOn, highPlace_goes hEpisode hHigh]
      dsimp only
      rw [episodeBefore_goes _ hEpisode hHigh, sampleEpisode_short _ _ hNew hShort]
    exact exec_of_eq rfl hOp rfl
  · have hOp : opHotChannelSample n.val occ s = sampleEpisode n.val e (min 32 (occ.getD (32 * e.stack + e.pc) 0))
        ((List.range 96).foldl (fun a j => a + min 32 (occ.getD j 0)) 0) s := by
      rw [opHotChannelSample_on occ hOn, highPlace_goes hEpisode hHigh]
      dsimp only
      rw [episodeBefore_goes _ hEpisode hHigh]
    have hExec : exec (.hotChannelSample n occ) s = .next (keepQueue s (opHotChannelSample n.val occ s)) := rfl
    rw [hOp] at hExec
    obtain ⟨hCount, hHot, hFlag⟩ := sampleEpisode_filled_spec n (min 32 (occ.getD (32 * e.stack + e.pc) 0))
      ((List.range 96).foldl (fun a j => a + min 32 (occ.getD j 0)) 0) hNew hStack hPc hPeak (Nat.min_le_left ..) hFull
    refine .of_kept hExec ?_
    generalize sampleEpisode n.val e (min 32 (occ.getD (32 * e.stack + e.pc) 0))
        ((List.range 96).foldl (fun a j => a + min 32 (occ.getD j 0)) 0) s = t at hCount hHot hFlag ⊢
    exact ⟨hCount, hHot, hFlag⟩
  · intro u
    have hFenced : fenced u n.val = true := fenced_fence n 0 false hOpen
    have hEvents : EventOnly s u := eventOnly_fence n.val 0 false hOpen
    have hOp : opFenceWrite n.val v s = afterFence u n.val := by
      rw [opFenceWrite, opT0FenceWrite_sets hHigh hLow hSet]
      exact if_neg (by simpa [hOpen] using hFenced)
    have hExec : exec (.t0FenceWrite n v) s = .next (keepQueue s (opFenceWrite n.val v s)) := rfl
    rw [hOp] at hExec
    refine ⟨hExec, hFenced, rd_fence n 0 false hOpen, hEvents.cores_eq, ?_, fun m => by rw [hEvents.chan m]⟩
    rw [hEvents.units]
  · exact exec_of_kept rfl (opFenceWrite_keeps h)
  · have hOp : opIlLockWrite v s = setFlag s Reg.glbIlCtrl 0 true := by
      rw [opIlLockWrite, if_neg (by simp [hHigh]), if_pos hSet]
    exact .of_effect rfl hOp rfl ⟨onlyRegs_setFlag s Reg.glbIlCtrl 0 true, flag_setFlag s Reg.glbIlCtrl 0 true (by decide)⟩
  · exact exec_of_kept rfl (opIlLockWrite_keeps h)

/-! ### The shadow -/

theorem opShadowSyncRequest_asks {n tag : Nat} {s : State} (hTag : tag < 2 ^ 32) (hIdle : flag s (Reg.chKvSync n) 63 = false) :
    opShadowSyncRequest n (BitVec.ofNat 64 (2 ^ 63 + tag)) s = askSync s n tag := by
  have hValue : (BitVec.ofNat 64 (2 ^ 63 + tag)).toNat = 2 ^ 63 + tag := by
    rw [BitVec.toNat_ofNat, Nat.mod_eq_of_lt (by omega)]
  have hMiddle : bits (2 ^ 63 + tag) 62 32 = 0 := by rw [bits, Nat.shiftRight_eq_div_pow]; omega
  have hGo : bit (2 ^ 63 + tag) 63 = true := by
    rw [bit, bits_eq_div (by decide) (by omega), beq_iff_eq]
    omega
  have hLow : bits (2 ^ 63 + tag) 31 0 = tag := by rw [bits, Nat.shiftRight_eq_div_pow]; omega
  rw [opShadowSyncRequest, hValue, hMiddle, hIdle, hGo, hLow]
  rfl

theorem flag_setChan (s : State) (n : Nat) (c : Chan) (r : RegRef) (i : Nat) : flag (s.setChan n c) r i = flag s r i := by
  rw [flag, fld, rd_setChan, ← fld, ← flag]

theorem fld_setChan (s : State) (n : Nat) (c : Chan) (r : RegRef) (hi lo : Nat) : fld (s.setChan n c) r hi lo = fld s r hi lo := by
  rw [fld, rd_setChan, ← fld]

@[simp] theorem setRef_chans (s : State) (x : Referee) : (setRef s x).chans = s.chans := rfl
@[simp] theorem setRef_regs (s : State) (x : Referee) : (setRef s x).regs = s.regs := rfl
@[simp] theorem setRef_ref (s : State) (x : Referee) : (setRef s x).ref = x := rfl

/-- The registers of a sync asked for. -/
def syncAsked (s : State) (n tag : Nat) : State := setFld (setFlag s (Reg.chKvSync n) 63 true) (Reg.chKvSync n) 31 0 tag

theorem onlyRegs_syncAsked (s : State) (n tag : Nat) : OnlyRegs [Reg.chKvSync n] s (syncAsked s n tag) :=
  (onlyRegs_setFlag s (Reg.chKvSync n) 63 true).trans (onlyRegs_setFld _ (Reg.chKvSync n) 31 0 tag)

theorem askSync_eq (s : State) (n tag : Nat) :
    askSync s n tag = (syncAsked s n tag).setChan n { (syncAsked s n tag).chan n with
      sync := some ⟨((syncAsked s n tag).chan n).dirty, BitVec.ofNat 32 tag, storedSeqs (syncAsked s n tag) n⟩ } := by
  rw [askSync, syncAsked]

theorem askSync_spec (s : State) (n : Nat) {tag : Nat} (hTag : tag < 2 ^ 32) :
    ((askSync s n tag).chan n).sync = some ⟨(s.chan n).dirty, BitVec.ofNat 32 tag, storedSeqs s n⟩ ∧
      flag (askSync s n tag) (Reg.chKvSync n) 63 = true ∧ fld (askSync s n tag) (Reg.chKvSync n) 31 0 = tag ∧
      SameMemory s (askSync s n tag) ∧ RegsBut [Reg.chKvSync n] s (askSync s n tag) ∧ (askSync s n tag).pending = s.pending := by
  have hRegs := onlyRegs_syncAsked s n tag
  have hStored : storedSeqs (syncAsked s n tag) n = storedSeqs s n := by rw [storedSeqs, storedSeqs, hRegs.ref_eq]
  have hGo : flag (syncAsked s n tag) (Reg.chKvSync n) 63 = true := by
    rw [syncAsked, flag, fld_setFld_other _ _ _ _ _ _ _ (by decide) (by decide) (.inl (by decide)), ← flag, flag_setFlag _ _ _ _ (by decide)]
  have hField : fld (syncAsked s n tag) (Reg.chKvSync n) 31 0 = tag := by
    rw [syncAsked, fld_setFld _ _ _ _ _ (by decide) (by decide)]
    exact Nat.mod_eq_of_lt hTag
  rw [askSync_eq, hStored, chan_congr hRegs.chans_eq]
  generalize syncAsked s n tag = u at hRegs hGo hField ⊢
  refine ⟨by rw [chan_setChan_same], by rw [flag_setChan, hGo], by rw [fld_setChan, hField], ⟨?_, ?_⟩, fun r hr => ?_, ?_⟩
  · rw [State.setChan_mem, hRegs.mem_eq]
  · rw [State.setChan_errs, hRegs.errs_eq]
  · rw [rd_setChan, hRegs.2 r hr]
  · rw [State.setChan_pending, hRegs.pending_eq]

theorem opShadowSyncRequest_busy {n : Nat} (v : W64) {s : State} (hBusy : flag s (Reg.chKvSync n) 63 = true) :
    opShadowSyncRequest n v s = s := by
  rw [opShadowSyncRequest, if_pos (by simp [hBusy])]

/-- A sequence for which a sync that has ended counts the channel (R438). -/
def syncNoted (n : Nat) (y : Sync) (q : Live) : Live :=
  if y.seqs.contains (q.id, q.made) then { q with synced := n :: q.synced } else q

/-- The state of a sync that has ended, before its event. -/
def syncEnded (s : State) (n : Nat) (y : Sync) : State :=
  let u := setFlag s (Reg.chKvSync n) 63 false
  let u := u.setChan n { u.chan n with sync := none }
  setRef u { u.ref with live := u.ref.live.map (syncNoted n y) }

theorem endSync_eq (s : State) (n : Nat) (y : Sync) :
    endSync s n y = post (syncEnded s n y) n 0x0F 0 [(32, y.tag.toNat)] := by
  rw [endSync, syncEnded]
  rfl

theorem endSync_spec (n : Fin 4) (y : Sync) (s : State) :
    flag (endSync s n.val y) (Reg.chKvSync n.val) 63 = false ∧ ((endSync s n.val y).chan n.val).sync = none ∧
      (endSync s n.val y).ref.live = s.ref.live.map (syncNoted n.val y) := by
  have hSpares : ∀ x ∈ postRegs n.val, x.addr ≠ (Reg.chKvSync n.val).addr := by revert n; decide
  have hFlag : flag (syncEnded s n.val y) (Reg.chKvSync n.val) 63 = false := by
    rw [syncEnded, flag_of_regs (setRef_regs _ _), flag_setChan, flag_setFlag _ _ _ _ (by decide)]
  have hSync : ((syncEnded s n.val y).chan n.val).sync = none := by
    rw [syncEnded, chan_congr (setRef_chans _ _), chan_setChan_same]
  have hLive : (syncEnded s n.val y).ref.live = s.ref.live.map (syncNoted n.val y) := by
    rw [syncEnded, setRef_ref, State.setChan_ref, setFlag_ref]
  rw [endSync_eq]
  generalize syncEnded s n.val y = u at hFlag hSync hLive ⊢
  have hEvents := eventOnly_post u n.val 0x0F 0 [(32, y.tag.toNat)]
  exact ⟨by rw [flag_post _ _ _ _ _ _ hSpares, hFlag], by rw [hEvents.chan n.val, hSync], by rw [hEvents.ref_eq, hLive]⟩

theorem opShadowSyncComplete_ends {n : Fin 4} {y : Sync} {s : State} (hSync : (s.chan n.val).sync = some y)
    (hDone : y.blocks = []) (hNone : s.ref.live = []) : opShadowSyncComplete n.val s = endSync s n.val y := by
  have hLive : (endSync s n.val y).ref.live = [] := by rw [(endSync_spec n y s).2.2, hNone, List.map_nil]
  rw [opShadowSyncComplete, hSync]
  dsimp only
  rw [if_pos (by simp [hDone]), hLive, List.any_nil, if_neg Bool.false_ne_true]

theorem opShadowSyncComplete_waits {n : Nat} {y : Sync} {s : State} (hSync : (s.chan n).sync = some y)
    (hLeft : y.blocks ≠ []) (hValid : flag s (Reg.chKvShadow n) 62 = false) : opShadowSyncComplete n s = s := by
  rw [opShadowSyncComplete, hSync]
  dsimp only
  rw [if_neg (by simp [hLeft, hValid])]

/-! ### What reading and moving words leaves of the dirty blocks -/

/-- No channel's list of dirty blocks differs. -/
def SameDirty (s t : State) : Prop := ∀ m, (t.chan m).dirty = (s.chan m).dirty

theorem SameDirty.refl (s : State) : SameDirty s s := fun _ => rfl

theorem SameDirty.trans {s t u : State} (h : SameDirty s t) (h' : SameDirty t u) : SameDirty s u :=
  fun m => (h' m).trans (h m)

theorem sameDirty_of_chans {s t : State} (h : t.chans = s.chans) : SameDirty s t := fun m => by rw [chan_congr h]

theorem sameDirty_setChan {s : State} {n : Nat} {c : Chan} (h : c.dirty = (s.chan n).dirty) : SameDirty s (s.setChan n c) := by
  intro m
  rw [chan_setChan]
  split
  case isTrue hm => rw [← hm, h]
  case isFalse => rfl

theorem chans_recordField (s : State) (kind n pl : Nat) : (recordField s kind n pl).chans = s.chans := by
  rw [recordField]
  dsimp only
  split
  · rfl
  · split
    · exact setFlag_chans ..
    · split
      · rw [setFlag_chans, setFld_chans]
      · rw [setFld_chans]

theorem sameDirty_failRow (s : State) (n kind pl : Nat) : SameDirty s (failRow s n kind pl) := by
  rw [failRow]
  dsimp only
  split
  · exact .refl s
  · intro m
    rw [chan_congr (chans_recordField _ _ _ _), chan_congr (count32_chans _ _ 1)]
    exact sameDirty_setChan (by rfl) m

theorem sameDirty_noteCeWord (s : State) (a : Nat) : SameDirty s (noteCeWord s a) := by
  rw [noteCeWord]
  split
  · exact .refl s
  · dsimp only
    split
    · exact .refl s
    · split
      · intro m
        rw [sameDirty_failRow]
        exact sameDirty_setChan (by rfl) m
      · exact sameDirty_setChan (by rfl)

theorem sameDirty_noteWriteBack (s : State) (a : Nat) : SameDirty s (noteWriteBack s a) := by
  have hAdd (n : Nat) : SameDirty s (if (s.chan n).wb.contains (a / 16) then s
      else s.setChan n { s.chan n with wb := (s.chan n).wb ++ [a / 16] }) := by
    split
    · exact .refl s
    · exact sameDirty_setChan (by rfl)
  rw [noteWriteBack]
  split
  · exact hAdd _
  · exact hAdd _
  · exact .refl s

theorem sameDirty_portBytes (s : State) (up : Bool) (a n : Nat) : SameDirty s (portBytes s up a n) := by
  rw [portBytes]
  split
  · exact sameDirty_of_chans (count64_chans ..)
  · exact .refl s

theorem sameDirty_copyWord (s : State) (src dst : Nat) : SameDirty s (copyWord s src dst) := by
  refine sameDirty_of_chans ?_
  rw [copyWord]
  split
  · exact storeRaw_chans ..
  · rw [clearErrs_chans, storeRaw_chans]

theorem sameDirty_putMoved (s : State) (src dst : Nat) : SameDirty s (putMoved s src dst) := by
  have hDrop (m : Nat) : SameDirty s ((copyWord s src dst).setChan m
      { (copyWord s src dst).chan m with wb := ((copyWord s src dst).chan m).wb.filter (· != dst) }) :=
    (sameDirty_copyWord s src dst).trans (sameDirty_setChan (by rfl))
  rw [putMoved]
  dsimp only
  split
  · exact (hDrop _).trans (sameDirty_portBytes _ _ _ _)
  · exact hDrop _
  · exact sameDirty_copyWord s src dst

/-- A block beyond every pool's reach is not marked dirty (R427, R436). -/
theorem not_dirty_markDirty {s : State} {n b : Nat} (m off : Nat) (hb : 2 ^ 28 ≤ b) (h : b ∉ (s.chan n).dirty) :
    b ∉ ((markDirty s m off).chan n).dirty := by
  rw [markDirty]
  dsimp only
  split
  case isFalse => exact h
  case isTrue hMark =>
    have hPool : shadowedPool s m off = true := by simp only [Bool.and_eq_true] at hMark; exact hMark.1.1.1
    obtain ⟨j, -, hj⟩ := List.any_eq_true.1 hPool
    simp only [Bool.and_eq_true, decide_eq_true_eq] at hj
    have hBase := bits_lt (rd s (Reg.chKvPool m j)).toNat 22 0
    have hLength := bits_lt (rd s (Reg.chKvPool m j)).toNat 45 23
    have hFar : b ≠ off / 2048 := by omega
    rw [chan_setChan]
    split
    case isTrue hm => subst hm; simp [h, hFar]
    case isFalse => exact h

theorem not_dirty_reshadow {s : State} {n b : Nat} (a : Nat) (hb : 2 ^ 28 ≤ b) (h : b ∉ (s.chan n).dirty) :
    b ∉ ((reshadow s a).chan n).dirty := by
  refine foldl_keeps (fun t : State => b ∉ (t.chan n).dirty) _ (fun t m ht => ?_) _ h
  dsimp only
  split
  · exact ht
  · split
    · exact foldl_keeps (fun t : State => b ∉ (t.chan n).dirty) _ (fun t k ht => not_dirty_markDirty m _ hb ht) _ ht
    · exact ht

/-- An uncorrectable word of tier 0 marks no block dirty, one of tier 1 only blocks within a pool's reach. -/
theorem not_dirty_noteUeWord {s : State} {n b a : Nat} (hb : 2 ^ 28 ≤ b ∨ a < 0x10000000000) (h : b ∉ (s.chan n).dirty) :
    b ∉ ((noteUeWord s a).chan n).dirty := by
  rw [noteUeWord]
  split
  · exact h
  case h_2 m kind pl hRow =>
    have hReshadow : b ∉ ((if kind = 4 then reshadow s a else s).chan n).dirty := by
      split
      case isTrue hKind =>
        refine not_dirty_reshadow a (hb.resolve_right fun hLow => ?_) h
        subst hKind
        rw [dramRow] at hRow
        split at hRow
        · simp at hRow
        case h_2 hPlace => rw [place] at hPlace; (repeat' split at hPlace) <;> first | omega | simp at hPlace
        · simp at hRow
      case isFalse => exact h
    generalize (if kind = 4 then reshadow s a else s) = u at hReshadow ⊢
    dsimp only
    rw [sameDirty_failRow]
    split
    · rw [(sameDirty_setChan (by rfl) : SameDirty u _) n]; exact hReshadow
    · exact hReshadow

theorem not_dirty_readMoved {s : State} {n b src : Nat} (hb : 2 ^ 28 ≤ b ∨ 16 * src < 0x10000000000) (h : b ∉ (s.chan n).dirty) :
    b ∉ ((readMoved s src).chan n).dirty := by
  rw [readMoved, sameDirty_portBytes]
  split
  · exact h
  · split
    · rw [sameDirty_noteCeWord, sameDirty_noteWriteBack, chan_congr (count32_chans ..)]; exact h
    · exact h
  · refine not_dirty_noteUeWord hb ?_
    split
    · rw [chan_congr (count32_chans ..)]; exact h
    · exact h

theorem not_dirty_moveBytes {s : State} {n b src len : Nat} (dst : Nat) (hb : 2 ^ 28 ≤ b ∨ src + len < 0x10000000000)
    (h : b ∉ (s.chan n).dirty) : b ∉ ((moveBytes s src dst len).chan n).dirty := by
  have hFold : ∀ (l : List Nat) (t : State), (∀ i ∈ l, i < len / 16) → b ∉ (t.chan n).dirty →
      b ∉ ((l.foldl (fun s i => moveWord s (src / 16 + i) (dst / 16 + i)) t).chan n).dirty := by
    intro l
    induction l with
    | nil => exact fun t _ ht => ht
    | cons i l ih =>
      intro t hl ht
      have hi : i < len / 16 := hl i List.mem_cons_self
      have hMoved : b ∉ ((moveWord t (src / 16 + i) (dst / 16 + i)).chan n).dirty := by
        rw [moveWord, sameDirty_putMoved]
        exact not_dirty_readMoved (hb.imp_right fun hLow => by omega) ht
      exact ih _ (fun j hj => hl j (List.mem_cons_of_mem _ hj)) hMoved
  exact hFold _ s (fun i hi => List.mem_range.1 hi) h

/-- The block taken from the list of dirty ones, and from a sync under way. -/
def blockTaken (s : State) (n b : Nat) : State :=
  s.setChan n { s.chan n with
    dirty := (s.chan n).dirty.filter (· != b)
    sync := (s.chan n).sync.map fun (y : Sync) => { y with blocks := y.blocks.filter (· != b) } }

/-- Where a block's copy goes (R436). -/
def shadowPlace (u : State) (n b : Nat) : Nat :=
  fld u (Reg.chKvShadow n) 47 0 + 32768 * shadowSlot u n (b / 16) + b % 16 * 2048

/-- Whether a block is not copied: its page has no slot, or one outside the partner's tier 1. -/
def shadowStays (u : State) (n b : Nat) : Bool :=
  decide (shadowSlot u n (b / 16) = 0xFFFFFFFF) ||
    !(match place (shadowPlace u n b) with | .tier1 m _ => m == partner n | _ => false)

theorem shadowBlock_dirty {s : State} {n b : Nat} (hDirty : b ∈ (s.chan n).dirty) :
    shadowBlock s n b =
      if shadowStays (blockTaken s n b) n b then blockTaken s n b
      else count64 (moveBytes (blockTaken s n b) (tier0Base n + 2048 * b) (shadowPlace (blockTaken s n b) n b) 2048)
        (Reg.chKvShadowBlockCount n) 1 := by
  rw [shadowBlock]
  dsimp only
  rw [if_neg (by simp [hDirty])]
  rfl

theorem not_dirty_shadowBlock {s : State} (n : Fin 4) {b : Nat} (hDirty : b ∈ (s.chan n.val).dirty) :
    b ∉ ((shadowBlock s n.val b).chan n.val).dirty := by
  have hTaken : b ∉ ((blockTaken s n.val b).chan n.val).dirty := by
    rw [blockTaken, chan_setChan_same]
    simp
  rw [shadowBlock_dirty hDirty]
  generalize blockTaken s n.val b = u at hTaken ⊢
  split
  · exact hTaken
  · rw [chan_congr (count64_chans ..)]
    refine not_dirty_moveBytes _ ?_ hTaken
    have hn := n.isLt
    unfold tier0Base tier0Size
    omega

/-- Settles O39: a dirty block leaves the list as it is copied, and copying one marks no other block of its page. -/
theorem shadow : Obligations.Shadow := by
  unfold Obligations.Shadow
  refine ⟨fun n tag s hTag hIdle => ?_, fun n v s hBusy => ?_, fun n y s hSync hDone hNone => ?_,
    fun n y b s hSync hBlocks hValid => ?_, fun n b s hOpen hDirty => ?_, fun n b o s hOpen hDirty => ?_⟩
  · obtain ⟨hSync, hGo, hField, hMemory, hRegs, hPending⟩ := askSync_spec s n.val hTag
    exact .of_effect rfl (opShadowSyncRequest_asks hTag hIdle) hPending ⟨hSync, hGo, hField, hMemory, hRegs⟩
  · exact exec_of_kept rfl (opShadowSyncRequest_busy v hBusy)
  · obtain ⟨hGo, hSync', -⟩ := endSync_spec n y s
    have hExec : exec (.shadowSyncComplete n) s = .next (keepQueue s (opShadowSyncComplete n.val s)) := rfl
    rw [opShadowSyncComplete_ends hSync hDone hNone] at hExec
    refine .of_kept hExec ?_
    generalize endSync s n.val y = t at hGo hSync' ⊢
    exact ⟨hGo, hSync'⟩
  · exact exec_of_kept rfl (opShadowSyncComplete_waits hSync (by simp [hBlocks]) hValid)
  · have hExec : exec (.shadowBlockCopy n b) s = .next (keepQueue s (opShadowBlockCopy n.val b s)) := rfl
    have hGone := not_dirty_shadowBlock n hDirty
    rw [opShadowBlockCopy, if_neg (by simp [hOpen])] at hExec
    refine .of_kept hExec ?_
    generalize shadowBlock s n.val b = t at hGone ⊢
    exact hGone
  · intro u dst hSlot hPlace
    have hExec : exec (.shadowBlockCopy n b) s = .next (keepQueue s (opShadowBlockCopy n.val b s)) := rfl
    have hInside : place (shadowPlace (blockTaken s n.val b) n.val b) = .tier1 (partner n.val) o := hPlace
    have hCopied : shadowStays (blockTaken s n.val b) n.val b = false := by
      have hNamed : shadowSlot (blockTaken s n.val b) n.val (b / 16) ≠ 0xFFFFFFFF := hSlot
      rw [shadowStays, hInside]
      simpa using hNamed
    rw [opShadowBlockCopy, if_neg (by simp [hOpen]), shadowBlock_dirty hDirty, if_neg (by simp [hCopied])] at hExec
    exact hExec

/-! ### The words of a vector program -/

theorem vecEncode_lt {v : VecOp} (h : v.fits = true) : vecEncode v < 2 ^ 32 := by
  simp only [VecOp.fits, Bool.and_eq_true, decide_eq_true_eq] at h
  unfold vecEncode
  omega

theorem vecDecode_vecEncode {v : VecOp} (h : v.fits = true) : vecDecode (vecEncode v) = v := by
  obtain ⟨code, d, a, b, c, imm⟩ := v
  simp only [VecOp.fits, Bool.and_eq_true, decide_eq_true_eq] at h
  simp only [vecDecode, vecEncode, bits, Nat.shiftRight_eq_div_pow, VecOp.mk.injEq]
  omega

theorem fits_vecDecode (w : Nat) : (vecDecode w).fits = true := by
  have hCode : bits w 31 26 < 64 := bits_lt ..
  have hD : bits w 25 23 < 8 := bits_lt ..
  have hA : bits w 22 20 < 8 := bits_lt ..
  have hB : bits w 19 17 < 8 := bits_lt ..
  have hC : bits w 16 14 < 8 := bits_lt ..
  have hImm : bits w 13 0 < 16384 := bits_lt ..
  simp [VecOp.fits, vecDecode, hCode, hD, hA, hB, hC, hImm]

theorem vecEncode_vecDecode {w : Nat} (h : w < 2 ^ 32) : vecEncode (vecDecode w) = w := by
  simp only [vecDecode, vecEncode, bits, Nat.shiftRight_eq_div_pow]
  omega

/-- Settles O59: the six fields tile the 32 bits of a word. -/
theorem vectorWords : Obligations.VectorWords := by
  unfold Obligations.VectorWords
  exact ⟨fun _ h => vecDecode_vecEncode h, fun w h => ⟨fits_vecDecode w, vecEncode_vecDecode h⟩, fun _ h => vecEncode_lt h⟩

end Sys2Proof.Machine
end


section
/-! PROOFS. What an access to a memory tier leaves alone, and the migration queue (O37). -/

namespace Sys2Proof.Machine

/-! ### The frame of an access to a memory tier -/

/-- The registers that an access to channel n's tiers, or an event posted beside it, may change. -/
def channelAccessRegs (n : Nat) : List RegRef :=
  [Reg.chT0CeCount n, Reg.chT0UeCount n, Reg.chT1CeCount n, Reg.chT1UeCount n, Reg.chDramRowFailCount n,
    Reg.chMirrorWriteCount n]

/-- The registers that an access to the memory tiers may change. -/
def accessRegs : List RegRef :=
  Reg.glbFieldStatus :: ((List.range 4).flatMap channelAccessRegs ++
    (List.range 12).flatMap (fun k => [Reg.lxPortUpBytes k, Reg.lxPortDownBytes k]) ++ (List.range 5).flatMap postRegs)

/-- Nothing differs but what an access to the memory tiers may change: bytes and errors, its counters, the field record,
and in a channel what it notes of words, rows and blocks. -/
structure AccessOnly (s t : State) : Prop where
  units : t = { s with mem := t.mem, errs := t.errs, regs := t.regs, chans := t.chans, flash := t.flash, geq := t.geq }
  chan : ∀ n, t.chan n = { s.chan n with
    wb := (t.chan n).wb, eq := (t.chan n).eq, dirty := (t.chan n).dirty, ues := (t.chan n).ues, rowCe := (t.chan n).rowCe,
    rowFail := (t.chan n).rowFail, held := (t.chan n).held }
  regs : RegsBut accessRegs s t

theorem AccessOnly.refl (s : State) : AccessOnly s s := ⟨rfl, fun _ => rfl, fun _ _ => rfl⟩

theorem AccessOnly.trans {s t u : State} (h : AccessOnly s t) (h' : AccessOnly t u) : AccessOnly s u where
  units := by rw [h'.units, h.units]
  chan n := by rw [h'.chan n, h.chan n]
  regs := h.regs.trans h'.regs

section
variable {s t : State} (h : AccessOnly s t)
include h
theorem AccessOnly.pending_eq : t.pending = s.pending := by rw [h.units]
theorem AccessOnly.ref_eq : t.ref = s.ref := by rw [h.units]
theorem AccessOnly.cores_eq : t.cores = s.cores := by rw [h.units]
theorem AccessOnly.streams_eq : t.streams = s.streams := by rw [h.units]
theorem AccessOnly.ports_eq : t.ports = s.ports := by rw [h.units]
theorem AccessOnly.board_eq : t.board = s.board := by rw [h.units]
theorem AccessOnly.dies_eq : t.dies = s.dies := by rw [h.units]
theorem AccessOnly.red_eq : t.red = s.red := by rw [h.units]
theorem AccessOnly.fuses_eq : t.fuses = s.fuses := by rw [h.units]
theorem AccessOnly.sec_eq : t.sec = s.sec := by rw [h.units]
theorem AccessOnly.ops_eq (n : Nat) : (t.chan n).ops = (s.chan n).ops := by rw [h.chan n]
theorem AccessOnly.bucket_eq (k : Nat) : t.bucket k = s.bucket k := by rw [State.bucket, State.bucket, h.red_eq]
end

/-- Registers of the list alone, of an access. -/
theorem OnlyRegs.accessOnly {l : List RegRef} {s t : State} (h : OnlyRegs l s t) (hl : ∀ x ∈ l, x ∈ accessRegs) : AccessOnly s t where
  units := by
    have hMem := h.mem_eq
    have hErrs := h.errs_eq
    have hChans := h.chans_eq
    have hFlash := h.flash_eq
    have hQueue : t.geq = s.geq := by rw [h.1]
    rw [hMem, hErrs, hChans, hFlash, hQueue]
    exact h.1
  chan n := by rw [chan_congr h.chans_eq]
  regs := h.2.mono hl

/-- Bytes and errors alone. -/
theorem accessOnly_of_memory {s t : State} (h : t = { s with mem := t.mem, errs := t.errs }) : AccessOnly s t where
  units := by
    have hRegs : t.regs = s.regs := by rw [h]
    have hChans : t.chans = s.chans := by rw [h]
    have hFlash : t.flash = s.flash := by rw [h]
    have hQueue : t.geq = s.geq := by rw [h]
    rw [hRegs, hChans, hFlash, hQueue]
    exact h
  chan n := by
    have hChans : t.chans = s.chans := by rw [h]
    rw [chan_congr hChans]
  regs r _ := rd_congr (by rw [h]) r

theorem accessOnly_setChan {s : State} {n : Nat} {c : Chan} (h : c = { s.chan n with
    wb := c.wb, eq := c.eq, dirty := c.dirty, ues := c.ues, rowCe := c.rowCe, rowFail := c.rowFail, held := c.held }) :
    AccessOnly s (s.setChan n c) where
  units := rfl
  chan m := by
    rw [chan_setChan]
    split
    case isTrue hm => subst hm; exact h
    case isFalse => rfl
  regs r _ := rd_setChan s n c r

theorem accessOnly_post (s : State) {q : Nat} (hq : q < 5) (code : Nat) (op : W32) (args : List (Nat × Nat)) :
    AccessOnly s (post s q code op args) where
  units := by
    have hEvents := eventOnly_post s q code op args
    have hFlash : (post s q code op args).flash = s.flash := by rw [hEvents.units]
    rw [hFlash]
    exact hEvents.units
  chan n := by rw [(eventOnly_post s q code op args).chan n]
  regs := (keepsUnitsBut_post s q code op args).1.mono fun x hx => by
    refine List.mem_cons_of_mem _ (List.mem_append_right _ (List.mem_flatMap.2 ⟨q, List.mem_range.2 hq, hx⟩))

theorem accessOnly_foldl {α : Type} {f : State → α → State} (hf : ∀ s a, AccessOnly s (f s a)) (as : List α) (s : State) :
    AccessOnly s (as.foldl f s) :=
  foldl_keeps (AccessOnly s) f (fun t a ht => ht.trans (hf t a)) as (.refl s)

/-! ### The registers of an access, by the place of its address -/

theorem place_tier0_lt {a n off : Nat} (h : place a = .tier0 n off) : n < 4 := by
  unfold place at h
  split at h
  case isTrue hLow =>
    obtain ⟨rfl, -⟩ := Place.tier0.inj h
    exact Nat.div_lt_of_lt_mul (by rwa [Nat.mul_comm] at hLow)
  case isFalse =>
    split at h
    · exact nomatch h
    · split at h
      · dsimp only at h
        split at h <;> exact nomatch h
      · exact nomatch h

theorem place_tier1_lt {a n off : Nat} (h : place a = .tier1 n off) : n < 4 := by
  unfold place at h
  split at h
  · exact nomatch h
  · split at h
    case isTrue hMiddle =>
      obtain ⟨rfl, -⟩ := Place.tier1.inj h
      exact Nat.div_lt_of_lt_mul (by omega)
    case isFalse =>
      split at h
      · dsimp only at h
        split at h <;> exact nomatch h
      · exact nomatch h

theorem channelAccessRegs_sub {n : Nat} (hn : n < 4) : ∀ r ∈ channelAccessRegs n, r ∈ accessRegs := fun _ hr =>
  List.mem_cons_of_mem _ (List.mem_append_left _ (List.mem_append_left _
    (List.mem_flatMap.2 ⟨n, List.mem_range.2 hn, hr⟩)))

theorem portRegs_sub {k : Nat} (hk : k < 12) (up : Bool) :
    (if up then Reg.lxPortUpBytes k else Reg.lxPortDownBytes k) ∈ accessRegs :=
  List.mem_cons_of_mem _ (List.mem_append_left _ (List.mem_append_right _
    (List.mem_flatMap.2 ⟨k, List.mem_range.2 hk, by cases up <;> simp⟩)))

theorem ceReg_sub {a : Nat} {r : RegRef} (h : ceReg a = some r) : r ∈ accessRegs := by
  rw [ceReg] at h
  split at h
  case h_1 hPlace => obtain rfl := Option.some.inj h; exact channelAccessRegs_sub (place_tier0_lt hPlace) _ (by simp [channelAccessRegs])
  case h_2 hPlace => obtain rfl := Option.some.inj h; exact channelAccessRegs_sub (place_tier1_lt hPlace) _ (by simp [channelAccessRegs])
  case h_3 => exact nomatch h

theorem ueReg_sub {a : Nat} {r : RegRef} (h : ueReg a = some r) : r ∈ accessRegs := by
  rw [ueReg] at h
  split at h
  case h_1 hPlace => obtain rfl := Option.some.inj h; exact channelAccessRegs_sub (place_tier0_lt hPlace) _ (by simp [channelAccessRegs])
  case h_2 hPlace => obtain rfl := Option.some.inj h; exact channelAccessRegs_sub (place_tier1_lt hPlace) _ (by simp [channelAccessRegs])
  case h_3 => exact nomatch h

theorem accessOnly_count32 (s : State) {r : RegRef} (n : Nat) (hr : r ∈ accessRegs) : AccessOnly s (count32 s r n) :=
  (onlyRegs_count32 s r n).accessOnly (by simpa using hr)

theorem accessOnly_count64 (s : State) {r : RegRef} (n : Nat) (hr : r ∈ accessRegs) : AccessOnly s (count64 s r n) :=
  (onlyRegs_wr s r _).accessOnly (by simpa using hr)

theorem stackOf_lt (s : State) (off : Nat) : stackOf s off < 3 := Nat.mod_lt _ (by decide)

theorem accessOnly_portBytes (s : State) (up : Bool) (a n : Nat) : AccessOnly s (portBytes s up a n) := by
  rw [portBytes]
  split
  case h_1 m off hPlace =>
    have hChannel := place_tier0_lt hPlace
    have hStack := stackOf_lt s off
    exact accessOnly_count64 s n (portRegs_sub (by omega) up)
  case h_2 => exact .refl s

theorem dramRow_lt {s : State} {a n kind pl : Nat} (h : dramRow s a = some (n, kind, pl)) : n < 4 := by
  rw [dramRow] at h
  split at h
  case h_1 hPlace => simp only [Option.some.injEq, Prod.mk.injEq] at h; exact h.1 ▸ place_tier0_lt hPlace
  case h_2 hPlace => simp only [Option.some.injEq, Prod.mk.injEq] at h; exact h.1 ▸ place_tier1_lt hPlace
  case h_3 => exact nomatch h

theorem accessOnly_recordField (s : State) (kind n pl : Nat) : AccessOnly s (recordField s kind n pl) := by
  have hStatus : Reg.glbFieldStatus ∈ accessRegs := List.mem_cons_self
  have hField (u : State) (hi lo x : Nat) : AccessOnly u (setFld u Reg.glbFieldStatus hi lo x) :=
    (onlyRegs_setFld u _ hi lo x).accessOnly (by simpa using hStatus)
  have hFlag (u : State) (i : Nat) (b : Bool) : AccessOnly u (setFlag u Reg.glbFieldStatus i b) :=
    (onlyRegs_setFlag u _ i b).accessOnly (by simpa using hStatus)
  have hFlash (f : Flash) : AccessOnly s { s with flash := f } := ⟨rfl, fun _ => rfl, fun _ _ => rfl⟩
  rw [recordField]
  dsimp only
  split
  · exact .refl s
  · split
    · exact hFlag s 12 true
    · split
      · exact ((hFlash _).trans (hField _ 11 0 _)).trans (hFlag _ 12 true)
      · exact (hFlash _).trans (hField _ 11 0 _)

theorem accessOnly_failRow (s : State) {n : Nat} (kind pl : Nat) (hn : n < 4) : AccessOnly s (failRow s n kind pl) := by
  rw [failRow]
  dsimp only
  split
  · exact .refl s
  · exact ((accessOnly_setChan (by rfl)).trans (accessOnly_count32 _ 1
      (channelAccessRegs_sub hn _ (by simp [channelAccessRegs])))).trans (accessOnly_recordField _ kind n pl)

theorem accessOnly_noteCeWord (s : State) (a : Nat) : AccessOnly s (noteCeWord s a) := by
  rw [noteCeWord]
  split
  · exact .refl s
  case h_2 hRow =>
    dsimp only
    split
    · exact .refl s
    · split
      · exact (accessOnly_setChan (by rfl)).trans (accessOnly_failRow _ _ _ (dramRow_lt hRow))
      · exact accessOnly_setChan (by rfl)

theorem accessOnly_markDirty (s : State) (n off : Nat) : AccessOnly s (markDirty s n off) := by
  rw [markDirty]
  dsimp only
  split
  · exact accessOnly_setChan (by rfl)
  · exact .refl s

theorem accessOnly_reshadow (s : State) (a : Nat) : AccessOnly s (reshadow s a) := by
  refine accessOnly_foldl (fun t n => ?_) _ s
  dsimp only
  split
  · exact .refl t
  · split
    · exact accessOnly_foldl (fun u b => accessOnly_markDirty u n _) _ t
    · exact .refl t

theorem accessOnly_noteUeWord (s : State) (a : Nat) : AccessOnly s (noteUeWord s a) := by
  rw [noteUeWord]
  split
  · exact .refl s
  case h_2 n kind pl hRow =>
    have hReshadow : AccessOnly s (if kind = 4 then reshadow s a else s) := by
      split
      · exact accessOnly_reshadow s a
      · exact .refl s
    generalize (if kind = 4 then reshadow s a else s) = u at hReshadow ⊢
    dsimp only
    refine hReshadow.trans (AccessOnly.trans ?_ (accessOnly_failRow _ _ _ (dramRow_lt hRow)))
    split
    · exact accessOnly_setChan (by rfl)
    · exact .refl u

theorem accessOnly_noteWriteBack (s : State) (a : Nat) : AccessOnly s (noteWriteBack s a) := by
  have hAdd (n : Nat) : AccessOnly s (if (s.chan n).wb.contains (a / 16) then s
      else s.setChan n { s.chan n with wb := (s.chan n).wb ++ [a / 16] }) := by
    split
    · exact .refl s
    · exact accessOnly_setChan (by rfl)
  rw [noteWriteBack]
  split
  · exact hAdd _
  · exact hAdd _
  · exact .refl s

/-! ### Words moved and written -/

theorem accessOnly_storeRaw (s : State) (a : Nat) (bs : List Byte) : AccessOnly s (storeRaw s a bs) := by
  induction bs generalizing s a with
  | nil => exact .refl s
  | cons b bs ih => exact AccessOnly.trans (accessOnly_of_memory (by rfl)) (ih _ (a + 1))

theorem accessOnly_clearErrs (s : State) (w : Nat) : AccessOnly s (clearErrs s w) := by
  unfold clearErrs
  generalize (List.range 18).foldl (fun m k => mset 0 m (18 * w + k) 0) s.errs = errs
  exact accessOnly_of_memory (by rfl)

theorem accessOnly_freshCached (s : State) (w k : Nat) : AccessOnly s (freshCached s w k) :=
  accessOnly_of_memory (by unfold freshCached; rfl)

theorem accessOnly_copyWord (s : State) (src dst : Nat) : AccessOnly s (copyWord s src dst) := by
  rw [copyWord]
  split
  · exact (accessOnly_storeRaw s _ _).trans (accessOnly_of_memory (by rfl))
  · exact (accessOnly_storeRaw s _ _).trans (accessOnly_clearErrs _ _)

theorem accessOnly_putWord (s : State) (w data mask : Nat) : AccessOnly s (putWord s w data mask).1 := by
  rw [putWord]
  split
  · exact (accessOnly_storeRaw s _ _).trans (accessOnly_clearErrs _ _)
  · split
    · exact .refl s
    · exact (accessOnly_storeRaw s _ _).trans (accessOnly_clearErrs _ _)

theorem accessOnly_readMoved (s : State) (src : Nat) : AccessOnly s (readMoved s src) := by
  rw [readMoved]
  refine AccessOnly.trans ?_ (accessOnly_portBytes _ true _ 16)
  split
  · exact .refl s
  · split
    case h_1 hReg =>
      exact ((accessOnly_count32 s 1 (ceReg_sub hReg)).trans (accessOnly_noteWriteBack _ _)).trans (accessOnly_noteCeWord _ _)
    case h_2 => exact .refl s
  · refine AccessOnly.trans ?_ (accessOnly_noteUeWord _ _)
    split
    case h_1 hReg => exact accessOnly_count32 s 1 (ueReg_sub hReg)
    case h_2 => exact .refl s

theorem accessOnly_putMoved (s : State) (src dst : Nat) : AccessOnly s (putMoved s src dst) := by
  have hDrop (m : Nat) : AccessOnly s ((copyWord s src dst).setChan m
      { (copyWord s src dst).chan m with wb := ((copyWord s src dst).chan m).wb.filter (· != dst) }) :=
    (accessOnly_copyWord s src dst).trans (accessOnly_setChan (by rfl))
  rw [putMoved]
  dsimp only
  split
  · exact (hDrop _).trans (accessOnly_portBytes _ false _ 16)
  · exact hDrop _
  · exact accessOnly_copyWord s src dst

theorem accessOnly_moveWord (s : State) (src dst : Nat) : AccessOnly s (moveWord s src dst) :=
  (accessOnly_readMoved s src).trans (accessOnly_putMoved _ src dst)

theorem accessOnly_moveBytes (s : State) (src dst len : Nat) : AccessOnly s (moveBytes s src dst len) :=
  accessOnly_foldl (fun u _ => accessOnly_moveWord u _ _) _ s

theorem accessOnly_noteMerge (s : State) (a mask : Nat) : AccessOnly s (noteMerge s a mask) := by
  rw [noteMerge]
  split
  · exact .refl s
  · split
    · exact .refl s
    · refine AccessOnly.trans ?_ (accessOnly_noteCeWord _ _)
      split
      case h_1 hReg => exact accessOnly_count32 s 1 (ceReg_sub hReg)
      case h_2 => exact .refl s
    · refine AccessOnly.trans ?_ (accessOnly_noteUeWord _ _)
      split
      case h_1 hReg => exact accessOnly_count32 s 1 (ueReg_sub hReg)
      case h_2 => exact .refl s

theorem accessOnly_writeDram (s : State) (a data mask : Nat) : AccessOnly s (writeDram s a data mask).1 := by
  have hPut : AccessOnly s (putWord (noteMerge s a mask) (a / 16) data mask).1 :=
    (accessOnly_noteMerge s a mask).trans (accessOnly_putWord _ _ data mask)
  rw [writeDram]
  generalize putWord (noteMerge s a mask) (a / 16) data mask = r at hPut ⊢
  dsimp only
  split
  · split
    · exact hPut.trans (((accessOnly_setChan (by rfl)).trans (accessOnly_markDirty _ _ _)).trans
        ((accessOnly_portBytes _ false a 16).trans (accessOnly_freshCached _ _ 1)))
    · exact hPut
  · split
    · exact hPut.trans ((accessOnly_setChan (by rfl)).trans (accessOnly_freshCached _ _ 1))
    · exact hPut
  · exact hPut

theorem accessOnly_writeWord (s : State) (a data mask : Nat) : AccessOnly s (writeWord s a data mask).1 := by
  rw [writeWord]
  generalize a / 16 * 16 = a
  dsimp only
  split
  case h_1 n off hPlace =>
    split
    · exact .refl s
    case h_2 k _ =>
      have hFirst := accessOnly_writeDram s k data mask
      generalize writeDram s k data mask = r at hFirst ⊢
      obtain ⟨u, ok⟩ := r
      dsimp only
      split
      · have hSecond := accessOnly_writeDram u (tier0Base (partner n) + off) data mask
        generalize writeDram u (tier0Base (partner n) + off) data mask = q at hSecond ⊢
        obtain ⟨v, both⟩ := q
        have hCount : AccessOnly v (if both then count64 v (Reg.chMirrorWriteCount n) 1 else v) := by
          split
          · exact accessOnly_count64 v 1 (channelAccessRegs_sub (place_tier0_lt hPlace) _ (by simp [channelAccessRegs]))
          · exact .refl v
        have hBoth := (hFirst.trans hSecond).trans hCount
        dsimp only
        split
        · exact hBoth
        · exact hBoth
      · split
        · exact hFirst
        · exact hFirst
  · have hOne := accessOnly_writeDram s a data mask
    generalize writeDram s a data mask = r at hOne ⊢
    obtain ⟨u, ok⟩ := r
    dsimp only
    split
    · exact hOne
    · exact hOne
  · exact .refl s

theorem accessOnly_writeWords (l : List (Nat × Nat × Nat)) (s : State) : AccessOnly s (writeWords s l).1 := by
  induction l generalizing s with
  | nil => exact .refl s
  | cons e r ih =>
    obtain ⟨w, d, m⟩ := e
    have hFirst := accessOnly_writeWord s (16 * w) d m
    rw [writeWords]
    split
    case h_1 hWrite => rw [hWrite] at hFirst; exact hFirst.trans (ih _)
    case h_2 hWrite => rw [hWrite] at hFirst; exact hFirst.trans (ih _)
    case h_3 hWrite => rw [hWrite] at hFirst; exact hFirst

theorem accessOnly_writeRange (s : State) (a : Nat) (bs : List Byte) : AccessOnly s (writeRange s a bs).1 :=
  accessOnly_writeWords _ s

/-! ### Migration -/

theorem migRun_runs {o n i : Nat} {addr : Bool} {act : MigCmd → State → Option State} {c : MigCmd} {s t : State}
    (hPick : migPick o (s.chan n).mig [] 0 = some (i, c)) (hAwake : isDormant s = false) (hFrame : frameOk s n c = true)
    (hAddr : addr = true → tier1Ok s n c.t1 = true) (hAct : act c (migMark s n i c) = some t) : migRun o n addr act s = t := by
  have hOk : (!frameOk s n c || (addr && !tier1Ok s n c.t1)) = false := by
    cases addr with
    | false => simp [hFrame]
    | true => simp [hFrame, hAddr rfl]
  rw [migRun, hPick]
  dsimp only
  rw [if_neg (by simp [hAwake]), hOk, if_neg Bool.false_ne_true, hAct]

theorem migRun_faults {o n i : Nat} (addr : Bool) (act : MigCmd → State → Option State) {c : MigCmd} {s : State}
    (hPick : migPick o (s.chan n).mig [] 0 = some (i, c)) (hAwake : isDormant s = false) (hFrame : frameOk s n c = false) :
    migRun o n addr act s = migFault (migDrop s n i) n c := by
  rw [migRun, hPick]
  dsimp only
  rw [if_neg (by simp [hAwake]), if_pos (by simp [hFrame])]

/-- A mark asks nothing of its frame but that it be one. -/
theorem frameOk_mark {s : State} (n : Nat) {c : MigCmd} (hOp : c.op = 4 ∨ c.op = 5) (hFrame : c.frame < frames) :
    frameOk s n c = true := by
  rw [frameOk]
  obtain hOp | hOp := hOp <;> simp [hOp, hFrame]

theorem sameMemory_setChan (s : State) (n : Nat) (c : Chan) : SameMemory s (s.setChan n c) := ⟨rfl, rfl⟩

theorem regsBut_setChan (l : List RegRef) (s : State) (n : Nat) (c : Chan) : RegsBut l s (s.setChan n c) :=
  fun r _ => rd_setChan s n c r

/-- A marked frame after its command is marked as carried out. -/
theorem markCommand_spec (s : State) (n i : Nat) (c : MigCmd) (present : Bool) :
    let t := markFrame (migMark s n i c) n c.frame present
    absent t n c.frame = !present ∧ SameMemory s t ∧ RegsBut [] s t := by
  intro t
  have hMemory := sameMemory_markFrame (migMark s n i c) n c.frame present
  have hRegs := regsBut_markFrame (migMark s n i c) n c.frame present
  exact ⟨by rw [absent_markFrame, if_pos rfl], ⟨by rw [hMemory.1, migMark, State.setChan_mem], by
    rw [hMemory.2, migMark, State.setChan_errs]⟩, (regsBut_setChan [] s n _).trans hRegs⟩

theorem settleRestore_quiet {n : Nat} {s : State} (hLost : (s.chan n).book.lost = []) (hMoving : (s.chan n).book.moving = []) :
    settleRestore n s = s := by
  have hQuiet : ((book s n).lost.isEmpty && (book s n).moving.isEmpty) = true := by rw [book, hLost, hMoving]; rfl
  rw [settleRestore]
  exact if_pos hQuiet

theorem opFetchFromHost_fetches {n i a : Nat} {c : MigCmd} {x : Xfer} {s : State}
    (hPick : fromHostPick s n (s.chan n).mig [] 0 = some (i, c))
    (hXfer : (s.chan n).book.xfers.find? (·.xfer == c.xfer) = some x) (hAwake : isDormant s = false)
    (hFrame : frameOk s n c = true)
    (hSlot : ((s.plan.bind fun p => p.chans[n]?).bind fun p => p.slots[x.slot]?) = some a)
    (hGood : ∀ w < 2048, decodeWord s (a / 16 + w) ≠ .bad) :
    opFetchFromHost n s = markFrame (fillFrame (migMark s n i c) n c.frame a) n c.frame true := by
  have hXfer' : migXfer s n c = some x := hXfer
  have hWords : ((List.range 2048).any fun w => decodeWord s (a / 16 + w) == .bad) = false := by
    simpa using fun w hw => hGood w hw
  rw [opFetchFromHost, hPick]
  dsimp only
  rw [if_neg (by simp [hAwake]), hXfer']
  dsimp only
  rw [if_neg (by simp [hFrame]), hSlot]
  dsimp only
  rw [hWords, if_neg Bool.false_ne_true]

theorem opEvict_marks {n i : Nat} {c : MigCmd} {s : State} (hPick : migPick 6 (s.chan n).mig [] 0 = some (i, c))
    (hAwake : isDormant s = false) (hFrame : frameOk s n c = true) (hAddr : tier1Ok s n c.t1 = true) :
    opEvict n s = if flightInFrame (markFrame s n c.frame false) n c.frame then
        (markFrame s n c.frame false).setChan n { (markFrame s n c.frame false).chan n with
          mig := ((markFrame s n c.frame false).chan n).mig.set i { c with drain := true } }
      else copyFrame (migMark (markFrame s n c.frame false) n i c) n c.frame c.t1 := by
  rw [opEvict, hPick]
  dsimp only
  rw [if_neg (by simp [hAwake]), if_neg (by simp [hFrame, hAddr])]

/-- A copy or a repair, done and alone in its queue, leaves it and is counted. -/
def migCounted (s : State) (n : Nat) : State := count64 (migDrop s n 0) (Reg.chMigDoneCount n) 1

theorem opMigrationComplete_copy {n : Nat} {c : MigCmd} {s : State} (hOne : (s.chan n).mig = [c]) (hMoved : c.moved = true)
    (hCopy : c.op = 2) (hResume : c.resume = false) (hEvent : c.event = false) :
    opMigrationComplete n s = migCounted s n := by
  have hSettled : migSettled s n c = true := by simp [migSettled, hMoved, hCopy]
  have hFind : (s.chan n).mig.findIdx? (migSettled s n) = some 0 := by rw [hOne]; simp [List.findIdx?_cons, hSettled]
  have hFirst : (s.chan n).mig[0]? = some c := by rw [hOne]; rfl
  rw [opMigrationComplete, hFind]
  dsimp only
  rw [hFirst]
  dsimp only
  rw [hCopy, hResume, hEvent, if_neg Bool.false_ne_true, if_neg Bool.false_ne_true, if_neg (by decide), if_neg (by decide),
    if_neg (by decide), migCounted]

theorem opMigrationDone_copy {n : Nat} {c : MigCmd} {s : State} (hOne : (s.chan n).mig = [c]) (hMoved : c.moved = true)
    (hCopy : c.op = 2) (hResume : c.resume = false) (hEvent : c.event = false) (hLost : (s.chan n).book.lost = [])
    (hMoving : (s.chan n).book.moving = []) : opMigrationDone n s = migCounted s n := by
  have hFind : (s.chan n).mig.find? (·.moved) = some c := by rw [hOne]; simp [hMoved]
  have hChan : (migCounted s n).chan n = { s.chan n with mig := (s.chan n).mig.eraseIdx 0 } := by
    rw [migCounted, chan_congr (count64_chans ..), migDrop, chan_setChan_same]
  rw [opMigrationDone, hFind, opMigrationComplete_copy hOne hMoved hCopy hResume hEvent]
  dsimp only
  rw [if_neg (by rw [hCopy]; decide)]
  exact settleRestore_quiet (by rw [hChan, hLost]) (by rw [hChan, hMoving])

theorem migCounted_spec {s : State} {n : Nat} {c : MigCmd} (hOne : (s.chan n).mig = [c]) :
    ((migCounted s n).chan n).mig = [] ∧ rd (migCounted s n) (Reg.chMigDoneCount n) = rd s (Reg.chMigDoneCount n) + 1 ∧
      SameMemory s (migCounted s n) ∧ RegsBut [Reg.chMigDoneCount n] s (migCounted s n) ∧
      (migCounted s n).pending = s.pending := by
  refine ⟨?_, ?_, ⟨?_, ?_⟩, ?_, ?_⟩
  · rw [migCounted, chan_congr (count64_chans ..), migDrop, chan_setChan_same, hOne]
    rfl
  · rw [migCounted, rd_count64, migDrop, rd_setChan]
    rfl
  · rw [migCounted, count64_mem, migDrop, State.setChan_mem]
  · rw [migCounted, count64_errs, migDrop, State.setChan_errs]
  · exact (regsBut_setChan _ s n _).trans (regsBut_wr _ _ _)
  · rw [migCounted, count64_pending, migDrop, State.setChan_pending]

/-- Settles O37: the op at the head runs where its frame and address are as the op asks, and faults where they are not. -/
theorem migration : Obligations.Migration := by
  unfold Obligations.Migration
  refine ⟨fun n i c s hPick hAwake hFrame hAddr => ?_, fun n i c s hPick hAwake hFrame hAddr => ?_, fun n f t1 s hOpen => ?_,
    fun n i a c x s hPick hXfer hAwake hFrame hSlot hGood => ?_, fun n i c s hPick hAwake hOp hFrame => ?_,
    fun n i c s hPick hAwake hOp hFrame => ?_, fun n i c s hPick hAwake hFrame hAddr => ?_,
    fun n i c s hPick hAwake hFrame => ?_, fun n c s hOne hMoved hCopy hResume hEvent hLost hMoving => ?_,
    fun n i c s hPick hAwake hFrame => ?_, fun n s hLost hMoving => settleRestore_quiet hLost hMoving⟩
  · have hExec : exec (.fetchFromTier1 n) s = .next (keepQueue s (settleRestore n.val (opFetchFromTier1 n.val s))) := rfl
    rw [hExec, opFetchFromTier1, migRun_runs hPick hAwake hFrame (fun _ => hAddr) rfl]
  · have hExec : exec (.copyToTier1 n) s = .next (keepQueue s (opCopyToTier1 n.val s)) := rfl
    rw [hExec, opCopyToTier1, migRun_runs hPick hAwake hFrame (fun _ => hAddr) rfl]
  · rw [copyFrame, serving, if_pos (by simp [hOpen])]
  · have hExec : exec (.fetchFromHost n) s = .next (keepQueue s (opFetchFromHost n.val s)) := rfl
    rw [hExec, opFetchFromHost_fetches hPick hXfer hAwake hFrame hSlot hGood]
  · have hRun : opMarkAbsent n.val s = markFrame (migMark s n.val i c) n.val c.frame false := by
      rw [opMarkAbsent]
      exact migRun_runs hPick hAwake (frameOk_mark n.val (.inl hOp) hFrame) (by simp) rfl
    have hExec : exec (.markAbsent n) s = .next (keepQueue s (opMarkAbsent n.val s)) := rfl
    rw [hRun] at hExec
    exact .of_kept hExec (markCommand_spec s n.val i c false)
  · have hRun : opMarkPresent n.val s = markFrame (migMark s n.val i c) n.val c.frame true := by
      rw [opMarkPresent]
      exact migRun_runs hPick hAwake (frameOk_mark n.val (.inr hOp) hFrame) (by simp) rfl
    have hExec : exec (.markPresent n) s = .next (keepQueue s (opMarkPresent n.val s)) := rfl
    rw [hRun] at hExec
    exact .of_kept hExec (markCommand_spec s n.val i c true)
  · intro u
    have hExec : exec (.evict n) s = .next (keepQueue s (opEvict n.val s)) := rfl
    rw [opEvict_marks hPick hAwake hFrame hAddr] at hExec
    refine ⟨fun hStill => ?_, fun hFlight => ?_⟩
    · rw [hExec, if_neg (by rw [hStill]; exact Bool.false_ne_true)]
    · rw [hExec, if_pos hFlight]
  · have hExec : exec (.repairBlockFromMirror n) s = .next (keepQueue s (opRepairBlockFromMirror n.val s)) := rfl
    rw [hExec, opRepairBlockFromMirror, migRun_runs hPick hAwake hFrame (by simp) rfl]
  · obtain ⟨hGone, hCount, hMemory, hRegs, hPending⟩ := migCounted_spec hOne
    exact .of_effect rfl (opMigrationDone_copy hOne hMoved hCopy hResume hEvent hLost hMoving) hPending
      ⟨hGone, hCount, hMemory, hRegs⟩
  · have hExec : exec (.fetchFromTier1 n) s = .next (keepQueue s (settleRestore n.val (opFetchFromTier1 n.val s))) := rfl
    rw [hExec, opFetchFromTier1, migRun_faults _ _ hPick hAwake hFrame]

end Sys2Proof.Machine
end


section
/-! PROOFS. The commands and the messages of a reduction (O44, O45). -/

namespace Sys2Proof.Machine

/-! ### The commands of GLB_RED_CMD -/

theorem onlyRegs_redCommand (s : State) (op tag : Nat) : OnlyRegs [Reg.glbRedCmd] s (redCommand s op tag) :=
  ((onlyRegs_setFlag s Reg.glbRedCmd 63 false).trans (onlyRegs_setFld _ Reg.glbRedCmd 62 60 op)).trans
    (onlyRegs_setFld _ Reg.glbRedCmd 59 48 tag)

/-- What GLB_RED_CMD shows of a command that has been accepted (R537). -/
theorem redCommand_reads (s : State) {op tag : Nat} (hOp : op < 8) (hTag : tag < 4096) :
    flag (redCommand s op tag) Reg.glbRedCmd 63 = false ∧ fld (redCommand s op tag) Reg.glbRedCmd 62 60 = op ∧
      fld (redCommand s op tag) Reg.glbRedCmd 59 48 = tag := by
  refine ⟨?_, ?_, ?_⟩
  · rw [redCommand, flag, fld_setFld_other _ _ _ _ _ _ _ (by decide) (by decide) (.inl (by decide)),
      fld_setFld_other _ _ _ _ _ _ _ (by decide) (by decide) (.inl (by decide)), ← flag, flag_setFlag _ _ _ _ (by decide)]
  · rw [redCommand, fld_setFld_other _ _ _ _ _ _ _ (by decide) (by decide) (.inl (by decide)),
      fld_setFld _ _ _ _ _ (by decide) (by decide)]
    exact Nat.mod_eq_of_lt hOp
  · rw [redCommand, fld_setFld _ _ _ _ _ (by decide) (by decide)]
    exact Nat.mod_eq_of_lt hTag

theorem redBase_redCommand (s : State) (op tag : Nat) : redBase (redCommand s op tag) = redBase s := by
  have hBase : rd (redCommand s op tag) Reg.glbRedBase = rd s Reg.glbRedBase :=
    (onlyRegs_redCommand s op tag).2 _ (by decide)
  rw [redBase, fld, hBase, ← fld, ← redBase]

theorem bucketEntry_disabled {s : State} (hBase : redBase s = 0) (tag : Nat) : bucketEntry s tag = none := by
  rw [bucketEntry, if_pos hBase]

/- An entry is read from memory through its registers, and the kernel would evaluate that reading as it compares a command
with its body. The bodies below are therefore taken of a name for the command, with the state of the accepted command
generalized. -/

theorem opReady_disabled {s : State} (hBase : redBase s = 0) (tag : Nat) : opReady tag s = cmdFault (redCommand s 1 tag) := by
  have hNone : bucketEntry (redCommand s 1 tag) tag = none :=
    bucketEntry_disabled ((redBase_redCommand s 1 tag).trans hBase) tag
  suffices hBody : ∀ f, f = opReady → f tag s = cmdFault (redCommand s 1 tag) from hBody _ rfl
  intro f hf
  delta opReady at hf
  rw [hf]
  beta_reduce
  generalize redCommand s 1 tag = r at hNone ⊢
  simp only [hNone]

theorem opReady_opens {s : State} {tag : Nat} {e : Entry6} (hEntry : bucketEntry (redCommand s 1 tag) tag = some e)
    (hEn : e.en = true) (hIdle : e.state = 0) :
    let u := (writeRange (redCommand s 1 tag) (entryAddr (redCommand s 1 tag) tag + 0x30) (leBytes 8 0 ++ leBytes 8 0)).1
    let v := setBucketState (putEntry u tag 16 1 (epochNow u)) tag 1
    opReady tag s = v.setBucket tag { v.bucket tag with next := 0 } := by
  suffices hBody : ∀ f, f = opReady →
      let u := (writeRange (redCommand s 1 tag) (entryAddr (redCommand s 1 tag) tag + 0x30) (leBytes 8 0 ++ leBytes 8 0)).1
      let v := setBucketState (putEntry u tag 16 1 (epochNow u)) tag 1
      f tag s = v.setBucket tag { v.bucket tag with next := 0 } from hBody _ rfl
  intro f hf
  delta opReady at hf
  rw [hf]
  beta_reduce
  generalize redCommand s 1 tag = r at hEntry ⊢
  have hMay : (!e.en || decide (e.state ≠ 0)) = false := by simp [hEn, hIdle]
  simp only [hEntry, hMay, Bool.false_eq_true, if_false]

theorem opReturn_alone {s : State} {tag : Nat} {e : Entry6} (hEntry : bucketEntry (redCommand s 2 tag) tag = some e)
    (hEn : e.en = true) (hReduced : e.state = 2) (hOwner : e.owner = ownModule (redCommand s 2 tag))
    (hAlone : nextIn (returnChain e) e.owner = none) : opReturn tag s = endReturn (redCommand s 2 tag) tag e := by
  suffices hBody : ∀ f, f = opReturn → f tag s = endReturn (redCommand s 2 tag) tag e from hBody _ rfl
  intro f hf
  delta opReturn at hf
  rw [hf]
  beta_reduce
  generalize redCommand s 2 tag = r at hEntry hOwner ⊢
  have hMay : (!e.en || decide (e.state ≠ 2) || decide (e.owner ≠ ownModule r)) = false := by simp [hEn, hReduced, hOwner]
  simp only [hEntry, hMay, Bool.false_eq_true, if_false, hAlone]

theorem opRedReset_empties {s : State} {tag : Nat} {e : Entry6} (hEntry : bucketEntry (redCommand s 3 tag) tag = some e) :
    opRedReset tag s = (setBucketState (redCommand s 3 tag) tag 0).setBucket tag Bucket.reset := by
  suffices hBody : ∀ f, f = opRedReset → f tag s = (setBucketState (redCommand s 3 tag) tag 0).setBucket tag Bucket.reset
    from hBody _ rfl
  intro f hf
  delta opRedReset at hf
  rw [hf]
  beta_reduce
  generalize redCommand s 3 tag = r at hEntry ⊢
  simp only [hEntry]

theorem accessOnly_putEntry (s : State) (tag hi lo v : Nat) : AccessOnly s (putEntry s tag hi lo v) :=
  accessOnly_writeRange s _ _

theorem accessOnly_setBucketState (s : State) (tag st : Nat) : AccessOnly s (setBucketState s tag st) :=
  accessOnly_putEntry s tag 45 44 st

theorem flag_setBucket (s : State) (k : Nat) (b : Bucket) (r : RegRef) (i : Nat) : flag (s.setBucket k b) r i = flag s r i := by
  rw [flag, fld, rd_setBucket, ← fld, ← flag]

theorem bucket_keepQueue (s t : State) (k : Nat) : (keepQueue s t).bucket k = t.bucket k := rfl

/-- A register that no access changes reads the same after one. -/
theorem AccessOnly.flag_eq {s t : State} (h : AccessOnly s t) {r : RegRef} (hr : ∀ x ∈ accessRegs, x.addr ≠ r.addr) (i : Nat) :
    flag t r i = flag s r i := by
  rw [flag, fld, h.regs r hr, ← fld, ← flag]

theorem AccessOnly.fld_eq {s t : State} (h : AccessOnly s t) {r : RegRef} (hr : ∀ x ∈ accessRegs, x.addr ≠ r.addr) (hi lo : Nat) :
    fld t r hi lo = fld s r hi lo := by
  rw [fld, h.regs r hr, ← fld]

theorem access_spares_glbRedCmd : ∀ x ∈ accessRegs, x.addr ≠ Reg.glbRedCmd.addr := by decide

/-- Settles O44: the command stands in its register with go clear, and does what its entry's state admits. -/
theorem reductionCommands : Obligations.ReductionCommands := by
  unfold Obligations.ReductionCommands
  refine ⟨fun tag e s hEntry hEn hIdle => ?_, fun tag e s hEntry hEn hReduced hOwner hAlone => ?_, fun tag e s hEntry => ?_,
    fun tag s hBase => ?_⟩
  · intro u v
    have hExec : exec (.ready tag) s = .next (keepQueue s (opReady tag.val s)) := rfl
    have hOpens := opReady_opens hEntry hEn hIdle
    rw [hExec, hOpens]
  · have hExec : exec (.return_ tag) s = .next (keepQueue s (opReturn tag.val s)) := rfl
    rw [hExec, opReturn_alone hEntry hEn hReduced hOwner hAlone]
  · have hExec : exec (.redReset tag) s = .next (keepQueue s (opRedReset tag.val s)) := rfl
    have hAccess := accessOnly_setBucketState (redCommand s 3 tag.val) tag.val 0
    have hGo := (redCommand_reads s (op := 3) (by decide) tag.isLt).1
    rw [opRedReset_empties hEntry] at hExec
    refine .of_kept hExec ?_
    generalize setBucketState (redCommand s 3 tag.val) tag.val 0 = u at hAccess ⊢
    refine ⟨?_, ?_⟩
    · rw [bucket_keepQueue, bucket_setBucket_same]
    · rw [flag_keepQueue, flag_setBucket, hAccess.flag_eq access_spares_glbRedCmd, hGo]
  · have hBoth : OnlyRegs [Reg.glbRedCmd, Reg.glbRedStatus] s (cmdFault (redCommand s 1 tag.val)) :=
      ((onlyRegs_redCommand s 1 tag.val).mono (by simp)).trans
        ((onlyRegs_setFlag _ Reg.glbRedStatus 0 true).mono (by simp))
    obtain ⟨hGo, hOp, hTag⟩ := redCommand_reads s (op := 1) (by decide) tag.isLt
    refine .of_effect rfl (opReady_disabled hBase tag.val) hBoth.pending_eq ⟨hBoth, flag_setFlag _ _ _ _ (by decide), ?_, ?_, ?_⟩
    · rw [cmdFault, setFlag, flag_setFld_apart _ _ _ _ _ (by decide), hGo]
    · rw [cmdFault, setFlag, fld_setFld_apart _ _ _ _ _ _ (by decide), hOp]
    · rw [cmdFault, setFlag, fld_setFld_apart _ _ _ _ _ _ (by decide), hTag]

/-! ### Messages -/

theorem redTake_taken {p op : Nat} {m : Msg} {e : Entry6} {s : State} (act : State → Msg → Entry6 → State)
    (hTake : takeFor s p 6 [op] = some m) (hOk : redCheck s m = .ok e) : redTake s p op act = act (dropMsg s p m) m e := by
  rw [redTake, hTake]
  dsimp only
  rw [hOk]

theorem redTake_stale {p op : Nat} {m : Msg} {s : State} (act : State → Msg → Entry6 → State)
    (hTake : takeFor s p 6 [op] = some m) (hStale : redCheck s m = .error 2) : redTake s p op act = staleMsg s p m := by
  rw [redTake, hTake]
  dsimp only
  rw [hStale]
  rfl

/-- A segment's bytes stored in the staging area. -/
def segmentStaged (s : State) (p : Nat) (m : Msg) (e : Entry6) : State :=
  (writeRange (dropMsg s p m) (e.stage + 2048 * m.f1 43 36) m.data).1

theorem bucket_segmentStaged (s : State) (p : Nat) (m : Msg) (e : Entry6) (k : Nat) :
    (segmentStaged s p m e).bucket k = s.bucket k := by
  have hDrop : (dropMsg s p m).red = s.red := by rw [onlyPorts_dropMsg s p m]
  rw [segmentStaged, (accessOnly_writeRange _ _ _).bucket_eq, State.bucket, hDrop, ← State.bucket]

theorem opReduceSegment_staged {p : Nat} {m : Msg} {e : Entry6} {s : State} (hTake : takeFor s p 6 [1] = some m)
    (hOk : redCheck s m = .ok e) :
    opReduceSegment p s = (segmentStaged s p m e).setBucket (m.f1 59 48) { (segmentStaged s p m e).bucket (m.f1 59 48) with
      segs := ((segmentStaged s p m e).bucket (m.f1 59 48)).segs ++ [m.f1 43 36] } := by
  rw [opReduceSegment, redTake_taken _ hTake hOk]
  rfl

theorem opReturnParameters_taken {p : Nat} {m : Msg} {e : Entry6} {s : State} (hTake : takeFor s p 6 [2] = some m)
    (hOk : redCheck s m = .ok e) :
    opReturnParameters p s = settleReturn
      ((returnOn (dropMsg s p m) m e e.ret).setBucket (m.f1 59 48)
        { (returnOn (dropMsg s p m) m e e.ret).bucket (m.f1 59 48) with
          rets := ((returnOn (dropMsg s p m) m e e.ret).bucket (m.f1 59 48)).rets ++ [m.f1 43 36] })
      (m.f1 59 48) e := by
  rw [opReturnParameters, redTake_taken _ hTake hOk]

theorem opReturnScales_taken {p : Nat} {m : Msg} {e : Entry6} {s : State} (hTake : takeFor s p 6 [3] = some m)
    (hOk : redCheck s m = .ok e) :
    opReturnScales p s = settleReturn
      ((returnOn (dropMsg s p m) m e e.ascale).setBucket (m.f1 59 48)
        { (returnOn (dropMsg s p m) m e e.ascale).bucket (m.f1 59 48) with
          scales := ((returnOn (dropMsg s p m) m e e.ascale).bucket (m.f1 59 48)).scales ++ [m.f1 43 36] })
      (m.f1 59 48) e := by
  rw [opReturnScales, redTake_taken _ hTake hOk]

/-! ### The adder -/

theorem bucket_sendRed (s : State) (e : Entry6) (op tag to_ index : Nat) (bs : List Byte) (k : Nat) :
    (sendRed s e op tag to_ index bs).bucket k = s.bucket k := by
  have hDigest : (digest s tag false bs).red = s.red := (accessOnly_writeRange s _ _).red_eq
  rw [sendRed]
  generalize digest s tag false bs = u at hDigest ⊢
  have hSend := sendOnly_sendOn u e.ring ⟨⟨word0 6 3 to_ (ownModule s) 7 bs.length 0,
    BitVec.ofNat 64 (op * 2 ^ 60 + tag * 2 ^ 48 + e.gen * 2 ^ 44 + index * 2 ^ 36), 0, 0, bs⟩, true, none⟩
  rw [State.bucket, hSend, State.bucket, hDigest]

theorem bucket_post (s : State) (q code : Nat) (op : W32) (args : List (Nat × Nat)) (k : Nat) :
    (post s q code op args).bucket k = s.bucket k := by
  rw [State.bucket, (eventOnly_post s q code op args).units, State.bucket]

theorem bucket_setBucketState (s : State) (tag st k : Nat) : (setBucketState s tag st).bucket k = s.bucket k :=
  (accessOnly_setBucketState s tag st).bucket_eq k

theorem bucket_writeRange (s : State) (a : Nat) (bs : List Byte) (k : Nat) : (writeRange s a bs).1.bucket k = s.bucket k :=
  (accessOnly_writeRange s a bs).bucket_eq k

/-- The adder's next segment moves the entry on by one, whatever it adds and wherever its block goes. -/
theorem next_opAdderSegment {s : State} {tag : Nat} {e : Entry6} (hEntry : bucketEntry s tag = some e) (hState : e.state = 1)
    (hMember : bit e.members (ownModule s) = true) (hLeft : (s.bucket tag).next < e.segs)
    (hThere : (chainOf e).head? = some (ownModule s) ∨ (s.bucket tag).next ∈ (s.bucket tag).segs) :
    ((opAdderSegment tag s).bucket tag).next = (s.bucket tag).next + 1 := by
  have hMay : (decide (e.state ≠ 1) || !bit e.members (ownModule s) || decide (e.segs ≤ (s.bucket tag).next) ||
      !((chainOf e).head? == some (ownModule s) || (s.bucket tag).segs.contains (s.bucket tag).next)) = false := by
    obtain hFirst | hStaged := hThere
    · simp [hState, hMember, hLeft, hFirst]
    · simp [hState, hMember, hLeft, hStaged]
  suffices hBody : ∀ f, f = opAdderSegment → ((f tag s).bucket tag).next = (s.bucket tag).next + 1 from hBody _ rfl
  intro f hf
  delta opAdderSegment at hf
  rw [hf]
  beta_reduce
  simp only [hEntry, hMay, Bool.false_eq_true, if_false]
  by_cases hOwner : ownModule s = e.owner
  · rw [if_pos hOwner]
    by_cases hLast : (s.bucket tag).next + 1 = e.segs
    · rw [if_pos hLast, bucket_post, bucket_setBucketState, bucket_writeRange, bucket_setBucket_same]
    · rw [if_neg hLast, bucket_writeRange, bucket_setBucket_same]
  · rw [if_neg hOwner]
    by_cases hLast : (s.bucket tag).next + 1 = e.segs
    · rw [if_pos hLast, bucket_setBucketState]
      split
      · rw [bucket_sendRed, bucket_setBucket_same]
      · rw [bucket_setBucket_same]
    · rw [if_neg hLast]
      split
      · rw [bucket_sendRed, bucket_setBucket_same]
      · rw [bucket_setBucket_same]

/-- Settles O45: what is taken, staged, forwarded or stale follows the checks; the adder moves on a segment at a time. -/
theorem reductionMessages : Obligations.ReductionMessages := by
  unfold Obligations.ReductionMessages
  refine ⟨fun p m e s hTake hOk => ?_, fun p m s hTake hStale => ?_, fun p m e s hTake hOk => ?_, fun p m e s hTake hOk => ?_,
    fun tag e s hEntry hState hMember hLeft hThere => ?_⟩
  · have hExec : exec (.reduceSegment p) s = .next (keepQueue s (opReduceSegment p.val s)) := rfl
    have hBucket := bucket_segmentStaged s p.val m e (m.f1 59 48)
    have hMem : (segmentStaged s p.val m e).mem = (writeRange (dropMsg s p.val m) (e.stage + 2048 * m.f1 43 36) m.data).1.mem :=
      rfl
    rw [opReduceSegment_staged hTake hOk] at hExec
    refine .of_kept hExec ?_
    generalize segmentStaged s p.val m e = u at hBucket hMem ⊢
    refine ⟨?_, ?_⟩
    · rw [bucket_keepQueue, bucket_setBucket_same, hBucket]
    · rw [keepQueue_mem, State.setBucket_mem, hMem]
  · have hExec : exec (.reduceSegment p) s = .next (keepQueue s (opReduceSegment p.val s)) := rfl
    obtain ⟨hPorts, hRegs, hCount⟩ := countedDrop_frame s p.val m Reg.glbLinkStaleCount
    have hPending : (count32 (dropMsg s p.val m) Reg.glbLinkStaleCount 1).pending = s.pending := by rw [hPorts]
    rw [opReduceSegment, redTake_stale _ hTake hStale, staleMsg, keepQueue_eq hPending] at hExec
    exact ⟨_, hExec, hPorts, hCount, hRegs⟩
  · have hExec : exec (.returnParameters p) s = .next (keepQueue s (opReturnParameters p.val s)) := rfl
    rw [hExec, opReturnParameters_taken hTake hOk]
  · have hExec : exec (.returnScales p) s = .next (keepQueue s (opReturnScales p.val s)) := rfl
    rw [hExec, opReturnScales_taken hTake hOk]
  · have hExec : exec (.adderSegment tag) s = .next (keepQueue s (opAdderSegment tag.val s)) := rfl
    have hNext := next_opAdderSegment hEntry hState hMember hLeft hThere
    refine .of_kept hExec ?_
    rw [bucket_keepQueue, hNext]

end Sys2Proof.Machine
end


section
/-! PROOFS. The reset state, training jobs (O49, O41). -/

namespace Sys2Proof.Machine

/-! ### The reset state -/

theorem rd_reset (r : RegRef) : rd State.reset r = r.reset := rfl

/-- Settles O49: no register has been written, so each reads as its reset value. -/
theorem resetState : Obligations.ResetState := by
  unfold Obligations.ResetState
  refine ⟨rd_reset, rfl, memoryOk_reset, fun c hc => (nomatch hc), fun a => rfl, by decide, fun n => rfl, fun p hp => ?_, rfl, rfl,
    fun k hk => ?_⟩
  · have hReset : (linkReg p).reset = 0 := rfl
    rw [portState, fld, rd_reset, hReset]
    decide
  · have hOwner : State.reset.fuses.owner = [none, none, none, none] := rfl
    rw [hOwner] at hk
    simpa using hk

/-! ### Training jobs -/

/-- The referee's books, the run image and GLB_TRAIN_STATUS are as they were. -/
structure KeepsJob (s t : State) : Prop where
  ref : t.ref = s.ref
  sec : t.sec = s.sec
  status : rd t Reg.glbTrainStatus = rd s Reg.glbTrainStatus

theorem KeepsJob.refl (s : State) : KeepsJob s s := ⟨rfl, rfl, rfl⟩

theorem KeepsJob.trans {s t u : State} (h : KeepsJob s t) (h' : KeepsJob t u) : KeepsJob s u :=
  ⟨h'.ref.trans h.ref, h'.sec.trans h.sec, h'.status.trans h.status⟩

theorem AccessOnly.keepsJob {s t : State} (h : AccessOnly s t) : KeepsJob s t := ⟨h.ref_eq, h.sec_eq, h.regs _ (by decide)⟩

theorem OnlyRegs.keepsJob {l : List RegRef} {s t : State} (h : OnlyRegs l s t) (hl : ∀ x ∈ l, x.addr ≠ Reg.glbTrainStatus.addr) :
    KeepsJob s t := ⟨h.ref_eq, by rw [h.1], h.2 _ hl⟩

theorem keepsJob_foldl {α : Type} {f : State → α → State} (hf : ∀ s a, KeepsJob s (f s a)) (as : List α) (s : State) :
    KeepsJob s (as.foldl f s) :=
  foldl_keeps (KeepsJob s) f (fun _ a ht => ht.trans (hf _ a)) as (.refl s)

theorem keepsJob_startWake (s : State) : KeepsJob s (startWake s) := by
  rw [startWake]
  split
  · exact (onlyRegs_setFld s Reg.glbPwrStatus 31 29 6).keepsJob (by decide)
  · exact .refl s

theorem keepsJob_appendEntry (s : State) {n : Nat} (e : Nat) (hn : n < 4) : KeepsJob s (appendEntry s n e) := by
  have hTail : ∀ x ∈ [Reg.chWqTail n], x.addr ≠ Reg.glbTrainStatus.addr := by
    have hAddr : (Reg.chWqTail n).addr = 0x07F000000000 + 0x01000000 * n + 0x3010 := rfl
    have hStatus : Reg.glbTrainStatus.addr = 0x07F400004030 := rfl
    simp only [List.mem_singleton, forall_eq, hAddr, hStatus]
    omega
  exact (accessOnly_writeRange s _ _).keepsJob.trans ((onlyRegs_setFld _ (Reg.chWqTail n) 11 0 _).keepsJob hTail)

theorem keepsJob_queueOp {n : Nat} (hn : n < 4) (r : State × List W32) (t : Template) : KeepsJob r.1 (queueOp n r t).1 := by
  have hBook (b : Book) : KeepsJob r.1 (setBook r.1 n b) := ⟨rfl, rfl, rd_setChan r.1 n _ _⟩
  rw [queueOp]
  dsimp only
  exact ((hBook _).trans (accessOnly_writeRange _ _ _).keepsJob).trans (keepsJob_appendEntry _ _ hn)

theorem keepsJob_queueTrain {n : Nat} (hn : n < 4) (r : State × List W32) (t : Template × List (Nat × List Byte)) :
    KeepsJob r.1 (queueTrain n r t).1 :=
  (keepsJob_foldl (fun u (e : Nat × List Byte) => (accessOnly_writeRange u e.1 e.2).keepsJob) t.2 r.1).trans
    (keepsJob_queueOp hn (t.2.foldl (fun s (e : Nat × List Byte) => (writeRange s e.1 e.2).1) r.1, r.2) t.1)

/-- The fold of a job over its channels, each of which queues its own operations. -/
theorem keepsJob_queueChannels (s : State) (m : ModelPlan) (begun : Bool) (ns : List Nat) (hns : ∀ n ∈ ns, n < 4)
    (a : State × List StepWork) (ha : KeepsJob s a.1) :
    KeepsJob s (ns.foldl (fun (a : State × List StepWork) (n : Nat) =>
      (((jobOps s n m begun).foldl (queueTrain n) (a.1, [])).1,
        a.2 ++ [⟨n, ((jobOps s n m begun).foldl (queueTrain n) (a.1, [])).2, []⟩])) a).1 := by
  induction ns generalizing a with
  | nil => exact ha
  | cons n ns ih =>
    have hn : n < 4 := hns n List.mem_cons_self
    refine ih (fun k hk => hns k (List.mem_cons_of_mem _ hk)) _ ?_
    refine foldl_keeps (fun r : State × List W32 => KeepsJob s r.1) _ (fun r t hr => hr.trans ?_) _ ha
    exact keepsJob_queueTrain hn r t

/-- The job under way, its steps left and no abort pending, while GLB_TRAIN_STATUS says that it runs. -/
def JobRuns (j : TrainJob) (s : State) : Prop :=
  fld s Reg.glbTrainStatus 3 0 = 2 ∧ ∃ k, s.ref.job = some k ∧ k.job = j ∧ k.left = j.steps ∧ k.abort = none

theorem KeepsJob.jobRuns {j : TrainJob} {s t : State} (h : KeepsJob s t) (hs : JobRuns j s) : JobRuns j t := by
  obtain ⟨hStatus, k, hJob⟩ := hs
  exact ⟨by rw [fld, h.status, ← fld, hStatus], k, by rw [h.ref]; exact hJob⟩

/-- A job queued, or left waiting for room, runs on, of the same model. -/
theorem jobRuns_queueJob {j : TrainJob} {m : ModelPlan} {s : State} (hModel : modelOf s j.model = some m)
    (hChans : ∀ n ∈ m.chans, n < 4) (hRuns : JobRuns j s) : JobRuns j (queueJob s) ∧ (queueJob s).sec = s.sec := by
  obtain ⟨hStatus, k, hJob, rfl, hLeft, hAbort⟩ := hRuns
  have hServers : ∀ n ∈ servers s m, n < 4 := fun n hn => hChans n (List.mem_of_mem_filter hn)
  rw [queueJob, hJob]
  dsimp only
  rw [hModel]
  dsimp only
  split
  · exact ⟨⟨hStatus, k, hJob, rfl, hLeft, hAbort⟩, rfl⟩
  · have hQueued := keepsJob_queueChannels s m k.begun (servers s m) hServers (s, []) (.refl s)
    generalize (servers s m).foldl (fun (a : State × List StepWork) (n : Nat) =>
      (((jobOps s n m k.begun).foldl (queueTrain n) (a.1, [])).1,
        a.2 ++ [⟨n, ((jobOps s n m k.begun).foldl (queueTrain n) (a.1, [])).2, []⟩])) (s, []) = w at hQueued ⊢
    have hSet : JobRuns k.job (setRef w.1 { w.1.ref with job := some { k with queued := true, work := w.2 } }) := by
      refine ⟨?_, _, rfl, rfl, hLeft, hAbort⟩
      have hRegs : (setRef w.1 { w.1.ref with job := some { k with queued := true, work := w.2 } }).regs = w.1.regs := rfl
      rw [fld, rd_congr hRegs, hQueued.status, ← fld, hStatus]
    split
    · exact ⟨hSet, hQueued.sec⟩
    · have hWake := keepsJob_startWake (setRef w.1 { w.1.ref with job := some { k with queued := true, work := w.2 } })
      exact ⟨hWake.jobRuns hSet, hWake.sec.trans hQueued.sec⟩

theorem modelOf_congr {s t : State} (h : t.sec = s.sec) (m : Nat) : modelOf t m = modelOf s m := by
  rw [modelOf, State.plan, h, ← State.plan, ← modelOf]

theorem jobRuns_startJob {j : TrainJob} {m : ModelPlan} {s : State} (hModel : modelOf s j.model = some m)
    (hChans : ∀ n ∈ m.chans, n < 4) (hRuns : JobRuns j s) : JobRuns j (startJob s) := by
  obtain ⟨hQueued, hSec⟩ := jobRuns_queueJob hModel hChans hRuns
  rw [startJob]
  generalize queueJob s = u at hQueued hSec ⊢
  have hModel' : modelOf u j.model = some m := (modelOf_congr hSec j.model).trans hModel
  obtain ⟨hStatus, k, hJob, hOwn, hLeft, hAbort⟩ := hQueued
  dsimp only
  rw [hJob]
  dsimp only
  split
  · exact ⟨hStatus, k, hJob, hOwn, hLeft, hAbort⟩
  · refine (jobRuns_queueJob (m := m) ?_ hChans ?_).1
    · exact (modelOf_congr rfl j.model).trans hModel'
    · refine ⟨?_, _, rfl, hOwn, hLeft, hAbort⟩
      rw [fld, rd_congr (setRef_regs _ _), ← fld, hStatus]

/-- The tensors of a job copied into its snapshot (R457). -/
def snapshotTaken (j : TrainJob) (s : State) : State :=
  (j.tensors.foldl (fun (r : State × Nat) (x : Nat × Nat) =>
    (moveBytes r.1 x.1 r.2 (cdiv x.2 16 * 16), r.2 + cdiv x.2 16 * 16)) (s, j.snapshot)).1

theorem accessOnly_snapshotTaken (j : TrainJob) (s : State) : AccessOnly s (snapshotTaken j s) := by
  unfold snapshotTaken
  refine foldl_keeps (fun r : State × Nat => AccessOnly s r.1) _ (fun r x hr => ?_) _ (.refl s)
  exact hr.trans (accessOnly_moveBytes _ _ _ _)

/-- A job put under way (R444). -/
def jobSet (j : TrainJob) (u : State) : State :=
  setFld (setRef u { u.ref with job := some ⟨j, j.steps, false, false, [], none⟩ }) Reg.glbTrainStatus 3 0 2

theorem jobRuns_jobSet (j : TrainJob) (u : State) : JobRuns j (jobSet j u) :=
  ⟨fld_setFld _ _ _ _ _ (by decide) (by decide), _, rfl, rfl, rfl, rfl⟩

theorem opTrainingJobStart_runs {j : TrainJob} {m : ModelPlan} {s : State} (hIdle : s.ref.job = none)
    (hModel : modelOf s j.model = some m) (hFits : planFits s j = true) :
    opTrainingJobStart j s = startJob (jobSet j (snapshotTaken j s)) := by
  rw [opTrainingJobStart, if_neg (by simp [hIdle, hModel]), if_neg (by simp [hFits])]
  rfl

theorem opTrainingJobStart_refused {j : TrainJob} {m : ModelPlan} {s : State} (hIdle : s.ref.job = none)
    (hModel : modelOf s j.model = some m) (hLarge : planFits s j = false) :
    opTrainingJobStart j s = post (setFld s Reg.glbTrainStatus 7 4 5) 4 0x2C 0 [(4, 5)] := by
  rw [opTrainingJobStart, if_neg (by simp [hIdle, hModel]), if_pos (by simp [hLarge])]

/-- Settles O41: the snapshot, the queue and the wake leave the books and the status of the job that has been started. -/
theorem training : Obligations.Training := by
  unfold Obligations.Training
  refine ⟨fun j m s hIdle hModel hFits hChans => ?_, fun j m s hIdle hModel hFits => ?_, fun j m s hIdle hModel hLarge => ?_⟩
  · have hExec : exec (.trainingJobStart j) s = .next (keepQueue s (opTrainingJobStart j s)) := rfl
    have hTaken := accessOnly_snapshotTaken j s
    rw [opTrainingJobStart_runs hIdle hModel hFits] at hExec
    refine .of_kept hExec ?_
    generalize snapshotTaken j s = u at hTaken ⊢
    have hModel' : modelOf (jobSet j u) j.model = some m :=
      (modelOf_congr (t := jobSet j u) (s := s) hTaken.sec_eq j.model).trans hModel
    have hRuns := jobRuns_startJob hModel' hChans (jobRuns_jobSet j u)
    generalize startJob (jobSet j u) = t at hRuns ⊢
    refine ⟨?_, ?_⟩
    · rw [fld_keepQueue, hRuns.1]
    · rw [keepQueue_ref]
      exact hRuns.2
  · intro u
    have hExec : exec (.trainingJobStart j) s = .next (keepQueue s (opTrainingJobStart j s)) := rfl
    rw [opTrainingJobStart_runs hIdle hModel hFits] at hExec
    exact hExec
  · have hExec : exec (.trainingJobStart j) s = .next (keepQueue s (opTrainingJobStart j s)) := rfl
    have hEvents := eventOnly_post (setFld s Reg.glbTrainStatus 7 4 5) 4 0x2C 0 [(4, 5)]
    have hStatus := rd_post (setFld s Reg.glbTrainStatus 7 4 5) 4 0x2C 0 [(4, 5)] (r := Reg.glbTrainStatus) (by decide)
    have hField : fld (setFld s Reg.glbTrainStatus 7 4 5) Reg.glbTrainStatus 7 4 = 5 := fld_setFld _ _ _ _ _ (by decide) (by decide)
    have hRef : (setFld s Reg.glbTrainStatus 7 4 5).ref = s.ref := rfl
    rw [opTrainingJobStart_refused hIdle hModel hLarge] at hExec
    refine .of_kept hExec ?_
    generalize setFld s Reg.glbTrainStatus 7 4 5 = u at hEvents hStatus hField hRef ⊢
    refine ⟨?_, ?_⟩
    · rw [keepQueue_ref, hEvents.ref_eq, hRef, hIdle]
    · rw [fld_keepQueue, fld, hStatus, ← fld, hField]

end Sys2Proof.Machine
end


section
/-! PROOFS. Sequences: their tokens, their retirement, deferred requests (O40). -/

namespace Sys2Proof.Machine

/-! ### What a reading of memory depends on -/

/-- A register that is not one of the generation numbers of key/value pages, by its place in its channel's block. -/
def NotKvGen (r : RegRef) : Prop := r.addr % 0x1000000 < 0x600000 ∨ 0x610000 ≤ r.addr % 0x1000000

/-- Memory reads as before: its bytes and errors, the core stores, and what decides where an address is served. -/
structure ReadsSame (s t : State) : Prop where
  mem : t.mem = s.mem
  errs : t.errs = s.errs
  cores : t.cores = s.cores
  absent : ∀ n, (t.chan n).absent = (s.chan n).absent
  retired : ∀ n, (t.chan n).retired = (s.chan n).retired
  dead : ∀ n, (t.chan n).dead = (s.chan n).dead
  regs : ∀ r, NotKvGen r → rd t r = rd s r

theorem ReadsSame.refl (s : State) : ReadsSame s s := ⟨rfl, rfl, rfl, fun _ => rfl, fun _ => rfl, fun _ => rfl, fun _ _ => rfl⟩

theorem ReadsSame.trans {s t u : State} (h : ReadsSame s t) (h' : ReadsSame t u) : ReadsSame s u where
  mem := h'.mem.trans h.mem
  errs := h'.errs.trans h.errs
  cores := h'.cores.trans h.cores
  absent n := (h'.absent n).trans (h.absent n)
  retired n := (h'.retired n).trans (h.retired n)
  dead n := (h'.dead n).trans (h.dead n)
  regs r hr := (h'.regs r hr).trans (h.regs r hr)

theorem place_store_lt {a n i off : Nat} (h : place a = .store n i off) : i < 800 := by
  unfold place at h
  split at h
  · exact nomatch h
  · split at h
    · exact nomatch h
    · split at h
      · dsimp only at h
        split at h
        case isTrue hInside =>
          obtain ⟨-, rfl, -⟩ := Place.store.inj h
          exact Nat.div_lt_of_lt_mul (by omega)
        case isFalse => exact nomatch h
      · exact nomatch h

section
variable {s t : State} (h : ReadsSame s t)
include h

theorem ReadsSame.fld_eq {r : RegRef} (hr : NotKvGen r) (hi lo : Nat) : fld t r hi lo = fld s r hi lo := by
  rw [fld, h.regs r hr, ← fld]

theorem ReadsSame.flag_eq {r : RegRef} (hr : NotKvGen r) (i : Nat) : flag t r i = flag s r i := by
  rw [flag, h.fld_eq hr, ← flag]

theorem ReadsSame.fenced_eq (n : Nat) : fenced t n = fenced s n := by
  refine h.flag_eq ?_ 31
  have hAddr : (Reg.chT0Fence n).addr = 0x07F000000000 + 0x01000000 * n + 0x1030 := rfl
  unfold NotKvGen
  omega

theorem ReadsSame.mirrored_eq (n off : Nat) : mirrored t n off = mirrored s n off := by
  unfold mirrored
  rw [Bool.eq_iff_iff, List.any_eq_true, List.any_eq_true]
  refine exists_congr fun j => and_congr_right fun hj => ?_
  have hj := List.mem_range.1 hj
  have hAddr : (Reg.chMirror n j).addr = 0x07F000000000 + 0x01000000 * n + 0x1800 + j * 8 := rfl
  rw [h.regs _ (by unfold NotKvGen; omega)]

theorem ReadsSame.absent_eq (n f : Nat) : Machine.absent t n f = Machine.absent s n f := by
  rw [Machine.absent, h.absent n, ← Machine.absent]

theorem ReadsSame.physOf_eq (n : Nat) {k : Nat} (hk : k < 768) : physOf t n k = physOf s n k := by
  have hAddr : (Reg.chCoreMap n k).addr = 0x07F000000000 + 0x01000000 * n + 0x4000 + k * 8 := rfl
  exact h.fld_eq (by unfold NotKvGen; omega) 9 0

theorem ReadsSame.findLog_eq (n phys : Nat) {k : Nat} (hk : k ≤ 768) : findLog t n phys k = findLog s n phys k := by
  induction k with
  | zero => rfl
  | succ k ih => rw [findLog, findLog, ih (by omega), h.physOf_eq n (by omega)]

theorem ReadsSame.storeMapped_eq (n i : Nat) : storeMapped t n i = storeMapped s n i := by
  rw [storeMapped, storeMapped, h.retired n, h.dead n, logOf, logOf, h.findLog_eq n i (Nat.le_refl _)]

theorem ReadsSame.rowPowered_eq (n row : Nat) {i : Nat} (hi : i < 800) : rowPowered t n i row = rowPowered s n i row := by
  have hAddr : (Reg.coreCsPower n i).addr = 0x07F000000000 + 0x01000000 * n + 0x800000 + 0x1000 * i + 0x18 := rfl
  exact h.flag_eq (by unfold NotKvGen; omega) _

theorem ReadsSame.spareOf_eq (n row : Nat) {i : Nat} (hi : i < 800) : spareOf t n i row = spareOf s n i row := by
  unfold spareOf
  refine List.find?_congr fun k hk => ?_
  have hk := List.mem_range.1 hk
  have hAddr : (Reg.coreRowMap n i k).addr = 0x07F000000000 + 0x01000000 * n + 0x800000 + 0x1000 * i + 0xC0 + k * 8 := rfl
  have hPlain : NotKvGen (Reg.coreRowMap n i k) := by unfold NotKvGen; omega
  rw [h.flag_eq hPlain, h.fld_eq hPlain]

theorem ReadsSame.csKey_eq (n off : Nat) {i : Nat} (hi : i < 800) : csKey t n i off = csKey s n i off := by
  rw [csKey, csKey, h.spareOf_eq n _ hi]

theorem ReadsSame.goodByte_eq (a : Nat) : goodByte t a = goodByte s a := by
  unfold goodByte decodeWord wordErrs
  rw [h.mem, h.errs]

theorem ReadsSame.csView_eq (n row j : Nat) {i : Nat} (hi : i < 800) : csView t n i row j = csView s n i row j := by
  have hCore : t.core n i = s.core n i := by rw [State.core, h.cores, ← State.core]
  have hGood (a : Nat) : goodBytes t a 16 = goodBytes s a 16 := List.map_congr_left fun k _ => h.goodByte_eq (a + k)
  rw [csView, csView, csWord, csWord, h.csKey_eq n _ hi, hGood, hCore]

theorem ReadsSame.resolve_eq (a : Nat) (write : Bool) : resolve t a write = resolve s a write := by
  rw [resolve, resolve]
  split
  case h_1 n off _ => rw [h.fenced_eq, h.mirrored_eq, h.fenced_eq, h.absent_eq, h.absent_eq]
  case h_2 => rfl
  case h_3 n i off hPlace =>
    have hi := place_store_lt hPlace
    rw [h.storeMapped_eq, h.rowPowered_eq n _ hi, h.csKey_eq n _ hi]
  case h_4 => rfl

theorem ReadsSame.deviceByte_eq (a : Nat) : deviceByte t a = deviceByte s a := by
  rw [deviceByte, deviceByte, h.resolve_eq]
  split
  · rfl
  · split
    case h_1 n i off hPlace => rw [h.csView_eq n _ _ (place_store_lt hPlace)]
    case h_2 => exact h.goodByte_eq _

theorem ReadsSame.viewRange_eq (a n : Nat) : viewRange t a n = viewRange s a n :=
  List.map_congr_left fun i _ => h.deviceByte_eq (a + i)

theorem ReadsSame.queuedIds_eq (n : Nat) : queuedIds t n = queuedIds s n := by
  have hHead : (Reg.chWqHead n).addr = 0x07F000000000 + 0x01000000 * n + 0x3008 := rfl
  have hTail : (Reg.chWqTail n).addr = 0x07F000000000 + 0x01000000 * n + 0x3010 := rfl
  have hBase : (Reg.chWqBase n).addr = 0x07F000000000 + 0x01000000 * n + 0x3000 := rfl
  unfold queuedIds
  rw [h.fld_eq (r := Reg.chWqHead n) (by unfold NotKvGen; omega), h.fld_eq (r := Reg.chWqTail n) (by unfold NotKvGen; omega),
    h.fld_eq (r := Reg.chWqBase n) (by unfold NotKvGen; omega)]
  simp only [h.viewRange_eq]

theorem ReadsSame.opGone_eq {n : Nat} (hOps : (t.chan n).ops = (s.chan n).ops) (id : W32) : opGone t n id = opGone s n id := by
  rw [opGone, opGone, hOps, h.queuedIds_eq]

end

/-! ### A message of the module's own -/

theorem regs_noteSent (s : State) (send : Option (Nat × Nat)) (n : Nat) : (noteSent s send n).regs = s.regs := by
  cases send <;> rfl

theorem regs_pumpGo (p : Nat) (ts : List TxMsg) (s : State) (blocked : List Nat) (keep : List TxMsg) :
    (pumpGo s p ts blocked keep).regs = s.regs := by
  induction ts generalizing s blocked keep with
  | nil => exact State.setPort_regs ..
  | cons t ts ih =>
    rw [pumpGo]
    dsimp only
    split
    · rw [ih, regs_noteSent, State.setPort_regs]
    · exact ih ..

theorem regs_pump (s : State) (p : Nat) : (pump s p).regs = s.regs := by
  rw [pump]
  split
  · exact regs_pumpGo ..
  · rfl

theorem regs_sendOn (s : State) (p : Nat) (t : TxMsg) : (sendOn s p t).regs = s.regs := by
  rw [sendOn, regs_pump, State.setPort_regs]

theorem sendOnly_hostSend (s : State) (p : Nat) (m : Msg) : SendOnly s (hostSend s p m) := by
  rw [hostSend]
  split
  · exact sendOnly_refl s
  · split
    · exact sendOnly_setPort s p _
    · exact sendOnly_setPort s p _

theorem regs_hostSend (s : State) (p : Nat) (m : Msg) : (hostSend s p m).regs = s.regs := by
  rw [hostSend]
  split
  · rfl
  · split
    · exact State.setPort_regs ..
    · exact State.setPort_regs ..

/-- A message that leaves changes ports, what a send counts, and the count of messages without a route. -/
theorem emit_frame (s : State) (prefer : Option Nat) (send : Option (Nat × Nat)) (m : Msg) :
    SendOnly s (emit s prefer send m) ∧ RegsBut [Reg.glbLinkUnrouteCount] s (emit s prefer send m) := by
  have hCount : SendOnly s (count32 s Reg.glbLinkUnrouteCount 1) ∧
      RegsBut [Reg.glbLinkUnrouteCount] s (count32 s Reg.glbLinkUnrouteCount 1) := ⟨rfl, regsBut_count32 s _ 1⟩
  have hSame : SendOnly s s ∧ RegsBut [Reg.glbLinkUnrouteCount] s s := ⟨rfl, fun _ _ => rfl⟩
  rw [emit]
  split
  · split
    · split
      · exact ⟨sendOnly_hostSend .., fun r _ => rd_congr (regs_hostSend ..) r⟩
      · exact hSame
    · exact hCount
  · split
    · exact hCount
    · exact ⟨sendOnly_sendOn .., fun r _ => rd_congr (regs_sendOn ..) r⟩

theorem emit_ref (s : State) (prefer : Option Nat) (send : Option (Nat × Nat)) (m : Msg) : (emit s prefer send m).ref = s.ref :=
  (emit_frame s prefer send m).1.ref_eq

theorem rd_keepQueue (s t : State) (r : RegRef) : rd (keepQueue s t) r = rd t r := rfl

/-! ### The token of a step -/

theorem opResponseIssue_busy {q : Live} {w : List StepWork} {seq : W16} (token : W32) {s : State}
    (hLive : findLive s seq.toNat = some q) (hWork : q.work = some w) (hBusy : ∃ x ∈ w, x.ops ≠ []) :
    opResponseIssue seq token s = s := by
  obtain ⟨x, hx, hOps⟩ := hBusy
  have hNotAll : (w.all fun x => x.ops.isEmpty && (q.synced.contains x.ch || flag s (Reg.chKvShadow x.ch) 62)) = false := by
    rw [List.all_eq_false]
    exact ⟨x, hx, by simp [hOps]⟩
  rw [opResponseIssue, hLive]
  dsimp only
  rw [hWork]
  dsimp only
  rw [hNotAll]
  rfl

/-- A sequence after a step's token has left (R431, R524). -/
def tokenMade (q : Live) (token : W32) : Live :=
  { q with work := none, synced := [], counted := q.counted + q.input.length, made := q.made + 1, input := [token],
           kept := (q.kept ++ [(q.made, token)]).drop (q.kept.length + 1 - 256) }

/-- The state once a step's token has left and is counted. -/
def tokenSent (q : Live) (token : W32) (s : State) : State :=
  putLive (count64 (emit s none none (hostFrameMsg s q 8 q.made 0 (leBytes 4 token.toNat))) Reg.glbRespTokenCount 1)
    (tokenMade q token)

theorem opResponseIssue_served {q : Live} {w : List StepWork} {seq : W16} (token : W32) {s : State}
    (hLive : findLive s seq.toNat = some q) (hWork : q.work = some w)
    (hServed : ∀ x ∈ w, x.ops = [] ∧ (x.ch ∈ q.synced ∨ flag s (Reg.chKvShadow x.ch) 62 = true)) :
    opResponseIssue seq token s = if q.made + 1 < q.maxNew then expandStep (tokenSent q token s) q.id
      else emit (tokenSent q token s) none none (hostFrameMsg (tokenSent q token s) (tokenMade q token) 9 0 0 []) := by
  have hAll : (w.all fun x => x.ops.isEmpty && (q.synced.contains x.ch || flag s (Reg.chKvShadow x.ch) 62)) = true := by
    rw [List.all_eq_true]
    intro x hx
    obtain ⟨hOps, hSynced⟩ := hServed x hx
    simpa [hOps] using hSynced
  rw [opResponseIssue, hLive]
  dsimp only
  rw [hWork]
  dsimp only
  rw [hAll, if_neg (by decide), List.length_append]
  rfl

/-- A token is among those kept once it has been made (R524). -/
theorem mem_kept_tokenMade (q : Live) (token : W32) : (q.made, token) ∈ (tokenMade q token).kept := by
  have hDrop : (q.kept ++ [(q.made, token)]).drop (q.kept.length + 1 - 256) =
      q.kept.drop (q.kept.length + 1 - 256) ++ [(q.made, token)] := List.drop_append_of_le_length (by omega)
  rw [tokenMade]
  dsimp only
  rw [hDrop]
  simp

/-- The only live sequence after its token has left. -/
theorem tokenSent_spec {q : Live} (token : W32) {s : State} (hOne : s.ref.live = [q]) :
    (tokenSent q token s).ref.live = [tokenMade q token] ∧
      rd (tokenSent q token s) Reg.glbRespTokenCount = rd s Reg.glbRespTokenCount + 1 := by
  have hEmit := emit_frame s none none (hostFrameMsg s q 8 q.made 0 (leBytes 4 token.toNat))
  rw [tokenSent]
  generalize emit s none none (hostFrameMsg s q 8 q.made 0 (leBytes 4 token.toNat)) = u at hEmit ⊢
  obtain ⟨hUnits, hRegs⟩ := hEmit
  refine ⟨?_, ?_⟩
  · rw [putLive, setRef_ref, count64_ref, hUnits.ref_eq, hOne]
    simp [tokenMade]
  · have hPut : rd (putLive (count64 u Reg.glbRespTokenCount 1) (tokenMade q token)) Reg.glbRespTokenCount =
        rd (count64 u Reg.glbRespTokenCount 1) Reg.glbRespTokenCount := rd_congr (setRef_regs _ _) _
    rw [hPut, rd_count64, hRegs _ (by decide)]
    rfl

/-! ### Retirement -/

/-- The generation of a sequence's pages set in the channels of its model (R433). -/
def kvGenSet (ns : List Nat) (id gen : Nat) (s : State) : State :=
  ns.foldl (fun s n => setFld s (Reg.chKvGen n (id / 8)) (id % 8 * 8 + 7) (id % 8 * 8) gen) s

theorem addr_chKvGen (n j : Nat) : (Reg.chKvGen n j).addr = 0x07F000000000 + 0x01000000 * n + 0x600000 + j * 8 := rfl

theorem readsSame_setFld_chKvGen (s : State) (n : Nat) {j : Nat} (hj : j < 8192) (hi lo v : Nat) :
    ReadsSame s (setFld s (Reg.chKvGen n j) hi lo v) where
  mem := rfl
  errs := rfl
  cores := rfl
  absent _ := rfl
  retired _ := rfl
  dead _ := rfl
  regs r hr := (onlyRegs_setFld s (Reg.chKvGen n j) hi lo v).2 r (by
    have hAddr := addr_chKvGen n j
    unfold NotKvGen at hr
    simp only [List.mem_singleton, forall_eq]
    omega)

/-- Nothing but registers, channel books and the referee differs, and memory reads as before. -/
structure BooksOnly (s t : State) : Prop where
  reads : ReadsSame s t
  units : t = { s with regs := t.regs, chans := t.chans, ref := t.ref }
  chan : ∀ n, t.chan n = { s.chan n with book := (t.chan n).book }

theorem BooksOnly.refl (s : State) : BooksOnly s s := ⟨.refl s, rfl, fun _ => rfl⟩

theorem BooksOnly.trans {s t u : State} (h : BooksOnly s t) (h' : BooksOnly t u) : BooksOnly s u where
  reads := h.reads.trans h'.reads
  units := by rw [h'.units, h.units]
  chan n := by rw [h'.chan n, h.chan n]

theorem booksOnly_kvGenSet (ns : List Nat) {id : Nat} (hId : id < 65536) (gen : Nat) (s : State) :
    BooksOnly s (kvGenSet ns id gen s) :=
  foldl_keeps (BooksOnly s) _ (fun u n hu => hu.trans ⟨readsSame_setFld_chKvGen u n (by omega) _ _ _, rfl, fun _ => rfl⟩) ns
    (.refl s)

theorem booksOnly_setBook (s : State) (n : Nat) (b : Book) : BooksOnly s (setBook s n b) := by
  have hChan (m : Nat) : (setBook s n b).chan m = { s.chan m with book := ((setBook s n b).chan m).book } := by
    rw [setBook, chan_setChan]
    split
    case isTrue hm => rw [hm]
    case isFalse => rfl
  exact ⟨⟨rfl, rfl, rfl, fun m => by rw [hChan m], fun m => by rw [hChan m], fun m => by rw [hChan m],
    fun r _ => rd_setChan s n _ r⟩, rfl, hChan⟩

theorem booksOnly_setRef (s : State) (x : Referee) : BooksOnly s (setRef s x) :=
  ⟨⟨rfl, rfl, rfl, fun _ => rfl, fun _ => rfl, fun _ => rfl, fun _ _ => rfl⟩, rfl, fun _ => rfl⟩

theorem fld_kvGenSet_keeps {s : State} {n : Nat} (ns : List Nat) {id gen : Nat} (hGen : gen < 256)
    (h : fld s (Reg.chKvGen n (id / 8)) (id % 8 * 8 + 7) (id % 8 * 8) = gen) :
    fld (kvGenSet ns id gen s) (Reg.chKvGen n (id / 8)) (id % 8 * 8 + 7) (id % 8 * 8) = gen := by
  refine foldl_keeps (fun u => fld u (Reg.chKvGen n (id / 8)) (id % 8 * 8 + 7) (id % 8 * 8) = gen) _ (fun u m hu => ?_) ns h
  by_cases hm : m = n
  · rw [hm, fld_setFld _ _ _ _ _ (by omega) (by omega)]
    exact Nat.mod_eq_of_lt (by rw [show id % 8 * 8 + 7 + 1 - id % 8 * 8 = 8 by omega]; exact hGen)
  · have hApart : (Reg.chKvGen m (id / 8)).addr ≠ (Reg.chKvGen n (id / 8)).addr := by
      have hM := addr_chKvGen m (id / 8)
      have hN := addr_chKvGen n (id / 8)
      omega
    rw [fld_setFld_apart _ _ _ _ _ _ hApart, hu]

/-- Each channel of the model shows the generation that has been set. -/
theorem fld_kvGenSet {s : State} {n : Nat} {ns : List Nat} {id gen : Nat} (hn : n ∈ ns) (hGen : gen < 256) :
    fld (kvGenSet ns id gen s) (Reg.chKvGen n (id / 8)) (id % 8 * 8 + 7) (id % 8 * 8) = gen := by
  induction ns generalizing s with
  | nil => exact nomatch hn
  | cons m ns ih =>
    rw [List.mem_cons] at hn
    obtain rfl | hn := hn
    · refine fld_kvGenSet_keeps ns hGen ?_
      rw [fld_setFld _ _ _ _ _ (by omega) (by omega)]
      exact Nat.mod_eq_of_lt (by rw [show id % 8 * 8 + 7 + 1 - id % 8 * 8 = 8 by omega]; exact hGen)
    · exact ih hn

/-- The pages that wait to be restored given up in every channel. -/
def lostDropped (id : Nat) (s : State) : State := (List.range 4).foldl (fun s n => dropLost s n id) s

/-- A retirement begun: the generation set, and the sequence listed as retiring (R433). -/
def retireBegun (ns : List Nat) (id gen : Nat) (s : State) : State :=
  setRef (lostDropped id (kvGenSet ns id gen s)) { (lostDropped id (kvGenSet ns id gen s)).ref with
    retiring := (lostDropped id (kvGenSet ns id gen s)).ref.retiring ++ [(id, gen)] }

/-- Whether a sequence still has an operation that is loaded or queued. -/
def stillWorks (q : Live) (s : State) : Bool :=
  ((q.work.getD []).any fun (w : StepWork) => w.ops.any fun x => !opGone s w.ch x) || q.left.any fun e => !opGone s e.1 e.2

/-- Whether a page of a sequence is being restored or moved. -/
def stillMoves (id : Nat) (s : State) : Bool :=
  (List.range 4).any fun n => restoring s n id || (book s n).pages.any fun (p : PageRec) =>
    p.seq == id && (s.chan n).mig.any fun (c : MigCmd) => c.frame == p.frame

/-- A retired sequence with its pages freed, taken from the books and reported (R434). -/
def retireEnded (id gen : Nat) (s : State) : State :=
  let u := (List.range 4).foldl (fun s n => freePages s n id) s
  (List.range 4).foldl (fun s n => settleRestore n s)
    (post (setRef u { u.ref with live := u.ref.live.filter (·.id != id), retiring := u.ref.retiring.filter fun e => e.1 != id })
      4 0x11 0 [(16, id), (8, gen)])

theorem opSequenceRetire_first {q : Live} {m : ModelPlan} {seq : W16} {s : State} (hLive : findLive s seq.toNat = some q)
    (hModel : modelOf s q.model = some m) (hFirst : (s.ref.retiring.any fun e => e.1 == seq.toNat) = false) :
    opSequenceRetire seq s =
      if stillWorks q (retireBegun m.chans seq.toNat ((q.gen + 1) % 256) s) ||
          stillMoves seq.toNat (retireBegun m.chans seq.toNat ((q.gen + 1) % 256) s)
      then retireBegun m.chans seq.toNat ((q.gen + 1) % 256) s
      else retireEnded seq.toNat ((q.gen + 1) % 256) (retireBegun m.chans seq.toNat ((q.gen + 1) % 256) s) := by
  rw [opSequenceRetire]
  dsimp only
  rw [hLive]
  dsimp only
  rw [hModel]
  dsimp only
  rw [hFirst, if_neg Bool.false_ne_true, stillWorks, stillMoves, retireEnded, retireBegun, lostDropped, kvGenSet]

theorem opSequenceRetire_again {q : Live} {seq : W16} {s : State} (hLive : findLive s seq.toNat = some q)
    (hAgain : (s.ref.retiring.any fun e => e.1 == seq.toNat) = true) :
    opSequenceRetire seq s =
      if stillWorks q s || stillMoves seq.toNat s then s else retireEnded seq.toNat ((q.gen + 1) % 256) s := by
  rw [opSequenceRetire]
  dsimp only
  rw [hLive]
  dsimp only
  rw [hAgain, if_pos rfl, stillWorks, stillMoves, retireEnded]

/-- No channel holds a page, waits for one or moves one. -/
def NoPages (s : State) : Prop :=
  ∀ n < 4, (s.chan n).book.pages = [] ∧ (s.chan n).book.lost = [] ∧ (s.chan n).book.moving = []

theorem NoPages.of_books {s t : State} (hBooks : ∀ n, (t.chan n).book = (s.chan n).book) (h : NoPages s) : NoPages t :=
  fun n hn => by rw [hBooks n]; exact h n hn

theorem noPages_dropLost {s : State} (h : NoPages s) (n id : Nat) : NoPages (dropLost s n id) := by
  intro m hm
  rw [dropLost, setBook, chan_setChan]
  split
  case isTrue hn =>
    subst hn
    obtain ⟨hPages, hLost, hMoving⟩ := h n hm
    exact ⟨hPages, by rw [book, hLost]; rfl, hMoving⟩
  case isFalse => exact h m hm

theorem noPages_retireBegun {s : State} (h : NoPages s) (ns : List Nat) (id gen : Nat) : NoPages (retireBegun ns id gen s) := by
  have hSet : NoPages (kvGenSet ns id gen s) :=
    foldl_keeps NoPages _ (fun u n hu => hu.of_books fun _ => by rw [chan_congr (setFld_chans ..)]) ns h
  have hDropped : NoPages (lostDropped id (kvGenSet ns id gen s)) :=
    foldl_keeps NoPages _ (fun u n hu => noPages_dropLost hu n id) _ hSet
  exact hDropped.of_books fun n => by rw [retireBegun, chan_congr (setRef_chans ..)]

theorem booksOnly_lostDropped (id : Nat) (s : State) : BooksOnly s (lostDropped id s) :=
  foldl_keeps (BooksOnly s) _ (fun u n hu => hu.trans (booksOnly_setBook u n _)) _ (.refl s)

theorem booksOnly_retireBegun (ns : List Nat) {id : Nat} (hId : id < 65536) (gen : Nat) (s : State) :
    BooksOnly s (retireBegun ns id gen s) :=
  ((booksOnly_kvGenSet ns hId gen s).trans (booksOnly_lostDropped id _)).trans (booksOnly_setRef _ _)

theorem ref_lostDropped (id : Nat) (s : State) : (lostDropped id s).ref = s.ref :=
  foldl_keeps (fun u : State => u.ref = s.ref) _ (by intro u n hu; exact hu) _ rfl

theorem ref_kvGenSet (ns : List Nat) (id gen : Nat) (s : State) : (kvGenSet ns id gen s).ref = s.ref :=
  foldl_keeps (fun u : State => u.ref = s.ref) _ (by intro u n hu; exact hu) _ rfl

theorem regs_lostDropped (id : Nat) (s : State) : (lostDropped id s).regs = s.regs :=
  foldl_keeps (fun u : State => u.regs = s.regs) _ (by intro u n hu; exact hu) _ rfl

theorem ref_retireBegun (ns : List Nat) (id gen : Nat) (s : State) :
    (retireBegun ns id gen s).ref = { s.ref with retiring := s.ref.retiring ++ [(id, gen)] } := by
  rw [retireBegun, setRef_ref, ref_lostDropped, ref_kvGenSet]

theorem fld_retireBegun {s : State} {n : Nat} {ns : List Nat} {id gen : Nat} (hn : n ∈ ns) (hGen : gen < 256) :
    fld (retireBegun ns id gen s) (Reg.chKvGen n (id / 8)) (id % 8 * 8 + 7) (id % 8 * 8) = gen := by
  rw [fld, retireBegun, rd_congr (setRef_regs _ _), rd_congr (regs_lostDropped _ _), ← fld, fld_kvGenSet hn hGen]

/-- A sequence without a step, none of whose operations is left, works no more. -/
theorem stillWorks_done {q : Live} {s t : State} (hWork : q.work = none) (hLeft : ∀ e ∈ q.left, opGone s e.1 e.2 = true)
    (hSame : ∀ n id, opGone t n id = opGone s n id) : stillWorks q t = false := by
  rw [stillWorks, hWork]
  simpa [hSame] using hLeft

theorem stillMoves_noPages {s : State} (h : NoPages s) (id : Nat) : stillMoves id s = false := by
  rw [stillMoves, List.any_eq_false]
  intro n hn
  obtain ⟨hPages, hLost, hMoving⟩ := h n (List.mem_range.1 hn)
  simp [restoring, book, hPages, hLost, hMoving]

theorem foldl_fixed {α β : Type} {f : β → α → β} {b : β} (as : List α) (hf : ∀ a ∈ as, f b a = b) : as.foldl f b = b := by
  induction as with
  | nil => rfl
  | cons a as ih => rw [List.foldl_cons, hf a List.mem_cons_self, ih fun x hx => hf x (List.mem_cons_of_mem _ hx)]

theorem freePages_none {s : State} {n : Nat} (h : (s.chan n).book.pages = []) (id : Nat) : freePages s n id = s := by
  rw [freePages, book, h]
  exact if_pos rfl

/-- A sequence taken from the books and reported, where no channel holds a page. -/
def retireReported (id gen : Nat) (u : State) : State :=
  post (setRef u { u.ref with live := u.ref.live.filter (·.id != id), retiring := u.ref.retiring.filter fun e => e.1 != id })
    4 0x11 0 [(16, id), (8, gen)]

theorem retireEnded_noPages {s : State} (h : NoPages s) (id gen : Nat) : retireEnded id gen s = retireReported id gen s := by
  have hFree : (List.range 4).foldl (fun s n => freePages s n id) s = s :=
    foldl_fixed _ fun n hn => freePages_none (h n (List.mem_range.1 hn)).1 id
  have hAfter : NoPages (retireReported id gen s) := h.of_books fun n => by
    rw [retireReported, (eventOnly_post _ 4 0x11 0 _).chan n, chan_congr (setRef_chans ..)]
  rw [retireEnded, hFree]
  refine foldl_fixed _ fun n hn => ?_
  exact settleRestore_quiet (hAfter n (List.mem_range.1 hn)).2.1 (hAfter n (List.mem_range.1 hn)).2.2

theorem retireReported_spec (id gen : Nat) (u : State) :
    (retireReported id gen u).ref = { u.ref with live := u.ref.live.filter (·.id != id), retiring := u.ref.retiring.filter fun e => e.1 != id } ∧
      (retireReported id gen u).cores = u.cores ∧ (retireReported id gen u).streams = u.streams ∧
      ∀ r, (∀ x ∈ postRegs 4, x.addr ≠ r.addr) → rd (retireReported id gen u) r = rd u r := by
  have hEvents := eventOnly_post (setRef u { u.ref with live := u.ref.live.filter (·.id != id), retiring := u.ref.retiring.filter fun e => e.1 != id })
    4 0x11 0 [(16, id), (8, gen)]
  rw [retireReported]
  refine ⟨hEvents.ref_eq, hEvents.cores_eq, by rw [hEvents.units]; rfl, fun r hr => ?_⟩
  rw [rd_post _ _ _ _ _ hr, rd_congr (setRef_regs _ _)]

theorem post_spares_chKvGen {n j : Nat} (hn : n < 4) (hj : j < 8192) : ∀ x ∈ postRegs 4, x.addr ≠ (Reg.chKvGen n j).addr := by
  have hAddr := addr_chKvGen n j
  have hTail : (eqTail 4).addr = 0x07F400002020 := rfl
  have hLost : (eqLost 4).addr = 0x07F4000300A0 := rfl
  simp only [postRegs, List.mem_cons, List.not_mem_nil, or_false, forall_eq_or_imp, forall_eq, hAddr, hTail, hLost]
  omega

/-- Settles O40: a token leaves once its step is served; a retirement advances the generation and frees the pages. -/
theorem sequences : Obligations.Sequences := by
  unfold Obligations.Sequences
  refine ⟨fun q w token s seq hLive hWork hBusy => ?_, fun q token s seq hOne hId hWork hLast => ?_,
    fun q w token s seq hLive hWork hServed hMore => ?_, fun q m s seq hLive hModel hChans hWork hLeft hPages hFirst => ?_,
    fun q m s seq hLive hModel hAgain hWork hLeft hRestored hStill => ?_, fun r rest s hDeferred hRoom => ?_,
    fun r rest s hDeferred hFull => ?_⟩
  · exact exec_of_kept rfl (opResponseIssue_busy token hLive hWork hBusy)
  · have hLive : findLive s seq.toNat = some q := by rw [findLive, hOne]; simp [hId]
    have hExec : exec (.responseIssue seq token) s = .next (keepQueue s (opResponseIssue seq token s)) := rfl
    obtain ⟨hSent, hCount⟩ := tokenSent_spec token hOne
    have hEmit := emit_frame (tokenSent q token s) none none (hostFrameMsg (tokenSent q token s) (tokenMade q token) 9 0 0 [])
    rw [opResponseIssue_served token hLive hWork (fun x hx => nomatch hx), if_neg (by omega)] at hExec
    refine .of_kept hExec ⟨tokenMade q token, ?_, rfl, rfl, rfl, rfl, mem_kept_tokenMade q token, ?_⟩
    · rw [keepQueue_ref, hEmit.1.ref_eq, hSent]
    · rw [rd_keepQueue, hEmit.2 _ (by decide), hCount]
  · have hExec : exec (.responseIssue seq token) s = .next (keepQueue s (opResponseIssue seq token s)) := rfl
    rw [opResponseIssue_served token hLive hWork hServed, if_pos hMore] at hExec
    exact hExec
  · have hExec : exec (.sequenceRetire seq) s = .next (keepQueue s (opSequenceRetire seq s)) := rfl
    have hNoPages : NoPages s := hPages
    have hNew : (s.ref.retiring.any fun e => e.1 == seq.toNat) = false := by
      rw [List.any_eq_false]
      intro e he
      simpa using hFirst e he
    have hBooks := booksOnly_retireBegun m.chans seq.isLt ((q.gen + 1) % 256) s
    have hGone := stillWorks_done hWork hLeft fun n id => hBooks.reads.opGone_eq (by rw [hBooks.chan n]) id
    have hBegun := noPages_retireBegun hNoPages m.chans seq.toNat ((q.gen + 1) % 256)
    have hRef := ref_retireBegun m.chans seq.toNat ((q.gen + 1) % 256) s
    have hGen (n : Nat) (hn : n ∈ m.chans) := fld_retireBegun (s := s) (id := seq.toNat) hn (Nat.mod_lt (q.gen + 1) (by decide : 0 < 256))
    rw [opSequenceRetire_first hLive hModel hNew, hGone, stillMoves_noPages hBegun, Bool.or_false, if_neg Bool.false_ne_true,
      retireEnded_noPages hBegun] at hExec
    refine .of_kept hExec ?_
    generalize retireBegun m.chans seq.toNat ((q.gen + 1) % 256) s = u at hBooks hRef hGen ⊢
    obtain ⟨hRef', hCores, hStreams, hRegs⟩ := retireReported_spec seq.toNat ((q.gen + 1) % 256) u
    generalize retireReported seq.toNat ((q.gen + 1) % 256) u = t at hRef' hCores hStreams hRegs ⊢
    refine ⟨?_, ?_, ?_, ?_, fun n hn => ?_⟩
    · rw [keepQueue_ref, hRef', hRef]
    · rw [keepQueue_ref, hRef', hRef]
      dsimp only
      rw [List.filter_append, List.filter_eq_self.2 fun e he => by simpa using hFirst e he]
      simp
    · rw [keepQueue_cores, hCores, hBooks.units]
    · rw [keepQueue_streams, hStreams, hBooks.units]
    · have hSeq : seq.toNat < 65536 := seq.isLt
      rw [fld_keepQueue, fld, hRegs _ (post_spares_chKvGen (hChans n hn) (by omega)), ← fld, hGen n hn]
  · have hExec : exec (.sequenceRetire seq) s = .next (keepQueue s (opSequenceRetire seq s)) := rfl
    have hListed : (s.ref.retiring.any fun e => e.1 == seq.toNat) = true := by
      obtain ⟨e, he, hSeq⟩ := hAgain
      exact List.any_eq_true.2 ⟨e, he, by simp [hSeq]⟩
    have hMoves : stillMoves seq.toNat s = false := by
      rw [stillMoves, List.any_eq_false]
      intro n hn
      have hn := List.mem_range.1 hn
      have hPages : ((book s n).pages.any fun (p : PageRec) =>
          p.seq == seq.toNat && (s.chan n).mig.any fun (c : MigCmd) => c.frame == p.frame) = false := by
        rw [List.any_eq_false]
        intro p hp hBoth
        simp only [Bool.and_eq_true, beq_iff_eq, List.any_eq_true] at hBoth
        obtain ⟨hSeq, c, hc, hFrame⟩ := hBoth
        exact hStill n hn p hp hSeq c hc hFrame
      simp [hRestored n hn, hPages]
    intro u
    rw [opSequenceRetire_again hLive hListed, stillWorks_done hWork hLeft fun _ _ => rfl, hMoves, Bool.or_false,
      if_neg Bool.false_ne_true, retireEnded] at hExec
    rw [hExec]
  · have hExec : exec .deferredAdmit s = .next (keepQueue s (opDeferredAdmit s)) := rfl
    rw [hExec, opDeferredAdmit, hDeferred]
    dsimp only
    rw [if_neg (by omega)]
  · have hExec : exec .deferredAdmit s = .next (keepQueue s (opDeferredAdmit s)) := rfl
    refine exec_of_kept hExec ?_
    rw [opDeferredAdmit, hDeferred]
    dsimp only
    rw [if_pos hFull]

end Sys2Proof.Machine
end


section
/-! PROOFS. The opcodes of a vector program (O60). -/

namespace Sys2Proof.Machine

/-! ### A unit written twice -/

theorem minsert_minsert {α : Type} (m : List (Nat × α)) (k : Nat) (x y : α) : minsert (minsert m k x) k y = minsert m k y := by
  induction m with
  | nil => simp [minsert]
  | cons e m ih =>
    obtain ⟨j, v⟩ := e
    simp only [minsert]
    split
    · simp [minsert]
    · split
      · simp [minsert]
      case isFalse hLow hOther => simp [minsert, hLow, hOther, ih]

theorem merase_minsert {α : Type} (m : List (Nat × α)) (k : Nat) (x : α) : merase (minsert m k x) k = merase m k := by
  induction m with
  | nil => simp [minsert, merase]
  | cons e m ih =>
    obtain ⟨j, v⟩ := e
    simp only [minsert]
    split
    · simp [merase]
    · split
      case isTrue hSame => simp [merase, hSame]
      case isFalse hOther => simp [merase, ih]

/-- The second of two writes to a key stands, where the first has not taken the key from the map. -/
theorem mset_mset {α : Type} [DecidableEq α] {d x : α} (hx : x ≠ d) (m : List (Nat × α)) (k : Nat) (y : α) :
    mset d (mset d m k x) k y = mset d m k y := by
  rw [mset, mset, mset, if_neg hx, merase_minsert, minsert_minsert]

theorem setCore_setCore {s : State} {n i : Nat} {c : Core} (hc : c ≠ Core.idle) (d : Core) :
    (s.setCore n i c).setCore n i d = s.setCore n i d := by
  have hCores : (s.setCore n i c).cores = mset Core.idle s.cores (800 * n + i) c := rfl
  rw [State.setCore, hCores, mset_mset hc]
  rfl

theorem core_keepQueue (s t : State) (n i : Nat) : (keepQueue s t).core n i = t.core n i := rfl

/-! ### The opcodes -/

/-- A command of one register opcode runs that opcode. -/
theorem exec_registerOpcode (n : Fin 4) (log : Fin 768) :
    ∀ e ∈ registerOpcodes n log, ∀ s, exec e.1 s = .next (keepQueue s (vecReg n.val log.val e.2.1 e.2.2 s)) := by
  unfold registerOpcodes
  dsimp only
  repeat refine List.forall_mem_cons.2 ⟨fun s => rfl, ?_⟩
  exact List.forall_mem_nil _

theorem vecReg_at {n log code : Nat} (f : VecOp → VecTask → List W32) {v : VecAt} {s : State}
    (hAt : vecAt s n log code = some v) : vecReg n log code f s = vecNext s n v (v.t.set v.w.d (f v.w v.t)) := by
  rw [vecReg, hAt]

theorem opLd_loads {n log : Nat} {v : VecAt} {tile : TileIx} {s s' : State} (hAt : vecAt s n log 0x01 = some v)
    (hTile : (workTiles v.l.op v.g)[v.t.seq]? = some tile)
    (hLanes : ∀ i < 32, (vecLane s n v (v.w.imm % 8) tile i).2 = true)
    (hRead : regionRead s n v.g 1 (vecWords s n v (v.w.imm % 8) tile) = (s', true)) :
    ∃ r, opLd n log s = vecNext (noteRaised s' n r) n v
      (v.t.set v.w.d ((List.range 32).map fun i => loadF32 (vecLane s n v (v.w.imm % 8) tile i).1)) := by
  have hAll : (((List.range 32).map fun i => vecLane s n v (v.w.imm % 8) tile i).any fun p => !p.2) = false := by
    rw [List.any_eq_false]
    intro p hp
    obtain ⟨i, hi, rfl⟩ := List.mem_map.1 hp
    simp [hLanes i (List.mem_range.1 hi)]
  rw [opLd, hAt]
  dsimp only
  rw [hTile]
  dsimp only
  rw [hAll, if_neg Bool.false_ne_true, hRead]
  dsimp only
  rw [List.map_map]
  exact ⟨_, rfl⟩

theorem opSt_stores {n log : Nat} {v : VecAt} {tile : TileIx} {s s' : State} {ws : List (Nat × Nat × Nat)} {rs : List Res}
    (hAt : vecAt s n log 0x02 = some v) (hTile : (workTiles v.l.op v.g)[v.t.seq]? = some tile) (hSlot : v.w.imm % 8 ≠ 4)
    (hResults : rs = (v.t.reg v.w.a).zipIdx.map fun p =>
      (⟨moved (baseCoord 3 tile.levels) (some 0) ((p.2 : Nat) : Int), f32 p.1⟩ : Res))
    (hFree : wordsWait (s.core n v.g.phys) 1 true (stWords v tile (v.w.imm % 8) rs) = false)
    (hStore : storeResults s n v.g 1 v.l.op (v.w.imm % 8) false rs = (s', ws, none)) :
    opSt n log s = vecNext (partStored
      (s'.setCore n v.g.phys (s'.core n v.g.phys)) n v.g.phys (4 * (800 * n + v.g.phys) + 1) v.l.op.arrive
      v.t.arrive (lower v.t.arrive (lowest ws)) false) n v { v.t with arrive := lower v.t.arrive (lowest ws) } := by
  have hRow : (decide (v.w.imm % 8 = 4) && !lastOfRow v.l.op v.g v.t.seq) = false := by simp [hSlot]
  have hRest : (decide (v.w.imm % 8 = 4) && (v.l.op.layout 4).any (fun l => l.format.rnd == 2)) = false := by simp [hSlot]
  rw [opSt, hAt]
  dsimp only
  rw [hTile]
  dsimp only
  rw [hRow, if_neg Bool.false_ne_true, if_neg hSlot, ← hResults, hFree, if_neg Bool.false_ne_true, hStore]
  dsimp only
  rw [hRest, if_neg Bool.false_ne_true]
  rfl

theorem opSt_skips {n log : Nat} {v : VecAt} {tile : TileIx} {s : State} (hAt : vecAt s n log 0x02 = some v)
    (hTile : (workTiles v.l.op v.g)[v.t.seq]? = some tile) (hSlot : v.w.imm % 8 = 4)
    (hRow : lastOfRow v.l.op v.g v.t.seq = false) : opSt n log s = vecNext s n v v.t := by
  have hSkips : (decide (v.w.imm % 8 = 4) && !lastOfRow v.l.op v.g v.t.seq) = true := by simp [hSlot, hRow]
  rw [opSt, hAt]
  dsimp only
  rw [hTile]
  dsimp only
  rw [hSkips, if_pos rfl]

theorem opRand_draws {n log : Nat} {v : VecAt} {s : State} (hAt : vecAt s n log 0x31 = some v) :
    opRand n log s = vecNext (s.setCore n v.g.phys { s.core n v.g.phys with draws := (s.core n v.g.phys).draws + 32 }) n v
      (v.t.set v.w.d ((List.range 32).map fun i =>
        uniform (Config.draw (s.core n v.g.phys).seed v.g.log ((s.core n v.g.phys).draws + i)))) := by
  rw [opRand, hAt]

theorem opSort_sorts {n log : Nat} {v : VecAt} {s : State} (hAt : vecAt s n log 0x32 = some v) :
    opSort n log s = vecNext s n v
      ((v.t.set v.w.b (sortLanes (bit v.w.imm 0) (v.t.reg v.w.a) (v.t.reg v.w.b)).2).set v.w.d
        (sortLanes (bit v.w.imm 0) (v.t.reg v.w.a) (v.t.reg v.w.b)).1) := by
  rw [opSort, hAt]

/-- The lanes that a conversion writes, and what it raises (R67 to R73, R561). -/
def converted (s : State) (n : Nat) (v : VecAt) : List W32 × Raised :=
  let f : Fmt := ⟨bits v.w.imm 5 4, bit v.w.imm 6, false, 0, false, bits v.w.imm 9 7, bits v.w.imm 3 0⟩
  let c := s.core n v.g.phys
  cvtLanes f v.l.op.zeroPoint (fun i => (Config.draw c.seed v.g.log (c.draws + i)).toNat) (liveLane v) (v.t.reg v.w.a)

theorem opCvt_converts {n log : Nat} {v : VecAt} {s : State} (hAt : vecAt s n log 0x30 = some v) (hRound : bits v.w.imm 5 4 ≠ 2) :
    opCvt n log s = vecNext (noteRaised s n (converted s n v).2) n v (v.t.set v.w.d (converted s n v).1) := by
  rw [opCvt, hAt]
  dsimp only
  rw [if_neg hRound]
  rfl

/-- The task at the start of its next tile. -/
def tileStart (v : VecAt) : VecTask :=
  { v.t with seq := v.t.seq + 1, pc := 0, arrive := none, v := v.t.v.zipIdx.map fun p =>
    if p.2 < 6 || lastOfRow v.l.op v.g v.t.seq then List.replicate 32 (0 : W32) else p.1 }

/-- The core with its task at its next tile, and what the last one stored told of (R163). -/
def tileEnded (s : State) (n : Nat) (v : VecAt) : State :=
  let u := partStored s n v.g.phys (4 * (800 * n + v.g.phys) + 1) v.l.op.arrive v.t.arrive v.t.arrive true
  u.setCore n v.g.phys { u.core n v.g.phys with vec := some (tileStart v) }

theorem opVecEnd_ends {n log : Nat} {v : VecAt} {s : State} (hAt : vecAt s n log 0x00 = some v) :
    opVecEnd n log s = if v.t.seq + 1 = (workTiles v.l.op v.g).length
      then finishCore (flushTask (tileEnded s n v) n v.g.phys 1) n v.l.op.opId v.g.log else tileEnded s n v := by
  rw [opVecEnd, hAt]
  dsimp only
  rw [tileEnded, tileStart]

theorem vec_vecNext (s : State) (n : Nat) (v : VecAt) (t : VecTask) :
    ((vecNext s n v t).core n v.g.phys).vec = some { t with pc := t.pc + 1 } := by
  rw [vecNext, core_setCore_same]

/-- Settles O60: the word under the program counter is taken, and its opcode's function says what is written. -/
theorem vectorOpcodes : Obligations.VectorOpcodes := by
  unfold Obligations.VectorOpcodes
  refine ⟨fun n log c code f v s hMem hAt => ?_, fun n log v tile s s' hAt hTile hLanes hRead => ?_,
    fun n log v tile s s' ws hAt hTile hSlot => ?_, fun n log v tile s hAt hTile hSlot hRow => ?_, fun n log v s hAt => ?_,
    fun n log v s hAt => ?_, fun n log v s hAt hRound => ?_, fun n log v s hAt => ?_⟩
  · have hExec := exec_registerOpcode n log (c, code, f) hMem s
    dsimp only at hExec
    rw [vecReg_at f hAt] at hExec
    exact exec_of_eq hExec rfl rfl
  · have hExec : exec (.ld n log) s = .next (keepQueue s (opLd n.val log.val s)) := rfl
    obtain ⟨r, hLoad⟩ := opLd_loads hAt hTile hLanes hRead
    rw [hLoad] at hExec
    refine .of_kept hExec ?_
    rw [core_keepQueue, vec_vecNext]
    rfl
  · intro rs hFree hStore
    have hExec : exec (.st n log) s = .next (keepQueue s (opSt n.val log.val s)) := rfl
    rw [hExec, opSt_stores hAt hTile hSlot rfl hFree hStore]
  · exact exec_of_eq rfl (opSt_skips hAt hTile hSlot hRow) rfl
  · have hExec : exec (.rand n log) s = .next (keepQueue s (opRand n.val log.val s)) := rfl
    rw [opRand_draws hAt] at hExec
    refine exec_of_eq hExec ?_ rfl
    have hDrawn : ({ s.core n.val v.g.phys with draws := (s.core n.val v.g.phys).draws + 32 } : Core) ≠ Core.idle :=
      fun h => absurd (congrArg Core.draws h) (Nat.succ_ne_zero _)
    rw [vecNext, core_setCore_same, setCore_setCore hDrawn]
    rfl
  · exact exec_of_eq rfl (opSort_sorts hAt) rfl
  · have hExec : exec (.cvt n log) s = .next (keepQueue s (opCvt n.val log.val s)) := rfl
    rw [opCvt_converts hAt hRound] at hExec
    exact hExec
  · intro u t w
    have hExec : exec (.vecEnd n log) s = .next (keepQueue s (opVecEnd n.val log.val s)) := rfl
    rw [opVecEnd_ends hAt] at hExec
    refine ⟨fun hMore => ?_, fun hLast => ?_⟩
    · rw [if_neg hMore] at hExec
      exact hExec
    · rw [if_pos hLast] at hExec
      exact hExec

end Sys2Proof.Machine
end


section
/-! PROOFS. Requests, issues and completions of fetches (O52). -/

namespace Sys2Proof.Machine

/-! ### The fetch that is issued next -/

/-- A fold that keeps the element with the least key returns one of its elements, and none has a lesser key. -/
theorem foldl_least {α : Type} (key : α → Nat) (f : Option α → α → Option α) (hNone : ∀ p, f none p = some p)
    (hSome : ∀ q p, f (some q) p = if key p < key q then some p else some q) (l : List α) :
    ∀ (acc : Option α) (best : α), l.foldl f acc = some best →
      (acc = some best ∨ best ∈ l) ∧ (∀ a, acc = some a → key best ≤ key a) ∧ ∀ p ∈ l, key best ≤ key p := by
  induction l with
  | nil =>
    intro acc best h
    have hBest : acc = some best := h
    refine ⟨.inl hBest, fun a ha => ?_, fun p hp => absurd hp List.not_mem_nil⟩
    rw [Option.some.inj (hBest.symm.trans ha)]
  | cons p l ih =>
    intro acc best h
    rw [List.foldl_cons] at h
    obtain ⟨hFrom, hAcc, hRest⟩ := ih _ _ h
    rw [List.forall_mem_cons]
    cases acc with
    | none =>
      rw [hNone] at hFrom hAcc
      refine ⟨?_, fun a ha => (nomatch ha), hAcc p rfl, hRest⟩
      obtain hNew | hOld := hFrom
      · exact .inr (Option.some.inj hNew ▸ List.mem_cons_self)
      · exact .inr (List.mem_cons_of_mem _ hOld)
    | some q =>
      rw [hSome] at hFrom hAcc
      have hBoth : key best ≤ key q ∧ key best ≤ key p := by
        split at hAcc
        · have := hAcc p rfl
          omega
        · have := hAcc q rfl
          omega
      refine ⟨?_, fun a ha => Option.some.inj ha ▸ hBoth.1, hBoth.2, hRest⟩
      obtain hNew | hOld := hFrom
      · split at hNew
        · exact .inr (Option.some.inj hNew ▸ List.mem_cons_self)
        · exact .inl hNew
      · exact .inr (List.mem_cons_of_mem _ hOld)

/-- The ready fetches of a channel, from the stream after the last one granted. -/
def readyFetches (s : State) (n : Nat) : List (Nat × Nat × Nat) :=
  (List.range 4096).flatMap fun i =>
    let k := ((s.chan n).last + 1 + i) % 4096
    let x := s.stream n k
    if x.used then (x.pend.filter (pendReady x)).map fun p => (k, p.tile, p.deadline) else []

theorem mem_readyFetches {s : State} {n k tile deadline : Nat} : (k, tile, deadline) ∈ readyFetches s n ↔
    k < 4096 ∧ (s.stream n k).used = true ∧ ∃ p ∈ (s.stream n k).pend, pendReady (s.stream n k) p = true ∧
      p.tile = tile ∧ p.deadline = deadline := by
  unfold readyFetches
  rw [List.mem_flatMap]
  constructor
  · rintro ⟨i, _, hMem⟩
    dsimp only at hMem
    split at hMem
    case isTrue hUsed =>
      obtain ⟨p, hp, hEq⟩ := List.mem_map.1 hMem
      obtain ⟨hPend, hReady⟩ := List.mem_filter.1 hp
      obtain ⟨rfl, rfl, rfl⟩ : _ = k ∧ p.tile = tile ∧ p.deadline = deadline := by simpa using hEq
      exact ⟨Nat.mod_lt _ (by omega), hUsed, p, hPend, hReady, rfl, rfl⟩
    case isFalse => exact absurd hMem List.not_mem_nil
  · rintro ⟨hk, hUsed, p, hPend, hReady, rfl, rfl⟩
    refine ⟨(k + 4096 - ((s.chan n).last + 1) % 4096) % 4096, List.mem_range.2 (by omega), ?_⟩
    have hPlace : ((s.chan n).last + 1 + (k + 4096 - ((s.chan n).last + 1) % 4096) % 4096) % 4096 = k := by omega
    dsimp only
    rw [hPlace, if_pos hUsed]
    exact List.mem_map.2 ⟨p, List.mem_filter.2 ⟨hPend, hReady⟩, rfl⟩

/-- The fetch that is issued next is ready, and none that is ready has an earlier deadline (R248). -/
theorem nextFetch_least {s : State} {n k tile : Nat} (h : nextFetch s n = some (k, tile)) :
    ∃ deadline, (k, tile, deadline) ∈ readyFetches s n ∧ ∀ q ∈ readyFetches s n, deadline ≤ q.2.2 := by
  rw [nextFetch, Option.map_eq_some_iff] at h
  obtain ⟨⟨k', tile', deadline⟩, hBest, hEq⟩ := h
  obtain ⟨rfl, rfl⟩ : k' = k ∧ tile' = tile := by simpa using hEq
  obtain ⟨hFrom, _, hLeast⟩ := foldl_least (fun p : Nat × Nat × Nat => p.2.2) _ (by intro _; rfl) (by intro _ _; rfl) _ _ _ hBest
  exact ⟨deadline, hFrom.resolve_left (nomatch ·), hLeast⟩

theorem opFetchIssue_one {s : State} {n k tile : Nat} (hNext : nextFetch s n = some (k, tile))
    (hNone : nextFetch (issueFetch s n k tile) n = none) :
    opFetchIssue n s = warmFetch (issueFetch s n k tile) n := by
  unfold opFetchIssue
  simp only [hNext, hNone]

/-! ### A request -/

theorem opTileRequest_asks {s : State} {n log o k : Nat} {l : LoadedOp} {g : GridCore}
    (hStream : askedStream s n log o = some (k, l, g))
    (hLength : askedOf (s.stream n k) log < (s.stream n k).length)
    (hFull : askedOf (s.stream n k) log ≤ (s.stream n k).full)
    (hPast : askedOf (s.stream n k) log = 0 ∨ movedPast l g (s.core n g.phys) o (askedOf (s.stream n k) log - 1) = true) :
    opTileRequest n log o s = s.setStream n k (askTile s n log (askedOf (s.stream n k) log) (s.stream n k)) := by
  have hCond : (decide ((s.stream n k).length ≤ askedOf (s.stream n k) log) ||
      decide ((s.stream n k).full < askedOf (s.stream n k) log) ||
      !(decide (askedOf (s.stream n k) log = 0) ||
        movedPast l g (s.core n g.phys) o (askedOf (s.stream n k) log - 1))) = false := by
    simpa [hLength, hFull, or_iff_not_imp_left] using hPast
  rw [opTileRequest, hStream]
  dsimp only
  rw [hCond, if_neg Bool.false_ne_true]

theorem askTile_pends {s : State} {n log i : Nat} {x : Stream} (hNext : i + x.lead = x.next) (hLength : x.next < x.length)
    (hFull : i < x.full) : askTile s n log i x = { x with
      asked := x.asked.map fun p => if p.1 = log then (p.1, i + 1) else p,
      pend := x.pend ++ [⟨x.next, cycleNow s n + x.lead * x.period⟩], next := x.next + 1 } := by
  rw [askTile]
  dsimp only
  rw [hNext, if_neg (by omega : ¬ x.full ≤ i), if_neg (by omega : ¬ x.length ≤ x.next), if_neg (by omega : ¬ x.next < x.next)]

/-- A core that asks for a tile that is not there waits for it from now on. -/
theorem askTile_waits {s : State} {n log i : Nat} {x : Stream} (hFull : x.full ≤ i) (hWait : x.wait = none) :
    (askTile s n log i x).wait = some ⟨i, cycleNow s n, inService s n⟩ := by
  rw [askTile]
  dsimp only
  rw [if_pos hFull, hWait]
  split
  · rfl
  · split <;> rfl

/-! ### A wait that ends -/

theorem endWait_exempt {s : State} {n k lateBy : Nat} {cause : StallCause} {w : Wait} (hWait : (s.stream n k).wait = some w)
    (hFull : w.tile < (s.stream n k).full) (hExempt : (s.stream n k).exempt.contains w.tile = true) :
    ∃ x : Stream, x.wait = none ∧ endWait s n k lateBy cause = count64 (s.setStream n k x) (Reg.chStallFault n) lateBy := by
  rw [endWait]
  dsimp only
  rw [hWait]
  dsimp only
  rw [if_neg (by omega : ¬ (s.stream n k).full ≤ w.tile), if_pos hExempt]
  exact ⟨_, rfl, rfl⟩

theorem endWait_stall {s : State} {n k lateBy : Nat} {cause : StallCause} {w : Wait} (hWait : (s.stream n k).wait = some w)
    (hFull : w.tile < (s.stream n k).full) (hExempt : (s.stream n k).exempt.contains w.tile = false) (hLate : 0 < lateBy)
    (hSvc : w.svc = false) :
    ∃ x : Stream, endWait s n k lateBy cause = count64 (s.setStream n k x) (stallReg n cause) lateBy := by
  rw [endWait]
  dsimp only
  rw [hWait]
  dsimp only
  rw [if_neg (by omega : ¬ (s.stream n k).full ≤ w.tile), hExempt, if_neg Bool.false_ne_true, hSvc, lateAs,
    if_neg (by omega : ¬ lateBy = 0), if_neg Bool.false_ne_true]
  exact ⟨_, rfl⟩

/-- A stall charged to a counter, beside what stands of the stream. -/
theorem stallCounted (s : State) (n k : Nat) (x : Stream) (r : RegRef) (cycles : Nat) :
    rd (count64 (s.setStream n k x) r cycles) r = rd s r + BitVec.ofNat 64 cycles ∧
    RegsBut [r] s (count64 (s.setStream n k x) r cycles) := by
  refine ⟨?_, fun q hq => ?_⟩
  · rw [rd_count64, rd_setStream]
  · rw [rd_count64_other _ _ (hq r List.mem_cons_self), rd_setStream]

/-! ### A fill that ends -/

/-- A fetch that completes for no codec is the fill alone. -/
theorem opFetchDone_fill {s : State} {n k tile lateBy : Nat} {cause : StallCause} {l : LoadedOp}
    (hOp : findOp s n (s.stream n k).opId = some l) (hKind : letrixKind l.op.kind = false) :
    opFetchDone n k tile lateBy cause [] s = opFetchComplete n k tile lateBy cause [] s := by
  have hOther : (l.op.kind == 12) = false := by
    rw [beq_eq_false_iff_ne]
    intro h
    rw [h] at hKind
    exact absurd hKind (by decide)
  have hCodec : ((s.stream n k).used && (s.stream n k).inflight.contains tile &&
      (findOp s n (s.stream n k).opId).any fun l => l.op.kind == 12) = false := by
    rw [hOp, Option.any_some, hOther, Bool.and_false]
  rw [opFetchDone, hCodec]
  rfl

section
variable {s s' : State} {n k tile lateBy : Nat} {cause : StallCause} {l : LoadedOp} {g : GridCore}

theorem opFetchComplete_fills {raw : List (Nat × List Byte)} (hUsed : (s.stream n k).used = true)
    (hFlight : (s.stream n k).inflight.contains tile = true) (hOp : findOp s n (s.stream n k).opId = some l)
    (hKind : letrixKind l.op.kind = false) (hCore : streamCore l (s.stream n k) = some g)
    (hRead : readHeld s (streamWords s (heldByte s) l (s.stream n k) tile) = (s', .ok raw))
    (hSound : arrivalFault (heldByte s') l.op g (s.stream n k) tile = none) :
    opFetchComplete n k tile lateBy cause [] s =
      (let u := fillSlot s' n l (s.stream n k) tile
        (streamBytes (sourceByte s' n l.op (s.stream n k).slot 0 (heldByte s')) l g (s.stream n k) tile)
      endWait (u.setStream n k (fillUp l.op (heldByte u) g 16 { s.stream n k with
        inflight := (s.stream n k).inflight.filter (· != tile),
        filled := (s.stream n k).filled ++ [tile] })) n k lateBy cause) := by
  rw [opFetchComplete, strike]
  dsimp only
  rw [hUsed, hFlight, if_neg (by decide), hOp]
  dsimp only
  rw [hKind, if_neg Bool.false_ne_true, hCore]
  dsimp only
  rw [hRead]
  dsimp only
  rw [hSound]

theorem opFetchComplete_halts {e : Stop} (hUsed : (s.stream n k).used = true)
    (hFlight : (s.stream n k).inflight.contains tile = true) (hOp : findOp s n (s.stream n k).opId = some l)
    (hKind : letrixKind l.op.kind = false) (hCore : streamCore l (s.stream n k) = some g)
    (hRead : readHeld s (streamWords s (heldByte s) l (s.stream n k) tile) = (s', .error e)) :
    opFetchComplete n k tile lateBy cause [] s =
      haltStop s' n k tile (issuerOf (s.stream n k) k).1 (issuerOf (s.stream n k) k).2 e := by
  rw [opFetchComplete, strike]
  dsimp only
  rw [hUsed, hFlight, if_neg (by decide), hOp]
  dsimp only
  rw [hKind, if_neg Bool.false_ne_true, hCore]
  dsimp only
  rw [hRead]

end

/-- Settles O52: the issued fetch is the least of a fold over the ready ones; the other clauses are the branches of a request,
of a fill and of the end of a wait. -/
theorem fetches : Obligations.Fetches := by
  unfold Obligations.Fetches
  refine ⟨fun n k tile s hNext => ?_, fun n k tile s hNext hNone => ?_, fun n log o k l g s hStream hLength hFull hPast => ?_,
    fun n log i x s hNext hLength hFull => askTile_pends hNext hLength hFull,
    fun n log i x s hFull hWait => askTile_waits hFull hWait,
    fun n k tile lateBy cause l g s s' raw hUsed hFlight hOp hKind hCore hRead hSound => ?_,
    fun n k lateBy cause w s hWait hFull hExempt => ?_, fun n k lateBy cause w s hWait hFull hExempt hLate hSvc => ?_,
    fun n k tile lateBy cause l g s s' e hUsed hFlight hOp hKind hCore hRead => ?_⟩
  · obtain ⟨deadline, hMem, hLeast⟩ := nextFetch_least hNext
    obtain ⟨hk, hUsed, p, hPend, hReady, hTile, rfl⟩ := mem_readyFetches.1 hMem
    refine ⟨hk, hUsed, p, hPend, hTile, hReady, fun j hj hOther q hq hqReady => ?_⟩
    exact hLeast (j, q.tile, q.deadline) (mem_readyFetches.2 ⟨hj, hOther, q, hq, hqReady, rfl, rfl⟩)
  · have hExec : exec (.fetchIssue n) s = .next (keepQueue s (opFetchIssue n.val s)) := rfl
    rw [hExec, opFetchIssue_one hNext hNone]
  · exact exec_of_eq rfl (opTileRequest_asks hStream hLength hFull hPast) rfl
  · have hExec : exec (.fetchComplete n k tile lateBy cause []) s =
        .next (keepQueue s (opFetchDone n.val k.val tile lateBy cause [] s)) := rfl
    rw [hExec, opFetchDone_fill hOp hKind, opFetchComplete_fills hUsed hFlight hOp hKind hCore hRead hSound]
  · obtain ⟨x, hNone, hEq⟩ := endWait_exempt (lateBy := lateBy) (cause := cause) hWait hFull hExempt
    obtain ⟨hCount, hRegs⟩ := stallCounted s n k x (Reg.chStallFault n) lateBy
    rw [hEq]
    refine ⟨hCount, ?_, hRegs⟩
    rw [← hNone]
    exact congrArg Stream.wait (stream_setStream_same s n k x)
  · obtain ⟨x, hEq⟩ := endWait_stall (cause := cause) hWait hFull hExempt hLate hSvc
    rw [hEq]
    exact stallCounted s n k x (stallReg n cause) lateBy
  · have hExec : exec (.fetchComplete n k tile lateBy cause []) s =
        .next (keepQueue s (opFetchDone n.val k.val tile lateBy cause [] s)) := rfl
    rw [hExec, opFetchDone_fill hOp hKind, opFetchComplete_halts hUsed hFlight hOp hKind hCore hRead]

end Sys2Proof.Machine
end


section
/-! PROOFS. The loader and the work queue (O50). -/

namespace Sys2Proof.Machine

/-! ### The next entry of the work queue -/

/-- A command of the loader takes the next entry as its kind and its work select it. -/
theorem exec_loadCommand (n : Fin 4) :
    ∀ e ∈ loadCommands n, ∀ s, exec e.1 s = .next (keepQueue s (loadNext n.val (selects e.2.1 e.2.2) 0 s)) := by
  unfold loadCommands
  repeat refine List.forall_mem_cons.2 ⟨fun s => rfl, ?_⟩
  exact List.forall_mem_nil _

/-- With nothing read ahead and nothing waiting the loader reads nothing. -/
theorem fetchBurst_empty {s : State} {n : Nat}
    (hQueue : fld s (Reg.chWqTail n) 11 0 = fld s (Reg.chWqHead n) 11 0) : fetchBurst s n = s := by
  have hNone : (fld s (Reg.chWqTail n) 11 0 + 4096 - fld s (Reg.chWqHead n) 11 0) % 4096 = 0 := by omega
  rw [fetchBurst]
  dsimp only
  rw [hNone, if_pos (by simp)]

theorem loadNext_empty {s : State} {n held : Nat} {sel : Op → Bool} (hBurst : (s.chan n).burst = [])
    (hQueue : fld s (Reg.chWqTail n) 11 0 = fld s (Reg.chWqHead n) 11 0) : loadNext n sel held s = s := by
  rw [loadNext, fetchBurst_empty hQueue]
  dsimp only
  rw [hBurst]
  split <;> rfl

section
variable {s s' : State} {n held : Nat} {sel : Op → Bool} {wait : Bool} {bs : List Byte} {bad bad' : List Nat} {op op' : Op}
  {rest : List Entry} {cmds : List FillCmd}

theorem loadNext_bad {id : W32} (hAwake : isDormant s = false) (hBurst : ((fetchBurst s n).chan n).burst = .bad id :: rest) :
    loadNext n sel held s = reject (fetchBurst s n) n id 1 (0, 0) := by
  rw [loadNext]
  dsimp only
  rw [hAwake, if_neg Bool.false_ne_true, hBurst]

theorem loadNext_other (hAwake : isDormant s = false) (hBurst : ((fetchBurst s n).chan n).burst = .op wait bs bad op :: rest)
    (hSel : sel op = false) : loadNext n sel held s = s := by
  rw [loadNext]
  dsimp only
  rw [hAwake, if_neg Bool.false_ne_true, hBurst]
  dsimp only
  rw [hSel, if_pos (by rfl)]

theorem loadNext_rejects {cls : Nat} {a : At} (hAwake : isDormant s = false)
    (hBurst : ((fetchBurst s n).chan n).burst = .op wait bs bad op :: rest) (hSel : sel op = true)
    (hTables : readTables (fetchBurst s n) n bad op = (s', bad', op', cmds))
    (hFault : loadFault s' n bs bad' (gridOf s' n op') cmds op' = some (cls, a)) :
    loadNext n sel held s = reject s' n op'.opId cls a := by
  rw [loadNext]
  dsimp only
  rw [hAwake, if_neg Bool.false_ne_true, hBurst]
  dsimp only
  rw [hSel, if_neg (by decide), hTables]
  dsimp only
  rw [hFault]

theorem loadNext_holds {r : Bool} (hAwake : isDormant s = false)
    (hBurst : ((fetchBurst s n).chan n).burst = .op wait bs bad op :: rest) (hSel : sel op = true)
    (hTables : readTables (fetchBurst s n) n bad op = (s', bad', op', cmds))
    (hSound : loadFault s' n bs bad' (gridOf s' n op') cmds op' = none)
    (hHold : holdReason s' n wait op' (gridOf s' n op') = some r) :
    loadNext n sel held s = (fetchBurst s n).setChan n { (fetchBurst s n).chan n with
      heldFor := some (r || ((fetchBurst s n).chan n).heldFor == some true) } := by
  rw [loadNext]
  dsimp only
  rw [hAwake, if_neg Bool.false_ne_true, hBurst]
  dsimp only
  rw [hSel, if_neg (by decide), hTables]
  dsimp only
  rw [hSound]
  dsimp only
  rw [hHold]

theorem loadNext_loads (hAwake : isDormant s = false)
    (hBurst : ((fetchBurst s n).chan n).burst = .op wait bs bad op :: rest) (hSel : sel op = true)
    (hTables : readTables (fetchBurst s n) n bad op = (s', bad', op', cmds))
    (hSound : loadFault s' n bs bad' (gridOf s' n op') cmds op' = none)
    (hFree : holdReason s' n wait op' (gridOf s' n op') = none) :
    loadNext n sel held s = takeEntry (loadOp
      (if (s.chan n).heldFor = some true then count64 s' (Reg.chStreamCtxWaitCycles n) held else s') n
      (devicePlaced n op' (gridOf s' n op')) (gridOf s' n op') cmds) n := by
  rw [loadNext]
  dsimp only
  rw [hAwake, if_neg Bool.false_ne_true, hBurst]
  dsimp only
  rw [hSel, if_neg (by decide), hTables]
  dsimp only
  rw [hSound]
  dsimp only
  rw [hFree]

end

theorem opOperationHeldLoad_held {s : State} {n held : Nat} (hHeld : (s.chan n).heldFor = some true) :
    opOperationHeldLoad n held s = loadNext n (fun _ => true) held s := by
  rw [opOperationHeldLoad, hHeld, if_neg (by decide)]

/-! ### A rejected entry -/

theorem takeEntry_head (s : State) (n : Nat) :
    fld (takeEntry s n) (Reg.chWqHead n) 11 0 = (fld s (Reg.chWqHead n) 11 0 + 1) % 4096 := by
  rw [takeEntry]
  dsimp only
  rw [fld_setChan, fld_setFld _ _ _ _ _ (by decide) (by decide)]
  exact Nat.mod_mod _ 4096

theorem takeEntry_rd (s : State) (n : Nat) {r : RegRef} (hr : (Reg.chWqHead n).addr ≠ r.addr) :
    rd (takeEntry s n) r = rd s r := by
  rw [takeEntry]
  dsimp only
  rw [rd_setChan, rd_setFld_other _ _ _ _ hr]

theorem takeEntry_ops (s : State) (n : Nat) : ((takeEntry s n).chan n).ops = (s.chan n).ops := by
  rw [takeEntry]
  dsimp only
  rw [chan_setChan_same]
  rfl

/-- What is recorded of an entry that is rejected, before its event. -/
def rejectNoted (s : State) (n : Nat) (id : W32) (cls : Nat) (a : At) : State :=
  let s := recordOnce s (Reg.chLoadFault n) (cls * 2 ^ 54 + (a.1 % 8) * 2 ^ 51 + (a.2 % 8) * 2 ^ 48 + id.toNat)
  if cls = 3 then setFlag s (Reg.chFmtStatus n) 4 true else s

theorem reject_eq (s : State) (n : Nat) (id : W32) (cls : Nat) (a : At) : reject s n id cls a =
    takeEntry (post (rejectNoted (count32 s (Reg.chLoadRejectCount n) 1) n id cls a) n 0x04 id [(4, cls)]) n := rfl

theorem onlyRegs_rejectNoted (s : State) (n : Nat) (id : W32) (cls : Nat) (a : At) :
    OnlyRegs [Reg.chLoadFault n, Reg.chFmtStatus n] s (rejectNoted s n id cls a) := by
  rw [rejectNoted]
  have hRecord := (onlyRegs_recordOnce s (Reg.chLoadFault n)
    (cls * 2 ^ 54 + (a.1 % 8) * 2 ^ 51 + (a.2 % 8) * 2 ^ 48 + id.toNat)).mono (m := [Reg.chLoadFault n, Reg.chFmtStatus n]) (by simp)
  split
  · exact hRecord.trans ((onlyRegs_setFlag _ _ 4 true).mono (by simp))
  · exact hRecord

/-- A register that no part of a rejection names. -/
theorem rd_rejectPosted (s : State) (n : Fin 4) (id : W32) (cls : Nat) (a : At) {r : RegRef}
    (hNoted : ∀ x ∈ [Reg.chLoadFault n.val, Reg.chFmtStatus n.val], x.addr ≠ r.addr)
    (hPost : ∀ x ∈ postRegs n.val, x.addr ≠ r.addr) :
    rd (post (rejectNoted s n.val id cls a) n.val 0x04 id [(4, cls)]) r = rd s r := by
  rw [rd_post _ _ _ _ _ hPost]
  exact (onlyRegs_rejectNoted s n.val id cls a).2 r hNoted

theorem counted_reject (s : State) (n : Fin 4) (id : W32) (cls : Nat) (a : At) :
    Counted (Reg.chLoadRejectCount n.val) 1 s (reject s n.val id cls a) := by
  have hNoted : ∀ x ∈ [Reg.chLoadFault n.val, Reg.chFmtStatus n.val], x.addr ≠ (Reg.chLoadRejectCount n.val).addr := by
    revert n; decide
  have hPost : ∀ x ∈ postRegs n.val, x.addr ≠ (Reg.chLoadRejectCount n.val).addr := by revert n; decide
  have hHead : (Reg.chWqHead n.val).addr ≠ (Reg.chLoadRejectCount n.val).addr := by revert n; decide
  rw [Counted, reject_eq, takeEntry_rd _ _ hHead, rd_rejectPosted _ n id cls a hNoted hPost]
  exact counted_count32 s _ 1

theorem reject_head (s : State) (n : Fin 4) (id : W32) (cls : Nat) (a : At) :
    fld (reject s n.val id cls a) (Reg.chWqHead n.val) 11 0 = (fld s (Reg.chWqHead n.val) 11 0 + 1) % 4096 := by
  have hNoted : ∀ x ∈ [Reg.chLoadFault n.val, Reg.chFmtStatus n.val], x.addr ≠ (Reg.chWqHead n.val).addr := by
    revert n; decide
  have hPost : ∀ x ∈ postRegs n.val, x.addr ≠ (Reg.chWqHead n.val).addr := by revert n; decide
  have hCount : (Reg.chLoadRejectCount n.val).addr ≠ (Reg.chWqHead n.val).addr := by revert n; decide
  rw [reject_eq, takeEntry_head, fld, rd_rejectPosted _ n id cls a hNoted hPost, rd_count32_other _ _ hCount]
  rfl

theorem eventOnly_rejectPosted (s : State) (n : Fin 4) (id : W32) (cls : Nat) (a : At) :
    EventOnly s (post (rejectNoted (count32 s (Reg.chLoadRejectCount n.val) 1) n.val id cls a) n.val 0x04 id [(4, cls)]) :=
  ((onlyRegs_count32 s _ 1).eventOnly.trans (onlyRegs_rejectNoted _ _ id cls a).eventOnly).trans (eventOnly_post _ _ _ _ _)

/-- Nothing starts where an entry is rejected (R230). -/
theorem reject_frame (s : State) (n : Fin 4) (id : W32) (cls : Nat) (a : At) :
    (reject s n.val id cls a).cores = s.cores ∧ (reject s n.val id cls a).streams = s.streams ∧
    ((reject s n.val id cls a).chan n.val).ops = (s.chan n.val).ops := by
  have hEvents := eventOnly_rejectPosted s n id cls a
  rw [reject_eq]
  generalize post (rejectNoted (count32 s (Reg.chLoadRejectCount n.val) 1) n.val id cls a) n.val 0x04 id [(4, cls)] = u at hEvents
  have hCores : u.cores = s.cores := by rw [hEvents.units]
  have hStreams : u.streams = s.streams := by rw [hEvents.units]
  refine ⟨hCores, hStreams, ?_⟩
  rw [takeEntry_ops, hEvents.chan]

/-! ### A write of the tail -/

theorem tailWrite_takes {s : State} {n : Fin 4} {v : W64} (hv : v.toNat < 4096) (hAwake : powerState s ≠ 4)
    (hEmpty : v.toNat = fld s (Reg.chWqHead n.val) 11 0 → fld s (Reg.chWqTail n.val) 11 0 = fld s (Reg.chWqHead n.val) 11 0) :
    opWorkQueueTailWrite n.val v s = setFld s (Reg.chWqTail n.val) 11 0 v.toNat := by
  have hLow : bits v.toNat 11 0 = v.toNat := by rw [bits_eq_div (hi := 11) (lo := 0) (by decide) (by omega)]; omega
  have hHigh : bits v.toNat 63 12 = 0 := by
    rw [bits_eq_div (by decide) v.isLt]
    exact Nat.div_eq_of_lt hv
  have hShown : (decide (v.toNat = fld s (Reg.chWqHead n.val) 11 0) &&
      decide (fld s (Reg.chWqHead n.val) 11 0 ≠ fld s (Reg.chWqTail n.val) 11 0)) = false := by
    rw [Bool.and_eq_false_iff]
    by_cases h : v.toNat = fld s (Reg.chWqHead n.val) 11 0
    · exact .inr (by simp [hEmpty h])
    · exact .inl (by simp [h])
  have hApart : ∀ m : Fin 4, (Reg.chWqTail m.val).addr ≠ Reg.glbPwrStatus.addr := by decide
  have hStays : fld (setFld s (Reg.chWqTail n.val) 11 0 v.toNat) Reg.glbPwrStatus 31 29 ≠ 4 := by
    rw [fld_setFld_apart _ _ _ _ _ _ (hApart n)]
    exact hAwake
  rw [opWorkQueueTailWrite, if_neg (by rw [hHigh]; decide)]
  dsimp only
  rw [hLow, hShown, if_neg Bool.false_ne_true]
  split
  · rfl
  · rw [startWake, if_neg hStays]

theorem tailWrite_overruns {s : State} {n : Nat} {v : W64} (hv : v.toNat = fld s (Reg.chWqHead n) 11 0)
    (hWaiting : fld s (Reg.chWqTail n) 11 0 ≠ fld s (Reg.chWqHead n) 11 0) :
    opWorkQueueTailWrite n v s = setFlag s (Reg.chWqBase n) 63 true := by
  have hLt : v.toNat < 4096 := hv ▸ bits_lt _ 11 0
  have hLow : bits v.toNat 11 0 = v.toNat := by rw [bits_eq_div (hi := 11) (lo := 0) (by decide) (by omega)]; omega
  have hHigh : bits v.toNat 63 12 = 0 := by
    rw [bits_eq_div (by decide) v.isLt]
    exact Nat.div_eq_of_lt hLt
  rw [opWorkQueueTailWrite, if_neg (by rw [hHigh]; decide)]
  dsimp only
  rw [hLow, if_pos (by simp [hv, hWaiting.symm])]

/-- Settles O50: each clause is a branch of the loader or of a write of the tail, and a rejection is a count, a record and an
event before the head moves on. -/
theorem loads : Obligations.Loads := by
  unfold Obligations.Loads
  refine ⟨fun n c kind sel s s' wait bs bad bad' op op' rest cmds hMem hAwake hBurst hTables => ?_,
    fun n c kind sel id rest s hMem hAwake hBurst => ?_, fun n c kind sel s hMem hBurst hQueue => ?_,
    fun n held s s' wait bs bad bad' op op' rest cmds hAwake hHeld hBurst hTables hSound hFree => ?_,
    fun n s id cls a _ => ⟨counted_reject s n id cls a, reject_head s n id cls a, reject_frame s n id cls a⟩,
    fun n v s hv hPower hEmpty => ?_, fun n v s hv hWaiting => ?_⟩
  · have hExec := exec_loadCommand n (c, kind, sel) hMem s
    refine ⟨fun hSel => exec_of_kept hExec (loadNext_other hAwake hBurst hSel), fun hSel =>
      ⟨fun cls a hFault => ?_, fun hSound => ⟨fun r hHold => ?_, fun hFree hHeld => ?_⟩⟩⟩
    · rw [hExec, loadNext_rejects hAwake hBurst hSel hTables hFault]
    · rw [hExec, loadNext_holds hAwake hBurst hSel hTables hSound hHold]
    · rw [hExec, loadNext_loads hAwake hBurst hSel hTables hSound hFree, if_neg hHeld]
  · rw [exec_loadCommand n (c, kind, sel) hMem s, loadNext_bad hAwake hBurst]
  · exact exec_of_kept (exec_loadCommand n (c, kind, sel) hMem s) (loadNext_empty hBurst hQueue)
  · have hExec : exec (.operationHeldLoad n held) s = .next (keepQueue s (opOperationHeldLoad n.val held s)) := rfl
    rw [hExec, opOperationHeldLoad_held hHeld, loadNext_loads hAwake hBurst rfl hTables hSound hFree, if_pos hHeld]
  · refine Answers.of_effect rfl (tailWrite_takes hv hPower hEmpty) rfl ⟨onlyRegs_setFld s _ 11 0 v.toNat, ?_⟩
    rw [fld_setFld _ _ _ _ _ (by decide) (by decide)]
    omega
  · exact Answers.of_effect rfl (tailWrite_overruns hv hWaiting) (onlyRegs_setFlag s _ 63 true).pending_eq
      ⟨onlyRegs_setFlag s _ 63 true, flag_setFlag s _ 63 true (by decide)⟩

end Sys2Proof.Machine
end


section
/-! PROOFS. The life of a loaded operation (O51). -/

namespace Sys2Proof.Machine

/-! ### Start, deadline, arrivals -/

theorem findOp_id {s : State} {n : Nat} {id : W32} {l : LoadedOp} (h : findOp s n id = some l) : l.op.opId = id := by
  have hHit := List.find?_some h
  exact eq_of_beq hHit

theorem opOperationStart_starts {s : State} {n log : Nat} {l : LoadedOp} {g : GridCore} (hOps : (s.chan n).ops = [l])
    (hGrid : gridCore l log = some g) (hStarted : l.started.contains log = false)
    (hFinished : l.finished.contains log = false) (hStopped : l.stopped = false) (hTask : kindTask l.op = 0)
    (hArray : (s.core n g.phys).array.map (·.opId) = some l.op.opId) (hDeck : (s.core n g.phys).deck = none) :
    opOperationStart n log s = startStreams (offDeck (putOp
      (s.setCore n g.phys { s.core n g.phys with seed := l.op.seed, draws := 0 }) n l.op.opId
      { l with started := l.started ++ [log], deck := l.deck.filter (· != log) }) n l.op.opId log) n l.op.opId log := by
  have hOther : ¬ (s.core n g.phys).deck = some l.op.opId := by rw [hDeck]; nofun
  unfold opOperationStart
  rw [hOps, List.find?_cons, hGrid]
  dsimp only
  rw [hTask, hStarted, hFinished, hStopped, hArray]
  simp only [Bool.not_false, Bool.and_self, beq_self_eq_true, Bool.true_or]
  rw [hGrid]
  dsimp only
  rw [if_neg hOther, ← hStopped]

theorem opOperationDeadlineMiss_misses {s : State} {n : Nat} {id : W32} {l : LoadedOp} (hOp : findOp s n id = some l)
    (hDeadline : l.op.deadline ≠ 0) (hMissed : l.missed = false) (hStarted : l.started ≠ [])
    (hService : inService s n = true) :
    opOperationDeadlineMiss n id s =
      post (count32 (putOp s n id { l with missed := true }) (Reg.chOpDeadlineMissCount n) 1) n 0x02 id [] := by
  have hCond : (decide (l.op.deadline = 0) || l.missed || l.started.isEmpty || !inService s n) = false := by
    simp [hDeadline, hMissed, hStarted, hService]
  rw [opOperationDeadlineMiss, hOp]
  dsimp only
  rw [hCond, if_neg Bool.false_ne_true]

theorem opArrivalWaitResume_takes {s : State} {n log i : Nat} {a : ArrayTask} {l : LoadedOp} {g : GridCore}
    (hCores : (coresOf s n log).eraseDups = [i]) (hArray : (s.core n i).array = some a) (hVec : (s.core n i).vec = none)
    (hOp : liveOp s n a.opId = some l) (hGrid : l.grid.find? (·.phys == i) = some g) :
    opArrivalWaitResume n log s = s.setCore n i
      { s.core n i with array := some { a with remote := takeArrivals s n l.op g a.remote } } := by
  have hGrids : ((liveOp s n a.opId).bind fun l => (l.grid.find? (·.phys == i)).map fun g => (l, g)) = some (l, g) := by
    rw [hOp, Option.bind_some, hGrid, Option.map_some]
  rw [opArrivalWaitResume, hCores, List.foldl_cons, List.foldl_nil, resumeOn]
  dsimp only
  rw [hArray, hVec, Option.map_some, hGrids, Option.map_none, ← hVec]

/-! ### Completion -/

theorem completeOp_unfinished {s : State} {n : Nat} {id : W32} {l : LoadedOp} (hOp : findOp s n id = some l)
    (hDone : opDone l = false) : completeOp n id s = s := by
  rw [completeOp, hOp]
  dsimp only
  rw [hDone, if_pos (by rfl)]

/-- The end of a Letrix operation whose combining core has nothing gathered: its streams and its place in the loader are
given up, and the event is posted. -/
theorem completeOp_letrix {s : State} {n : Nat} {id : W32} {l : LoadedOp} (hOp : findOp s n id = some l)
    (hKind : letrixKind l.op.kind = true) (hDone : opDone l = true) (hStopped : l.stopped = false)
    (hGather : ∀ g ∈ l.grid, (s.core n g.phys).gather = []) :
    completeOp n id s = post ((freeStreams s n id).setChan n { s.chan n with
      ops := (s.chan n).ops.filter (·.op.opId != id) }) n 0x01 id [] := by
  have hLost : (l.grid.any fun g => flushLoses s n g.phys 3) = false := by
    rw [List.any_eq_false]
    intro g hg
    rw [flushLoses, hGather g hg]
    exact Bool.false_ne_true
  have hHalted : (l.grid.any fun g => taskOf (s.core n g.phys) 3 == some id && taskHalted (s.core n g.phys) 3) = false := by
    rw [List.any_eq_false]
    intro g _
    rw [taskOf]
    · exact Bool.false_ne_true
    all_goals decide
  have hFlush : l.grid.foldl (fun s g => flushTask s n g.phys 3) s = s := by
    refine foldl_fixed _ fun g hg => ?_
    rw [flushTask, hGather g hg]
    rfl
  rw [completeOp, hOp]
  dsimp only
  rw [if_pos hKind, hLost, hHalted, hDone, hStopped, hFlush, if_neg (by decide), if_neg (by decide), if_pos (by rfl)]
  rfl

/-- Without a live request the books take no note of an operation that ends. -/
theorem noteOpDone_idle {s : State} {n : Nat} {id : W32} (hLive : s.ref.live = []) : noteOpDone s n id = s := by
  rw [noteOpDone, hLive, if_pos (by rfl)]

theorem noteTrainStep_idle {s : State} {n : Nat} {id : W32} (hJob : s.ref.job = none) : noteTrainStep s n id = s := by
  rw [noteTrainStep, hJob]

/-- Without a request and a job the completion is all that an ended operation leads to. -/
theorem opOperationComplete_idle {s : State} {n : Nat} {id : W32} (hRef : (completeOp n id s).ref = s.ref)
    (hLive : s.ref.live = []) (hJob : s.ref.job = none) : opOperationComplete n id s = completeOp n id s := by
  rw [opOperationComplete]
  split
  · rw [noteOpDone_idle (by rw [hRef, hLive]), noteTrainStep_idle (by rw [hRef, hJob])]
  · rfl

theorem opOperationComplete_unfinished {s : State} {n : Nat} {id : W32} {l : LoadedOp} (hOp : findOp s n id = some l)
    (hDone : opDone l = false) : opOperationComplete n id s = s := by
  rw [opOperationComplete, completeOp_unfinished hOp hDone]
  exact if_neg (Nat.lt_irrefl _)

/-! ### Cancel -/

/-- The write of CH_STREAM_CANCEL that cancels an operation. -/
def cancelWord (id : W32) : W64 := BitVec.ofNat 64 (2 ^ 63 + id.toNat)

theorem cancelWord_toNat (id : W32) : (cancelWord id).toNat = 2 ^ 63 + id.toNat := by
  have := id.isLt
  rw [cancelWord, BitVec.toNat_ofNat]
  omega

theorem cancelWord_high (id : W32) : bits (cancelWord id).toNat 61 32 = 0 := by
  have := id.isLt
  rw [cancelWord_toNat, bits, Nat.shiftRight_eq_div_pow]
  omega

theorem cancelWord_go (id : W32) : bit (cancelWord id).toNat 63 = true := by
  have := id.isLt
  rw [cancelWord_toNat, bit, bits, Nat.shiftRight_eq_div_pow, beq_iff_eq]
  omega

theorem cancelWord_id (id : W32) : BitVec.ofNat 32 (bits (cancelWord id).toNat 31 0) = id := by
  have := id.isLt
  apply BitVec.eq_of_toNat_eq
  rw [cancelWord_toNat, bits, Nat.shiftRight_eq_div_pow, BitVec.toNat_ofNat]
  omega

/-- Nothing but registers, streams and cores differs, and of the registers only those listed. -/
structure StopOnly (l : List RegRef) (s t : State) : Prop where
  units : t = { s with regs := t.regs, streams := t.streams, cores := t.cores }
  regs : RegsBut l s t

theorem StopOnly.trans {l : List RegRef} {s t u : State} (h : StopOnly l s t) (h' : StopOnly l t u) : StopOnly l s u where
  units := by rw [h'.units, h.units]
  regs := h.regs.trans h'.regs

theorem OnlyRegs.stopOnly {l m : List RegRef} {s t : State} (h : OnlyRegs l s t) (hl : ∀ x ∈ l, x ∈ m) : StopOnly m s t where
  units := by
    have hStreams := h.streams_eq
    have hCores := h.cores_eq
    rw [hStreams, hCores]
    exact h.1
  regs := (h.mono hl).2

theorem StopOnly.pending_eq {l : List RegRef} {s t : State} (h : StopOnly l s t) : t.pending = s.pending := by rw [h.units]
theorem StopOnly.chans_eq {l : List RegRef} {s t : State} (h : StopOnly l s t) : t.chans = s.chans := by rw [h.units]
theorem StopOnly.sameMemory {l : List RegRef} {s t : State} (h : StopOnly l s t) : SameMemory s t := by
  constructor <;> rw [h.units]

/-- The registers that a cancel counts in. -/
def dropRegs (n : Nat) : List RegRef :=
  Reg.chCancelDropCount n :: (List.range 3).map fun d => Reg.lxAttnWaitCycles (dieNo n d)

/-- The request of a cancel, in its register. -/
def cancelNamed (s : State) (n : Nat) (id : W32) : State := setFld s (Reg.chStreamCancel n) 31 0 id.toNat

def cancelTaken (s : State) (n : Nat) (id : W32) : State :=
  setFlag (setFlag (cancelNamed s n id) (Reg.chStreamCancel n) 62 false) (Reg.chStreamCancel n) 63 true

/-- The streams and rings of a cancelled operation given up, its reads in flight counted. -/
def cancelDropped (s : State) (n : Nat) (id : W32) (l : LoadedOp) : State :=
  let drops := (s.streams.filter fun e => e.1 / 4096 == n && e.2.opId == id).foldl
    (fun a e => a + e.2.inflight.length) 0
  let s := count32 s (Reg.chCancelDropCount n) drops
  let s := freeStreams s n id
  let s := l.grid.foldl (fun s g => dropRings s n id g.phys) s
  match l.lx.stopAt with
  | some c => (List.range 3).foldl (fun s d => count64 s (Reg.lxAttnWaitCycles (dieNo n d)) (cycleNow s n - c)) s
  | none => s

theorem onlyRegs_cancelTaken (s : State) (n : Nat) (id : W32) :
    OnlyRegs [Reg.chStreamCancel n] s (cancelTaken s n id) :=
  ((onlyRegs_setFld s _ 31 0 id.toNat).trans (onlyRegs_setFlag _ _ 62 false)).trans (onlyRegs_setFlag _ _ 63 true)

theorem stopOnly_cancelDropped (s : State) (n : Nat) (id : W32) (l : LoadedOp) :
    StopOnly (dropRegs n) s (cancelDropped s n id l) := by
  have hCount : StopOnly (dropRegs n) s (count32 s (Reg.chCancelDropCount n)
      ((s.streams.filter fun e => e.1 / 4096 == n && e.2.opId == id).foldl (fun a e => a + e.2.inflight.length) 0)) :=
    (onlyRegs_count32 s _ _).stopOnly (by simp [dropRegs])
  have hFree (u : State) : StopOnly (dropRegs n) u (freeStreams u n id) := ⟨rfl, fun _ _ => rfl⟩
  have hRings (u : State) : StopOnly (dropRegs n) u (l.grid.foldl (fun s g => dropRings s n id g.phys) u) :=
    foldl_keeps (StopOnly (dropRegs n) u) (fun (v : State) (g : GridCore) => dropRings v n id g.phys) (fun v g h => h.trans ⟨rfl, fun _ _ => rfl⟩) _ ⟨rfl, fun _ _ => rfl⟩
  have hBefore := (hCount.trans (hFree _)).trans (hRings _)
  rw [cancelDropped]
  split
  case h_2 => exact hBefore
  case h_1 c _ =>
    refine hBefore.trans ?_
    generalize l.grid.foldl (fun s g => dropRings s n id g.phys) _ = u
    have hWait (v : State) (d : Nat) (hd : d ∈ List.range 3) :
        StopOnly (dropRegs n) v (count64 v (Reg.lxAttnWaitCycles (dieNo n d)) (cycleNow v n - c)) :=
      (onlyRegs_wr v _ _).stopOnly fun x hx => by
        rw [List.mem_singleton.1 hx]
        exact List.mem_cons_of_mem _ (List.mem_map.2 ⟨d, hd, rfl⟩)
    have hRange : List.range 3 = [0, 1, 2] := rfl
    rw [hRange] at hWait ⊢
    exact ((hWait _ 0 (by decide)).trans (hWait _ 1 (by decide))).trans (hWait _ 2 (by decide))

/-- A cancel of an operation that has not ended stops it. -/
theorem askCancel_stops {s : State} {n : Nat} {id : W32} {l : LoadedOp} (hOp : findOp s n id = some l)
    (hDone : opDone l = false) :
    askCancel n (cancelWord id) s =
      let u := putOp (cancelDropped (cancelTaken s n id) n id l) n id { l with stopped := true }
      u.setChan n { u.chan n with cancel := some id } := by
  have hFound : findOp (cancelNamed s n id) n id = some l := hOp
  unfold askCancel
  rw [cancelWord_id, cancelWord_go, cancelWord_high, if_neg (by decide), if_neg (by decide)]
  change (match findOp (cancelNamed s n id) n id with | none => _ | some l => _) = _
  rw [hFound]
  dsimp only
  rw [hDone, if_neg Bool.false_ne_true]
  rfl

theorem askCancel_unknown {s : State} {n : Nat} {id : W32} (hOp : findOp s n id = none) :
    askCancel n (cancelWord id) s = setFlag (cancelNamed s n id) (Reg.chStreamCancel n) 62 true := by
  have hFound : findOp (cancelNamed s n id) n id = none := hOp
  unfold askCancel
  rw [cancelWord_id, cancelWord_go, cancelWord_high, if_neg (by decide), if_neg (by decide)]
  change (match findOp (cancelNamed s n id) n id with | none => _ | some l => _) = _
  rw [hFound]
  rfl

/-- Where no request is live, a cancel is asked for, and work whose data are lost is done anew. -/
theorem opStreamCancel_idle {s : State} {n : Nat} {id : W32} (hLive : s.ref.live = []) :
    opStreamCancel n (cancelWord id) s = match findOp s n id with
      | some l => if lostData s n id then redoOp (askCancel n (cancelWord id) s) n l else askCancel n (cancelWord id) s
      | none => askCancel n (cancelWord id) s := by
  unfold opStreamCancel
  rw [cancelWord_id, cancelWord_go, cancelWord_high, hLive, if_neg (by decide), List.find?_nil]
  cases findOp s n id <;> rfl

theorem findOp_putOp {s : State} {n : Nat} {id : W32} {l m : LoadedOp} (hOp : findOp s n id = some l) (hm : m.op.opId = id) :
    findOp (putOp s n id m) n id = some m := by
  rw [findOp] at hOp ⊢
  rw [putOp, chan_setChan_same]
  dsimp only
  generalize (s.chan n).ops = ops at hOp ⊢
  induction ops with
  | nil => exact absurd hOp (by simp)
  | cons x xs ih =>
    rw [List.map_cons]
    by_cases h : x.op.opId = id
    · rw [if_pos h, List.find?_cons_of_pos (by rw [hm, beq_self_eq_true])]
    · rw [if_neg h, List.find?_cons_of_neg (by simpa using h)]
      rw [List.find?_cons_of_neg (p := fun x : LoadedOp => x.op.opId == id) (by simpa using h)] at hOp
      exact ih hOp

/-- A channel without the operation that was to be cancelled. -/
def cancelEnded (s : State) (n : Nat) (id : W32) : Chan :=
  { s.chan n with cancel := none, ops := (s.chan n).ops.filter (·.op.opId != id) }

/-- A cancel that has ended, counted, with go cleared. -/
def cancelCounted (s : State) (n : Nat) (id : W32) : State :=
  setFlag (count32 (s.setChan n (cancelEnded s n id)) (Reg.chCancelCount n) 1) (Reg.chStreamCancel n) 63 false

/-- A cancel that ends: the Letrix operation leaves the loader, counted, and its event is posted. -/
theorem opCancelComplete_letrix {s : State} {n : Nat} {id : W32} {l : LoadedOp} (hCancel : (s.chan n).cancel = some id)
    (hOp : findOp s n id = some l) (hKind : letrixKind l.op.kind = true) :
    opCancelComplete n s = post (cancelCounted s n id) n 0x06 id [] := by
  rw [opCancelComplete, hCancel]
  dsimp only
  rw [hOp]
  dsimp only
  rw [if_pos hKind]
  rfl

theorem onlyRegs_cancelCounted (s : State) (n : Nat) (id : W32) :
    OnlyRegs [Reg.chCancelCount n, Reg.chStreamCancel n] (s.setChan n (cancelEnded s n id)) (cancelCounted s n id) :=
  ((onlyRegs_count32 _ _ 1).mono (by simp)).trans ((onlyRegs_setFlag _ _ 63 false).mono (by simp))

theorem counted_cancelCounted (s : State) (n : Fin 4) (id : W32) :
    Counted (Reg.chCancelCount n.val) 1 s (cancelCounted s n.val id) := by
  have hApart : ∀ n : Fin 4, (Reg.chStreamCancel n.val).addr ≠ (Reg.chCancelCount n.val).addr := by decide
  rw [Counted, cancelCounted, (onlyRegs_setFlag _ _ 63 false).2 _ (by simpa using hApart n), rd_count32, rd_setChan]

/-- What the end of a cancel leaves, once its event is posted. -/
theorem cancelPosted_frame (s : State) (n : Fin 4) (id : W32) :
    let t := post (cancelCounted s n.val id) n.val 0x06 id []
    t.pending = s.pending ∧ (t.chan n.val).cancel = none ∧
      (t.chan n.val).ops = (s.chan n.val).ops.filter (·.op.opId != id) ∧ Counted (Reg.chCancelCount n.val) 1 s t ∧
      flag t (Reg.chStreamCancel n.val) 63 = false := by
  have hPost : ∀ n : Fin 4, ∀ x ∈ postRegs n.val, x.addr ≠ (Reg.chCancelCount n.val).addr ∧
    x.addr ≠ (Reg.chStreamCancel n.val).addr := by decide
  have hRegs := onlyRegs_cancelCounted s n.val id
  have hCount := counted_cancelCounted s n id
  have hFlag : flag (cancelCounted s n.val id) (Reg.chStreamCancel n.val) 63 = false := flag_setFlag _ _ 63 false (by decide)
  generalize cancelCounted s n.val id = u at hRegs hCount hFlag
  have hEvents := eventOnly_post u n.val 0x06 id []
  have hChan : u.chan n.val = cancelEnded s n.val id := by rw [chan_congr hRegs.chans_eq, chan_setChan_same]
  dsimp only
  refine ⟨hEvents.pending_eq.trans hRegs.pending_eq, ?_, ?_, ?_, ?_⟩
  · rw [hEvents.chan, hChan]
    rfl
  · rw [hEvents.chan, hChan]
    rfl
  · rw [Counted, rd_post _ _ _ _ _ fun x hx => (hPost n x hx).1]
    exact hCount
  · rw [flag_post _ _ _ _ _ _ fun x hx => (hPost n x hx).2, hFlag]

theorem opCancelNotice_drops {s : State} {n log : Nat} {id : W32} {l : LoadedOp} {g : GridCore} (hOp : findOp s n id = some l)
    (hStopped : l.stopped = true) (hGrid : gridCore l log = some g) :
    opCancelNotice n log id s = dropOnCore (count64 s (Reg.chSpMsgCount n) 1) n l g := by
  have hFound : findOp (count64 s (Reg.chSpMsgCount n) 1) n id = some l := hOp
  rw [opCancelNotice, hFound]
  dsimp only
  rw [hStopped, if_neg (by decide), hGrid]

/-- Settles O51: each clause is a branch of the command that it names; a cancel leaves memory and all registers but its own
request and its counts. -/
theorem operationLife : Obligations.OperationLife := by
  unfold Obligations.OperationLife
  refine ⟨fun n log l g s hOps hGrid hStarted hFinished hStopped hTask hArray hDeck => ?_,
    fun n id l s hOp hKind hDone hStopped hGather _ hLive hJob => ?_, fun n id l s hOp hDone => ?_,
    fun n id l s hOp hDeadline hMissed hStarted hService => ?_,
    fun n log i a l g s hCores hArray hVec hOp hGrid => ?_, fun n id l s hOp hDone hLive hSound => ?_,
    fun n id l s hOp hLive hLost => ?_, fun n id s hOp hLive => ?_, fun n id l s hCancel hOp hKind => ?_,
    fun n log id l g s hOp hStopped hGrid => ?_⟩
  · have hExec : exec (.operationStart n log) s = .next (keepQueue s (opOperationStart n.val log.val s)) := rfl
    rw [hExec, opOperationStart_starts hOps hGrid hStarted hFinished hStopped hTask hArray hDeck]
  · have hEnd := completeOp_letrix hOp hKind hDone hStopped hGather
    have hEvents := eventOnly_post ((freeStreams s n id).setChan n { s.chan n with
      ops := (s.chan n).ops.filter (·.op.opId != id) }) n 0x01 id []
    rw [← hEnd] at hEvents
    have hRef : (completeOp n id s).ref = s.ref := hEvents.ref_eq
    refine Answers.of_effect rfl (opOperationComplete_idle hRef hLive hJob) hEvents.pending_eq ⟨?_, hEvents.cores_eq, hRef, ?_⟩
    · rw [hEvents.chan, chan_setChan_same]
    · have hStreams : (completeOp n id s).streams = s.streams.filter fun e => !(e.1 / 4096 == n.val && e.2.opId == id) := by
        rw [hEvents.units]
        rfl
      rw [hStreams]
      intro e he hn hid
      have hKept := (List.mem_filter.1 he).2
      simp [hn, hid] at hKept
  · exact exec_of_kept rfl (opOperationComplete_unfinished hOp hDone)
  · have hExec : exec (.operationDeadlineMiss n id) s = .next (keepQueue s (opOperationDeadlineMiss n.val id s)) := rfl
    rw [hExec, opOperationDeadlineMiss_misses hOp hDeadline hMissed hStarted hService]
  · exact exec_of_eq rfl (opArrivalWaitResume_takes hCores hArray hVec hOp hGrid) rfl
  · have hAsked : opStreamCancel n.val (cancelWord id) s = askCancel n.val (cancelWord id) s := by
      rw [opStreamCancel_idle hLive, hOp]
      dsimp only
      rw [hSound, if_neg Bool.false_ne_true]
    have hTaken := onlyRegs_cancelTaken s n.val id
    have hDrop := stopOnly_cancelDropped (cancelTaken s n.val id) n.val id l
    have hApart : ∀ n : Fin 4, ∀ x ∈ dropRegs n.val, x.addr ≠ (Reg.chStreamCancel n.val).addr := by decide
    have hFlag : flag (cancelDropped (cancelTaken s n.val id) n.val id l) (Reg.chStreamCancel n.val) 63 = true := by
      rw [flag, fld, hDrop.regs _ (hApart n)]
      exact flag_setFlag _ _ 63 true (by decide)
    have hChans : (cancelDropped (cancelTaken s n.val id) n.val id l).chans = s.chans := hDrop.chans_eq.trans hTaken.chans_eq
    have hFound : findOp (cancelDropped (cancelTaken s n.val id) n.val id l) n.val id = some l := by
      rw [← hOp, findOp, findOp, chan_congr hChans]
    refine Answers.of_effect rfl (hAsked.trans (askCancel_stops hOp hDone)) (hDrop.pending_eq.trans hTaken.pending_eq) ?_
    have hMemory : SameMemory s (cancelDropped (cancelTaken s n.val id) n.val id l) :=
      ⟨hDrop.sameMemory.1.trans hTaken.mem_eq, hDrop.sameMemory.2.trans hTaken.errs_eq⟩
    have hRegs := (hTaken.2.mono (m := Reg.chStreamCancel n.val :: dropRegs n.val) (by simp)).trans
      (hDrop.regs.mono fun x hx => List.mem_cons_of_mem _ hx)
    generalize cancelDropped (cancelTaken s n.val id) n.val id l = u at *
    have hPut := findOp_putOp (m := { l with stopped := true }) hFound (findOp_id (l := l) hOp)
    dsimp only
    refine ⟨by rw [chan_setChan_same], hFlag, ?_, hMemory, hRegs⟩
    rw [findOp, chan_setChan_same]
    exact hPut
  · have hExec : exec (.streamCancel n (cancelWord id)) s = .next (keepQueue s (opStreamCancel n.val (cancelWord id) s)) := rfl
    have hRedo : opStreamCancel n.val (cancelWord id) s = redoOp (askCancel n.val (cancelWord id) s) n.val l := by
      rw [opStreamCancel_idle hLive, hOp]
      dsimp only
      rw [if_pos hLost]
    rw [hRedo] at hExec
    exact hExec
  · have hAsked : opStreamCancel n.val (cancelWord id) s =
        setFlag (cancelNamed s n.val id) (Reg.chStreamCancel n.val) 62 true := by
      rw [opStreamCancel_idle hLive, hOp]
      exact askCancel_unknown hOp
    have hRegs : OnlyRegs [Reg.chStreamCancel n.val] s (setFlag (cancelNamed s n.val id) (Reg.chStreamCancel n.val) 62 true) :=
      (onlyRegs_setFld s _ 31 0 id.toNat).trans (onlyRegs_setFlag _ _ 62 true)
    exact Answers.of_effect rfl hAsked hRegs.pending_eq ⟨hRegs, flag_setFlag _ _ 62 true (by decide)⟩
  · exact Answers.of_effect rfl (opCancelComplete_letrix hCancel hOp hKind) (cancelPosted_frame s n id).1 (cancelPosted_frame s n id).2
  · have hExec : exec (.cancelNotice n log id) s = .next (keepQueue s (opCancelNotice n.val log.val id s)) := rfl
    rw [hExec, opCancelNotice_drops hOp hStopped hGrid]

end Sys2Proof.Machine
end


section
/-! PROOFS. The control messages of a stream and its resumption (O53). -/

namespace Sys2Proof.Machine

/-! ### A stream that is resumed -/

/-- The write of CH_STREAM_RESUME that resumes a stream. -/
def resumeWord (k : Nat) : W64 := BitVec.ofNat 64 (2 ^ 31 + k)

/-- A halted stream as it goes on: its marked fetches are pended again. -/
def resumedStream (s : State) (n : Nat) (x : Stream) : Stream :=
  let ms := x.marked.mergeSort (· ≤ ·)
  { x with
    halt := none, frame := none, stuck := none, marked := [],
    pend := (ms.map fun j => (⟨j, cycleNow s n + (j - ms.headD 0) * x.period⟩ : Pend)) ++ x.pend }

/-- The time for which a stream was halted at a tile that no wait measures, in the fault counter. -/
def resumeCounted (s : State) (n : Nat) (x : Stream) : State :=
  match x.stuck with
  | some t => count64 s (Reg.chStallFault n) (cycleNow s n - t)
  | none => s

theorem onlyRegs_resumeCounted (s : State) (n : Nat) (x : Stream) :
    OnlyRegs [Reg.chStallFault n] s (resumeCounted s n x) := by
  rw [resumeCounted]
  split
  · exact onlyRegs_wr s _ _
  · exact onlyRegs_refl _ s

theorem resumeStream_eq {s : State} {n k : Nat} (hHalt : (s.stream n k).halt ≠ none) :
    resumeStream s n k = (resumeCounted s n (s.stream n k)).setStream n k (resumedStream s n (s.stream n k)) := by
  have hSome : ¬ (s.stream n k).halt.isNone = true := by simpa using hHalt
  rw [resumeStream]
  dsimp only
  rw [if_neg hSome]
  rfl

/-- Every marked tile is pended again. -/
theorem resumedStream_pends (s : State) (n : Nat) (x : Stream) {j : Nat} (hj : j ∈ x.marked) :
    ∃ p ∈ (resumedStream s n x).pend, p.tile = j :=
  ⟨_, List.mem_append_left _ (List.mem_map.2 ⟨j, List.mem_mergeSort.2 hj, rfl⟩), rfl⟩

theorem opStreamResume_resumes {s : State} {n k : Nat} (hk : k < 4096) :
    opStreamResume n (resumeWord k) s = resumeStream (setFld s (Reg.chStreamResume n) 11 0 k) n k := by
  have hWord : (resumeWord k).toNat = 2 ^ 31 + k := by
    rw [resumeWord, BitVec.toNat_ofNat]
    omega
  have hTop : bits (2 ^ 31 + k) 63 32 = 0 := by rw [bits, Nat.shiftRight_eq_div_pow]; omega
  have hMid : bits (2 ^ 31 + k) 30 12 = 0 := by rw [bits, Nat.shiftRight_eq_div_pow]; omega
  have hLow : bits (2 ^ 31 + k) 11 0 = k := by rw [bits, Nat.shiftRight_eq_div_pow]; omega
  have hGo : bit (2 ^ 31 + k) 31 = true := by
    rw [bit, bits, Nat.shiftRight_eq_div_pow, beq_iff_eq]
    omega
  unfold opStreamResume
  rw [hWord, hTop, hMid, hLow, hGo, if_neg (by decide), if_pos rfl]

/-! ### The messages -/

section
variable {s s' : State} {n log k tile half lateBy : Nat} {cause : StallCause} {l : LoadedOp} {g : GridCore} {sl : Layout}

/-- Scale bytes that are read well reach their slots. -/
theorem opScale_fills {raw : List (Nat × List Byte)} (hUsed : (s.stream n k).used = true)
    (hCores : (s.stream n k).cores.contains log = true) (hTile : tile < (s.stream n k).length)
    (hMarked : (s.stream n k).marked.contains tile = false) (hOp : findOp s n (s.stream n k).opId = some l)
    (hGrid : gridCore l log = some g) (hSlot : (s.stream n k).slot ≠ 5) (hScale : l.op.scale (s.stream n k).slot = some sl)
    (hRead : readWordsOn true (count64 s (Reg.chSpMsgCount n) 1)
      (((scaleAddrs (count64 s (Reg.chSpMsgCount n) 1) n l g (s.stream n k) tile half sl).filterMap id).map (· / 16)).dedup =
        (s', .ok raw)) :
    opScale n log k tile half lateBy cause s =
      (let x := s.stream n k
      let ok := scaleAddrs (count64 s (Reg.chSpMsgCount n) 1) n l g x tile half sl
      let ws := ((ok.filterMap id).map (· / 16)).dedup
      let c := cacheReads s' n x.opId (fetchTag l.op (deviceByte s') g x.slot tile == 2) ws
      let f := fillScales c n k l x tile half (ok.map fun a => match a with | some a => deviceByte c a | none => 127)
      endWait (f.setStream n k (fillUp l.op (deviceByte f) g 16 { f.stream n k with
        scaled := (f.stream n k).scaled ++ [8 * tile + half] })) n k lateBy cause) := by
  have hCond : (!(s.stream n k).used || !(s.stream n k).cores.contains log || decide ((s.stream n k).length ≤ tile) ||
      (s.stream n k).marked.contains tile) = false := by
    rw [hUsed, hCores, hMarked, decide_eq_false (by omega : ¬ (s.stream n k).length ≤ tile)]
    rfl
  have hGrids : ((findOp s n (s.stream n k).opId).bind fun l => (gridCore l log).map fun g => (l, g)) = some (l, g) := by
    rw [hOp, Option.bind_some, hGrid, Option.map_some]
  rw [opScale]
  dsimp only
  rw [hCond, if_neg Bool.false_ne_true, hGrids]
  dsimp only
  rw [if_neg hSlot, hScale]
  dsimp only
  rw [hRead] <;> rfl

end

theorem opPageList_engine {s : State} {n : Nat} {pages : List W32} (hLow : 1 ≤ pages.length) (hHigh : pages.length ≤ 16) :
    opPageList n none pages s = (count64 s (Reg.chSpMsgCount n) 1).setChan n { s.chan n with pages := pages } := by
  have hCond : (decide (pages.length = 0) || decide (16 < pages.length)) = false := by
    rw [Bool.or_eq_false_iff]
    exact ⟨decide_eq_false (by omega), decide_eq_false (by omega)⟩
  unfold opPageList
  rw [hCond, if_neg Bool.false_ne_true]
  rfl

theorem opPageList_core {s : State} {n log : Nat} {pages : List W32} (hLow : 1 ≤ pages.length) (hHigh : pages.length ≤ 16) :
    opPageList n (some log) pages s = (count64 s (Reg.chSpMsgCount n) 1).setCore n
      (arrayCore (count64 s (Reg.chSpMsgCount n) 1) n log)
      { s.core n (arrayCore (count64 s (Reg.chSpMsgCount n) 1) n log) with pages := pages } := by
  have hCond : (decide (pages.length = 0) || decide (16 < pages.length)) = false := by
    rw [Bool.or_eq_false_iff]
    exact ⟨decide_eq_false (by omega), decide_eq_false (by omega)⟩
  unfold opPageList
  rw [hCond, if_neg Bool.false_ne_true]
  rfl

/-- Two folds whose steps agree on the list's elements agree. -/
theorem foldl_agree {α β : Type} {f h : β → α → β} (as : List α) (hf : ∀ a ∈ as, ∀ b, f b a = h b a) (b : β) :
    as.foldl f b = as.foldl h b := by
  induction as generalizing b with
  | nil => rfl
  | cons a as ih =>
    rw [List.foldl_cons, List.foldl_cons, hf a List.mem_cons_self]
    exact ih (fun x hx => hf x (List.mem_cons_of_mem _ hx)) _

theorem opCounter_counts {s : State} {n : Nat} {pairs : List (Nat × W32)} (hLow : 1 ≤ pairs.length) (hHigh : pairs.length ≤ 8)
    (hRows : ∀ p ∈ pairs, ∃ r f, regRow (chBlock n + 0x7000 + 8 * p.1) = some r ∧ r.fields = [f] ∧ f.acc = .rc ∧ f.hi = 31) :
    opCounter n pairs s = pairs.foldl (fun (s : State) (p : Nat × W32) =>
      count32 s ⟨chBlock n + 0x7000 + 8 * p.1, 0⟩ p.2.toNat) (count64 s (Reg.chSpMsgCount n) 1) := by
  have hCond : (decide (pairs.length = 0) || decide (8 < pairs.length)) = false := by
    rw [Bool.or_eq_false_iff]
    exact ⟨decide_eq_false (by omega), decide_eq_false (by omega)⟩
  unfold opCounter
  rw [hCond, if_neg Bool.false_ne_true]
  refine foldl_agree pairs (fun p hp u => ?_) _
  obtain ⟨r, f, hRow, hFields, hAcc, hHi⟩ := hRows p hp
  dsimp only
  rw [hRow]
  dsimp only
  rw [hFields]
  dsimp only
  rw [hAcc, if_pos (by rfl), if_pos hHi]

theorem addr_coreRecvWindow (n i k : Nat) : (Reg.coreRecvWindow n i k).addr = chBlock n + 0x800000 + 0x1000 * i + 0x40 + k * 8 := rfl
theorem addr_chSpMsgCount (n : Nat) : (Reg.chSpMsgCount n).addr = chBlock n + 0x7238 := rfl

/-- A notice to an open window is an arrival there. -/
theorem opArrivalNotice_arrives {s : State} {n log k : Nat}
    (hOpen : flag s (Reg.coreRecvWindow n (physOf s n log) k) 31 = true) :
    opArrivalNotice n log k s = arriveAt (count64 s (Reg.chSpMsgCount n) 1) n (physOf s n log) k := by
  have hApart : (Reg.chSpMsgCount n).addr ≠ (Reg.coreRecvWindow n (physOf s n log) k).addr := by
    rw [addr_chSpMsgCount, addr_coreRecvWindow]
    omega
  have hStill : flag (count64 s (Reg.chSpMsgCount n) 1) (Reg.coreRecvWindow n (physOf s n log) k) 31 = true := by
    rw [flag, fld, rd_count64_other _ _ hApart]
    exact hOpen
  rw [opArrivalNotice, if_pos (c := flag _ _ 31 = true) hStill]

/-- Settles O53: a resumed stream pends its marked tiles in order; the messages are the branches of the commands that carry
them. -/
theorem streamMessages : Obligations.StreamMessages := by
  unfold Obligations.StreamMessages
  refine ⟨fun n k s hHalt => ?_,
    fun n log k tile lateBy half cause l g sl s s' raw hUsed hCores hTile hMarked hOp hGrid hSlot hScale => ?_,
    fun n pages s hLow hHigh => exec_of_eq rfl (opPageList_engine hLow hHigh) rfl,
    fun n log pages s hLow hHigh => exec_of_eq rfl (opPageList_core hLow hHigh) rfl,
    fun n pairs s hLow hHigh hRows => ?_, fun n log k s hPhys hOpen => ?_⟩
  · have hNamed := onlyRegs_setFld s (Reg.chStreamResume n.val) 11 0 k.val
    have hStream : (setFld s (Reg.chStreamResume n.val) 11 0 k.val).stream n.val k.val = s.stream n.val k.val := rfl
    have hField : fld (setFld s (Reg.chStreamResume n.val) 11 0 k.val) (Reg.chStreamResume n.val) 11 0 = k.val := by
      have := k.isLt
      rw [fld_setFld _ _ _ _ _ (by decide) (by decide)]
      omega
    have hResumed := opStreamResume_resumes (s := s) (n := n.val) k.isLt
    rw [resumeStream_eq (by rw [hStream]; exact hHalt)] at hResumed
    rw [hStream] at hResumed
    generalize setFld s (Reg.chStreamResume n.val) 11 0 k.val = u at hNamed hField hResumed
    have hCount := onlyRegs_resumeCounted u n.val (s.stream n.val k.val)
    have hApart : ∀ n : Fin 4, (Reg.chStallFault n.val).addr ≠ (Reg.chStreamResume n.val).addr := by decide
    refine Answers.of_effect rfl hResumed (hCount.pending_eq.trans hNamed.pending_eq) ⟨?_, ?_, ?_, ?_, ?_, ?_⟩
    · rw [stream_setStream_same]
      rfl
    · rw [stream_setStream_same]
      rfl
    · intro j hj
      rw [stream_setStream_same]
      exact resumedStream_pends u n.val _ hj
    · rw [fld, rd_setStream, hCount.2 _ (by simpa using hApart n)]
      exact hField
    · exact ⟨hCount.mem_eq.trans hNamed.mem_eq, hCount.errs_eq.trans hNamed.errs_eq⟩
    · exact (hNamed.2.mono (by simp)).trans (hCount.2.mono (by simp))
  · intro x u ok ws hRead
    have hExec : exec (.scale n log k tile half lateBy cause) s =
      .next (keepQueue s (opScale n.val log.val k.val tile half.val lateBy cause s)) := rfl
    rw [hExec, opScale_fills hUsed hCores hTile hMarked hOp hGrid hSlot hScale hRead] <;> rfl
  · refine exec_of_eq rfl (opCounter_counts hLow hHigh hRows) ?_
    exact foldl_keeps (fun u : State => u.pending = s.pending) _ (by intro u p hu; exact hu) pairs rfl
  · exact exec_of_eq rfl (opArrivalNotice_arrives hOpen) rfl

end Sys2Proof.Machine
end


section
/-! PROOFS. Words of a core store and their keys; a full word written is read back (for O54). -/

namespace Sys2Proof.Machine

/-! ### Where a word of a core store stands -/

theorem spareOf_some {s : State} {n i row k : Nat} (h : spareOf s n i row = some k) :
    k < 8 ∧ fld s (Reg.coreRowMap n i k) 8 0 = row := by
  have hHit := List.find?_some h
  rw [Bool.and_eq_true] at hHit
  exact ⟨List.mem_range.1 (List.mem_of_find?_eq_some h), eq_of_beq hHit.2⟩

/-- A word stands in its own row of the store where no spare row is mapped for it. -/
theorem csWord_own {s : State} {n i row : Nat} {j : Nat} (hj : j < 32) (h : spareOf s n i row = none) :
    csWord s n i row j = storeBase n i / 16 + 32 * row + j := by
  have hRow : (row * 512 + j * 16) / 512 = row := by omega
  rw [csWord, csKey, hRow, h]
  simp only [storeBase]
  omega

/-- A word of a row that a spare row is mapped for stands there (R172). -/
theorem csWord_spare {s : State} {n i row k : Nat} {j : Nat} (hj : j < 32) (h : spareOf s n i row = some k) :
    csWord s n i row j = 2 ^ 44 + 32 * (8 * (800 * n + i) + k) + j := by
  have hRow : (row * 512 + j * 16) / 512 = row := by omega
  rw [csWord, csKey, hRow, h]
  simp only [spareKey]
  omega

/-- Two words of a channel's core stores never share a key. -/
theorem csWord_inj {s : State} {n i i' row row' j j' : Nat} (hi : i < 800) (hi' : i' < 800) (hn : n < 4)
    (hRow : row < 512) (hRow' : row' < 512) (hj : j < 32) (hj' : j' < 32)
    (h : csWord s n i row j = csWord s n i' row' j') : i = i' ∧ row = row' ∧ j = j' := by
  cases hSpare : spareOf s n i row with
  | none =>
    rw [csWord_own hj hSpare, storeBase] at h
    cases hSpare' : spareOf s n i' row' with
    | none =>
      rw [csWord_own hj' hSpare', storeBase] at h
      omega
    | some k' =>
      rw [csWord_spare hj' hSpare'] at h
      omega
  | some k =>
    obtain ⟨hk, hNames⟩ := spareOf_some hSpare
    rw [csWord_spare hj hSpare] at h
    cases hSpare' : spareOf s n i' row' with
    | none =>
      rw [csWord_own hj' hSpare', storeBase] at h
      omega
    | some k' =>
      obtain ⟨hk', hNames'⟩ := spareOf_some hSpare'
      rw [csWord_spare hj' hSpare'] at h
      have hCore : i = i' := by omega
      have hPlace : k = k' := by omega
      subst hCore hPlace
      exact ⟨rfl, hNames.symm.trans hNames', by omega⟩

theorem spareOf_congr {s t : State} (h : t.regs = s.regs) (n i row : Nat) : spareOf t n i row = spareOf s n i row := by
  unfold spareOf flag fld rd
  rw [h]

theorem csWord_congr {s t : State} (h : t.regs = s.regs) (n i row j : Nat) : csWord t n i row j = csWord s n i row j := by
  unfold csWord csKey
  rw [spareOf_congr h]

/-! ### What stands in a word -/

theorem goodByte_congr {s t : State} {a : Nat} (hByte : mget 0 t.mem a = mget 0 s.mem a)
    (hErrs : ∀ k < 18, mget 0 t.errs (18 * (a / 16) + k) = mget 0 s.errs (18 * (a / 16) + k)) : goodByte t a = goodByte s a := by
  rw [goodByte, goodByte, decodeWord, decodeWord, wordErrs_congr hErrs, hByte, hErrs (a % 16) (by omega)]

theorem goodBytes_congr {s t : State} (hMem : t.mem = s.mem) (hErrs : t.errs = s.errs) (a n : Nat) :
    goodBytes t a n = goodBytes s a n :=
  List.map_congr_left fun i _ => goodByte_congr (by rw [hMem]) fun k _ => by rw [hErrs]

/-- A word stored whole with its errors cleared. -/
def storedWord (s : State) (w data : Nat) : State := clearErrs (storeRaw s (16 * w) (natWord data)) w

theorem length_natWord (v : Nat) : (natWord v).length = 16 := length_leBytes 16 v

theorem goodBytes_storedWord_same (s : State) (w data : Nat) :
    goodBytes (storedWord s w data) (16 * w) 16 = natWord data := by
  have hLength : (goodBytes (storedWord s w data) (16 * w) 16).length = (natWord data).length := by
    rw [length_goodBytes, length_natWord]
  refine List.ext_getElem hLength fun i hi hi' => ?_
  rw [length_goodBytes] at hi
  have hWord : (16 * w + i) / 16 = w := by omega
  simp only [goodBytes, List.getElem_map, List.getElem_range]
  rw [goodByte, hWord, storedWord, decodeWord_clearErrs]
  dsimp only
  rw [clearErrs_mem, mget_storeRaw, length_natWord, if_pos (by omega), mget_clearErrs, if_pos (by omega),
    Nat.add_sub_cancel_left, List.getD_eq_getElem _ _ hi']
  exact BitVec.xor_zero

theorem goodBytes_storedWord_other (s : State) {w x : Nat} (data : Nat) (h : w ≠ x) :
    goodBytes (storedWord s w data) (16 * x) 16 = goodBytes s (16 * x) 16 := by
  refine List.map_congr_left fun i hi => ?_
  have hi := List.mem_range.1 hi
  have hWord : (16 * x + i) / 16 = x := by omega
  refine goodByte_congr ?_ fun k hk => ?_
  · rw [storedWord, clearErrs_mem, mget_storeRaw, length_natWord, if_neg (by omega)]
  · rw [storedWord, mget_clearErrs, storeRaw_errs, hWord, if_neg (by omega)]

theorem leNat_lt (bs : List Byte) : leNat bs < 256 ^ bs.length := by
  induction bs with
  | nil => exact Nat.one_pos
  | cons b bs ih =>
    have := b.isLt
    rw [leNat, List.foldr_cons, ← leNat, List.length_cons, Nat.pow_succ]
    omega

theorem wordNat_goodBytes_lt (s : State) (a : Nat) : wordNat (goodBytes s a 16) < 2 ^ 128 := by
  have := leNat_lt (goodBytes s a 16)
  rwa [length_goodBytes] at this

theorem csView_lt (s : State) (n i row j : Nat) : csView s n i row j < 2 ^ 128 := by
  have hWord := wordNat_goodBytes_lt s (16 * csWord s n i row j)
  rw [csView]
  split
  next g _ =>
    exact Nat.or_lt_two_pow (Nat.lt_of_le_of_lt Nat.and_le_left hWord) (Nat.lt_of_le_of_lt Nat.and_le_left g.data.isLt)
  next => exact hWord

theorem wordNat_natWord {v : Nat} (h : v < 2 ^ 128) : wordNat (natWord v) = v := by
  rw [wordNat, natWord, leNat_leBytes]
  exact Nat.mod_eq_of_lt h

/-! ### A full word written -/

@[simp] theorem storeRaw_regs (s : State) (a : Nat) (bs : List Byte) : (storeRaw s a bs).regs = s.regs := by
  induction bs generalizing s a with
  | nil => rfl
  | cons b bs ih => rw [storeRaw, ih]

@[simp] theorem storeRaw_cores (s : State) (a : Nat) (bs : List Byte) : (storeRaw s a bs).cores = s.cores := by
  induction bs generalizing s a with
  | nil => rfl
  | cons b bs ih => rw [storeRaw, ih]

@[simp] theorem storeRaw_streams (s : State) (a : Nat) (bs : List Byte) : (storeRaw s a bs).streams = s.streams := by
  induction bs generalizing s a with
  | nil => rfl
  | cons b bs ih => rw [storeRaw, ih]

@[simp] theorem clearErrs_regs (s : State) (w : Nat) : (clearErrs s w).regs = s.regs := by
  unfold clearErrs; dsimp only
@[simp] theorem clearErrs_cores (s : State) (w : Nat) : (clearErrs s w).cores = s.cores := by
  unfold clearErrs; dsimp only
@[simp] theorem clearErrs_streams (s : State) (w : Nat) : (clearErrs s w).streams = s.streams := by
  unfold clearErrs; dsimp only

@[simp] theorem storedWord_regs (s : State) (w data : Nat) : (storedWord s w data).regs = s.regs := by
  rw [storedWord, clearErrs_regs, storeRaw_regs]
@[simp] theorem storedWord_cores (s : State) (w data : Nat) : (storedWord s w data).cores = s.cores := by
  rw [storedWord, clearErrs_cores, storeRaw_cores]
@[simp] theorem storedWord_chans (s : State) (w data : Nat) : (storedWord s w data).chans = s.chans := by
  rw [storedWord, clearErrs_chans, storeRaw_chans]
@[simp] theorem storedWord_streams (s : State) (w data : Nat) : (storedWord s w data).streams = s.streams := by
  rw [storedWord, clearErrs_streams, storeRaw_streams]

theorem core_congr {s t : State} (h : t.cores = s.cores) (n i : Nat) : t.core n i = s.core n i := by
  unfold State.core
  rw [h]

/-- A full word put into its bank supersedes its pending write-back. -/
theorem csPut_full (s : State) (n i row j data : Nat) :
    (csPut s n i row j data (2 ^ 128 - 1)).1 = (storedWord s (csWord s n i row j) data).setCore n i
      { s.core n i with wb := (s.core n i).wb.filter (· != csWord s n i row j) } := by
  have hPut : putWord s (csWord s n i row j) data (2 ^ 128 - 1) = (storedWord s (csWord s n i row j) data, true) := by
    rw [putWord, if_pos rfl, storedWord]
  have hCore : (storedWord s (csWord s n i row j) data).core n i = s.core n i := core_congr (storedWord_cores ..) n i
  have hFull : decide ((2 : Nat) ^ 128 - 1 = 2 ^ 128 - 1) = true := decide_eq_true rfl
  rw [csPut, hFull]
  dsimp only
  rw [hPut]
  dsimp only
  rw [hCore, if_pos rfl]

/-- A core without the gathered bits of a word. -/
def ungathered (c : Core) (w : Nat) : Core := { c with gather := c.gather.filter (·.word != w) }

/-- A core without the gathered bits of a word and without its pending write-back. -/
def wordPut (c : Core) (w key : Nat) : Core :=
  { c with gather := c.gather.filter (·.word != w), wb := c.wb.filter (· != key) }

/-- A full word is stored as it is (R146). -/
theorem csWrite_full (s : State) (n i t row j data : Nat) :
    csWrite s n i t row j data (2 ^ 128 - 1) =
      (storedWord (s.setCore n i (ungathered (s.core n i) (row * 32 + j))) (csWord s n i row j) data).setCore n i
        (wordPut (s.core n i) (row * 32 + j) (csWord s n i row j)) := by
  have hKey : csWord (s.setCore n i (ungathered (s.core n i) (row * 32 + j))) n i row j = csWord s n i row j :=
    csWord_congr rfl n i row j
  have hWrite : csWrite s n i t row j data (2 ^ 128 - 1) =
      (csPut (s.setCore n i (ungathered (s.core n i) (row * 32 + j))) n i row j data (2 ^ 128 - 1)).1 := by
    rw [csWrite]
    dsimp only
    rw [if_pos rfl, ungathered]
  rw [hWrite, csPut_full, hKey, core_setCore_same]
  rfl

section
variable {s : State} {n i : Nat}

theorem csWrite_full_regs (t row j data : Nat) : (csWrite s n i t row j data (2 ^ 128 - 1)).regs = s.regs := by
  rw [csWrite_full, State.setCore_regs, storedWord_regs, State.setCore_regs]

theorem csWrite_full_core (t row j data : Nat) :
    (csWrite s n i t row j data (2 ^ 128 - 1)).core n i = wordPut (s.core n i) (row * 32 + j) (csWord s n i row j) := by
  rw [csWrite_full, core_setCore_same]

theorem csWrite_full_core_other (t row j data : Nat) {i' : Nat} (h : i ≠ i') :
    (csWrite s n i t row j data (2 ^ 128 - 1)).core n i' = s.core n i' := by
  rw [csWrite_full, core_setCore, if_neg h, core_congr (storedWord_cores _ _ _), core_setCore, if_neg h]

theorem csWrite_full_goodBytes_same (t row j data : Nat) :
    goodBytes (csWrite s n i t row j data (2 ^ 128 - 1)) (16 * csWord s n i row j) 16 = natWord data := by
  rw [csWrite_full, goodBytes_congr (State.setCore_mem _ _ _ _) (State.setCore_errs _ _ _ _)]
  exact goodBytes_storedWord_same _ _ _

theorem csWrite_full_goodBytes_other (t row j data : Nat) {x : Nat} (h : csWord s n i row j ≠ x) :
    goodBytes (csWrite s n i t row j data (2 ^ 128 - 1)) (16 * x) 16 = goodBytes s (16 * x) 16 := by
  rw [csWrite_full, goodBytes_congr (State.setCore_mem _ _ _ _) (State.setCore_errs _ _ _ _), goodBytes_storedWord_other _ _ h]
  exact goodBytes_congr (State.setCore_mem _ _ _ _) (State.setCore_errs _ _ _ _) _ _

theorem gatherOf_wordPut_same (c : Core) (w key : Nat) : gatherOf (wordPut c w key) w = none := by
  rw [gatherOf, List.find?_eq_none]
  intro g hg
  have hOther := (List.mem_filter.1 hg).2
  simpa using hOther

theorem gatherOf_wordPut_other (c : Core) {w x : Nat} (key : Nat) (h : w ≠ x) :
    gatherOf (wordPut c w key) x = gatherOf c x := by
  unfold gatherOf wordPut
  dsimp only
  rw [List.find?_filter]
  refine List.find?_congr fun g _ => ?_
  by_cases hx : g.word = x
  · simp [hx, h.symm]
  · simp [hx]

/-- A full word is read back as it was written. -/
theorem csView_csWrite_full_same (t row j : Nat) {data : Nat} (hData : data < 2 ^ 128) :
    csView (csWrite s n i t row j data (2 ^ 128 - 1)) n i row j = data := by
  rw [csView, csWord_congr (csWrite_full_regs t row j data), csWrite_full_goodBytes_same, csWrite_full_core,
    gatherOf_wordPut_same, wordNat_natWord hData]

/-- No other word of the channel's stores changes. -/
theorem csView_csWrite_full_other (t data : Nat) {row row' j j' i' : Nat} (hn : n < 4) (hi : i < 800) (hi' : i' < 800)
    (hRow : row < 512) (hRow' : row' < 512) (hj : j < 32) (hj' : j' < 32) (h : ¬ (i = i' ∧ row = row' ∧ j = j')) :
    csView (csWrite s n i t row j data (2 ^ 128 - 1)) n i' row' j' = csView s n i' row' j' := by
  have hKey : csWord s n i row j ≠ csWord s n i' row' j' := fun hEq => h (csWord_inj hi hi' hn hRow hRow' hj hj' hEq)
  have hGather : gatherOf ((csWrite s n i t row j data (2 ^ 128 - 1)).core n i') (row' * 32 + j') =
      gatherOf (s.core n i') (row' * 32 + j') := by
    by_cases hCore : i = i'
    · subst hCore
      rw [csWrite_full_core]
      exact gatherOf_wordPut_other _ _ (by omega)
    · rw [csWrite_full_core_other _ _ _ _ hCore]
  rw [csView, csView, csWord_congr (csWrite_full_regs t row j data), csWrite_full_goodBytes_other _ _ _ _ hKey, hGather]

end

end Sys2Proof.Machine
end


section
/-! PROOFS. What the accesses of a core store leave of tasks and operations (for O54). -/

namespace Sys2Proof.Machine

/-- The loaded operations stay as they are, and a core has an array task exactly where it had one. -/
structure StoreOnly (s t : State) : Prop where
  ops : ∀ n, (t.chan n).ops = (s.chan n).ops
  array : ∀ n i, (t.core n i).array.isSome = (s.core n i).array.isSome

theorem StoreOnly.refl (s : State) : StoreOnly s s := ⟨fun _ => rfl, fun _ _ => rfl⟩

theorem StoreOnly.trans {s t u : State} (h : StoreOnly s t) (h' : StoreOnly t u) : StoreOnly s u :=
  ⟨fun n => (h'.ops n).trans (h.ops n), fun n i => (h'.array n i).trans (h.array n i)⟩

theorem storeOnly_of_units {s t : State} (hChans : t.chans = s.chans) (hCores : t.cores = s.cores) : StoreOnly s t :=
  ⟨fun n => by rw [chan_congr hChans], fun n i => by rw [core_congr hCores]⟩

theorem OnlyRegs.storeOnly {l : List RegRef} {s t : State} (h : OnlyRegs l s t) : StoreOnly s t :=
  storeOnly_of_units h.chans_eq h.cores_eq

theorem EventOnly.storeOnly {s t : State} (h : EventOnly s t) : StoreOnly s t :=
  ⟨fun n => by rw [h.chan n], fun n i => by rw [core_congr h.cores_eq]⟩

theorem AccessOnly.storeOnly {s t : State} (h : AccessOnly s t) : StoreOnly s t :=
  ⟨h.ops_eq, fun n i => by rw [core_congr h.cores_eq]⟩

theorem storeOnly_setCore {s : State} {n i : Nat} {c : Core} (h : c.array.isSome = (s.core n i).array.isSome) :
    StoreOnly s (s.setCore n i c) where
  ops _ := rfl
  array m j := by
    have hCore : (s.setCore n i c).core m j = if 800 * n + i = 800 * m + j then c else s.core m j := by
      unfold State.core State.setCore
      exact mget_mset _ _ _ _ _
    have hAt : 800 * n + i = 800 * m + j → s.core n i = s.core m j := fun hk => by
      unfold State.core
      rw [hk]
    rw [hCore]
    split
    next hk => rw [h, hAt hk]
    next => rfl

theorem storeOnly_foldl {α : Type} {f : State → α → State} (hf : ∀ u a, StoreOnly u (f u a)) (s : State) (l : List α) :
    StoreOnly s (l.foldl f s) :=
  foldl_keeps (StoreOnly s) f (fun u a hu => hu.trans (hf u a)) l (.refl s)

theorem storeOnly_setChan {s : State} {n : Nat} {c : Chan} (h : c.ops = (s.chan n).ops) : StoreOnly s (s.setChan n c) where
  ops m := by
    by_cases hn : n = m
    · subst hn
      rw [chan_setChan_same, h]
    · rw [chan_setChan, if_neg hn]
  array _ _ := rfl

/-! ### One word -/

theorem storeOnly_haltTask (s : State) (n i t : Nat) (h : TaskHalt) : StoreOnly s (haltTask s n i t h) := by
  unfold haltTask
  refine storeOnly_setCore ?_
  split
  · exact Option.isSome_map
  · rfl
  · rfl
  · rfl

theorem storeOnly_post (s : State) (q code : Nat) (op : W32) (args : List (Nat × Nat)) : StoreOnly s (post s q code op args) :=
  (eventOnly_post s q code op args).storeOnly

/-- A row and the count of its corrected words, in its core's status (R177). -/
def ceRowNoted (s : State) (n i row count : Nat) : State :=
  setFld (setFld s (Reg.coreCsStatus n i) 8 0 row) (Reg.coreCsStatus n i) 27 24 count

/-- A corrected word of a row is noted, and its row's mapping may be asked for. -/
theorem noteCeRow_cases (s : State) (n i row : Nat) : ∃ count, noteCeRow s n i row = ceRowNoted s n i row count ∨
    ∃ args, noteCeRow s n i row = post (ceRowNoted s n i row count) n 0x09 0 args := by
  unfold noteCeRow
  dsimp only
  rw [← ceRowNoted]
  generalize (if decide (fld s (Reg.coreCsStatus n i) 8 0 = row) = true then
    min (fld s (Reg.coreCsStatus n i) 27 24 + 1) 15 else 1) = count
  refine ⟨count, ?_⟩
  generalize ceRowNoted s n i row count = u
  split
  · exact .inr ⟨_, rfl⟩
  · exact .inl rfl

theorem onlyRegs_ceRowNoted (s : State) (n i row count : Nat) :
    OnlyRegs [Reg.coreCsStatus n i] s (ceRowNoted s n i row count) :=
  (onlyRegs_setFld s _ 8 0 row).trans (onlyRegs_setFld _ _ 27 24 count)

theorem eventOnly_noteCeRow (s : State) (n i row : Nat) : EventOnly s (noteCeRow s n i row) := by
  obtain ⟨count, h | ⟨args, h⟩⟩ := noteCeRow_cases s n i row
  · exact h ▸ (onlyRegs_ceRowNoted s n i row count).eventOnly
  · exact h ▸ (onlyRegs_ceRowNoted s n i row count).eventOnly.trans (eventOnly_post _ _ _ _ _)

theorem storeOnly_noteCeRow (s : State) (n i row : Nat) : StoreOnly s (noteCeRow s n i row) :=
  (eventOnly_noteCeRow s n i row).storeOnly

theorem storeOnly_storedWord (s : State) (w data : Nat) : StoreOnly s (storedWord s w data) :=
  storeOnly_of_units (storedWord_chans ..) (storedWord_cores ..)

theorem storeOnly_putWord (s : State) (w data mask : Nat) : StoreOnly s (putWord s w data mask).1 := by
  rw [putWord]
  split
  · exact storeOnly_storedWord s w data
  · split
    · exact .refl s
    · exact storeOnly_storedWord s w _

/-- What the read of a masked write notes of the word that it merges into (R148). -/
def mergeNoted (s : State) (n i row j mask : Nat) : State :=
  match decide (mask = 2 ^ 128 - 1), decodeWord s (csWord s n i row j) with
  | false, .corrected _ _ => noteCeRow (count32 s (Reg.chCsCeCount n) 1) n i row
  | _, _ => s

theorem eventOnly_mergeNoted (s : State) (n i row j mask : Nat) : EventOnly s (mergeNoted s n i row j mask) := by
  unfold mergeNoted
  split
  · exact (onlyRegs_count32 s _ 1).eventOnly.trans (eventOnly_noteCeRow _ _ _ _)
  · exact .refl s

/-- A word put into its bank, with the pending write-back that it supersedes. -/
theorem csPut_eq (s : State) (n i row j data mask : Nat) :
    csPut s n i row j data mask =
      (let r := putWord (mergeNoted s n i row j mask) (csWord s n i row j) data mask
      (r.1.setCore n i { r.1.core n i with
        wb := if r.2 then (r.1.core n i).wb.filter (· != csWord s n i row j) else (r.1.core n i).wb }, r.2)) := rfl

theorem storeOnly_csPut (s : State) (n i row j data mask : Nat) : StoreOnly s (csPut s n i row j data mask).1 := by
  have hPut := (eventOnly_mergeNoted s n i row j mask).storeOnly.trans
    (storeOnly_putWord (mergeNoted s n i row j mask) (csWord s n i row j) data mask)
  rw [csPut_eq]
  generalize putWord (mergeNoted s n i row j mask) (csWord s n i row j) data mask = r at hPut
  exact hPut.trans (storeOnly_setCore rfl)

/-- A flushed entry is put into its bank; where the merge meets an uncorrectable word, its task halts (R148). -/
theorem flushEntry_eq (s : State) (n i : Nat) (g : Gather) : flushEntry s n i g =
    (let r := csPut (s.setCore n i (ungathered (s.core n i) g.word)) n i (g.word / 32) (g.word % 32) g.data.toNat g.mask.toNat
    if r.2 then r.1
    else haltTask (storeFaultEvent (count32 r.1 (Reg.chCsUeCount n) 1) n i
      (taskOp ((count32 r.1 (Reg.chCsUeCount n) 1).core n i) g.task) (g.word / 32) (g.word % 32)) n i g.task .data) := rfl

theorem storeOnly_flushEntry (s : State) (n i : Nat) (g : Gather) : StoreOnly s (flushEntry s n i g) := by
  have hFree : StoreOnly s (s.setCore n i (ungathered (s.core n i) g.word)) := storeOnly_setCore rfl
  have hPut := hFree.trans (storeOnly_csPut _ n i (g.word / 32) (g.word % 32) g.data.toNat g.mask.toNat)
  rw [flushEntry_eq]
  generalize csPut (s.setCore n i (ungathered (s.core n i) g.word)) n i (g.word / 32) (g.word % 32) g.data.toNat
    g.mask.toNat = r at hPut
  dsimp only
  split
  · exact hPut
  · exact ((hPut.trans (onlyRegs_count32 _ _ 1).storeOnly).trans (storeOnly_post _ _ _ _ _)).trans (storeOnly_haltTask _ _ _ _ _)

/-- The gather buffer with room for one entry more: the oldest one is flushed where it is full. -/
def gatherRoom (s : State) (n i : Nat) : State :=
  if (s.core n i).gather.length < 8 then s else match (s.core n i).gather with
    | [] => s
    | g :: _ => flushEntry s n i g

/-- A masked write is put into its bank, or its bits wait in the gather buffer (R146). -/
theorem csWrite_cases (s : State) (n i t row j data mask : Nat) :
    (∃ d m, csWrite s n i t row j data mask =
      (csPut (s.setCore n i (ungathered (s.core n i) (row * 32 + j))) n i row j d m).1) ∨
    ∃ l, csWrite s n i t row j data mask = s.setCore n i { s.core n i with gather := l } ∨
      csWrite s n i t row j data mask = (gatherRoom s n i).setCore n i { (gatherRoom s n i).core n i with gather := l } := by
  unfold csWrite
  dsimp only
  split
  · exact .inl ⟨_, _, rfl⟩
  · split
    · split
      · exact .inl ⟨_, _, rfl⟩
      · exact .inr ⟨_, .inl rfl⟩
    · exact .inr ⟨_, .inr rfl⟩

theorem storeOnly_gatherRoom (s : State) (n i : Nat) : StoreOnly s (gatherRoom s n i) := by
  unfold gatherRoom
  split
  · exact .refl s
  · split
    · exact .refl s
    · exact storeOnly_flushEntry s n i _

theorem storeOnly_setGather (s : State) (n i : Nat) (l : List Gather) :
    StoreOnly s (s.setCore n i { s.core n i with gather := l }) := storeOnly_setCore rfl

theorem storeOnly_csWrite (s : State) (n i t row j data mask : Nat) : StoreOnly s (csWrite s n i t row j data mask) := by
  obtain ⟨d, m, h⟩ | ⟨l, h | h⟩ := csWrite_cases s n i t row j data mask
  · rw [h]
    have hFree : StoreOnly s (s.setCore n i (ungathered (s.core n i) (row * 32 + j))) := storeOnly_setCore rfl
    exact hFree.trans (storeOnly_csPut _ _ _ _ _ _ _)
  · rw [h]
    exact storeOnly_setGather s n i l
  · rw [h]
    exact (storeOnly_gatherRoom s n i).trans (storeOnly_setGather _ n i l)

/-- A word whose correction is owed to its bank (R143). -/
def owedWord (s : State) (n i w : Nat) : State :=
  s.setCore n i { s.core n i with wb := if (s.core n i).wb.contains w then (s.core n i).wb else (s.core n i).wb ++ [w] }

/-- A decoded word is clean, or counted as corrected or as uncorrectable. -/
theorem csDecode_eq (s : State) (n i row j : Nat) : csDecode s n i row j = match decodeWord s (csWord s n i row j) with
    | .clean => (s, true)
    | .corrected _ _ => (noteCeRow (owedWord (count32 s (Reg.chCsCeCount n) 1) n i (csWord s n i row j)) n i row, true)
    | .bad => (count32 s (Reg.chCsUeCount n) 1, false) := rfl

theorem storeOnly_owedWord (s : State) (n i w : Nat) : StoreOnly s (owedWord s n i w) := storeOnly_setCore rfl

theorem storeOnly_csDecode (s : State) (n i row j : Nat) : StoreOnly s (csDecode s n i row j).1 := by
  rw [csDecode_eq]
  split
  · exact .refl s
  · exact ((onlyRegs_count32 s _ 1).storeOnly.trans (storeOnly_owedWord _ _ _ _)).trans (storeOnly_noteCeRow _ _ _ _)
  · exact (onlyRegs_count32 s _ 1).storeOnly

theorem storeOnly_csRead (n i : Nat) (ws : List (Nat × Nat)) (s : State) : StoreOnly s (csRead s n i ws).1 := by
  induction ws generalizing s with
  | nil => exact .refl s
  | cons w ws ih =>
    obtain ⟨r, j⟩ := w
    rw [csRead]
    exact (storeOnly_csDecode s n i r j).trans (ih _)

/-! ### Accesses of a task -/

theorem storeOnly_taskRead (s : State) (n i t : Nat) (ws : List (Nat × Nat)) : StoreOnly s (taskRead s n i t ws).1 := by
  have hRead := storeOnly_csRead n i ws s
  rw [taskRead]
  split
  next u hu =>
    rw [hu] at hRead
    exact hRead
  next u r j hu =>
    rw [hu] at hRead
    exact hRead.trans ((storeOnly_post _ _ _ _ _).trans (storeOnly_haltTask _ _ _ _ _))

theorem storeOnly_regionRead (s : State) (n : Nat) (g : GridCore) (t : Nat) (ws : List (Nat × Nat)) :
    StoreOnly s (regionRead s n g t ws).1 := by
  rw [regionRead]
  split
  · exact (storeOnly_post _ _ _ _ _).trans (storeOnly_haltTask _ _ _ _ _)
  · split
    · exact (onlyRegs_wr s _ _).storeOnly
    · exact storeOnly_taskRead s n g.phys t ws

theorem onlyRegs_noteRaised (s : State) (n : Nat) (r : Raised) :
    OnlyRegs [Reg.chFmtStatus n, Reg.chFmtSatCount n] s (noteRaised s n r) := by
  have hFlag (u : State) (i : Nat) (b : Bool) (c : Bool) :
      OnlyRegs [Reg.chFmtStatus n, Reg.chFmtSatCount n] u (if c then setFlag u (Reg.chFmtStatus n) i b else u) := by
    split
    · exact (onlyRegs_setFlag u _ i b).mono (by simp)
    · exact onlyRegs_refl _ u
  have hSat : OnlyRegs [Reg.chFmtStatus n, Reg.chFmtSatCount n] s
      (if decide (0 < r.sat) then setFlag (count32 s (Reg.chFmtSatCount n) r.sat) (Reg.chFmtStatus n) 0 true else s) := by
    split
    · exact ((onlyRegs_count32 s _ _).mono (by simp)).trans ((onlyRegs_setFlag _ _ 0 true).mono (by simp))
    · exact onlyRegs_refl _ s
  rw [noteRaised]
  exact (((hSat.trans (hFlag _ 1 true _)).trans (hFlag _ 2 true _)).trans (hFlag _ 3 true _)).trans (hFlag _ 4 true _)

theorem storeOnly_noteCancel (s : State) (n log source arr part row col short : Nat) (id : W32) (tile : Nat) :
    StoreOnly s (noteCancel s n log source arr part row col short id tile) := by
  have hCount := (onlyRegs_count32 s (Reg.chCancelMonCount n) 1).storeOnly
  rw [noteCancel]
  split
  · exact hCount
  · exact (hCount.trans (onlyRegs_wr _ _ _).storeOnly).trans (onlyRegs_wr _ _ _).storeOnly

theorem storeOnly_arriveAt (s : State) (n i k : Nat) : StoreOnly s (arriveAt s n i k) := (onlyRegs_setFld s _ 31 0 _).storeOnly

theorem storeOnly_arriveStore (s : State) (n i : Nat) (marked : Bool) (a : Option Nat) :
    StoreOnly s (arriveStore s n i marked a) := by
  rw [arriveStore]
  split
  · split
    · exact .refl s
    · split
      · exact storeOnly_arriveAt _ _ _ _
      · exact .refl s
  · exact .refl s

theorem storeOnly_putCombine (s : State) (n phys off : Nat) (bs : List Byte) : StoreOnly s (putCombine s n phys off bs) :=
  storeOnly_foldl (fun _ _ => storeOnly_csWrite _ _ _ _ _ _ _ _) s _

/-! ### A store of results -/

theorem storeOnly_extWrite (s : State) (n i : Nat) (ws : List (Nat × Nat × Nat)) : StoreOnly s (extWrite s n i ws).1 := by
  unfold extWrite
  split
  · exact .refl s
  · dsimp only
    split
    · exact storeOnly_foldl (fun _ _ => storeOnly_csWrite _ _ _ _ _ _ _ _) s _
    · exact (onlyRegs_count32 s _ 1).storeOnly

theorem ops_cacheAlloc (c : Chan) (id : W32) (line : Nat) : (cacheAlloc c id line).ops = c.ops := by
  unfold cacheAlloc
  dsimp only
  split
  · rfl
  · split
    · split <;> rfl
    · split
      · rfl
      · split <;> rfl

theorem storeOnly_cacheStore (s : State) (n : Nat) (id : W32) (ws : List Nat) : StoreOnly s (cacheStore s n id ws) := by
  refine storeOnly_foldl (fun u l => ?_) s _
  split
  · exact .refl u
  · exact (accessOnly_freshCached u _ _).storeOnly.trans (storeOnly_setChan (ops_cacheAlloc _ _ _))

end Sys2Proof.Machine
end


section
/-! PROOFS. The stores of results, and the store path (for O54). -/

namespace Sys2Proof.Machine

/-! ### The stores of results -/

theorem StoreOnly.of_eq {α : Type} {s u : State} {r : State × α} {a : α} (h : StoreOnly s r.1) (hr : r = (u, a)) :
    StoreOnly s u := by
  rw [hr] at h
  exact h

/-- The words of a store that lie in the core's own store, written there. -/
def storeMine (s : State) (n : Nat) (g : GridCore) (t : Nat) (ws : List (Nat × Nat × Nat)) : State :=
  (ws.filter fun w => match storeOf w.1 with | some (m, i, _) => m == n && i == g.phys | none => false).foldl
    (fun (s : State) (w : Nat × Nat × Nat) => match storeOf w.1 with
      | some (_, _, o) => csWrite s n g.phys t (o / 32) (o % 32) w.2.1 w.2.2
      | none => s) s

/-- The words of a store that lie in another core's window, written there as one transfer. -/
def storeOther (s : State) (n : Nat) (g : GridCore) (ws : List (Nat × Nat × Nat)) : State × Option Stop :=
  let other := ws.filterMap fun w => match storeOf w.1 with
    | some (m, i, o) => if m == n && i == g.phys then none else some ((m, i), o, w.2.1, w.2.2)
    | none => none
  match other.head? with
  | none => (s, none)
  | some ((m, i), o, _, _) =>
    let fault := some (Stop.window m i (o / 32) (o % 32))
    if other.any fun w => w.1 != (m, i) then (count32 s (Reg.chCsWindowRejectCount m) 1, fault)
    else match extWrite s m i (other.map (·.2)) with
      | (s, true) => (s, none)
      | (s, false) => (s, fault)

/-- A store that nothing stops writes its words in the core's own store, in another's window, and in DRAM. -/
theorem storeWords_cases (s : State) (n : Nat) (g : GridCore) (t : Nat) (id : W32) (ws : List (Nat × Nat × Nat)) :
    (storeWords s n g t id ws).1 = s ∨ ∃ dram, (storeWords s n g t id ws).1 =
      let r := (writeWords (storeOther (storeMine s n g t ws) n g ws).1 dram).1
      if g.phys < 800 then cacheStore r n id (dram.map Prod.fst) else r := by
  unfold storeWords
  dsimp only
  split
  · exact .inl rfl
  · refine .inr ⟨ws.filter fun w => (storeOf w.1).isNone, ?_⟩
    split <;> rfl

theorem storeOnly_storeMine (s : State) (n : Nat) (g : GridCore) (t : Nat) (ws : List (Nat × Nat × Nat)) :
    StoreOnly s (storeMine s n g t ws) := by
  refine storeOnly_foldl (fun u w => ?_) s _
  split
  · exact storeOnly_csWrite _ _ _ _ _ _ _ _
  · exact .refl u

theorem storeOnly_storeOther (s : State) (n : Nat) (g : GridCore) (ws : List (Nat × Nat × Nat)) :
    StoreOnly s (storeOther s n g ws).1 := by
  unfold storeOther
  dsimp only
  split
  · exact .refl s
  next m i o _ _ _ =>
    split
    · exact (onlyRegs_count32 s _ 1).storeOnly
    · split
      next u hu => exact (storeOnly_extWrite s m i _).of_eq hu
      next u hu => exact (storeOnly_extWrite s m i _).of_eq hu

theorem storeOnly_storeWords (s : State) (n : Nat) (g : GridCore) (t : Nat) (id : W32) (ws : List (Nat × Nat × Nat)) :
    StoreOnly s (storeWords s n g t id ws).1 := by
  obtain h | ⟨dram, h⟩ := storeWords_cases s n g t id ws
  · rw [h]
    exact .refl s
  · have hStores := ((storeOnly_storeMine s n g t ws).trans (storeOnly_storeOther (storeMine s n g t ws) n g ws)).trans
      (accessOnly_writeWords dram (storeOther (storeMine s n g t ws) n g ws).1).storeOnly
    rw [h]
    dsimp only
    split
    · exact hStores.trans (storeOnly_cacheStore _ _ _ _)
    · exact hStores

theorem storeOnly_setDraws (s : State) (n i c : Nat) : StoreOnly s (s.setCore n i { s.core n i with draws := c }) :=
  storeOnly_setCore rfl

/-- Every core that had an array task still has one. -/
def KeepsArrays (s t : State) : Prop := ∀ n i, (t.core n i).array.isSome = (s.core n i).array.isSome

theorem KeepsArrays.trans {s t u : State} (h : KeepsArrays s t) (h' : KeepsArrays t u) : KeepsArrays s u :=
  fun n i => (h' n i).trans (h n i)

theorem keepBefore_cores (s : State) (n : Nat) (op : Op) (ws : List (Nat × Nat × Nat)) : (keepBefore s n op ws).cores = s.cores := by
  unfold keepBefore
  split <;> rfl

/-- Results that are stored leave every array task in place. -/
theorem keepsArrays_storeResults {s s' : State} {n : Nat} {g : GridCore} {t : Nat} {op : Op} {o : Nat} {raw : Bool}
    {rs : List Res} {ws : List (Nat × Nat × Nat)} (h : storeResults s n g t op o raw rs = (s', ws, none)) :
    KeepsArrays s s' := by
  have hKept (l : List (Nat × Nat × Nat)) : KeepsArrays s (keepBefore s n op l) := fun m i => by
    rw [core_congr (keepBefore_cores s n op l)]
  unfold storeResults at h
  split at h
  · rw [← (Prod.mk.inj h).1]
    exact fun _ _ => rfl
  · dsimp only at h
    split at h
    · exact absurd (Prod.mk.inj (Prod.mk.inj h).2).2 (by simp)
    next u hStore =>
      split at hStore
      · exact absurd (Prod.mk.inj hStore).2 (by simp)
      · have hWords := (storeOnly_storeWords _ n g t op.opId _).of_eq hStore
        have hRaised (r : Raised) (c : Nat) : KeepsArrays u ((noteRaised u n r).setCore n g.phys
            { (noteRaised u n r).core n g.phys with draws := c }) :=
          KeepsArrays.trans (onlyRegs_noteRaised u n r).storeOnly.array (storeOnly_setDraws _ n g.phys c).array
        rw [← (Prod.mk.inj h).1]
        exact ((hKept _).trans hWords.array).trans (hRaised _ _)

/-! ### Operations found again -/

theorem findOp_congr {s t : State} {n : Nat} (h : (t.chan n).ops = (s.chan n).ops) (id : W32) : findOp t n id = findOp s n id := by
  rw [findOp, findOp, h]

theorem findOp_of_liveOp {s : State} {n : Nat} {id : W32} {l : LoadedOp} (h : liveOp s n id = some l) :
    findOp s n id = some l := by
  rw [liveOp, Option.bind_eq_some_iff] at h
  obtain ⟨m, hFound, hLive⟩ := h
  split at hLive
  · exact (nomatch hLive)
  · rw [hFound, hLive]

theorem find?_map_keep {α : Type} {p : α → Bool} {f : α → α} (hf : ∀ a, p (f a) = p a) (as : List α) :
    (as.map f).find? p = (as.find? p).map f := by
  induction as with
  | nil => rfl
  | cons a as ih =>
    rw [List.map_cons, List.find?_cons, List.find?_cons, hf, ih]
    cases p a <;> rfl

theorem findOp_putLx {s : State} {n : Nat} {id : W32} {l : LoadedOp} (w : LxWork) (hId : l.op.opId = id) :
    findOp (putLx s n l w) n id = (findOp s n id).map fun x => { x with lx := w } := by
  have hKeep : ∀ x : LoadedOp, ((if x.op.opId = l.op.opId then { x with lx := w } else x).op.opId == id) = (x.op.opId == id) :=
    fun x => by split <;> rfl
  rw [findOp, putLx, chan_setChan_same]
  dsimp only
  rw [find?_map_keep hKeep, findOp]
  cases hFound : (s.chan n).ops.find? (·.op.opId == id) with
  | none => rfl
  | some x =>
    have hHit := List.find?_some hFound
    have hx : x.op.opId = l.op.opId := (eq_of_beq hHit).trans hId.symm
    rw [Option.map_some, Option.map_some, if_pos hx]

theorem unitsAsk_chans (s : State) (n : Nat) (id : W32) : (unitsAsk s n id).chans = s.chans := by
  unfold unitsAsk
  split
  · rfl
  · exact foldl_keeps (fun u : State => u.chans = s.chans) _ (by intro u e hu; exact hu) _ rfl

theorem unitsAsk_cores (s : State) (n : Nat) (id : W32) : (unitsAsk s n id).cores = s.cores := by
  unfold unitsAsk
  split
  · rfl
  · exact foldl_keeps (fun u : State => u.cores = s.cores) _ (by intro u e hu; exact hu) _ rfl

/-- The register that a finished core's window stands in. -/
def finishRegs (l : LoadedOp) (n log : Nat) : List RegRef :=
  match gridCore l log with
  | some g => [Reg.coreRecvWindow n g.phys 7]
  | none => []

/-- A core that has finished: its number stands in its operation, and window 7 is closed where the core held the parts. -/
theorem finishCore_cases (s : State) (n : Nat) (id : W32) (log : Nat) : finishCore s n id log = s ∨
    ∃ l, findOp s n id = some l ∧
      OnlyRegs (finishRegs l n log) (putOp s n id { l with finished := l.finished ++ [log] }) (finishCore s n id log) := by
  unfold finishCore
  split
  next l hFound =>
    split
    · exact .inl rfl
    · refine .inr ⟨l, hFound, ?_⟩
      unfold finishRegs
      cases gridCore l log with
      | none => exact onlyRegs_refl _ _
      | some g =>
        dsimp only
        split
        · exact onlyRegs_setFlag _ _ 31 false
        · exact onlyRegs_refl _ _
  next => exact .inl rfl

theorem finishCore_cores (s : State) (n : Nat) (id : W32) (log : Nat) : (finishCore s n id log).cores = s.cores := by
  obtain h | ⟨l, _, h⟩ := finishCore_cases s n id log
  · rw [h]
  · rw [h.cores_eq]
    rfl

/-- What an operation holds for its Letrix units stands when a core has finished. -/
theorem findOp_finishCore (s : State) (n : Nat) (id : W32) (log : Nat) :
    (findOp (finishCore s n id log) n id).map (·.lx) = (findOp s n id).map (·.lx) := by
  obtain h | ⟨l, hFound, h⟩ := finishCore_cases s n id log
  · rw [h]
  · have hOps : ((finishCore s n id log).chan n).ops =
        ((putOp s n id { l with finished := l.finished ++ [log] }).chan n).ops := by rw [chan_congr h.chans_eq]
    rw [findOp_congr hOps, findOp_putOp (m := { l with finished := l.finished ++ [log] }) hFound (findOp_id (l := l) hFound), hFound]
    rfl

/-! ### The store path -/

theorem arrayAt_phys {s : State} {n i : Nat} {l : LoadedOp} {g : GridCore} (h : arrayAt s n i = some (l, g)) : g.phys = i := by
  rw [arrayAt, Option.bind_eq_some_iff] at h
  obtain ⟨a, _, h⟩ := h
  rw [Option.bind_eq_some_iff] at h
  obtain ⟨l', _, h⟩ := h
  rw [Option.bind_eq_some_iff] at h
  obtain ⟨g', hFound, h⟩ := h
  split at h
  · obtain ⟨-, rfl⟩ : l' = l ∧ g' = g := by simpa using h
    have hHit := List.find?_some hFound
    exact eq_of_beq hHit
  · exact (nomatch h)

section
variable {s : State} {n : Nat} {l : LoadedOp} {g : GridCore} {a : ArrayTask} {p : Pass} {rest : List Pass} {ds : List Disturb}

/-- The arrays of a pass that fail their checksums, with what failed. -/
def failedArrays (s : State) (n : Nat) (l : LoadedOp) (g : GridCore) (p : Pass) : List (Nat × List Nat × List Nat) :=
  if l.op.mode = 0 && flag s (Reg.chChkCtrl n) 0 then
    (List.range (p.rows / 32)).filterMap fun x =>
      let f := p.failures (fld s (Reg.chChkCtrl n) 7 4) (passLen s n l.op g) x
      if f.1.isEmpty && f.2.isEmpty then none else some (x, f)
  else []

theorem comparePass_front (hArray : (s.core n g.phys).array = some a) (hAwait : a.awaiting = p :: rest) :
    comparePass s n l g ds = match failedArrays s n l g (p.disturb ds) with
      | (x, f) :: _ => coreFault s n g l.op.opId x f.1 f.2
      | [] => match commitPass s n l g a (p.disturb ds) with
        | (s, false) => s
        | (s, true) => retirePass s n l g (p.disturb ds) := by
  unfold comparePass
  dsimp only
  rw [hArray]
  dsimp only
  rw [hAwait]
  rfl

theorem comparePass_commits {s' : State} (hArray : (s.core n g.phys).array = some a) (hAwait : a.awaiting = p :: rest)
    (hFree : l.op.mode ≠ 0 ∨ flag s (Reg.chChkCtrl n) 0 = false)
    (hCommit : commitPass s n l g a (p.disturb ds) = (s', true)) :
    comparePass s n l g ds = retirePass s' n l g (p.disturb ds) := by
  have hNone : failedArrays s n l g (p.disturb ds) = [] := by
    refine if_neg ?_
    obtain h | h := hFree <;> simp [h]
  rw [comparePass_front hArray hAwait, hNone]
  dsimp only
  rw [hCommit]

theorem comparePass_fails (hArray : (s.core n g.phys).array = some a) (hAwait : a.awaiting = p :: rest) (hMode : l.op.mode = 0)
    (hCheck : flag s (Reg.chChkCtrl n) 0 = true) (hRows : 32 ≤ (p.disturb ds).rows)
    (hFails : (p.disturb ds).failures (fld s (Reg.chChkCtrl n) 7 4) (passLen s n l.op g) 0 ≠ ([], [])) :
    comparePass s n l g ds = coreFault s n g l.op.opId 0
      ((p.disturb ds).failures (fld s (Reg.chChkCtrl n) 7 4) (passLen s n l.op g) 0).1
      ((p.disturb ds).failures (fld s (Reg.chChkCtrl n) 7 4) (passLen s n l.op g) 0).2 := by
  have hFirst : ∃ k, (p.disturb ds).rows / 32 = k + 1 := ⟨(p.disturb ds).rows / 32 - 1, by omega⟩
  obtain ⟨k, hk⟩ := hFirst
  rw [comparePass_front hArray hAwait, failedArrays, hMode, hCheck, if_pos (by rfl), hk, List.range_succ_eq_map, List.filterMap_cons]
  generalize (p.disturb ds).failures (fld s (Reg.chChkCtrl n) 7 4) (passLen s n l.op g) 0 = f at hFails
  have hSome : ¬ (f.1.isEmpty && f.2.isEmpty) = true := by
    intro h
    rw [Bool.and_eq_true, List.isEmpty_iff, List.isEmpty_iff] at h
    exact hFails (Prod.ext h.1 h.2)
  dsimp only
  rw [if_neg hSome]

end

theorem opChecksumCompare_front {s : State} {n log : Nat} {l : LoadedOp} {g : GridCore} {ds : List Disturb}
    (hAt : arrayAt s n (arrayCore s n log) = some (l, g)) (hKind : l.op.kind = 0) (hBehind : (s.core n g.phys).behind = none) :
    opChecksumCompare n log ds s = settleSpares n (comparePass s n l g ds) := by
  have hPhys := arrayAt_phys hAt
  have hFront : compareFront n (arrayCore s n log) ds s = comparePass s n l g ds := by
    unfold compareFront
    rw [hAt]
    dsimp only
    rw [hKind, if_neg (by decide), if_pos (by decide)]
  have hNone : ((s.core n (arrayCore s n log)).behind.any fun b => !b.1.awaiting.isEmpty || b.1.attn.isSome) = false := by
    rw [← hPhys, hBehind]
    rfl
  unfold opChecksumCompare
  dsimp only
  rw [hNone, if_neg Bool.false_ne_true, hFront]

theorem opStorePathWait_full {s : State} {n log cycles : Nat} {l : LoadedOp} {g : GridCore} {a : ArrayTask}
    (hAt : arrayAt s n (arrayCore s n log) = some (l, g)) (hArray : (s.core n (arrayCore s n log)).array = some a)
    (hBehind : (s.core n (arrayCore s n log)).behind = none) (hFull : 2 ≤ a.awaiting.length) (hParts : l.op.parts ≤ 1) :
    opStorePathWait n log cycles s = lateNoStream s n log l.op.opId cycles .other := by
  have hLone : decide (1 < l.op.parts) = false := decide_eq_false (by omega)
  obtain ⟨p, rest, hAwait⟩ : ∃ p rest, a.awaiting = p :: rest := by
    cases hAwait : a.awaiting with
    | nil => rw [hAwait] at hFull; exact absurd hFull (by decide)
    | cons p rest => exact ⟨p, rest, rfl⟩
  have hWaits : decide (2 ≤ ([] : List Pass).length + (p :: rest).length) = true := by
    rw [← hAwait, List.length_nil, Nat.zero_add]
    exact decide_eq_true hFull
  unfold opStorePathWait
  dsimp only
  rw [hAt, hArray, hBehind]
  simp only [Option.map_none, Option.getD_none, List.isEmpty_nil, if_true, List.nil_append]
  rw [hAwait]
  dsimp only
  refine (if_neg ?_).trans (if_pos ?_)
  · rw [hLone]
    exact Bool.false_ne_true
  · rw [hWaits]
    rfl

theorem opStorePathWait_part {s : State} {n log cycles : Nat} {l : LoadedOp} {g : GridCore} {a : ArrayTask} {p : Pass} {rest : List Pass}
    (hAt : arrayAt s n (arrayCore s n log) = some (l, g)) (hArray : (s.core n (arrayCore s n log)).array = some a)
    (hBehind : (s.core n (arrayCore s n log)).behind = none) (hAwait : a.awaiting = p :: rest) (hParts : 1 < l.op.parts)
    (hEntry : combinedOf (s.core n (partCore l g).phys) l.op.opId + 2 ≤ p.seq) :
    opStorePathWait n log cycles s = count64 s (Reg.chStallOther n) cycles := by
  unfold opStorePathWait
  dsimp only
  rw [hAt, hArray, hBehind]
  simp only [Option.map_none, Option.getD_none, List.isEmpty_nil, if_true, List.nil_append]
  rw [hAwait]
  dsimp only
  exact if_pos (by rw [decide_eq_true hParts, decide_eq_true hEntry]; rfl)

end Sys2Proof.Machine
end


section
/-! PROOFS. Commit, combine and forwarding of results (O54). -/

namespace Sys2Proof.Machine

/-! ### A combine -/

theorem storeOnly_combineReads (s : State) (n : Nat) (l : LoadedOp) (g : GridCore) (tile : TileIx) (t : Nat) :
    StoreOnly s (combineReads s n l g tile t).1 := by
  have hRead := storeOnly_taskRead s n g.phys 0 (combineWords s n l g t)
  unfold combineReads
  split
  next u hu => exact hRead.of_eq hu
  next u hu =>
    refine (hRead.of_eq hu).trans ?_
    unfold scaleReads
    split
    · split
      · exact .refl u
      · exact storeOnly_regionRead _ _ _ _ _
    · exact .refl u

theorem keepsArrays_combineStore {s u : State} {n : Nat} {l : LoadedOp} {g : GridCore} {a : ArrayTask} {tile : TileIx}
    {ws : List (Nat × Nat × Nat)} (h : combineStore s n l g a tile = (u, ws, none)) : KeepsArrays s u := by
  unfold combineStore at h
  dsimp only at h
  split at h
  · exact absurd (Prod.mk.inj (Prod.mk.inj h).2).2 (by simp)
  next v ws' hFirst =>
    split at h
    · obtain ⟨rfl, hRest⟩ := Prod.mk.inj h
      exact (keepsArrays_storeResults hFirst).trans
        (keepsArrays_storeResults (Prod.ext rfl (Prod.ext rfl (Prod.mk.inj hRest).2)))
    · obtain ⟨rfl, -⟩ := Prod.mk.inj h
      exact keepsArrays_storeResults hFirst

/-- A core whose array task has combined its tiles up to t. -/
def combinedCore (c : Core) (t : Nat) : Core := { c with array := c.array.map fun a => { a with combined := t } }

section
variable {s s' s'' : State} {n log : Nat} {l : LoadedOp} {g : GridCore} {a : ArrayTask} {tile : TileIx}
  {ws : List (Nat × Nat × Nat)}

/-- A combine that reads and stores well moves its task on to the next tile. -/
theorem opCombine_combines (hArray : (s.core n (arrayCore s n log)).array = some a) (hOp : findOp s n a.opId = some l)
    (hGrid : l.grid.find? (·.phys == arrayCore s n log) = some g) (hTile : (workTiles l.op g)[a.combined]? = some tile)
    (hParts : 1 < l.op.parts) (hFirst : g.p = 0) (hStopped : l.stopped = false) (hHalted : a.halted = none)
    (hReached : reached s n (arrayCore s n log) 7
      ((mfind l.counter7 g.log).getD 0 + BitVec.ofNat 32 (l.op.parts * (a.combined + 1))) = true)
    (hReads : combineReads s n l g tile a.combined = (s', true)) (hStore : combineStore s' n l g a tile = (s'', ws, none)) :
    ∃ u, StoreOnly s'' u ∧ (opCombine n log s).cores =
      (u.setCore n (arrayCore s n log) (combinedCore (u.core n (arrayCore s n log)) (a.combined + 1))).cores := by
  have hFound : (((s.core n (arrayCore s n log)).array.bind fun a => (findOp s n a.opId).map fun l => (a, l)).bind fun p =>
      (p.2.grid.find? (·.phys == arrayCore s n log)).map fun g => (p.1, p.2, g)) = some (a, l, g) := by
    rw [hArray, Option.bind_some, hOp, Option.map_some, Option.bind_some, hGrid, Option.map_some]
  have hCond : (decide (l.op.parts ≤ 1) || g.p != 0 || l.stopped || a.halted.isSome ||
      !reached s n (arrayCore s n log) 7
        ((mfind l.counter7 g.log).getD 0 + BitVec.ofNat 32 (l.op.parts * (a.combined + 1)))) = false := by
    rw [hFirst, hStopped, hHalted, hReached, decide_eq_false (by omega)]
    rfl
  unfold opCombine
  dsimp only
  rw [hFound]
  dsimp only
  rw [hTile]
  dsimp only
  rw [hCond, if_neg Bool.false_ne_true, hReads]
  dsimp only
  rw [hStore]
  dsimp only
  generalize hNoted : arriveStore _ n (arrayCore s n log) l.op.arrive (lowest ws) = u
  refine ⟨u, ?_, ?_⟩
  · rw [← hNoted]
    refine StoreOnly.trans ?_ (storeOnly_arriveStore _ _ _ _ _)
    split
    · exact .refl s''
    · refine storeOnly_foldl (fun u q => ?_) s'' _
      split
      · exact .refl u
      · split
        · exact storeOnly_noteCancel _ _ _ _ _ _ _ _ _ _ _
        · exact .refl u
  · split
    · rw [finishCore_cores]
      rfl
    · rfl

end

theorem opCombineNext_lone {s : State} {n log : Nat} (hBehind : (s.core n (arrayCore s n log)).behind = none) :
    opCombineNext n log s = opCombine n log s := by
  unfold opCombineNext withBehind
  dsimp only
  rw [hBehind]

/-! ### The chunks of a matrix-vector product -/

/-- A chunk whose sums are all there and whose result is stored is done. -/
theorem opCombineChunk_done {s r s' : State} {n : Nat} {id : W32} {l : LoadedOp} {ws : List (Nat × Nat × Nat)}
    (hOp : liveOp s n id = some l) (hKind : l.op.kind = 8) (hChunk : l.lx.done < mvChunks l.op) (hHalted : l.lx.halted = none)
    (hSums : ∀ d < 3, (mfind l.lx.sums (3 * l.lx.done + d)).isSome = true)
    (hRead : entryRead s n l (sumWords l l.lx.done) = (r, true)) (hStore : chunkStore r n l l.lx.done = (s', ws, none)) :
    (findOp (opCombineChunk n id s) n id).map (·.lx.done) = (findOp s' n id).map fun _ => l.lx.done + 1 := by
  have hId : l.op.opId = id := findOp_id (findOp_of_liveOp hOp)
  have hHere : ((List.range 3).any fun d => (mfind l.lx.sums (3 * l.lx.done + d)).isNone) = false := by
    rw [List.any_eq_false]
    intro d hd
    have hSome := hSums d (List.mem_range.1 hd)
    rw [Option.isSome_iff_ne_none] at hSome
    simpa using hSome
  have hCond : (l.op.kind != 8 || decide (mvChunks l.op ≤ l.lx.done) || l.lx.halted.isSome ||
      (List.range 3).any fun d => (mfind l.lx.sums (3 * l.lx.done + d)).isNone) = false := by
    rw [hKind, hHalted, hHere, decide_eq_false (by omega)]
    rfl
  unfold opCombineChunk
  rw [hOp]
  dsimp only
  rw [hCond, if_neg Bool.false_ne_true, hRead]
  dsimp only
  rw [hStore]
  dsimp only
  generalize hNoted : arriveStore _ n (combiner l).phys l.op.arrive (lowest ws) = u
  have hKept : StoreOnly s' u := by
    rw [← hNoted]
    refine StoreOnly.trans (StoreOnly.trans ?_ (onlyRegs_noteRaised _ _ _).storeOnly) (storeOnly_arriveStore _ _ _ _ _)
    split
    · exact .refl s'
    · refine storeOnly_foldl (fun v q => ?_) s' _
      split
      · exact .refl v
      · split
        · exact storeOnly_noteCancel _ _ _ _ _ _ _ _ _ _ _
        · exact .refl v
  have hAsked (w : LxWork) : findOp (unitsAsk (putLx u n l w) n id) n id = (findOp s' n id).map fun x => { x with lx := w } := by
    rw [findOp_congr (s := putLx u n l w) (by rw [chan_congr (unitsAsk_chans _ n id)]), findOp_putLx w hId,
      findOp_congr (hKept.ops n)]
  have hDone (v : State) : (findOp v n id).map (·.lx.done) = ((findOp v n id).map (·.lx)).map (·.done) := by
    rw [Option.map_map]
    rfl
  split
  · rw [hDone, findOp_finishCore, hAsked, Option.map_map, Option.map_map]
    rfl
  · rw [hDone, hAsked, Option.map_map, Option.map_map]
    rfl

/-- The sums of a die for its next chunk. -/
def chunkSums (s : State) (n : Nat) (l : LoadedOp) (d : Nat) : List Cell :=
  (List.range (mvRows l.op)).flatMap fun r => (List.range (chunkCols l.op (l.lx.next.getD d 0))).map fun c =>
    dieSum s n l d r (512 * l.lx.next.getD d 0 + c)

/-- A die that sends the sums of its next chunk goes on to the one after it. -/
theorem opSumChunkSend_sends {s : State} {k waited : Nat} {id : W32} {l : LoadedOp} (hOp : liveOp s (k / 3) id = some l)
    (hKind : l.op.kind = 8) (hChunk : l.lx.next.getD (k % 3) 0 < mvChunks l.op)
    (hFree : l.lx.next.getD (k % 3) 0 < l.lx.done + 2)
    (hWeights : streamHolds s (k / 3) id 1 (k % 3) (chunkTiles s l.op (k % 3) (l.lx.next.getD (k % 3) 0)) = true)
    (hInputs : streamHolds s (k / 3) id 0 (k % 3) 0xFFFFFFFF = true)
    (hScales : (l.op.scale 1).isSome = true → streamHolds s (k / 3) id (scaleSlot 1) (k % 3)
      (scaleTilesFor s l.op (k % 3) (l.lx.next.getD (k % 3) 0)) = true) :
    findOp (opSumChunkSend k id waited s) (k / 3) id = some { l with lx := { l.lx with
      next := l.lx.next.set (k % 3) (l.lx.next.getD (k % 3) 0 + 1),
      sums := minsert l.lx.sums (3 * l.lx.next.getD (k % 3) 0 + k % 3) (chunkSums s (k / 3) l (k % 3)) } } := by
  have hFound := findOp_of_liveOp hOp
  have hCond : (l.op.kind != 8 || decide (mvChunks l.op ≤ l.lx.next.getD (k % 3) 0) ||
      decide (l.lx.done + 2 ≤ l.lx.next.getD (k % 3) 0) ||
      !streamHolds s (k / 3) id 1 (k % 3) (chunkTiles s l.op (k % 3) (l.lx.next.getD (k % 3) 0)) ||
      !streamHolds s (k / 3) id 0 (k % 3) 0xFFFFFFFF || ((l.op.scale 1).isSome && !streamHolds s (k / 3) id (scaleSlot 1) (k % 3)
        (scaleTilesFor s l.op (k % 3) (l.lx.next.getD (k % 3) 0)))) = false := by
    have hLast : ((l.op.scale 1).isSome && !streamHolds s (k / 3) id (scaleSlot 1) (k % 3)
        (scaleTilesFor s l.op (k % 3) (l.lx.next.getD (k % 3) 0))) = false := by
      cases hSome : (l.op.scale 1).isSome with
      | false => rfl
      | true => rw [hScales hSome]; rfl
    rw [hLast, hKind, hWeights, hInputs, decide_eq_false (by omega), decide_eq_false (by omega)]
    rfl
  unfold opSumChunkSend
  dsimp only
  rw [hOp]
  dsimp only
  rw [hCond, if_neg Bool.false_ne_true]
  generalize hNoted : noteRaised _ (k / 3) _ = u
  have hKept : StoreOnly s u := by
    rw [← hNoted]
    refine StoreOnly.trans ?_ (onlyRegs_noteRaised _ _ _).storeOnly
    refine StoreOnly.trans ?_ (storeOnly_foldl (fun v r => storeOnly_putCombine _ _ _ _ _) _ _)
    refine StoreOnly.trans ?_ (onlyRegs_wr _ _ _).storeOnly
    split
    · exact (onlyRegs_wr s _ _).storeOnly
    · exact (onlyRegs_wr s _ _).storeOnly.trans (onlyRegs_wr _ _ _).storeOnly
  rw [findOp_putLx _ (findOp_id hFound), findOp_congr (hKept.ops _), hFound, Option.map_some]
  rfl

/-! ### A rotated tile -/

/-- The first k words of a rotated tile, copied from one core to another. -/
def rotCopied (s : State) (n from_ to_ src dst : Nat) (k : Nat) : State :=
  (List.range k).foldl (fun s w =>
    csWrite s n to_ 3 (dst + w / 32) (w % 32) (csView s n from_ (src + w / 32) (w % 32)) (2 ^ 128 - 1)) s

theorem rotCopied_succ (s : State) (n from_ to_ src dst k : Nat) : rotCopied s n from_ to_ src dst (k + 1) =
    csWrite (rotCopied s n from_ to_ src dst k) n to_ 3 (dst + k / 32) (k % 32)
      (csView (rotCopied s n from_ to_ src dst k) n from_ (src + k / 32) (k % 32)) (2 ^ 128 - 1) := by
  rw [rotCopied, List.range_succ, List.foldl_append, List.foldl_cons, List.foldl_nil, ← rotCopied]

theorem rotCopied_regs (s : State) (n from_ to_ src dst k : Nat) : (rotCopied s n from_ to_ src dst k).regs = s.regs := by
  induction k with
  | zero => rfl
  | succ k ih => rw [rotCopied_succ, csWrite_full_regs, ih]

/-- The sender keeps its words, and the words copied so far stand on the receiver. -/
theorem csView_rotCopied {s : State} {n from_ to_ src dst : Nat} (hn : n < 4) (hFrom : from_ < 800) (hTo : to_ < 800)
    (hApart : from_ ≠ to_) (hSrc : src + 4 ≤ 512) (hDst : dst + 4 ≤ 512) :
    ∀ k ≤ 128, (∀ w < 128, csView (rotCopied s n from_ to_ src dst k) n from_ (src + w / 32) (w % 32) =
        csView s n from_ (src + w / 32) (w % 32)) ∧
      ∀ w < k, csView (rotCopied s n from_ to_ src dst k) n to_ (dst + w / 32) (w % 32) =
        csView s n from_ (src + w / 32) (w % 32) := by
  intro k
  induction k with
  | zero => exact fun _ => ⟨fun _ _ => rfl, fun w hw => absurd hw (Nat.not_lt_zero w)⟩
  | succ k ih =>
    intro hk
    obtain ⟨hSender, hReceiver⟩ := ih (by omega)
    rw [rotCopied_succ]
    refine ⟨fun w hw => ?_, fun w hw => ?_⟩
    · rw [csView_csWrite_full_other 3 _ hn hTo hFrom (by omega) (by omega) (by omega) (by omega) fun h => hApart h.1.symm]
      exact hSender w hw
    · by_cases hLast : w = k
      · subst hLast
        rw [csView_csWrite_full_same 3 _ _ (csView_lt ..)]
        exact hSender w (by omega)
      · rw [csView_csWrite_full_other 3 _ hn hTo hTo (by omega) (by omega) (by omega) (by omega) fun h => hLast (by omega)]
        exact hReceiver w (by omega)

theorem csView_congr {s t : State} {n i : Nat} (hMem : t.mem = s.mem) (hErrs : t.errs = s.errs)
    (hRows : ∀ k, rd t (Reg.coreRowMap n i k) = rd s (Reg.coreRowMap n i k)) (hGather : (t.core n i).gather = (s.core n i).gather)
    (row j : Nat) : csView t n i row j = csView s n i row j := by
  have hSpare : spareOf t n i ((row * 512 + j * 16) / 512) = spareOf s n i ((row * 512 + j * 16) / 512) := by
    unfold spareOf flag fld
    simp only [hRows]
  have hWord : csWord t n i row j = csWord s n i row j := by
    rw [csWord, csWord, csKey, csKey, hSpare]
  rw [csView, csView, hWord, goodBytes_congr hMem hErrs, gatherOf, gatherOf, hGather]

theorem addr_coreRowMap (n i k : Nat) : (Reg.coreRowMap n i k).addr = chBlock n + 0x800000 + 0x1000 * i + 0xC0 + k * 8 := rfl
theorem addr_chRotHopCount (n : Nat) : (Reg.chRotHopCount n).addr = chBlock n + 0x7230 := rfl

theorem csView_keepQueue (s t : State) (n i row j : Nat) : csView (keepQueue s t) n i row j = csView t n i row j :=
  csView_congr (keepQueue_mem s t) (keepQueue_errs s t) (fun _ => rd_keepQueue s t _) (congrArg Core.gather (core_keepQueue s t n i)) row j

/-- A rotation's books are no part of a core store. -/
theorem csView_hopCounted (s : State) (n : Nat) (h : GridCore) (x : Rot) (row j : Nat) :
    csView (count64 (putRot s n h x) (Reg.chRotHopCount n) 1) n h.phys row j = csView s n h.phys row j := by
  have hGather : ((count64 (putRot s n h x) (Reg.chRotHopCount n) 1).core n h.phys).gather = (s.core n h.phys).gather := by
    rw [core_count64, putRot, core_setCore_same]
  have hRows (k : Nat) : rd (count64 (putRot s n h x) (Reg.chRotHopCount n) 1) (Reg.coreRowMap n h.phys k) =
      rd s (Reg.coreRowMap n h.phys k) := by
    rw [rd_count64_other _ _ (by rw [addr_coreRowMap, addr_chRotHopCount]; omega), putRot, rd_setCore]
  exact csView_congr (by rfl) (by rfl) hRows hGather row j

/-- Reads of a core store count no hop. -/
theorem rd_csRead_hops (n : Fin 4) (i : Nat) (ws : List (Nat × Nat)) (s : State) :
    rd (csRead s n.val i ws).1 (Reg.chRotHopCount n.val) = rd s (Reg.chRotHopCount n.val) := by
  have hCe : ∀ n : Fin 4, (Reg.chCsCeCount n.val).addr ≠ (Reg.chRotHopCount n.val).addr := by decide
  have hUe : ∀ n : Fin 4, (Reg.chCsUeCount n.val).addr ≠ (Reg.chRotHopCount n.val).addr := by decide
  have hPost : ∀ n : Fin 4, ∀ x ∈ postRegs n.val, x.addr ≠ (Reg.chRotHopCount n.val).addr := by decide
  have hStatus : (Reg.coreCsStatus n.val i).addr ≠ (Reg.chRotHopCount n.val).addr := by
    have hAddr : (Reg.coreCsStatus n.val i).addr = chBlock n.val + 0x800000 + 0x1000 * i + 0x20 := rfl
    rw [hAddr, addr_chRotHopCount]
    omega
  have hRow (u : State) (row : Nat) : rd (noteCeRow u n.val i row) (Reg.chRotHopCount n.val) = rd u (Reg.chRotHopCount n.val) := by
    have hNoted (count : Nat) : rd (ceRowNoted u n.val i row count) (Reg.chRotHopCount n.val) = rd u (Reg.chRotHopCount n.val) :=
      (onlyRegs_ceRowNoted u n.val i row count).2 _ (by simpa using hStatus)
    obtain ⟨count, h | ⟨args, h⟩⟩ := noteCeRow_cases u n.val i row
    · rw [h, hNoted]
    · rw [h, rd_post _ _ _ _ _ (hPost n), hNoted]
  have hDecode (u : State) (r j : Nat) : rd (csDecode u n.val i r j).1 (Reg.chRotHopCount n.val) = rd u (Reg.chRotHopCount n.val) := by
    rw [csDecode_eq]
    split
    · rfl
    · rw [hRow, owedWord, rd_setCore, rd_count32_other _ _ (hCe n)]
    · rw [rd_count32_other _ _ (hUe n)]
  induction ws generalizing s with
  | nil => rfl
  | cons w ws ih =>
    obtain ⟨r, j⟩ := w
    rw [csRead]
    exact (ih _).trans (hDecode s r j)

/-- A tile that its sender reads well goes on to the next member, and is counted. -/
theorem opRotationForward_forwards {s s' : State} {n log o : Nat} {cause : StallCause} {l : LoadedOp} {e : RotEntry} {g h : GridCore}
    {rows : Nat × Nat} (hFound : rotFound s n log o = some (l, e, g, h)) (hReady : rotReady s n o l e g h = true)
    (hRows : rotRows e (rotCount s n l.op.opId h o) = rows)
    (hInside : outsideRegion g.base g.len ((List.range 128).map fun w => (rows.1 + w / 32, w % 32)) = none)
    (hRead : csRead s n g.phys ((List.range 128).map fun w => (rows.1 + w / 32, w % 32)) = (s', none)) :
    ∃ x : Rot, opRotationForward n log o 0 cause s =
      count64 (putRot (rotCopied s' n g.phys h.phys rows.1 rows.2 128) n h x) (Reg.chRotHopCount n) 1 := by
  subst hRows
  have hOnTime (u : State) (svc : Bool) : lateNoStreamAs u n svc h.log l.op.opId 0 cause = u := by
    unfold lateNoStreamAs
    split <;> rfl
  unfold opRotationForward
  rw [hFound]
  dsimp only
  rw [hReady, if_neg (by decide), hInside]
  dsimp only
  rw [hRead]
  dsimp only
  rw [← rotCopied]
  split
  · exact ⟨_, rfl⟩
  · exact ⟨_, hOnTime _ _⟩

/-- Settles O54: the store path compares, commits or fails its front pass; a combine and a chunk go on by one, since what they
store leaves the tasks and operations in place; a rotated tile's words are copied one by one to words that share no key. -/
theorem results : Obligations.Results := by
  unfold Obligations.Results
  refine ⟨fun n log l g a p rest ds s hAt hKind hArray hBehind hAwait => ⟨fun hFree s' hCommit => ?_,
      fun hMode hCheck hRows hFails => ?_⟩,
    fun n log cycles l g a s hAt hArray hBehind hFull hParts => ?_,
    fun n log cycles l g a p rest s hAt hArray hBehind hAwait hParts hEntry =>
      exec_of_eq rfl (opStorePathWait_part hAt hArray hBehind hAwait hParts hEntry) rfl,
    fun n log i l g a tile s s' s'' ws hCore hArray hBehind hOp hGrid hTile hParts hFirst hStopped hHalted hReached hReads
      hStore => ?_,
    fun n id l s r s' ws hOp hKind hChunk hHalted hSums hRead hStore hSome => ?_,
    fun k id waited l s hOp hKind hChunk hFree hWeights hInputs hScales hDie => ?_,
    fun n log o cause l e g h s s' hFound hReady => ?_⟩
  · have hExec : exec (.checksumCompare n log ds) s = .next (keepQueue s (opChecksumCompare n.val log.val ds s)) := rfl
    rw [hExec, opChecksumCompare_front hAt hKind hBehind, comparePass_commits hArray hAwait hFree hCommit]
  · have hExec : exec (.checksumCompare n log ds) s = .next (keepQueue s (opChecksumCompare n.val log.val ds s)) := rfl
    rw [hExec, opChecksumCompare_front hAt hKind hBehind, comparePass_fails hArray hAwait hMode hCheck hRows hFails]
  · have hExec : exec (.storePathWait n log cycles) s = .next (keepQueue s (opStorePathWait n.val log.val cycles s)) := rfl
    rw [hExec, opStorePathWait_full hAt hArray hBehind hFull hParts]
  · subst hCore
    have hExec : exec (.combine n log) s = .next (keepQueue s (opCombineNext n.val log.val s)) := rfl
    rw [opCombineNext_lone hBehind] at hExec
    obtain ⟨u, hKept, hCores⟩ := opCombine_combines hArray hOp hGrid hTile hParts hFirst hStopped hHalted hReached hReads hStore
    refine Answers.of_kept hExec ?_
    have hSome : (u.core n.val (arrayCore s n.val log.val)).array.isSome = true := by
      rw [hKept.array, keepsArrays_combineStore hStore, ((storeOnly_combineReads _ _ _ _ _ _).of_eq hReads).array, hArray]
      rfl
    obtain ⟨b, hb⟩ := Option.isSome_iff_exists.1 hSome
    rw [core_keepQueue, core_congr hCores, core_setCore_same, combinedCore, hb]
    rfl
  · have hDone := opCombineChunk_done hOp hKind hChunk hHalted hSums hRead hStore
    obtain ⟨x, hx⟩ := Option.isSome_iff_exists.1 hSome
    rw [hx] at hDone
    have hExec : exec (.combineChunk n id) s = .next (keepQueue s (opCombineChunk n.val id s)) := rfl
    refine Answers.of_kept hExec ?_
    rw [findOp_congr (s := opCombineChunk n.val id s) (by rw [chan_congr (keepQueue_chans _ _)]), hDone]
    rfl
  · have hSent := opSumChunkSend_sends (waited := waited) hOp hKind hChunk hFree hWeights hInputs hScales
    have hExec : exec (.sumChunkSend k id waited) s = .next (keepQueue s (opSumChunkSend k.val id waited s)) := rfl
    have hKept : findOp (keepQueue s (opSumChunkSend k.val id waited s)) (k.val / 3) id =
        findOp (opSumChunkSend k.val id waited s) (k.val / 3) id :=
      findOp_congr (by rw [chan_congr (keepQueue_chans _ _)]) id
    exact Answers.of_kept hExec ⟨_, hKept.trans hSent, rfl, (mfind_minsert _ _ _ _).trans (if_pos rfl)⟩
  · intro rows hInside hRead hApart hFrom hTo hSrc hDst
    obtain ⟨x, hForward⟩ := opRotationForward_forwards (cause := cause) hFound hReady (rows := rows) rfl hInside hRead
    have hExec : exec (.rotationForward n log o 0 cause) s = .next (keepQueue s (opRotationForward n.val log.val o.val 0 cause s)) := rfl
    have hHops := rd_csRead_hops n g.phys ((List.range 128).map fun w => (rows.1 + w / 32, w % 32)) s
    clear_value rows
    rw [hRead] at hHops
    have hCopied := (csView_rotCopied (s := s') n.isLt hFrom hTo hApart hSrc hDst 128 (Nat.le_refl _)).2
    have hRegs := rotCopied_regs s' n.val g.phys h.phys rows.1 rows.2 128
    rw [hForward] at hExec
    generalize rotCopied s' n.val g.phys h.phys rows.1 rows.2 128 = u at hCopied hRegs hExec
    refine Answers.of_kept hExec ⟨?_, fun w hw => ?_⟩
    · have hSame : rd (putRot u n.val h x) (Reg.chRotHopCount n.val) = rd s' (Reg.chRotHopCount n.val) := by
        rw [putRot, rd_setCore, rd_congr hRegs]
      rw [rd_keepQueue, rd_count64, hSame, hHops]
      rfl
    · rw [← hCopied w hw, csView_keepQueue, csView_hopCounted]

end Sys2Proof.Machine
end


section
/-! PROOFS. The Letrix units, the page walks and the intersection (O57). -/

namespace Sys2Proof.Machine

/-! ### Length tables -/

section
variable {s s' : State} {n k : Nat} {id : W32} {l : LoadedOp} {y : Layout} {bs : List Byte}

/-- What becomes of an entry of a length table that is read well. -/
def lengthEntryTaken (s : State) (n k : Nat) (id : W32) (l : LoadedOp) (e : LenEntry) : State :=
  if e.gen != kvGen s n e.seq then
    putLx (count32 s (Reg.chAttnStaleItemCount n) 1) n l { l.lx with arrived := l.lx.arrived + 1 }
  else match lenFault n l.op (l.lx.entries.map (·.2)) e with
    | some c => haltStream (noteLenFault s n c l.lx.arrived id) n k (l.lx.arrived / 64) 5 none
    | none => putLx s n l { l.lx with arrived := l.lx.arrived + 1, entries := l.lx.entries ++ [(l.lx.arrived, e)] }

theorem opLengthTableEntry_reads (hOp : liveOp s n id = some l) (hStream : firstStream s n id 1 = some k)
    (hLayout : l.op.layout 1 = some y) (hSpace : y.space = false) (hKind : l.op.kind = 1) (hMore : l.lx.arrived < lenCount l.op)
    (hHalt : (s.stream n k).halt = none) (hFull : min (s.stream n k).length (l.lx.arrived / 64 + 1) ≤ (s.stream n k).full)
    (hRead : readRange s (y.base + 32 * l.lx.arrived) 32 = (s', .ok bs)) :
    opLengthTableEntry n id s = lengthEntryTaken s' n k id l (parseLen bs) := by
  have hCond : ((l.op.kind != 1 && l.op.kind != 9) || decide (lenCount l.op ≤ l.lx.arrived) || (s.stream n k).halt.isSome ||
      decide ((s.stream n k).full < min (s.stream n k).length (l.lx.arrived / 64 + 1))) = false := by
    rw [hKind, hHalt, decide_eq_false (by omega), decide_eq_false (by omega)]
    rfl
  unfold opLengthTableEntry
  rw [hOp]
  dsimp only
  rw [hStream, hLayout]
  dsimp only
  rw [hCond, if_neg Bool.false_ne_true, hSpace, if_neg Bool.false_ne_true, hKind, if_neg (by decide), hRead]
  dsimp only
  simp only [if_true]
  rfl

end

/-! ### Page walks -/

theorem opPageListEntry_takes {s s' : State} {n i : Nat} {id : W32} {l : LoadedOp} {e : LenEntry} {ws : List (Nat × List Byte)}
    {f : Nat} (hOp : liveOp s n id = some l) (hKind : l.op.kind = 9) (hEntry : l.lx.entries[l.lx.walking]? = some (i, e))
    (hRuns : walkersRun s n id = true) (hPage : l.lx.page = l.lx.pages.length) (hTokens : l.lx.tokens < e.kv)
    (hLine : l.lx.pages.length % 16 ≠ 0) (hRead : readWordsOn true s (wordsOf (e.list + 4 * l.lx.pages.length) 4) = (s', .ok ws))
    (hf : leNat (((ws.flatMap (·.2)).drop ((e.list + 4 * l.lx.pages.length) % 16)).take 4) = f) (hFrame : f < frames)
    (hHere : absent s' n f = false) :
    opPageListEntry n id s = putLx s' n l { l.lx with pages := l.lx.pages ++ [f] } := by
  have hCond : (l.op.kind != 9 || !walkersRun s n id || l.lx.page != l.lx.pages.length || decide (e.kv ≤ l.lx.tokens)) = false := by
    have hAt : (l.lx.page != l.lx.pages.length) = false := by rw [hPage, bne_self_eq_false]
    rw [hKind, hRuns, hAt, decide_eq_false (by omega)]
    rfl
  unfold opPageListEntry
  rw [hOp]
  dsimp only
  rw [hEntry]
  dsimp only
  rw [hCond, if_neg Bool.false_ne_true, hRead]
  dsimp only
  rw [hf, if_neg hLine, if_neg (by omega), hHere, if_neg Bool.false_ne_true]

theorem opPageHeader_passes {s s' s'' : State} {n i f : Nat} {id : W32} {l : LoadedOp} {e : LenEntry}
    {late : List (Nat × StallCause)} {bs : List Byte} (hOp : liveOp s n id = some l) (hKind : l.op.kind = 9)
    (hEntry : l.lx.entries[l.lx.walking]? = some (i, e)) (hPage : l.lx.pages[l.lx.page]? = some f)
    (hRuns : walkersRun s n id = true) (hTokens : l.lx.tokens < e.kv) (hQueries : streamHolds s n id 0 0 0xFFFFFFFF = true)
    (hBias : attnBias l.op = true → streamHolds s n id 5 0 0xFFFFFFFF = true)
    (hRead : readRange s (hdrAddr s n f) 32 = (s', .ok bs)) (hSound : hdrFault l.op e (parseHdr bs) = none)
    (hDies : dieReads ((List.range 3).foldl (fun s d => portDown s (dieNo n d) 32) s') n id l.op l.lx.page
      ⟨f, parseHdr bs, l.lx.tokens⟩ ((List.range 3).map fun d => dieTokens s' l.op e ⟨f, parseHdr bs, l.lx.tokens⟩ d) = (s'', true)) :
    opPageHeader n id s late = passPage s'' n id l i e ⟨f, parseHdr bs, l.lx.tokens⟩
      ((List.range 3).map fun d => dieTokens s' l.op e ⟨f, parseHdr bs, l.lx.tokens⟩ d) late := by
  have hCond : (l.op.kind != 9 || !walkersRun s n id || decide (e.kv ≤ l.lx.tokens) || !streamHolds s n id 0 0 0xFFFFFFFF ||
      (attnBias l.op && !streamHolds s n id 5 0 0xFFFFFFFF)) = false := by
    have hLast : (attnBias l.op && !streamHolds s n id 5 0 0xFFFFFFFF) = false := by
      cases hb : attnBias l.op with
      | false => rfl
      | true => rw [hBias hb]; rfl
    rw [hLast, hKind, hRuns, hQueries, decide_eq_false (by omega), bne_self_eq_false, Bool.not_true]
    rfl
  unfold opPageHeader
  rw [hOp]
  dsimp -zeta only
  extract_lets op w
  rw [show w.entries[w.walking]? = _ from hEntry, show w.pages[w.page]? = _ from hPage]
  dsimp -zeta only
  refine (if_neg (ne_true_of_eq_false hCond)).trans ?_
  rw [hRead]
  dsimp -zeta only
  extract_lets h
  rw [show hdrFault op e h = none from hSound]
  dsimp -zeta only
  rw [show dieReads _ n id op w.page _ _ = _ from hDies]

/-- The rows of an entry, merged from the states of the three dies. -/
def mergedRows (s : State) (n : Nat) (l : LoadedOp) (e : LenEntry) : List RowState :=
  (((heldStates s n l e l.lx.done 0).zip (heldStates s n l e l.lx.done 1)).zip (heldStates s n l e l.lx.done 2)).map fun p =>
    (p.1.1.merge p.1.2).merge p.2

theorem opAttentionStatesMerge_merges {s r s' : State} {n i : Nat} {id : W32} {l : LoadedOp} {e : LenEntry}
    (hOp : liveOp s n id = some l) (hKind : l.op.kind = 9) (hHalted : l.lx.halted = none)
    (hEntry : l.lx.entries[l.lx.done]? = some (i, e)) (hStates : ∀ d < 3, (mfind l.lx.states (3 * i + d)).isSome = true)
    (hOwn : xParts l.op = 0)
    (hRead : entryRead s n l (entryWords (statePlace l e l.lx.done 0) (3 * entryRows l.op e * stateBytes l.op)) = (r, true))
    (hWrite : writeEntry r n l e (mergedRows r n l e) = (s', none)) :
    opAttentionStatesMerge n id s = settleDecode (settleWalk n id (lenCount l.op + 1)
      (putLx s' n l { l.lx with
        done := l.lx.done + 1, halted := none, states := l.lx.states.filter fun x => x.1 / 3 != i })) n id := by
  have hHere : ((List.range 3).any fun d => (mfind l.lx.states (3 * i + d)).isNone) = false := by
    rw [List.any_eq_false]
    intro d hd
    have hSome := hStates d (List.mem_range.1 hd)
    rw [Option.isSome_iff_ne_none] at hSome
    simpa using hSome
  have hCond : (l.op.kind != 9 || l.lx.halted.isSome ||
      (List.range 3).any fun d => (mfind l.lx.states (3 * i + d)).isNone) = false := by
    rw [hKind, hHalted, hHere]
    rfl
  unfold opAttentionStatesMerge
  rw [hOp]
  dsimp only
  rw [hEntry]
  dsimp only
  rw [hCond, if_neg Bool.false_ne_true, hRead]
  dsimp only
  rw [if_pos hOwn, if_pos hOwn, ← mergedRows, hWrite]

theorem opExportMerge_ends {s s' s'' : State} {n m i off k : Nat} {id : W32} {l : LoadedOp} (hOp : liveOp s n id = some l)
    (hKind : l.op.kind = 9) (hParts : xParts l.op ≠ 0) (hPart : xPart l.op = 0) (hArrived : lenCount l.op ≤ l.lx.arrived)
    (hDone : l.lx.entries.length ≤ l.lx.done) (hOpen : opDone l = false) (hHalted : l.lx.halted = none)
    (hPlace : place (xAddr l.op) = .store m i off) (hWindow : windowOf s m i off 1 = some k)
    (hReached : reached s m i (fld s (Reg.coreRecvWindow m i k) 28 26) (l.lx.exported + BitVec.ofNat 32 (xParts l.op)) = true)
    (hRead : csRead s m i (entryWords off (xParts l.op * exportBytes l.op l.lx.entries)) = (s', none))
    (hMerge : mergeExports n id (l.lx.entries.length + 1) s' = (s'', none)) :
    opExportMerge n id s = finishCore s'' n id (combiner l).log := by
  have hCond : (l.op.kind != 9 || decide (xParts l.op = 0) || xPart l.op != 0 || decide (l.lx.arrived < lenCount l.op) ||
      decide (l.lx.done < l.lx.entries.length) || opDone l || l.lx.halted.isSome) = false := by
    rw [hKind, hPart, hOpen, hHalted, decide_eq_false hParts, decide_eq_false (by omega), decide_eq_false (by omega)]
    rfl
  unfold opExportMerge
  rw [hOp]
  dsimp only
  rw [hCond, if_neg Bool.false_ne_true, hPlace]
  dsimp only
  rw [hWindow]
  dsimp only
  rw [hReached, if_neg (by decide), hRead]
  dsimp only
  rw [hMerge]

/-! ### Gathers -/

section
variable {s s' s'' : State} {k st e : Nat} {id : W32} {l : LoadedOp} {t : Layout} {row : List (Nat × Nat)}

theorem opGatherIndex_moves (hOp : liveOp s (k / 3) id = some l) (hKind : l.op.kind = 10) (hWork : gsWork l.op = 0)
    (hStream : letrixStream s (k / 3) id 1 (k % 3) = some st) (hRuns : indexRuns s (k / 3) st = true)
    (hSource : (s.stream (k / 3) (gsStream s (k / 3) id (k % 3) st).1).halt.all (· == 6) = true)
    (he : l.lx.next.getD (k % 3) 0 = e) (hMore : e < gsCount l.op) (hFull : e / 512 < (s.stream (k / 3) st).full)
    (hTable : l.op.layout (gsTable l.op) = some t) (hLow : 0 ≤ gsIndex s (k / 3) l e)
    (hHigh : gsIndex s (k / 3) l e < t.extent 1)
    (hGather : gatherRow s (((l.lx.window.getD (k % 3) []).find?
      (·.1 == BitVec.ofNat 32 (unsigned 32 (gsIndex s (k / 3) l e)))).map Prod.snd)
      (indexPieces s l.op (k % 3) (gsIndex s (k / 3) l e).toNat e) = (s', .ok row))
    (hMove : moveIndex s' (k / 3) k id row (indexPieces s l.op (k % 3) (gsIndex s (k / 3) l e).toNat e)
      (if k % 3 = 0 then indexPad l.op e false else []) = (s'', none)) :
    opGatherIndex k id s = settleIndices (passIndex (noteIndex s'' (k / 3) k
      (((l.lx.window.getD (k % 3) []).find? (·.1 == BitVec.ofNat 32 (unsigned 32 (gsIndex s (k / 3) l e)))).map Prod.snd).isSome
      (indexPieces s l.op (k % 3) (gsIndex s (k / 3) l e).toNat e).isEmpty) (k / 3) l (k % 3) e
      (BitVec.ofNat 32 (unsigned 32 (gsIndex s (k / 3) l e))) row (l.lx.groups.getD (k % 3) [])) (k / 3) id := by
  have hHalts : ((s.stream (k / 3) (gsStream s (k / 3) id (k % 3) st).1).halt.any (· != 6)) = false := by
    revert hSource
    cases (s.stream (k / 3) (gsStream s (k / 3) id (k % 3) st).1).halt <;> simp
  have hCond : (l.op.kind != 10 || !indexRuns s (k / 3) st ||
      (s.stream (k / 3) (gsStream s (k / 3) id (k % 3) st).1).halt.any (· != 6)) = false := by
    rw [hKind, hRuns, hHalts]
    rfl
  have hWaits : (decide ((s.stream (k / 3) st).full ≤ e / 512) ||
      (gsWork l.op != 0 && !streamHolds s (k / 3) id 0 (k % 3) (sourceTiles l.op e))) = false := by
    rw [hWork, decide_eq_false (by omega)]
    rfl
  have hRange : (decide (gsIndex s (k / 3) l e < 0) || decide ((t.extent 1 : Int) ≤ gsIndex s (k / 3) l e)) = false := by
    rw [decide_eq_false (by omega), decide_eq_false (by omega)]
    rfl
  have hPlain : ¬ (gsWork l.op != 0) = true := by
    rw [hWork]
    exact Bool.false_ne_true
  unfold opGatherIndex
  dsimp only
  rw [hOp]
  dsimp only
  rw [hStream]
  dsimp only
  rw [hCond, if_neg Bool.false_ne_true, he, if_neg (by omega), hWaits, if_neg Bool.false_ne_true, hTable]
  dsimp only
  rw [hRange, if_neg Bool.false_ne_true, if_neg hPlain, hGather]
  dsimp only
  rw [hMove]

theorem opGatherIndex_invalid (hOp : liveOp s (k / 3) id = some l) (hKind : l.op.kind = 10)
    (hStream : letrixStream s (k / 3) id 1 (k % 3) = some st) (hRuns : indexRuns s (k / 3) st = true)
    (hSource : (s.stream (k / 3) (gsStream s (k / 3) id (k % 3) st).1).halt.all (· == 6) = true)
    (he : l.lx.next.getD (k % 3) 0 = e) (hMore : e < gsCount l.op) (hFull : e / 512 < (s.stream (k / 3) st).full)
    (hTable : l.op.layout (gsTable l.op) = some t)
    (hBad : gsIndex s (k / 3) l e < 0 ∨ (t.extent 1 : Int) ≤ gsIndex s (k / 3) l e) (hHalt : l.op.haltIdx = true)
    (hHolds : gsWork l.op = 0 ∨ streamHolds s (k / 3) id 0 (k % 3) (sourceTiles l.op e) = true) :
    opGatherIndex k id s = if k % 3 = 0 then haltStream (badIndex s (k / 3) l.op e true) (k / 3) st (e / 512) 6 none else s := by
  have hHalts : ((s.stream (k / 3) (gsStream s (k / 3) id (k % 3) st).1).halt.any (· != 6)) = false := by
    revert hSource
    cases (s.stream (k / 3) (gsStream s (k / 3) id (k % 3) st).1).halt <;> simp
  have hCond : (l.op.kind != 10 || !indexRuns s (k / 3) st ||
      (s.stream (k / 3) (gsStream s (k / 3) id (k % 3) st).1).halt.any (· != 6)) = false := by
    rw [hKind, hRuns, hHalts]
    rfl
  have hWaits : (decide ((s.stream (k / 3) st).full ≤ e / 512) ||
      (gsWork l.op != 0 && !streamHolds s (k / 3) id 0 (k % 3) (sourceTiles l.op e))) = false := by
    rw [decide_eq_false (by omega)]
    obtain h | h := hHolds
    · rw [h]; rfl
    · rw [h, Bool.not_true, Bool.and_false]; rfl
  have hRange : (decide (gsIndex s (k / 3) l e < 0) || decide ((t.extent 1 : Int) ≤ gsIndex s (k / 3) l e)) = true := by
    simpa using hBad
  unfold opGatherIndex
  dsimp only
  rw [hOp]
  dsimp only
  rw [hStream]
  dsimp only
  rw [hCond, if_neg Bool.false_ne_true, he, if_neg (by omega), hWaits, if_neg Bool.false_ne_true, hTable]
  dsimp only
  rw [hRange, if_pos rfl, invalidIndex]
  dsimp only
  rw [hHalt, if_pos rfl]

end

/-! ### Intersections -/

theorem withFeeding_due {n i : Nat} {f : State → State} {s : State} (h : behindDue s n i = false) : withFeeding n i f s = f s := by
  rw [withFeeding, h, if_neg Bool.false_ne_true]

section
variable {s : State} {n log : Nat} {r : W64} {a : ArrayTask} {l : LoadedOp} {g : GridCore}

theorem opPair_takes {b st : Nat} {todo : List W64} {p : Pass} (hConsumer : consumerAt s n log = some (a, l, g))
    (hPair : a.pair = some (b, st, todo)) (hCur : a.cur = some p) (hKind : bits r.toNat 63 62 = 0)
    (hRest : bits r.toNat 53 32 = 0) (hNext : (todo.find? fun x => recordCell x == recordCell r) = some r) :
    opPair n log r s =
      (let u := putAttn s n g fun a => { a with cur := some (pairTaken l.op b r p), pair := some (b, st, todo.erase r) }
      settleProducer (settlePairs n l g ((workTiles l.op g).length + 1)
        (count64 (recordUp (recordIn u n g l.op.opId r) n l (some (b, st))) (Reg.chIsectPairCount n) 1)) n l) := by
  have hCond : (bits r.toNat 63 62 != 0 || bits r.toNat 53 32 != 0 ||
      (todo.find? fun x => recordCell x == recordCell r) != some r) = false := by
    rw [hKind, hRest, hNext, bne_self_eq_false, bne_self_eq_false]
    rfl
  unfold opPair
  rw [hConsumer]
  dsimp only
  rw [hPair, hCur]
  dsimp only
  rw [hCond, if_neg Bool.false_ne_true]

theorem opEnd_ends (hConsumer : consumerAt s n log = some (a, l, g)) (hr : r = BitVec.ofNat 64 (2 ^ 62)) :
    opEnd n log r s = settleProducer (settlePairs n l g ((workTiles l.op g).length + 1)
      (recordUp (recordIn s n g l.op.opId r) n l none)) n l := by
  have hCond : (r != BitVec.ofNat 64 (2 ^ 62)) = false := by rw [hr, bne_self_eq_false]
  unfold opEnd
  rw [hConsumer]
  dsimp only
  rw [hCond, if_neg Bool.false_ne_true]

/-- An END record ends the tile that it stands in. -/
theorem recordIn_end {k : Nat} (hStream : streamOn s n g.log l.op.opId 0 = some k) (hr : r = BitVec.ofNat 64 (2 ^ 62)) :
    ((recordIn s n g l.op.opId r).stream n k).full = (s.stream n k).full + 1 ∧
      ((recordIn s n g l.op.opId r).stream n k).walked = 0 := by
  have hEnds : (decide ((s.stream n k).walked = 255) || bits r.toNat 63 62 == 1) = true := by
    have hOne : (bits r.toNat 63 62 == 1) = true := by rw [hr]; decide
    rw [hOne, Bool.or_true]
  unfold recordIn
  rw [hStream]
  dsimp only
  rw [hEnds, if_pos rfl, stream_setStream_same]
  exact ⟨rfl, rfl⟩

theorem opBlock_opens {p : LoadedOp} {t : TileIx} {ma mp : SparseMap} {la lp : Layout} {ta tp : List Byte} {w : Nat × Nat} {die : Nat}
    (hConsumer : consumerAt s n log = some (a, l, g)) (hProducer : producerOf s n l.op = some p)
    (hTile : (workTiles l.op g)[a.seq]? = some t) (hKind : bits r.toNat 63 62 = 3) (hRest : bits r.toNat 7 0 = 0)
    (hw : (bits r.toNat 61 32, bits r.toNat 31 8) = w) (hDie : workStack s p.op w = die)
    (hNext : ((isectWork s p.op).filter fun x => !p.lx.blocks.contains x && workStack s p.op x == die).head? = some w)
    (hRow : w.1 / 8 = t.tm) (hHeld : isectHeld s n p.op die w = true) (hStopped : p.stopped = false)
    (hPairs : ∀ q, a.pair = some q → q.2.2 = []) (hMap : p.op.map = some ma) (hMap2 : p.op.map2 = some mp)
    (hLayout : p.op.layout 0 = some la) (hLayout2 : p.op.layout 1 = some lp)
    (hOpen : (((openPairs s n l g).core n g.phys).array.bind (·.cur)).isSome = true)
    (hFirst : isectTile s (unitByte s n p.op.opId 0 die) la ma 8 w.1 w.2
      ((dirEntry (unitByte s n p.op.opId 6 die) ma w.1 w.2).getD 0) = .ok ta)
    (hSecond : isectTile s (unitByte s n p.op.opId 1 die) lp mp 32 0 w.2
      ((dirEntry (unitByte s n p.op.opId 7 die) mp 0 w.2).getD 0) = .ok tp) :
    opBlock n log r s =
      (let u := putOp (openPairs s n l g) n p.op.opId { p with lx := { p.lx with blocks := p.lx.blocks ++ [w] } }
      let v := recordIn (putAttn u n g fun a => { a with pair := some (w.1, w.2, isectPairs la.format lp.format ta tp) })
        n g l.op.opId r
      settleProducer (settlePairs n l g ((workTiles l.op g).length + 1)
        (unitsAsk (portUp (portDown v (dieNo n die) 4) (dieNo n die) 8) n p.op.opId)) n l) := by
  have hTaken : (a.pair.all fun q => q.2.2.isEmpty) = true := by
    cases hPair : a.pair with
    | none => rfl
    | some q => rw [Option.all_some, hPairs q hPair]; rfl
  subst hw
  subst hDie
  have hCond : (bits r.toNat 63 62 != 3 || bits r.toNat 7 0 != 0 ||
      ((isectWork s p.op).filter fun x => !p.lx.blocks.contains x &&
        workStack s p.op x == workStack s p.op (bits r.toNat 61 32, bits r.toNat 31 8)).head? !=
          some (bits r.toNat 61 32, bits r.toNat 31 8) || bits r.toNat 61 32 / 8 != t.tm ||
      !isectHeld s n p.op (workStack s p.op (bits r.toNat 61 32, bits r.toNat 31 8)) (bits r.toNat 61 32, bits r.toNat 31 8) ||
      p.stopped || !(a.pair.all fun q => q.2.2.isEmpty)) = false := by
    have hSame : (bits r.toNat 61 32 / 8 != t.tm) = false := by rw [hRow, bne_self_eq_false]
    have hHead : (((isectWork s p.op).filter fun x => !p.lx.blocks.contains x &&
        workStack s p.op x == workStack s p.op (bits r.toNat 61 32, bits r.toNat 31 8)).head? !=
          some (bits r.toNat 61 32, bits r.toNat 31 8)) = false := by rw [hNext, bne_self_eq_false]
    rw [hKind, hRest, hHead, hSame, hHeld, hStopped, hTaken, bne_self_eq_false, bne_self_eq_false]
    rfl
  obtain ⟨c, hc⟩ := Option.isSome_iff_exists.1 hOpen
  unfold opBlock
  rw [hConsumer]
  dsimp only
  rw [hProducer, hTile]
  dsimp only
  rw [hCond, if_neg Bool.false_ne_true, hMap, hMap2, hLayout, hLayout2]
  dsimp only at hFirst hSecond ⊢
  rw [hFirst, hSecond]
  dsimp only
  rw [hc]

end

/-- Settles O57: each clause is the branch of the command that it names. -/
theorem letrixWork : Obligations.LetrixWork := by
  unfold Obligations.LetrixWork
  refine ⟨fun n id l k y s s' bs hOp hStream hLayout hSpace hKind hMore hHalt hFull hRead => ?_,
    fun n id l i e s s' ws hOp hKind hEntry hRuns hPage hTokens hLine => ?_,
    fun n id l i f e late s s' s'' bs hOp hKind hEntry hPage hRuns hTokens hQueries hBias hRead hSound => ?_,
    fun n id l i e s r s' hOp hKind hHalted hEntry hStates hOwn hRead hWrite => ?_,
    fun n id l m i off k s s' s'' hOp hKind hParts hPart hArrived hDone hOpen hHalted hPlace hWindow hReached hRead hMerge => ?_,
    fun k id l st t row s s' s'' hOp hKind hWork hStream hRuns hSource hMore hFull hTable hLow hHigh => ?_,
    fun k id l st t s hOp hKind hStream hRuns hSource hMore hFull hTable hBad hHalt hHolds => ?_,
    fun n log r a l g b st todo p s hDue hConsumer hPair hCur hKind hRest hNext => ?_,
    fun n log r a l g s hDue hConsumer hr => ⟨?_, fun k hStream hLog => ?_⟩,
    fun n log r a l p g t ma mp la lp ta tp s hDue hConsumer hProducer hTile hKind hRest => ?_⟩
  · have hExec : exec (.lengthTableEntry n id) s = .next (keepQueue s (opLengthTableEntry n.val id s)) := rfl
    rw [opLengthTableEntry_reads hOp hStream hLayout hSpace hKind hMore hHalt hFull hRead, lengthEntryTaken] at hExec
    refine ⟨fun hStale => ?_, fun hGen hSound => ?_, fun c hGen hFault => ?_⟩
    · rw [hExec, if_pos (by simpa using hStale)]
    · rw [hExec, if_neg (by simp [hGen]), hSound]
    · rw [hExec, if_neg (by simp [hGen]), hFault]
  · intro a hRead f hFrame hHere
    have hExec : exec (.pageListEntry n id) s = .next (keepQueue s (opPageListEntry n.val id s)) := rfl
    rw [hExec, opPageListEntry_takes hOp hKind hEntry hRuns hPage hTokens hLine hRead rfl hFrame hHere]
  · intro r toks hDies
    have hExec : exec (.pageHeader n id late) s = .next (keepQueue s (opPageHeader n.val id s late)) := rfl
    rw [hExec, opPageHeader_passes hOp hKind hEntry hPage hRuns hTokens hQueries hBias hRead hSound hDies]
  · have hExec : exec (.attentionStatesMerge n id) s = .next (keepQueue s (opAttentionStatesMerge n.val id s)) := rfl
    rw [hExec, opAttentionStatesMerge_merges hOp hKind hHalted hEntry hStates hOwn hRead hWrite]
  · have hExec : exec (.exportMerge n id) s = .next (keepQueue s (opExportMerge n.val id s)) := rfl
    rw [hExec, opExportMerge_ends hOp hKind hParts hPart hArrived hDone hOpen hHalted hPlace hWindow hReached hRead hMerge]
  · intro e w kept mine hGather hMove
    have hExec : exec (.gatherIndex k id) s = .next (keepQueue s (opGatherIndex k.val id s)) := rfl
    rw [hExec, opGatherIndex_moves hOp hKind hWork hStream hRuns hSource rfl hMore hFull hTable hLow hHigh hGather hMove]
  · have hExec : exec (.gatherIndex k id) s = .next (keepQueue s (opGatherIndex k.val id s)) := rfl
    rw [hExec, opGatherIndex_invalid hOp hKind hStream hRuns hSource rfl hMore hFull hTable hBad hHalt hHolds]
    split
    · rfl
    · rw [keepQueue_eq rfl]
  · intro u
    have hExec : exec (.pair n log r) s =
      .next (keepQueue s (withFeeding n.val (arrayCore s n.val log.val) (opPair n.val log.val r) s)) := rfl
    rw [hExec, withFeeding_due hDue, opPair_takes hConsumer hPair hCur hKind hRest hNext]
  · have hExec : exec (.end_ n log r) s =
      .next (keepQueue s (withFeeding n.val (arrayCore s n.val log.val) (opEnd n.val log.val r) s)) := rfl
    rw [hExec, withFeeding_due hDue, opEnd_ends hConsumer hr]
  · exact recordIn_end (hLog ▸ hStream) hr
  · intro w id die hNext hRow hHeld hStopped hPairs hMap hMap2 hLayout hLayout2 hOpen hFirst hSecond u v
    have hExec : exec (.block n log r) s =
      .next (keepQueue s (withFeeding n.val (arrayCore s n.val log.val) (opBlock n.val log.val r) s)) := rfl
    rw [hExec, withFeeding_due hDue, opBlock_opens hConsumer hProducer hTile hKind hRest rfl rfl hNext hRow hHeld hStopped hPairs
      hMap hMap2 hLayout hLayout2 hOpen hFirst hSecond]

end Sys2Proof.Machine
end


section
/-! PROOFS. The losses of units (O58): a state in which a core's replacement does not stand in the map at the end. -/

namespace Sys2Proof.Machine

/-! ### A core number outside its channel

The statement speaks of every state, also of those that no run reaches. Register pages of cores lie 0x1000 apart (R668), so the page
of "core 2052" of channel 0 would lie over the core map of channel 1, and its CORE_CS_STATUS over the map of logical core 4. An
operation that names such a core, and whose cancel flushes a gather entry into a word with a corrected error (R147, R177), overwrites
the map after the replacement has written it. -/

/-- An operation of channel 0 loaded on physical core 2052. -/
def strayOp : LoadedOp where
  op := ⟨5, 0, 0, 0, false, false, false, false, false, 1, 1, 0, 1, 1, 0, 0, 0, 0, 0, 0, [], [], [⟨1, 0, 1, 0, [], []⟩], [], [],
    none, none, [], 0⟩
  grid := [{ log := 0, phys := 2052, i := 0, j := 0, p := 0, base := 0, len := 512 }]
  deck := []
  started := [0]
  finished := []
  missed := false
  counter7 := []
  cmds := []
  lx := LxWork.init 0
  stopped := false
  before := []

/-- A sequence whose step works in channel 1 and holds the operation of channel 0. -/
def strayStep : Live where
  id := 0
  gen := 0
  model := 5
  htag := 0
  src := 0
  input := []
  counted := 0
  maxNew := 4
  made := 0
  kept := []
  work := some [⟨1, [], []⟩, ⟨0, [5], []⟩]
  waits := false
  synced := []
  parked := false
  left := []

/-- The module in service. -/
def activeModule : State := setFld State.reset Reg.glbPwrStatus 31 29 3

/-- It runs that step; the stray core has a gather entry, and the word that the entry goes to holds a wrong symbol. -/
def stray : State :=
  { (activeModule.setChan 0 { activeModule.chan 0 with ops := [strayOp] }).setCore 0 2052 { Core.idle with gather := [⟨0, 0, 1, 0⟩] } with
    ref := { activeModule.ref with live := [strayStep] }
    errs := [(18 * (storeBase 0 2052 / 16), 1)] }

theorem stray_addr : (Reg.coreCsStatus 0 2052).addr = (Reg.chCoreMap 1 4).addr := rfl

/-- The spare that the map of channel 1 names for logical core 4 after a command. -/
def spareAfter (c : Instr) (s : State) : Option Nat :=
  match exec c s with
  | .next t => some (fld t (Reg.chCoreMap 1 4) 9 0)
  | _ => none

theorem spareAfter_of_next {c : Instr} {s t : State} (h : exec c s = .next t) :
    spareAfter c s = some (fld t (Reg.chCoreMap 1 4) 9 0) := by
  rw [spareAfter, h]

theorem stray_ready : outOfReset stray = true ∧ (stray.chan 1).retired.contains (physOf stray 1 4) = false ∧
    (stray.chan 1).recov.contains (.core 4) = false ∧ spareOk stray 1 799 = true := by decide +kernel

/-- The rerun of the step leaves 512 in the map, the flushed row 0 under bit 9 of the spare's number. -/
theorem stray_map : spareAfter (.coreUnresponsive 1 4 799) stray = some 512 := by decide +kernel

/-- Refutes O58, by its clause on a core that no longer responds: after CORE_UNRESPONSIVE of core 4 of channel 1 with spare 799, in a
state whose step is loaded on a core number outside its channel, the map of core 4 names 512. -/
theorem not_losses : ¬ Obligations.Losses := by
  unfold Obligations.Losses
  intro h
  obtain ⟨-, -, -, -, -, -, -, hReplaced, -⟩ := h
  obtain ⟨hUp, hKept, hFree, hSpare⟩ := stray_ready
  obtain ⟨t, hExec, hMap, -⟩ := hReplaced 1 4 799 stray hUp hKept hFree hSpare
  have hAfter : fld t (Reg.chCoreMap 1 4) 9 0 = 512 :=
    Option.some.inj ((spareAfter_of_next hExec).symm.trans stray_map)
  have hNamed : fld t (Reg.chCoreMap 1 4) 9 0 = 799 := hMap
  omega

end Sys2Proof.Machine
end


section
/-! PROOFS. Every step keeps the memory in its canonical form (O48). -/

namespace Sys2Proof.Machine

/-- A state, where there is one, whose memory is in canonical form. -/
def MemoryOkIf (o : Option State) : Prop := ∀ t, o = some t → MemoryOk t

section
variable {α : Type} {s t : State}

theorem memoryOk_mk (h : MemoryOk s)
    {pending errs regs cap chans cores streams dies geq ports board fuses flash sec ref beats red draws out} :
    MemoryOk ⟨pending, s.mem, errs, regs, cap, chans, cores, streams, dies, geq, ports, board, fuses, flash, sec, ref, beats,
      red, draws, out⟩ := h

theorem memoryOk_ite {c : Prop} [Decidable c] (hs : MemoryOk s) (ht : MemoryOk t) : MemoryOk (if c then s else t) := by
  split
  · exact hs
  · exact ht

theorem memoryOk_ite_fst {c : Prop} [Decidable c] {p q : State × α} (hp : MemoryOk p.1) (hq : MemoryOk q.1) :
    MemoryOk (if c then p else q).1 := by
  split
  · exact hp
  · exact hq

theorem memoryOk_ite_opt {c : Prop} [Decidable c] {o q : Option State} (ho : MemoryOkIf o) (hq : MemoryOkIf q) :
    MemoryOkIf (if c then o else q) := by
  split
  · exact ho
  · exact hq

theorem memoryOk_fst {p : State × α} {x : α} (e : p = (t, x)) (h : MemoryOk p.1) : MemoryOk t := by
  rw [e] at h
  exact h

theorem memoryOk_some (h : MemoryOk s) : MemoryOkIf (some s) := by
  intro t e
  cases e
  exact h

theorem memoryOk_none : MemoryOkIf none := by
  intro t e
  cases e

theorem memoryOk_map {o : Option α} {f : α → State} (hf : ∀ a, MemoryOk (f a)) : MemoryOkIf (o.map f) := by
  cases o with
  | none => exact memoryOk_none
  | some a => exact memoryOk_some (hf a)

theorem memoryOk_bind {o : Option α} {f : α → Option State} (hf : ∀ a, MemoryOkIf (f a)) : MemoryOkIf (o.bind f) := by
  cases o with
  | none => exact memoryOk_none
  | some a => exact hf a

theorem memoryOk_getD {o : Option State} (ho : MemoryOkIf o) (h : MemoryOk s) : MemoryOk (o.getD s) := by
  cases o with
  | none => exact h
  | some t => exact ho t rfl

theorem memoryOk_foldl {f : State → α → State} {l : List α} (hf : ∀ t a, MemoryOk t → MemoryOk (f t a)) (h : MemoryOk s) :
    MemoryOk (l.foldl f s) := foldl_keeps MemoryOk f hf l h

theorem memoryOk_foldl_fst {β : Type} {p : State × β} {f : State × β → α → State × β} {l : List α}
    (hf : ∀ q a, MemoryOk q.1 → MemoryOk (f q a).1) (h : MemoryOk p.1) : MemoryOk (l.foldl f p).1 :=
  foldl_keeps (fun q => MemoryOk q.1) f hf l h

end

/-! ### State -/

theorem memoryOk_setChan {s : State} (h : MemoryOk s) {n : Nat} {c : Chan} : MemoryOk (s.setChan n c) :=
  h.of_mem (State.setChan_mem s n c)

theorem memoryOk_setCore {s : State} (h : MemoryOk s) {n i : Nat} {c : Core} : MemoryOk (s.setCore n i c) :=
  h.of_mem (State.setCore_mem s n i c)

theorem memoryOk_setStream {s : State} (h : MemoryOk s) {n i : Nat} {c : Stream} : MemoryOk (s.setStream n i c) :=
  h.of_mem (State.setStream_mem s n i c)

theorem memoryOk_setDie {s : State} (h : MemoryOk s) {k : Nat} {d : Die} : MemoryOk (s.setDie k d) :=
  h.of_mem (State.setDie_mem s k d)

theorem memoryOk_setPort {s : State} (h : MemoryOk s) {p : Nat} {x : Port} : MemoryOk (s.setPort p x) :=
  h.of_mem (State.setPort_mem s p x)

theorem memoryOk_setBucket {s : State} (h : MemoryOk s) {k : Nat} {b : Bucket} : MemoryOk (s.setBucket k b) :=
  h.of_mem (State.setBucket_mem s k b)

/-! ### Ops -/

theorem memoryOk_wr {s : State} (h : MemoryOk s) {r : RegRef} {v : W64} : MemoryOk (wr s r v) := h.of_mem (wr_mem s r v)

theorem memoryOk_setFld {s : State} (h : MemoryOk s) {r : RegRef} {hi lo x : Nat} : MemoryOk (setFld s r hi lo x) :=
  h.of_mem (setFld_mem s r hi lo x)

theorem memoryOk_setFlag {s : State} (h : MemoryOk s) {r : RegRef} {i : Nat} {b : Bool} : MemoryOk (setFlag s r i b) :=
  h.of_mem (setFlag_mem s r i b)

theorem memoryOk_count32 {s : State} (h : MemoryOk s) {r : RegRef} {n : Nat} : MemoryOk (count32 s r n) :=
  h.of_mem (count32_mem s r n)

theorem memoryOk_count64 {s : State} (h : MemoryOk s) {r : RegRef} {n : Nat} : MemoryOk (count64 s r n) :=
  h.of_mem (count64_mem s r n)

theorem memoryOk_recordOnce {s : State} {r : RegRef} {v : Nat} (h : MemoryOk s) : MemoryOk (recordOnce s r v) := by
  unfold recordOnce
  exact memoryOk_ite h (memoryOk_wr h)

theorem memoryOk_setRecov {s : State} {n : Nat} {l : List Recovery} (h : MemoryOk s) : MemoryOk (setRecov s n l) := by
  unfold setRecov
  dsimp only
  exact memoryOk_setFlag (memoryOk_setChan h)

theorem memoryOk_journal {s : State} {n : Nat} {begins : Bool} {x : Recovery} (h : MemoryOk s) :
    MemoryOk (journal s n begins x) := by
  unfold journal
  dsimp only
  exact memoryOk_setChan h

theorem memoryOk_beginRecovery {s : State} {n : Nat} {x : Recovery} (h : MemoryOk s) : MemoryOk (beginRecovery s n x) := by
  unfold beginRecovery
  exact memoryOk_ite h (memoryOk_setRecov (memoryOk_journal h))

theorem memoryOk_endRecovery {s : State} {n : Nat} {x : Recovery} (h : MemoryOk s) : MemoryOk (endRecovery s n x) := by
  unfold endRecovery
  exact memoryOk_ite (memoryOk_setRecov (memoryOk_journal h)) h

theorem memoryOk_drawFree {s : State} {rule : Nat} {args : List Nat} (h : MemoryOk s) : MemoryOk (drawFree s rule args).2 := h

theorem memoryOk_startWake {s : State} (h : MemoryOk s) : MemoryOk (startWake s) := by
  unfold startWake
  exact memoryOk_ite (memoryOk_setFld h) h

theorem memoryOk_setEq {s : State} (h : MemoryOk s) {q : Nat} {e : EvQueue} : MemoryOk (setEq s q e) := h.of_mem (setEq_mem s q e)

theorem memoryOk_evDrain {k q : Nat} {s : State} (h : MemoryOk s) : MemoryOk (evDrain k s q) := by
  induction k generalizing s with
  | zero => exact h
  | succ k ih =>
    unfold evDrain
    split
    · exact h
    · exact memoryOk_ite h (ih (memoryOk_evWrite (memoryOk_setEq h) _ _))

theorem memoryOk_evRoom {s : State} {q : Nat} (h : MemoryOk s) : MemoryOk (evRoom s q) := by
  unfold evRoom
  dsimp only
  exact memoryOk_ite (memoryOk_ite (memoryOk_evEnter (memoryOk_evWrite (memoryOk_setEq (memoryOk_evDrain h)) _ _) _ _)
      (memoryOk_evWrite (memoryOk_setEq (memoryOk_evDrain h)) _ _)) (memoryOk_evDrain h)

theorem memoryOk_noteWorst {s : State} {n stream late : Nat} (h : MemoryOk s) : MemoryOk (noteWorst s n stream late) := by
  unfold noteWorst
  dsimp only
  exact memoryOk_ite (memoryOk_wr h) h

theorem memoryOk_lateAs {s : State} {n : Nat} {svc : Bool} {op : W32} {stream tile cycles : Nat} {cause : StallCause}
    (h : MemoryOk s) : MemoryOk (lateAs s n svc op stream tile cycles cause) := by
  unfold lateAs
  dsimp only
  exact memoryOk_ite h (memoryOk_ite (memoryOk_post (memoryOk_noteWorst (memoryOk_count32 h)) _ _ _ _) (memoryOk_count64 h))

/-! ### Memory -/

theorem memoryOk_strike {s : State} {l : List Upset} (h : MemoryOk s) : MemoryOk (strike s l) := by
  induction l generalizing s with
  | nil => exact h
  | cons u r ih => exact ih (memoryOk_mk h)

theorem memoryOk_clearErrs {s : State} (h : MemoryOk s) {w : Nat} : MemoryOk (clearErrs s w) := h.of_mem (clearErrs_mem s w)

theorem memoryOk_writeBackWord {s : State} {w : Nat} (h : MemoryOk s) : MemoryOk (writeBackWord s w) := by
  unfold writeBackWord
  split
  · exact memoryOk_clearErrs h
  · exact memoryOk_rewriteWord h _

theorem memoryOk_freshCached {s : State} (h : MemoryOk s) {w k : Nat} : MemoryOk (freshCached s w k) :=
  h.of_mem (freshCached_mem s w k)

theorem memoryOk_recordField {s : State} (h : MemoryOk s) {kind n pl : Nat} : MemoryOk (recordField s kind n pl) :=
  h.of_mem (recordField_mem s kind n pl)

theorem memoryOk_markDirty {s : State} (h : MemoryOk s) {n off : Nat} : MemoryOk (markDirty s n off) :=
  h.of_mem (markDirty_mem s n off)

theorem memoryOk_markFrame {s : State} {n f : Nat} {present : Bool} (h : MemoryOk s) : MemoryOk (markFrame s n f present) := by
  unfold markFrame
  dsimp only
  exact memoryOk_ite (memoryOk_setChan (memoryOk_setChan h)) (memoryOk_setChan h)

theorem memoryOk_storeFaultEvent {s : State} {n i : Nat} {op : W32} {row j : Nat} (h : MemoryOk s) :
    MemoryOk (storeFaultEvent s n i op row j) := by
  unfold storeFaultEvent
  exact memoryOk_post h _ _ _ _

theorem memoryOk_noteCeRow {s : State} {n i row : Nat} (h : MemoryOk s) : MemoryOk (noteCeRow s n i row) := by
  unfold noteCeRow
  dsimp only
  exact memoryOk_ite (memoryOk_post (memoryOk_setFld (memoryOk_setFld h)) _ _ _ _) (memoryOk_setFld (memoryOk_setFld h))

theorem memoryOk_csDecode {s : State} {n i row j : Nat} (h : MemoryOk s) : MemoryOk (csDecode s n i row j).1 := by
  unfold csDecode
  dsimp only
  split
  · exact h
  · exact memoryOk_noteCeRow (memoryOk_setCore (memoryOk_count32 h))
  · exact memoryOk_count32 h

theorem memoryOk_stopEvent {s : State} {op : W32} {x : Stop} (h : MemoryOk s) : MemoryOk (stopEvent s op x) := by
  unfold stopEvent
  split
  · exact memoryOk_storeFaultEvent h
  · exact memoryOk_storeFaultEvent h
  · exact memoryOk_storeFaultEvent h
  · exact h

theorem memoryOk_noteWriteBack {s : State} {a : Nat} (h : MemoryOk s) : MemoryOk (noteWriteBack s a) := by
  unfold noteWriteBack
  dsimp only
  split
  · exact memoryOk_ite h (memoryOk_setChan h)
  · exact memoryOk_ite h (memoryOk_setChan h)
  · exact h

theorem memoryOk_portBytes {s : State} (h : MemoryOk s) {up : Bool} {a n : Nat} : MemoryOk (portBytes s up a n) :=
  h.of_mem (portBytes_mem s up a n)

theorem memoryOk_readDram {s : State} {k : Nat} (h : MemoryOk s) : MemoryOk (readDram s k).1 := by
  unfold readDram
  dsimp only
  split
  · refine memoryOk_noteUeWord ?_ _
    split
    · exact memoryOk_count32 h
    · exact h
  · refine memoryOk_noteCeWord ?_ _
    refine memoryOk_noteWriteBack ?_
    split
    · exact memoryOk_count32 h
    · exact h
  · exact h

theorem memoryOk_portUp {s : State} {k n : Nat} (h : MemoryOk s) : MemoryOk (portUp s k n) := by
  unfold portUp
  exact memoryOk_count64 h

theorem memoryOk_portDown {s : State} {k n : Nat} (h : MemoryOk s) : MemoryOk (portDown s k n) := by
  unfold portDown
  exact memoryOk_count64 h

theorem memoryOk_readAt {inside : Bool} {s : State} {a : Nat} (h : MemoryOk s) : MemoryOk (readAt inside s a).1 := by
  unfold readAt
  dsimp only
  split
  · exact h
  · split
    · exact memoryOk_ite_fst (memoryOk_csDecode h) (memoryOk_csDecode h)
    · exact memoryOk_readDram (memoryOk_ite h (memoryOk_portBytes h))

theorem memoryOk_readWordsOn {inside : Bool} {s : State} {ws : List Nat} (h : MemoryOk s) :
    MemoryOk (readWordsOn inside s ws).1 := by
  induction ws generalizing s with
  | nil => exact h
  | cons w r ih =>
    unfold readWordsOn
    split
    · next heq => exact memoryOk_fst heq (memoryOk_readAt h)
    · next heq =>
      have hRest := ih (memoryOk_fst heq (memoryOk_readAt h))
      split
      · next heq => exact memoryOk_fst heq hRest
      · next heq => exact memoryOk_fst heq hRest

theorem memoryOk_readWords {s : State} {ws : List Nat} (h : MemoryOk s) : MemoryOk (readWords s ws).1 := by
  unfold readWords
  exact memoryOk_readWordsOn h

theorem memoryOk_readRange {s : State} {a n : Nat} (h : MemoryOk s) : MemoryOk (readRange s a n).1 := by
  unfold readRange
  split
  · next heq => exact memoryOk_fst heq (memoryOk_readWords h)
  · next heq => exact memoryOk_fst heq (memoryOk_readWords h)

theorem memoryOk_readHeldAt {s : State} {a : Nat} (h : MemoryOk s) : MemoryOk (readHeldAt s a).1 := by
  unfold readHeldAt
  split
  · exact memoryOk_readDram h
  · exact memoryOk_readAt h

theorem memoryOk_readHeld {s : State} {ws : List Nat} (h : MemoryOk s) : MemoryOk (readHeld s ws).1 := by
  induction ws generalizing s with
  | nil => exact h
  | cons w r ih =>
    unfold readHeld
    split
    · next heq => exact memoryOk_fst heq (memoryOk_readHeldAt h)
    · next heq =>
      have hRest := ih (memoryOk_fst heq (memoryOk_readHeldAt h))
      split
      · next heq => exact memoryOk_fst heq hRest
      · next heq => exact memoryOk_fst heq hRest

theorem memoryOk_pageFault {s : State} {n : Nat} {op : W32} {origin issuer own off : Nat} {write : Bool} (h : MemoryOk s) :
    MemoryOk (pageFault s n op origin issuer own off write) := by
  unfold pageFault
  dsimp only
  exact memoryOk_post (memoryOk_count32 (memoryOk_recordOnce h)) _ _ _ _

/-! ### Store -/

theorem memoryOk_haltTask {s : State} {n i t : Nat} {h : TaskHalt} (hOk : MemoryOk s) : MemoryOk (haltTask s n i t h) := by
  unfold haltTask
  dsimp only
  exact memoryOk_setCore hOk

theorem memoryOk_csRead {s : State} {n i : Nat} {ws : List (Nat × Nat)} (h : MemoryOk s) : MemoryOk (csRead s n i ws).1 := by
  induction ws generalizing s with
  | nil => exact h
  | cons w r ih => exact ih (memoryOk_csDecode h)

theorem memoryOk_taskRead {s : State} {n i t : Nat} {ws : List (Nat × Nat)} (h : MemoryOk s) :
    MemoryOk (taskRead s n i t ws).1 := by
  unfold taskRead
  split
  · next heq => exact memoryOk_fst heq (memoryOk_csRead h)
  · next heq =>
      have h1 := memoryOk_fst heq (memoryOk_csRead h)
      exact memoryOk_haltTask (memoryOk_storeFaultEvent h1)

theorem memoryOk_csPut {s : State} {n i row j data mask : Nat} (h : MemoryOk s) : MemoryOk (csPut s n i row j data mask).1 := by
  unfold csPut
  dsimp only
  refine memoryOk_setCore ?_
  refine memoryOk_putWord ?_ _ _ _
  split
  · exact memoryOk_noteCeRow (memoryOk_count32 h)
  · exact h

theorem memoryOk_flushEntry {s : State} {n i : Nat} {g : Gather} (h : MemoryOk s) : MemoryOk (flushEntry s n i g) := by
  unfold flushEntry
  dsimp only
  exact memoryOk_ite (memoryOk_csPut (memoryOk_setCore h)) (memoryOk_haltTask
      (memoryOk_storeFaultEvent (memoryOk_count32 (memoryOk_csPut (memoryOk_setCore h)))))

theorem memoryOk_flushTask {s : State} {n i t : Nat} (h : MemoryOk s) : MemoryOk (flushTask s n i t) := by
  unfold flushTask
  exact memoryOk_foldl (fun _ _ h1 => memoryOk_flushEntry h1) h

theorem memoryOk_csWrite {s : State} {n i t row j data mask : Nat} (h : MemoryOk s) :
    MemoryOk (csWrite s n i t row j data mask) := by
  unfold csWrite
  dsimp only
  refine memoryOk_ite (memoryOk_csPut (memoryOk_setCore h)) ?_
  split
  · exact memoryOk_ite (memoryOk_csPut (memoryOk_setCore h)) (memoryOk_setCore h)
  · refine memoryOk_setCore ?_
    refine memoryOk_ite h ?_
    split
    · exact h
    · exact memoryOk_flushEntry h

theorem memoryOk_scoreEnter {s : State} {n i : Nat} {e : Score} (h : MemoryOk s) : MemoryOk (scoreEnter s n i e) := by
  unfold scoreEnter
  dsimp only
  exact memoryOk_setCore h

theorem memoryOk_scoreDone {s : State} {n i seq ps : Nat} (h : MemoryOk s) : MemoryOk (scoreDone s n i seq ps) := by
  unfold scoreDone
  dsimp only
  exact memoryOk_setCore h

theorem memoryOk_scoreLeave {s : State} {n i t : Nat} (h : MemoryOk s) : MemoryOk (scoreLeave s n i t) := by
  unfold scoreLeave
  dsimp only
  exact memoryOk_setCore h

theorem memoryOk_scoreHeld {s : State} {n : Nat} (h : MemoryOk s) : MemoryOk (scoreHeld s n) := by
  unfold scoreHeld
  exact memoryOk_count64 h

theorem memoryOk_boundFault {s : State} {n i t row j : Nat} (h : MemoryOk s) : MemoryOk (boundFault s n i t row j) := by
  unfold boundFault
  exact memoryOk_haltTask (memoryOk_storeFaultEvent h)

theorem memoryOk_arriveAt {s : State} {n i k : Nat} (h : MemoryOk s) : MemoryOk (arriveAt s n i k) := by
  unfold arriveAt
  dsimp only
  exact memoryOk_setFld h

theorem memoryOk_underWay {s : State} {n i k src : Nat} (h : MemoryOk s) : MemoryOk (underWay s n i k src) := by
  unfold underWay
  dsimp only
  exact memoryOk_ite h (memoryOk_setCore h)

theorem memoryOk_endTransfer {s : State} {n i k src : Nat} (h : MemoryOk s) : MemoryOk (endTransfer s n i k src) := by
  unfold endTransfer
  dsimp only
  exact memoryOk_ite (memoryOk_arriveAt (memoryOk_setCore h)) h

theorem memoryOk_extWrite {s : State} {n i : Nat} {ws : List (Nat × Nat × Nat)} (h : MemoryOk s) :
    MemoryOk (extWrite s n i ws).1 := by
  unfold extWrite
  dsimp only
  split
  · exact h
  · exact memoryOk_ite_fst (memoryOk_foldl (fun _ _ h1 => memoryOk_csWrite h1) h) (memoryOk_count32 h)

theorem memoryOk_csAccess {s : State} {n i : Nat} {a : CsAccess} (h : MemoryOk s) : MemoryOk (csAccess s n i a) := by
  unfold csAccess
  dsimp only
  exact memoryOk_ite h (memoryOk_ite (memoryOk_boundFault h) (memoryOk_ite (memoryOk_scoreHeld h)
      (memoryOk_ite h (memoryOk_ite (memoryOk_ite (memoryOk_extWrite h) (memoryOk_foldl (fun _ _ h1 => memoryOk_csWrite h1) h))
      (memoryOk_ite (memoryOk_mk (memoryOk_taskRead h)) (memoryOk_taskRead h))))))

theorem memoryOk_opCoreStoreWriteBack {n i : Nat} {s : State} (h : MemoryOk s) : MemoryOk (opCoreStoreWriteBack n i s) := by
  unfold opCoreStoreWriteBack
  dsimp only
  split
  · exact h
  · exact memoryOk_setCore (memoryOk_writeBackWord h)

theorem memoryOk_opCoreCsPowerWrite {n i : Nat} {v : W64} {s : State} (h : MemoryOk s) :
    MemoryOk (opCoreCsPowerWrite n i v s) := by
  unfold opCoreCsPowerWrite
  dsimp only
  exact memoryOk_ite h (memoryOk_foldl (fun _ _ h1 => memoryOk_ite (memoryOk_wipeKeys
      (memoryOk_setCore (memoryOk_foldl (fun _ _ h2 => memoryOk_ite (memoryOk_wipeKeys h2 _ _) h2) h1)) _ _) h1)
      (memoryOk_setFld h))

theorem memoryOk_copyRow {s : State} {n src dst : Nat} (h : MemoryOk s) : MemoryOk (copyRow s n src dst) := by
  unfold copyRow
  dsimp only
  refine memoryOk_foldl ?_ h
  intro _ _ h1
  refine memoryOk_copyWord ?_ _ _
  split
  · exact h1
  · exact memoryOk_count32 h1
  · exact memoryOk_count32 h1

theorem memoryOk_opRowMapWrite {n i k : Nat} {v : W64} {s : State} (h : MemoryOk s) : MemoryOk (opRowMapWrite n i k v s) := by
  unfold opRowMapWrite
  dsimp only
  exact memoryOk_ite h (memoryOk_setFld (memoryOk_setFld (memoryOk_ite (memoryOk_recordField
      (memoryOk_ite (memoryOk_copyRow h) h)) (memoryOk_ite (memoryOk_copyRow h) h))))

theorem memoryOk_opRecvWindowWrite {n i k : Nat} {v : W64} {s : State} (h : MemoryOk s) :
    MemoryOk (opRecvWindowWrite n i k v s) := by
  unfold opRecvWindowWrite
  dsimp only
  exact memoryOk_ite h (memoryOk_wr (memoryOk_ite (memoryOk_setCore (memoryOk_count32 h)) h))

theorem memoryOk_opArrivalCounterWrite {n i k : Nat} {v : W64} {arrivals : Nat} {s : State} (h : MemoryOk s) :
    MemoryOk (opArrivalCounterWrite n i k v arrivals s) := by
  unfold opArrivalCounterWrite
  exact memoryOk_ite h (memoryOk_setFld h)

theorem memoryOk_opCoreMapWrite {n c : Nat} {v : W64} {s : State} (h : MemoryOk s) : MemoryOk (opCoreMapWrite n c v s) := by
  unfold opCoreMapWrite
  exact memoryOk_ite h (memoryOk_setFld h)

/-! ### Loader -/

theorem memoryOk_cacheRead {s : State} {m : Nat} {id : W32} {alloc : Bool} {line : Nat} (h : MemoryOk s) :
    MemoryOk (cacheRead s m id alloc line) := by
  unfold cacheRead
  dsimp only
  split
  · exact memoryOk_count64 (memoryOk_setChan h)
  · exact memoryOk_count64 (memoryOk_ite (memoryOk_setChan h) h)

theorem memoryOk_dropLine {s : State} {m line : Nat} (h : MemoryOk s) : MemoryOk (dropLine s m line) := by
  unfold dropLine
  dsimp only
  exact memoryOk_setChan h

theorem memoryOk_decodeLine {s : State} {m line : Nat} {ws : List Nat} (h : MemoryOk s) : MemoryOk (decodeLine s m line ws) := by
  unfold decodeLine
  dsimp only
  exact memoryOk_ite (memoryOk_dropLine h) (memoryOk_foldl (fun _ _ h1 => memoryOk_freshCached h1) h)

theorem memoryOk_cacheReads {s : State} {n : Nat} {id : W32} {alloc : Bool} {ws : List Nat} (h : MemoryOk s) :
    MemoryOk (cacheReads s n id alloc ws) := by
  unfold cacheReads
  dsimp only
  exact memoryOk_foldl (fun _ _ h1 => memoryOk_cacheRead (memoryOk_ite (memoryOk_decodeLine h1)
      (memoryOk_freshCached (memoryOk_portBytes (memoryOk_decodeLine h1))))) h

theorem memoryOk_cacheStore {s : State} {n : Nat} {id : W32} {ws : List Nat} (h : MemoryOk s) :
    MemoryOk (cacheStore s n id ws) := by
  unfold cacheStore
  exact memoryOk_foldl (fun _ _ h1 => memoryOk_ite h1 (memoryOk_setChan (memoryOk_freshCached h1))) h

theorem memoryOk_loaderRead {s : State} {a n : Nat} (h : MemoryOk s) : MemoryOk (loaderRead s a n).1 := by
  unfold loaderRead
  split
  · next heq => exact memoryOk_fst heq (memoryOk_readRange h)
  · next heq => exact memoryOk_fst heq (memoryOk_readRange h)

theorem memoryOk_readLayout {s : State} {sl : OpSlot} (h : MemoryOk s) : MemoryOk (readLayout s sl).1 := by
  unfold readLayout
  dsimp only
  refine memoryOk_ite_fst h ?_
  split
  · next heq => exact memoryOk_fst heq (memoryOk_loaderRead h)
  · next heq =>
      have h1 := memoryOk_fst heq (memoryOk_loaderRead h)
      refine memoryOk_ite_fst h1 ?_
      refine memoryOk_ite_fst ?_ h1
      refine memoryOk_ite_fst h1 ?_
      split
      · next heq => exact memoryOk_fst heq (memoryOk_loaderRead h1)
      · next heq =>
          have h2 := memoryOk_fst heq (memoryOk_loaderRead h1)
          exact memoryOk_ite_fst h2 h2

theorem memoryOk_readLayouts {s : State} {slots : List OpSlot} {o : Nat} (h : MemoryOk s) :
    MemoryOk (readLayouts s slots o).1 := by
  induction slots generalizing s o with
  | nil => exact h
  | cons sl r ih =>
    unfold readLayouts
    split
    · dsimp only
      split
      · exact ih (memoryOk_readLayout h)
      · exact ih (memoryOk_readLayout h)
    · exact ih h

theorem memoryOk_readMap {s : State} {n first : Nat} {l : Layout} (h : MemoryOk s) : MemoryOk (readMap s n first l).1 := by
  unfold readMap
  dsimp only
  refine memoryOk_ite_fst h ?_
  split
  · next heq => exact memoryOk_fst heq (memoryOk_loaderRead h)
  · next heq =>
      have h1 := memoryOk_fst heq (memoryOk_loaderRead h)
      refine memoryOk_ite_fst h1 ?_
      refine memoryOk_ite_fst h1 ?_
      split
      · next heq => exact memoryOk_fst heq (memoryOk_loaderRead h1)
      · next heq => exact memoryOk_fst heq (memoryOk_loaderRead h1)

theorem memoryOk_readFills {s : State} {op : Op} (h : MemoryOk s) : MemoryOk (readFills s op).1 := by
  unfold readFills
  dsimp only
  split
  · refine memoryOk_ite_fst h ?_
    split
    · next heq => exact memoryOk_fst heq (memoryOk_loaderRead h)
    · next heq => exact memoryOk_fst heq (memoryOk_loaderRead h)
  · exact h

theorem memoryOk_fetchEntry {s : State} {n i : Nat} (h : MemoryOk s) : MemoryOk (fetchEntry s n i).1 := by
  unfold fetchEntry
  extract_lets at_
  split
  · next heq => exact memoryOk_fst heq (memoryOk_loaderRead h)
  · next heq =>
    have h1 := memoryOk_fst heq (memoryOk_loaderRead h)
    extract_lets w a
    refine memoryOk_ite_fst h1 ?_
    split
    · next heq => exact memoryOk_fst heq (memoryOk_loaderRead h1)
    · next heq =>
      have h2 := memoryOk_fst heq (memoryOk_loaderRead h1)
      extract_lets id
      refine memoryOk_ite_fst h2 ?_
      split
      · next heq => exact memoryOk_fst heq (memoryOk_loaderRead h2)
      · next heq => exact memoryOk_readLayouts (memoryOk_fst heq (memoryOk_loaderRead h2))

theorem memoryOk_fetchEntries {n k i : Nat} {s : State} (h : MemoryOk s) : MemoryOk (fetchEntries n k i s).1 := by
  induction k generalizing s i with
  | zero => exact h
  | succ k ih => exact ih (memoryOk_fetchEntry h)

theorem memoryOk_fetchBurst {s : State} {n : Nat} (h : MemoryOk s) : MemoryOk (fetchBurst s n) := by
  unfold fetchBurst
  dsimp only
  exact memoryOk_ite h (memoryOk_setChan (memoryOk_cacheReads (memoryOk_fetchEntries h)))

theorem memoryOk_readTables {s : State} {n : Nat} {bad : List Nat} {op : Op} (h : MemoryOk s) :
    MemoryOk (readTables s n bad op).1 := by
  have hMap {u : State} (hu : MemoryOk u) (o : Nat) : MemoryOk (match op.layout o with
      | some l => readMap u n op.first l
      | none => (u, none, true)).1 := by
    split
    · exact memoryOk_readMap hu
    · exact hu
  unfold readTables
  dsimp only
  exact memoryOk_ite_fst (memoryOk_readFills (memoryOk_ite_fst (hMap (memoryOk_ite_fst (hMap h 6) h) 7)
    (memoryOk_ite_fst (hMap h 6) h))) (memoryOk_ite_fst (hMap (memoryOk_ite_fst (hMap h 6) h) 7) (memoryOk_ite_fst (hMap h 6) h))

theorem memoryOk_putOp {s : State} {n : Nat} {id : W32} {l : LoadedOp} (h : MemoryOk s) : MemoryOk (putOp s n id l) := by
  unfold putOp
  dsimp only
  exact memoryOk_setChan h

theorem memoryOk_makeStream {s : State} {n : Nat} {x : Stream} (h : MemoryOk s) : MemoryOk (makeStream s n x).1 := by
  unfold makeStream
  split
  · exact h
  · exact memoryOk_setStream h

theorem memoryOk_makeStreams {s : State} {n : Nat} {op : Op} {grid : List GridCore} {tops : List (Nat × Nat)} {deckOn : List Nat}
    {o : Nat} (h : MemoryOk s) : MemoryOk (makeStreams s n op grid tops deckOn o) := by
  unfold makeStreams
  dsimp only
  refine memoryOk_foldl ?_ h
  intro _ _ h1
  split
  · exact h1
  · exact memoryOk_foldl (fun _ _ h2 => memoryOk_setCore h2) (memoryOk_makeStream h1)

theorem memoryOk_makeLetrixStreams {s : State} {n : Nat} {op : Op} (h : MemoryOk s) : MemoryOk (makeLetrixStreams s n op) := by
  unfold makeLetrixStreams
  dsimp only
  exact memoryOk_foldl (fun _ _ h1 => memoryOk_ite (memoryOk_foldl (fun _ _ h2 => memoryOk_makeStream h2) h1)
      (memoryOk_makeStream h1)) h

theorem memoryOk_openPart {s : State} {n : Nat} {op : Op} {g : GridCore} {top : Nat} (h : MemoryOk s) :
    MemoryOk (openPart s n op g top) := by
  unfold openPart
  dsimp only
  exact memoryOk_wr h

theorem memoryOk_loadOp {s : State} {n : Nat} {op : Op} {grid : List GridCore} {cmds : List FillCmd} (h : MemoryOk s) :
    MemoryOk (loadOp s n op grid cmds) := by
  unfold loadOp
  dsimp only
  exact memoryOk_ite (memoryOk_foldl (fun _ _ h1 => memoryOk_setCore h1)
      (memoryOk_ite (memoryOk_makeLetrixStreams (memoryOk_setChan h)) (memoryOk_foldl (fun _ _ h1 => memoryOk_makeStreams h1)
      (memoryOk_setChan h)))) (memoryOk_foldl (fun _ _ h1 => memoryOk_ite (memoryOk_openPart (memoryOk_setCore h1))
      (memoryOk_setCore h1)) (memoryOk_ite (memoryOk_makeLetrixStreams (memoryOk_setChan h))
      (memoryOk_foldl (fun _ _ h1 => memoryOk_makeStreams h1) (memoryOk_setChan h))))

theorem memoryOk_takeEntry {s : State} {n : Nat} (h : MemoryOk s) : MemoryOk (takeEntry s n) := by
  unfold takeEntry
  dsimp only
  exact memoryOk_setChan (memoryOk_setFld h)

theorem memoryOk_reject {s : State} {n : Nat} {id : W32} {cls : Nat} {a : At} (h : MemoryOk s) :
    MemoryOk (reject s n id cls a) := by
  unfold reject
  dsimp only
  exact memoryOk_takeEntry (memoryOk_post (memoryOk_ite (memoryOk_setFlag (memoryOk_recordOnce (memoryOk_count32 h)))
      (memoryOk_recordOnce (memoryOk_count32 h))) _ _ _ _)

theorem memoryOk_loadNext {n : Nat} {sel : Op → Bool} {held : Nat} {s : State} (h : MemoryOk s) :
    MemoryOk (loadNext n sel held s) := by
  unfold loadNext
  dsimp only
  refine memoryOk_ite h ?_
  split
  · exact h
  · exact memoryOk_reject (memoryOk_fetchBurst h)
  · refine memoryOk_ite h ?_
    split
    · exact memoryOk_reject (memoryOk_readTables (memoryOk_fetchBurst h))
    · split
      · exact memoryOk_setChan (memoryOk_fetchBurst h)
      · exact memoryOk_takeEntry (memoryOk_loadOp (memoryOk_ite (memoryOk_count64 (memoryOk_readTables (memoryOk_fetchBurst h)))
          (memoryOk_readTables (memoryOk_fetchBurst h))))

theorem memoryOk_opProduct {n : Nat} {s : State} (h : MemoryOk s) : MemoryOk (opProduct n s) := by
  unfold opProduct
  exact memoryOk_loadNext h

theorem memoryOk_opPrefillAttention {n : Nat} {s : State} (h : MemoryOk s) : MemoryOk (opPrefillAttention n s) := by
  unfold opPrefillAttention
  exact memoryOk_loadNext h

theorem memoryOk_opSparseBySparse {n : Nat} {s : State} (h : MemoryOk s) : MemoryOk (opSparseBySparse n s) := by
  unfold opSparseBySparse
  exact memoryOk_loadNext h

theorem memoryOk_opVectorOperation {n : Nat} {s : State} (h : MemoryOk s) : MemoryOk (opVectorOperation n s) := by
  unfold opVectorOperation
  exact memoryOk_loadNext h

theorem memoryOk_opFillAndCopy {n : Nat} {s : State} (h : MemoryOk s) : MemoryOk (opFillAndCopy n s) := by
  unfold opFillAndCopy
  exact memoryOk_loadNext h

theorem memoryOk_opMatrixVector {n : Nat} {s : State} (h : MemoryOk s) : MemoryOk (opMatrixVector n s) := by
  unfold opMatrixVector
  exact memoryOk_loadNext h

theorem memoryOk_opDecodeAttention {n : Nat} {s : State} (h : MemoryOk s) : MemoryOk (opDecodeAttention n s) := by
  unfold opDecodeAttention
  exact memoryOk_loadNext h

theorem memoryOk_opGather {n : Nat} {s : State} (h : MemoryOk s) : MemoryOk (opGather n s) := by
  unfold opGather
  exact memoryOk_loadNext h

theorem memoryOk_opScatter {n : Nat} {s : State} (h : MemoryOk s) : MemoryOk (opScatter n s) := by
  unfold opScatter
  exact memoryOk_loadNext h

theorem memoryOk_opScatterAdd {n : Nat} {s : State} (h : MemoryOk s) : MemoryOk (opScatterAdd n s) := by
  unfold opScatterAdd
  exact memoryOk_loadNext h

theorem memoryOk_opIndexIntersection {n : Nat} {s : State} (h : MemoryOk s) : MemoryOk (opIndexIntersection n s) := by
  unfold opIndexIntersection
  exact memoryOk_loadNext h

theorem memoryOk_opEncode {n : Nat} {s : State} (h : MemoryOk s) : MemoryOk (opEncode n s) := by
  unfold opEncode
  exact memoryOk_loadNext h

theorem memoryOk_opDecode {n : Nat} {s : State} (h : MemoryOk s) : MemoryOk (opDecode n s) := by
  unfold opDecode
  exact memoryOk_loadNext h

theorem memoryOk_opOperationHeldLoad {n held : Nat} {s : State} (h : MemoryOk s) : MemoryOk (opOperationHeldLoad n held s) := by
  unfold opOperationHeldLoad
  exact memoryOk_ite h (memoryOk_loadNext h)

theorem memoryOk_opWorkQueueTailWrite {n : Nat} {v : W64} {s : State} (h : MemoryOk s) :
    MemoryOk (opWorkQueueTailWrite n v s) := by
  unfold opWorkQueueTailWrite
  dsimp only
  exact memoryOk_ite h (memoryOk_ite (memoryOk_setFlag h) (memoryOk_ite (memoryOk_setFld h)
      (memoryOk_startWake (memoryOk_setFld h))))

theorem memoryOk_startStreams {s : State} {n : Nat} {id : W32} {log : Nat} (h : MemoryOk s) :
    MemoryOk (startStreams s n id log) := by
  unfold startStreams
  dsimp only
  exact memoryOk_foldl (fun _ _ h1 => memoryOk_ite (memoryOk_setStream h1) h1) h

theorem memoryOk_offDeck {s : State} {n : Nat} {id : W32} {log : Nat} (h : MemoryOk s) : MemoryOk (offDeck s n id log) := by
  unfold offDeck
  dsimp only
  exact memoryOk_foldl (fun _ _ h1 => memoryOk_ite (memoryOk_setStream h1) h1) h

theorem memoryOk_opOperationStart {n log : Nat} {s : State} (h : MemoryOk s) : MemoryOk (opOperationStart n log s) := by
  unfold opOperationStart
  dsimp only
  split
  · exact h
  · split
    · exact h
    · exact memoryOk_startStreams (memoryOk_offDeck (memoryOk_putOp (memoryOk_setCore h)))

theorem memoryOk_releaseCore {s : State} {n : Nat} {id : W32} {phys : Nat} (h : MemoryOk s) :
    MemoryOk (releaseCore s n id phys) := by
  unfold releaseCore
  dsimp only
  exact memoryOk_setCore h

theorem memoryOk_freeStreams {s : State} {n : Nat} {id : W32} (h : MemoryOk s) : MemoryOk (freeStreams s n id) := by
  unfold freeStreams
  exact memoryOk_mk h

theorem memoryOk_endOnCore {s : State} {n : Nat} {l : LoadedOp} {g : GridCore} (h : MemoryOk s) :
    MemoryOk (endOnCore s n l g) := by
  unfold endOnCore
  dsimp only
  exact memoryOk_releaseCore (memoryOk_ite (memoryOk_scoreLeave (memoryOk_ite (memoryOk_setFlag (memoryOk_flushTask h))
      (memoryOk_flushTask h))) (memoryOk_ite (memoryOk_setFlag (memoryOk_flushTask h)) (memoryOk_flushTask h)))

theorem memoryOk_completeOp {n : Nat} {id : W32} {s : State} (h : MemoryOk s) : MemoryOk (completeOp n id s) := by
  unfold completeOp
  dsimp only
  split
  · exact h
  · exact memoryOk_ite h (memoryOk_ite (memoryOk_putOp (memoryOk_foldl (fun _ _ h1 => memoryOk_flushTask h1) h))
      (memoryOk_post (memoryOk_setChan (memoryOk_freeStreams (memoryOk_ite
      (memoryOk_foldl (fun _ _ h1 => memoryOk_flushTask h1) h) (memoryOk_foldl (fun _ _ h1 => memoryOk_endOnCore h1)
      (memoryOk_foldl (fun _ _ h1 => memoryOk_flushTask h1) h))))) _ _ _ _))

theorem memoryOk_opOperationDeadlineMiss {n : Nat} {id : W32} {s : State} (h : MemoryOk s) :
    MemoryOk (opOperationDeadlineMiss n id s) := by
  unfold opOperationDeadlineMiss
  dsimp only
  split
  · exact h
  · exact memoryOk_ite h (memoryOk_post (memoryOk_count32 (memoryOk_putOp h)) _ _ _ _)

/-! ### Streams -/

theorem memoryOk_lateNoStreamAs {s : State} {n : Nat} {svc : Bool} {log : Nat} {id : W32} {cycles : Nat} {cause : StallCause}
    (h : MemoryOk s) : MemoryOk (lateNoStreamAs s n svc log id cycles cause) := by
  unfold lateNoStreamAs
  split
  · exact memoryOk_lateAs h
  · exact memoryOk_lateAs h

theorem memoryOk_lateNoStream {s : State} {n log : Nat} {id : W32} {cycles : Nat} {cause : StallCause} (h : MemoryOk s) :
    MemoryOk (lateNoStream s n log id cycles cause) := by
  unfold lateNoStream
  exact memoryOk_lateNoStreamAs h

theorem memoryOk_noteHalt {s : State} {n : Nat} {id : W32} {k tile cause : Nat} (h : MemoryOk s) :
    MemoryOk (noteHalt s n id k tile cause) := by
  unfold noteHalt
  dsimp only
  exact memoryOk_post (memoryOk_count32 (memoryOk_recordOnce h)) _ _ _ _

theorem memoryOk_haltStream {s : State} {n k tile cause : Nat} {frame : Option Nat} (h : MemoryOk s) :
    MemoryOk (haltStream s n k tile cause frame) := by
  unfold haltStream
  dsimp only
  exact memoryOk_ite (memoryOk_setStream h) (memoryOk_noteHalt (memoryOk_setStream h))

theorem memoryOk_haltStop {s : State} {n k tile origin issuer : Nat} {e : Stop} (h : MemoryOk s) :
    MemoryOk (haltStop s n k tile origin issuer e) := by
  unfold haltStop
  split
  · exact memoryOk_haltStream (memoryOk_pageFault h)
  · exact memoryOk_haltStream (memoryOk_stopEvent h)

theorem memoryOk_markParts {s : State} {n k : Nat} {tiles : List Nat} (h : MemoryOk s) : MemoryOk (markParts s n k tiles) := by
  unfold markParts
  dsimp only
  exact memoryOk_setStream h

theorem memoryOk_structFault {s : State} {n k tile code slot pos : Nat} (h : MemoryOk s) :
    MemoryOk (structFault s n k tile code slot pos) := by
  unfold structFault
  dsimp only
  exact memoryOk_haltStream (memoryOk_count32 (memoryOk_ite (memoryOk_setFlag h)
      (memoryOk_wr (memoryOk_wr (memoryOk_setFlag h)))))

theorem memoryOk_issueFetch {s : State} {n k tile : Nat} (h : MemoryOk s) : MemoryOk (issueFetch s n k tile) := by
  unfold issueFetch
  dsimp only
  split
  · exact memoryOk_count64 (memoryOk_setChan (memoryOk_setStream h))
  · split
    · exact memoryOk_haltStop (memoryOk_count64 (memoryOk_setChan (memoryOk_setStream h)))
    · exact memoryOk_ite (memoryOk_count64 (memoryOk_setChan (memoryOk_setStream h)))
        (memoryOk_cacheReads (memoryOk_count64 (memoryOk_setChan (memoryOk_setStream h))))

theorem memoryOk_warmFetch {s : State} {n : Nat} (h : MemoryOk s) : MemoryOk (warmFetch s n) := by
  unfold warmFetch
  dsimp only
  split
  · exact h
  · split
    · exact memoryOk_setStream (memoryOk_haltStop h)
    · exact memoryOk_cacheReads (memoryOk_count64 (memoryOk_setStream h))

theorem memoryOk_opFetchIssue {n : Nat} {s : State} (h : MemoryOk s) : MemoryOk (opFetchIssue n s) := by
  unfold opFetchIssue
  dsimp only
  split
  · exact memoryOk_warmFetch (memoryOk_warmFetch h)
  · split
    · exact memoryOk_warmFetch (memoryOk_issueFetch h)
    · exact memoryOk_issueFetch (memoryOk_issueFetch h)

theorem memoryOk_endWait {s : State} {n k lateBy : Nat} {cause : StallCause} (h : MemoryOk s) :
    MemoryOk (endWait s n k lateBy cause) := by
  unfold endWait
  dsimp only
  split
  · exact memoryOk_setStream h
  · exact memoryOk_ite (memoryOk_setStream h) (memoryOk_ite (memoryOk_count64 (memoryOk_setStream h))
      (memoryOk_lateAs (memoryOk_setStream h)))

theorem memoryOk_fillSlot {s : State} {n : Nat} {l : LoadedOp} {x : Stream} {tile : Nat} {bs : List Byte} (h : MemoryOk s) :
    MemoryOk (fillSlot s n l x tile bs) := by
  unfold fillSlot
  dsimp only
  refine memoryOk_foldl ?_ h
  intro _ _ h1
  split
  · exact h1
  · exact memoryOk_foldl (fun _ _ h2 => memoryOk_csWrite h2) h1

theorem memoryOk_unitAsks {s : State} {n : Nat} {l : LoadedOp} {k : Nat} (h : MemoryOk s) : MemoryOk (unitAsks s n l k) := by
  unfold unitAsks
  dsimp only
  exact memoryOk_setStream h

theorem memoryOk_unitsAsk {s : State} {n : Nat} {id : W32} (h : MemoryOk s) : MemoryOk (unitsAsk s n id) := by
  unfold unitsAsk
  split
  · exact h
  · exact memoryOk_foldl (fun _ _ h1 => memoryOk_unitAsks h1) h

theorem memoryOk_letrixArrive {s : State} {n k tile lateBy : Nat} {cause : StallCause} {l : LoadedOp} (h : MemoryOk s) :
    MemoryOk (letrixArrive s n k tile lateBy cause l) := by
  unfold letrixArrive
  dsimp only
  exact memoryOk_unitAsks (memoryOk_endWait (memoryOk_setStream h))

theorem memoryOk_opFetchComplete {n k tile lateBy : Nat} {cause : StallCause} {upsets : List Upset} {s : State} (h : MemoryOk s) :
    MemoryOk (opFetchComplete n k tile lateBy cause upsets s) := by
  unfold opFetchComplete
  dsimp only
  refine memoryOk_ite (memoryOk_strike h) ?_
  split
  · exact memoryOk_strike h
  · refine memoryOk_ite ?_ ?_
    · split
      · next heq =>
          have h1 := memoryOk_fst heq (memoryOk_readHeld (memoryOk_strike h))
          exact memoryOk_haltStop h1
      · next heq =>
          have h1 := memoryOk_fst heq (memoryOk_readHeld (memoryOk_strike h))
          exact memoryOk_letrixArrive (memoryOk_setStream (memoryOk_ite (memoryOk_foldl
              (fun _ _ h2 => memoryOk_portDown h2) h1) h1))
    · split
      · exact memoryOk_strike h
      · split
        · next heq =>
            have h1 := memoryOk_fst heq (memoryOk_readHeld (memoryOk_strike h))
            exact memoryOk_haltStop h1
        · next heq =>
            have h1 := memoryOk_fst heq (memoryOk_readHeld (memoryOk_strike h))
            split
            · exact memoryOk_ite (memoryOk_structFault h1) h1
            · exact memoryOk_ite (memoryOk_markParts (memoryOk_haltStream (memoryOk_setFlag h1)))
                (memoryOk_haltStream (memoryOk_setFlag h1))
            · exact memoryOk_ite (memoryOk_markParts (memoryOk_structFault h1)) (memoryOk_structFault h1)
            · exact memoryOk_endWait (memoryOk_setStream (memoryOk_fillSlot h1))

theorem memoryOk_resumeStream {s : State} {n k : Nat} (h : MemoryOk s) : MemoryOk (resumeStream s n k) := by
  unfold resumeStream
  dsimp only
  refine memoryOk_ite h ?_
  refine memoryOk_setStream ?_
  split
  · exact memoryOk_count64 h
  · exact h

theorem memoryOk_opStreamResume {n : Nat} {v : W64} {s : State} (h : MemoryOk s) : MemoryOk (opStreamResume n v s) := by
  unfold opStreamResume
  dsimp only
  exact memoryOk_ite h (memoryOk_ite (memoryOk_resumeStream (memoryOk_setFld h)) (memoryOk_setFld h))

theorem memoryOk_dropRings {s : State} {n : Nat} {id : W32} {i : Nat} (h : MemoryOk s) : MemoryOk (dropRings s n id i) := by
  unfold dropRings
  dsimp only
  exact memoryOk_setCore h

theorem memoryOk_askCancel {n : Nat} {v : W64} {s : State} (h : MemoryOk s) : MemoryOk (askCancel n v s) := by
  unfold askCancel
  dsimp only
  refine memoryOk_ite h ?_
  refine memoryOk_ite (memoryOk_setFld h) ?_
  split
  · exact memoryOk_setFlag (memoryOk_setFld h)
  · refine memoryOk_ite (memoryOk_setFlag (memoryOk_setFld h)) ?_
    refine memoryOk_setChan ?_
    refine memoryOk_putOp ?_
    split
    · exact memoryOk_foldl (fun _ _ h1 => memoryOk_count64 h1) (memoryOk_foldl (fun _ _ h1 => memoryOk_dropRings h1)
        (memoryOk_freeStreams (memoryOk_count32 (memoryOk_setFlag (memoryOk_setFlag (memoryOk_setFld h))))))
    · exact memoryOk_foldl (fun _ _ h1 => memoryOk_dropRings h1) (memoryOk_freeStreams
        (memoryOk_count32 (memoryOk_setFlag (memoryOk_setFlag (memoryOk_setFld h)))))

theorem memoryOk_dropOnCore {s : State} {n : Nat} {l : LoadedOp} {g : GridCore} (h : MemoryOk s) :
    MemoryOk (dropOnCore s n l g) := by
  unfold dropOnCore
  exact memoryOk_endOnCore h

theorem memoryOk_opCancelComplete {n : Nat} {s : State} (h : MemoryOk s) : MemoryOk (opCancelComplete n s) := by
  unfold opCancelComplete
  dsimp only
  split
  · exact h
  · split
    · exact h
    · exact memoryOk_post (memoryOk_setFlag (memoryOk_count32 (memoryOk_setChan
        (memoryOk_ite h (memoryOk_foldl (fun _ _ h1 => memoryOk_dropOnCore h1) h))))) _ _ _ _

theorem memoryOk_takeScales {s : State} {n : Nat} {l : LoadedOp} {g : GridCore} {tile half : Nat} (h : MemoryOk s) :
    MemoryOk (takeScales s n l g tile half) := by
  unfold takeScales
  dsimp only
  split
  · exact memoryOk_setCore h
  · exact h

theorem memoryOk_fillScales {s : State} {n k : Nat} {l : LoadedOp} {x : Stream} {tile half : Nat} {bs : List Byte}
    (h : MemoryOk s) : MemoryOk (fillScales s n k l x tile half bs) := by
  unfold fillScales
  dsimp only
  refine memoryOk_ite (memoryOk_setStream h) ?_
  refine memoryOk_foldl ?_ h
  intro _ _ h1
  split
  · exact h1
  · exact memoryOk_foldl (fun _ _ h2 => memoryOk_csWrite h2) h1

theorem memoryOk_opScale {n log k tile half lateBy : Nat} {cause : StallCause} {s : State} (h : MemoryOk s) :
    MemoryOk (opScale n log k tile half lateBy cause s) := by
  unfold opScale
  dsimp only
  refine memoryOk_ite h ?_
  split
  · exact h
  · refine memoryOk_ite (memoryOk_ite (memoryOk_takeScales (memoryOk_count64 h)) (memoryOk_count64 h)) ?_
    split
    · exact memoryOk_count64 h
    · split
      · next heq =>
          have h1 := memoryOk_fst heq (memoryOk_readWordsOn (memoryOk_count64 h))
          exact memoryOk_haltStop h1
      · next heq =>
          have h1 := memoryOk_fst heq (memoryOk_readWordsOn (memoryOk_count64 h))
          exact memoryOk_endWait (memoryOk_setStream (memoryOk_fillScales (memoryOk_cacheReads h1)))

theorem memoryOk_opPageList {n : Nat} {to_ : Option Nat} {pages : List W32} {s : State} (h : MemoryOk s) :
    MemoryOk (opPageList n to_ pages s) := by
  unfold opPageList
  dsimp only
  refine memoryOk_ite h ?_
  split
  · exact memoryOk_setChan (memoryOk_count64 h)
  · exact memoryOk_setCore (memoryOk_count64 h)

theorem memoryOk_opCounter {n : Nat} {pairs : List (Nat × W32)} {s : State} (h : MemoryOk s) :
    MemoryOk (opCounter n pairs s) := by
  unfold opCounter
  dsimp only
  refine memoryOk_ite h ?_
  refine memoryOk_foldl ?_ (memoryOk_count64 h)
  intro _ _ h1
  split
  · split
    · exact memoryOk_ite (memoryOk_ite (memoryOk_count32 h1) (memoryOk_count64 h1)) h1
    · exact memoryOk_ite (memoryOk_count32 h1) h1
  · exact h1

theorem memoryOk_opArrivalNotice {n log k : Nat} {s : State} (h : MemoryOk s) : MemoryOk (opArrivalNotice n log k s) := by
  unfold opArrivalNotice
  dsimp only
  exact memoryOk_ite (memoryOk_arriveAt (memoryOk_count64 h)) (memoryOk_count64 h)

theorem memoryOk_opCancelNotice {n log : Nat} {id : W32} {s : State} (h : MemoryOk s) : MemoryOk (opCancelNotice n log id s) := by
  unfold opCancelNotice
  dsimp only
  split
  · exact memoryOk_count64 h
  · refine memoryOk_ite (memoryOk_count64 h) ?_
    split
    · exact memoryOk_count64 h
    · exact memoryOk_dropOnCore (memoryOk_count64 h)

theorem memoryOk_putRot {s : State} {n : Nat} {g : GridCore} {x : Rot} (h : MemoryOk s) : MemoryOk (putRot s n g x) := by
  unfold putRot
  dsimp only
  exact memoryOk_setCore h

theorem memoryOk_haltRot {s : State} {n : Nat} {g : GridCore} {id : W32} {o tile : Nat} {e : Stop} (h : MemoryOk s) :
    MemoryOk (haltRot s n g id o tile e) := by
  unfold haltRot
  dsimp only
  exact memoryOk_noteHalt (memoryOk_stopEvent (memoryOk_putRot h))

theorem memoryOk_askRot {s : State} {n log o : Nat} (h : MemoryOk s) : MemoryOk (askRot s n log o) := by
  unfold askRot
  dsimp only
  split
  · exact h
  · exact memoryOk_ite h (memoryOk_putRot h)

theorem memoryOk_opTileRequest {n log o : Nat} {s : State} (h : MemoryOk s) : MemoryOk (opTileRequest n log o s) := by
  unfold opTileRequest
  dsimp only
  split
  · exact memoryOk_askRot h
  · exact memoryOk_ite h (memoryOk_setStream h)

theorem memoryOk_opRotationForward {n log o lateBy : Nat} {cause : StallCause} {s : State} (h : MemoryOk s) :
    MemoryOk (opRotationForward n log o lateBy cause s) := by
  unfold opRotationForward
  dsimp only
  split
  · exact h
  · refine memoryOk_ite h ?_
    split
    · exact memoryOk_haltRot h
    · split
      · next heq =>
          have h1 := memoryOk_fst heq (memoryOk_csRead h)
          exact memoryOk_haltRot h1
      · next heq =>
          have h1 := memoryOk_fst heq (memoryOk_csRead h)
          split
          · exact memoryOk_count64 (memoryOk_putRot (memoryOk_foldl (fun _ _ h2 => memoryOk_csWrite h2) h1))
          · exact memoryOk_lateNoStreamAs (memoryOk_count64 (memoryOk_putRot
              (memoryOk_foldl (fun _ _ h2 => memoryOk_csWrite h2) h1)))

/-! ### StorePath -/

theorem memoryOk_noteRaised {s : State} {n : Nat} {r : Raised} (h : MemoryOk s) : MemoryOk (noteRaised s n r) := by
  unfold noteRaised
  dsimp only
  exact memoryOk_ite (memoryOk_setFlag (memoryOk_ite (memoryOk_setFlag (memoryOk_ite
      (memoryOk_setFlag (memoryOk_ite (memoryOk_setFlag (memoryOk_ite (memoryOk_setFlag (memoryOk_count32 h)) h))
      (memoryOk_ite (memoryOk_setFlag (memoryOk_count32 h)) h))) (memoryOk_ite
      (memoryOk_setFlag (memoryOk_ite (memoryOk_setFlag (memoryOk_count32 h)) h))
      (memoryOk_ite (memoryOk_setFlag (memoryOk_count32 h)) h)))) (memoryOk_ite
      (memoryOk_setFlag (memoryOk_ite (memoryOk_setFlag (memoryOk_ite (memoryOk_setFlag (memoryOk_count32 h)) h))
      (memoryOk_ite (memoryOk_setFlag (memoryOk_count32 h)) h))) (memoryOk_ite
      (memoryOk_setFlag (memoryOk_ite (memoryOk_setFlag (memoryOk_count32 h)) h))
      (memoryOk_ite (memoryOk_setFlag (memoryOk_count32 h)) h))))) (memoryOk_ite
      (memoryOk_setFlag (memoryOk_ite (memoryOk_setFlag (memoryOk_ite (memoryOk_setFlag
      (memoryOk_ite (memoryOk_setFlag (memoryOk_count32 h)) h)) (memoryOk_ite (memoryOk_setFlag (memoryOk_count32 h)) h)))
      (memoryOk_ite (memoryOk_setFlag (memoryOk_ite (memoryOk_setFlag (memoryOk_count32 h)) h))
      (memoryOk_ite (memoryOk_setFlag (memoryOk_count32 h)) h)))) (memoryOk_ite
      (memoryOk_setFlag (memoryOk_ite (memoryOk_setFlag (memoryOk_ite (memoryOk_setFlag (memoryOk_count32 h)) h))
      (memoryOk_ite (memoryOk_setFlag (memoryOk_count32 h)) h))) (memoryOk_ite
      (memoryOk_setFlag (memoryOk_ite (memoryOk_setFlag (memoryOk_count32 h)) h))
      (memoryOk_ite (memoryOk_setFlag (memoryOk_count32 h)) h))))

theorem memoryOk_storeMine {s : State} {n t : Nat} {g : GridCore} {ws : List (Nat × Nat × Nat)} (h : MemoryOk s) :
    MemoryOk (storeMine s n g t ws) := by
  unfold storeMine
  refine memoryOk_foldl (fun u w hu => ?_) h
  split
  · exact memoryOk_csWrite hu
  · exact hu

theorem memoryOk_storeOther {s : State} {n : Nat} {g : GridCore} {ws : List (Nat × Nat × Nat)} (h : MemoryOk s) :
    MemoryOk (storeOther s n g ws).1 := by
  unfold storeOther
  dsimp only
  split
  · exact h
  · refine memoryOk_ite_fst (memoryOk_count32 h) ?_
    split
    · next heq => exact memoryOk_fst heq (memoryOk_extWrite h)
    · next heq => exact memoryOk_fst heq (memoryOk_extWrite h)

theorem memoryOk_storeWords {s : State} {n t : Nat} {g : GridCore} {id : W32} {ws : List (Nat × Nat × Nat)} (h : MemoryOk s) :
    MemoryOk (storeWords s n g t id ws).1 := by
  obtain he | ⟨dram, he⟩ := storeWords_cases s n g t id ws
  · rw [he]
    exact h
  · have hStored : MemoryOk (storeOther (storeMine s n g t ws) n g ws).1 := memoryOk_storeOther (memoryOk_storeMine h)
    rw [he]
    exact memoryOk_ite (memoryOk_cacheStore (memoryOk_writeWords hStored dram)) (memoryOk_writeWords hStored dram)

theorem memoryOk_haltStore {s : State} {n : Nat} {g : GridCore} {t : Nat} {id : W32} {e : Stop} (h : MemoryOk s) :
    MemoryOk (haltStore s n g t id e) := by
  unfold haltStore
  split
  · exact memoryOk_haltTask (memoryOk_pageFault h)
  · exact memoryOk_haltTask (memoryOk_noteHalt h)
  · exact memoryOk_haltTask (memoryOk_stopEvent h)

theorem memoryOk_keepBefore {s : State} {n : Nat} {op : Op} {ws : List (Nat × Nat × Nat)} (h : MemoryOk s) :
    MemoryOk (keepBefore s n op ws) := by
  unfold keepBefore
  dsimp only
  split
  · exact memoryOk_putOp h
  · exact h

theorem memoryOk_storeResults {s : State} {n t o : Nat} {g : GridCore} {op : Op} {raw : Bool} {rs : List Res} (h : MemoryOk s) :
    MemoryOk (storeResults s n g t op o raw rs).1 := by
  unfold storeResults
  split
  · exact h
  · extract_lets c cv data sc ws
    have hStored : MemoryOk (match (regionStop n g ‹Layout› data).or ((op.scale o).bind fun y => regionStop n g y sc) with
        | some e => (s, some e)
        | none => storeWords (keepBefore s n op ws) n g t op.opId ws).1 := by
      split
      · exact h
      · exact memoryOk_storeWords (memoryOk_keepBefore h)
    split
    · next heq => exact memoryOk_haltStore (memoryOk_fst heq hStored)
    · next heq => exact memoryOk_setCore (memoryOk_noteRaised (memoryOk_fst heq hStored))

theorem memoryOk_arriveStore {s : State} {n phys : Nat} {marked : Bool} {a : Option Nat} (h : MemoryOk s) :
    MemoryOk (arriveStore s n phys marked a) := by
  unfold arriveStore
  split
  · refine memoryOk_ite h ?_
    split
    · exact memoryOk_arriveAt h
    · exact h
  · exact h

theorem memoryOk_partStored {s : State} {n phys src : Nat} {marked : Bool} {before now : Option Nat} {last : Bool}
    (h : MemoryOk s) : MemoryOk (partStored s n phys src marked before now last) := by
  unfold partStored
  split
  · refine memoryOk_ite h ?_
    split
    · exact h
    · exact memoryOk_ite (memoryOk_arriveAt h) (memoryOk_underWay h)
    · exact memoryOk_ite (memoryOk_endTransfer h) h
  · exact h

/-! ### Arrays -/

theorem memoryOk_keepTile {s : State} {n : Nat} {op : Op} {g : GridCore} {o tile : Nat} {bs sc : List Byte} (h : MemoryOk s) :
    MemoryOk (keepTile s n op g o tile bs sc) := by
  unfold keepTile
  dsimp only
  exact memoryOk_ite h (memoryOk_foldl (fun _ _ h1 => memoryOk_csWrite h1) (memoryOk_foldl (fun _ _ h1 => memoryOk_csWrite h1) h))

theorem memoryOk_takeTiles {s : State} {n : Nat} {l : LoadedOp} {g : GridCore} (h : MemoryOk s) :
    MemoryOk (takeTiles s n l g) := by
  unfold takeTiles
  dsimp only
  refine memoryOk_foldl ?_ h
  intro _ _ h1
  split
  · refine memoryOk_ite h1 ?_
    split
    · next heq => exact memoryOk_fst heq (memoryOk_taskRead h1)
    · next heq =>
        have h2 := memoryOk_fst heq (memoryOk_taskRead h1)
        exact memoryOk_setCore (memoryOk_keepTile h2)
  · exact h1

theorem memoryOk_countSteps {s : State} {n : Nat} {op : Op} {g : GridCore} {a : ArrayTask} {t : TileIx} {ps k0 k1 : Nat}
    (h : MemoryOk s) : MemoryOk (countSteps s n op g a t ps k0 k1) := by
  unfold countSteps
  dsimp only
  refine memoryOk_ite h ?_
  refine memoryOk_foldl ?_ h
  intro _ _ h1
  refine memoryOk_ite (memoryOk_count64 h1) ?_
  split
  · exact h1
  · split
    · exact memoryOk_count64 h1
    · exact memoryOk_count64 h1
    · exact memoryOk_count64 h1

theorem memoryOk_regionRead {s : State} {n : Nat} {g : GridCore} {t : Nat} {ws : List (Nat × Nat)} (h : MemoryOk s) :
    MemoryOk (regionRead s n g t ws).1 := by
  unfold regionRead
  split
  · exact memoryOk_boundFault h
  · exact memoryOk_ite_fst (memoryOk_scoreHeld h) (memoryOk_taskRead h)

theorem memoryOk_loadSwap {s : State} {n : Nat} {l : LoadedOp} {g : GridCore} (h : MemoryOk s) : MemoryOk (loadSwap s n l g) := by
  unfold loadSwap
  dsimp only
  split
  · exact h
  · refine memoryOk_ite h ?_
    split
    · exact h
    · split
      · exact h
      · split
        · next heq => exact memoryOk_fst heq (memoryOk_regionRead h)
        · next heq =>
            have h1 := memoryOk_fst heq (memoryOk_regionRead h)
            exact memoryOk_setCore (memoryOk_noteRaised h1)

theorem memoryOk_startPass {s : State} {n : Nat} {l : LoadedOp} {g : GridCore} (h : MemoryOk s) :
    MemoryOk (startPass s n l g) := by
  unfold startPass
  dsimp only
  split
  · exact h
  · split
    · refine memoryOk_ite h ?_
      refine memoryOk_ite (memoryOk_scoreHeld h) ?_
      refine memoryOk_setCore ?_
      split
      · exact memoryOk_scoreEnter h
      · exact h
    · exact h

theorem memoryOk_feedPass {s : State} {n : Nat} {l : LoadedOp} {g : GridCore} (h : MemoryOk s) : MemoryOk (feedPass s n l g) := by
  unfold feedPass
  dsimp only
  split
  · exact h
  · split
    · split
      · next heq => exact memoryOk_fst heq (memoryOk_regionRead h)
      · next heq =>
          have h1 := memoryOk_fst heq (memoryOk_regionRead h)
          exact memoryOk_setCore (memoryOk_noteRaised (memoryOk_countSteps h1))
    · exact h

theorem memoryOk_feedArrays {s : State} {n : Nat} {l : LoadedOp} {g : GridCore} (h : MemoryOk s) :
    MemoryOk (feedArrays s n l g) := by
  unfold feedArrays
  exact memoryOk_loadSwap (memoryOk_feedPass (memoryOk_startPass (memoryOk_loadSwap (memoryOk_takeTiles h))))

theorem memoryOk_coreFault {s : State} {n : Nat} {g : GridCore} {id : W32} {arr : Nat} {cols rows : List Nat} (h : MemoryOk s) :
    MemoryOk (coreFault s n g id arr cols rows) := by
  unfold coreFault
  dsimp only
  exact memoryOk_beginRecovery (memoryOk_post (memoryOk_setCore (memoryOk_scoreLeave
      (memoryOk_recordOnce (memoryOk_count32 h)))) _ _ _ _)

theorem memoryOk_noteCancel {s : State} {n log source arr part row col short : Nat} {id : W32} {tile : Nat} (h : MemoryOk s) :
    MemoryOk (noteCancel s n log source arr part row col short id tile) := by
  unfold noteCancel
  dsimp only
  exact memoryOk_ite (memoryOk_count32 h) (memoryOk_wr (memoryOk_wr (memoryOk_count32 h)))

theorem memoryOk_storePart {s : State} {n : Nat} {l : LoadedOp} {g : GridCore} {p : Pass} (h : MemoryOk s) :
    MemoryOk (storePart s n l g p).1 := by
  unfold storePart
  dsimp only
  split
  · next heq =>
      have h1 := memoryOk_fst heq (memoryOk_storeWords h)
      exact memoryOk_haltStore h1
  · next heq => exact memoryOk_fst heq (memoryOk_storeWords h)

theorem memoryOk_monitorPass {s : State} {n : Nat} {l : LoadedOp} {g : GridCore} {t : TileIx} {p : Pass} (h : MemoryOk s) :
    MemoryOk (monitorPass s n l g t p) := by
  unfold monitorPass
  dsimp only
  refine memoryOk_ite h ?_
  refine memoryOk_foldl ?_ h
  intro _ _ h1
  refine memoryOk_ite h1 ?_
  split
  · exact memoryOk_noteCancel h1
  · exact h1

theorem memoryOk_finishCore {s : State} {n : Nat} {id : W32} {log : Nat} (h : MemoryOk s) : MemoryOk (finishCore s n id log) := by
  unfold finishCore
  dsimp only
  split
  · refine memoryOk_ite h ?_
    split
    · exact memoryOk_ite (memoryOk_setFlag (memoryOk_putOp h)) (memoryOk_putOp h)
    · exact memoryOk_putOp h
  · exact h

theorem memoryOk_scaleReads {s : State} {n : Nat} {op : Op} {g : GridCore} {t : TileIx} {ps cols : Nat} (h : MemoryOk s) :
    MemoryOk (scaleReads s n op g t ps cols).1 := by
  unfold scaleReads
  dsimp only
  split
  · exact memoryOk_ite_fst h (memoryOk_regionRead h)
  · exact h

theorem memoryOk_commitPass {s : State} {n : Nat} {l : LoadedOp} {g : GridCore} {a : ArrayTask} {p : Pass} (h : MemoryOk s) :
    MemoryOk (commitPass s n l g a p).1 := by
  unfold commitPass
  dsimp only
  split
  · exact h
  · refine memoryOk_ite_fst ?_ ?_
    · refine memoryOk_ite_fst h ?_
      split
      · next heq => exact memoryOk_fst heq (memoryOk_storePart h)
      · next heq =>
          have h1 := memoryOk_fst heq (memoryOk_storePart h)
          exact memoryOk_ite (memoryOk_underWay (memoryOk_monitorPass h1))
              (memoryOk_ite (memoryOk_arriveAt (memoryOk_monitorPass h1)) (memoryOk_endTransfer (memoryOk_monitorPass h1)))
    · split
      · next heq => exact memoryOk_fst heq (memoryOk_scaleReads h)
      · next heq =>
          have h1 := memoryOk_fst heq (memoryOk_scaleReads h)
          split
          · next heq => exact memoryOk_fst heq (memoryOk_storeResults h1)
          · next heq =>
              have h2 := memoryOk_fst heq (memoryOk_storeResults h1)
              split
              · next heq => exact memoryOk_fst heq (memoryOk_ite_fst (memoryOk_storeResults h2) h2)
              · next heq =>
                  have h3 := memoryOk_fst heq (memoryOk_ite_fst (memoryOk_storeResults h2) h2)
                  exact memoryOk_partStored (memoryOk_setCore (memoryOk_monitorPass h3))

theorem memoryOk_retirePass {s : State} {n : Nat} {l : LoadedOp} {g : GridCore} {p : Pass} (h : MemoryOk s) :
    MemoryOk (retirePass s n l g p) := by
  unfold retirePass
  dsimp only
  exact memoryOk_ite (memoryOk_finishCore (memoryOk_scoreDone (memoryOk_setCore h))) (memoryOk_scoreDone (memoryOk_setCore h))

theorem memoryOk_comparePass {s : State} {n : Nat} {l : LoadedOp} {g : GridCore} {ds : List Disturb} (h : MemoryOk s) :
    MemoryOk (comparePass s n l g ds) := by
  unfold comparePass
  dsimp only
  split
  · exact h
  · split
    · exact h
    · split
      · exact memoryOk_coreFault h
      · split
        · next heq => exact memoryOk_fst heq (memoryOk_commitPass h)
        · next heq =>
            have h1 := memoryOk_fst heq (memoryOk_commitPass h)
            exact memoryOk_retirePass h1

theorem memoryOk_combineStore {s : State} {n : Nat} {l : LoadedOp} {g : GridCore} {a : ArrayTask} {tile : TileIx}
    (h : MemoryOk s) : MemoryOk (combineStore s n l g a tile).1 := by
  unfold combineStore
  dsimp only
  split
  · next heq => exact memoryOk_fst heq (memoryOk_storeResults h)
  · next heq =>
      have h1 := memoryOk_fst heq (memoryOk_storeResults h)
      exact memoryOk_ite_fst (memoryOk_storeResults h1) h1

theorem memoryOk_combineReads {s : State} {n : Nat} {l : LoadedOp} {g : GridCore} {tile : TileIx} {t : Nat} (h : MemoryOk s) :
    MemoryOk (combineReads s n l g tile t).1 := by
  unfold combineReads
  split
  · next heq => exact memoryOk_fst heq (memoryOk_taskRead h)
  · next heq =>
      have h1 := memoryOk_fst heq (memoryOk_taskRead h)
      exact memoryOk_scaleReads h1

theorem memoryOk_opCombine {n log : Nat} {s : State} (h : MemoryOk s) : MemoryOk (opCombine n log s) := by
  unfold opCombine
  dsimp only
  split
  · exact h
  · split
    · exact h
    · refine memoryOk_ite h ?_
      split
      · next heq => exact memoryOk_fst heq (memoryOk_combineReads h)
      · next heq =>
          have h1 := memoryOk_fst heq (memoryOk_combineReads h)
          split
          · next heq => exact memoryOk_fst heq (memoryOk_combineStore h1)
          · next heq =>
              have h2 := memoryOk_fst heq (memoryOk_combineStore h1)
              refine memoryOk_ite ?_ ?_
              · refine memoryOk_finishCore ?_
                refine memoryOk_setCore ?_
                refine memoryOk_arriveStore ?_
                refine memoryOk_ite h2 ?_
                refine memoryOk_foldl ?_ h2
                intro _ _ h3
                refine memoryOk_ite h3 ?_
                split
                · exact memoryOk_noteCancel h3
                · exact h3
              · refine memoryOk_setCore ?_
                refine memoryOk_arriveStore ?_
                refine memoryOk_ite h2 ?_
                refine memoryOk_foldl ?_ h2
                intro _ _ h3
                refine memoryOk_ite h3 ?_
                split
                · exact memoryOk_noteCancel h3
                · exact h3

/-! ### Vector -/

theorem memoryOk_vecNext {s : State} {n : Nat} {v : VecAt} {t : VecTask} (h : MemoryOk s) : MemoryOk (vecNext s n v t) := by
  unfold vecNext
  dsimp only
  exact memoryOk_setCore h

theorem memoryOk_vecReg {n log code : Nat} {f : VecOp → VecTask → List W32} {s : State} (h : MemoryOk s) :
    MemoryOk (vecReg n log code f s) := by
  unfold vecReg
  split
  · exact h
  · exact memoryOk_vecNext h

theorem memoryOk_vecUn {n log code : Nat} {f : W32 → W32} {s : State} (h : MemoryOk s) : MemoryOk (vecUn n log code f s) := by
  unfold vecUn
  exact memoryOk_vecReg h

theorem memoryOk_vecBin {n log code : Nat} {f : W32 → W32 → W32} {s : State} (h : MemoryOk s) :
    MemoryOk (vecBin n log code f s) := by
  unfold vecBin
  exact memoryOk_vecReg h

theorem memoryOk_opLd {n log : Nat} {s : State} (h : MemoryOk s) : MemoryOk (opLd n log s) := by
  unfold opLd
  dsimp only
  split
  · exact h
  · split
    · exact h
    · refine memoryOk_ite h ?_
      split
      · next heq => exact memoryOk_fst heq (memoryOk_regionRead h)
      · next heq =>
          have h1 := memoryOk_fst heq (memoryOk_regionRead h)
          exact memoryOk_vecNext (memoryOk_noteRaised h1)

theorem memoryOk_opSt {n log : Nat} {s : State} (h : MemoryOk s) : MemoryOk (opSt n log s) := by
  unfold opSt
  dsimp only
  split
  · exact h
  · split
    · exact h
    · refine memoryOk_ite (memoryOk_vecNext h) ?_
      refine memoryOk_ite (memoryOk_scoreHeld h) ?_
      split
      · next heq => exact memoryOk_fst heq (memoryOk_storeResults h)
      · next heq =>
          have h1 := memoryOk_fst heq (memoryOk_storeResults h)
          exact memoryOk_vecNext (memoryOk_partStored (memoryOk_setCore h1))

theorem memoryOk_opBcast {n log : Nat} {s : State} (h : MemoryOk s) : MemoryOk (opBcast n log s) := by
  unfold opBcast
  exact memoryOk_vecReg h

theorem memoryOk_opAdd {n log : Nat} {a : State} (h : MemoryOk a) : MemoryOk (opAdd n log a) := by
  unfold opAdd
  exact memoryOk_vecBin h

theorem memoryOk_opSub {n log : Nat} {a : State} (h : MemoryOk a) : MemoryOk (opSub n log a) := by
  unfold opSub
  exact memoryOk_vecBin h

theorem memoryOk_opMul {n log : Nat} {a : State} (h : MemoryOk a) : MemoryOk (opMul n log a) := by
  unfold opMul
  exact memoryOk_vecBin h

theorem memoryOk_opFma {n log : Nat} {s : State} (h : MemoryOk s) : MemoryOk (opFma n log s) := by
  unfold opFma
  exact memoryOk_vecReg h

theorem memoryOk_opMin {n log : Nat} {a : State} (h : MemoryOk a) : MemoryOk (opMin n log a) := by
  unfold opMin
  exact memoryOk_vecBin h

theorem memoryOk_opMax {n log : Nat} {a : State} (h : MemoryOk a) : MemoryOk (opMax n log a) := by
  unfold opMax
  exact memoryOk_vecBin h

theorem memoryOk_opAbs {n log : Nat} {a : State} (h : MemoryOk a) : MemoryOk (opAbs n log a) := by
  unfold opAbs
  exact memoryOk_vecUn h

theorem memoryOk_opNeg {n log : Nat} {a : State} (h : MemoryOk a) : MemoryOk (opNeg n log a) := by
  unfold opNeg
  exact memoryOk_vecUn h

theorem memoryOk_opCopysign {n log : Nat} {a : State} (h : MemoryOk a) : MemoryOk (opCopysign n log a) := by
  unfold opCopysign
  exact memoryOk_vecBin h

theorem memoryOk_opCmp {n log : Nat} {s : State} (h : MemoryOk s) : MemoryOk (opCmp n log s) := by
  unfold opCmp
  exact memoryOk_vecReg h

theorem memoryOk_opSel {n log : Nat} {s : State} (h : MemoryOk s) : MemoryOk (opSel n log s) := by
  unfold opSel
  exact memoryOk_vecReg h

theorem memoryOk_opDiv {n log : Nat} {a : State} (h : MemoryOk a) : MemoryOk (opDiv n log a) := by
  unfold opDiv
  exact memoryOk_vecBin h

theorem memoryOk_opSqrt {n log : Nat} {a : State} (h : MemoryOk a) : MemoryOk (opSqrt n log a) := by
  unfold opSqrt
  exact memoryOk_vecUn h

theorem memoryOk_opRecip {n log : Nat} {a : State} (h : MemoryOk a) : MemoryOk (opRecip n log a) := by
  unfold opRecip
  exact memoryOk_vecUn h

theorem memoryOk_opRsqrt {n log : Nat} {a : State} (h : MemoryOk a) : MemoryOk (opRsqrt n log a) := by
  unfold opRsqrt
  exact memoryOk_vecUn h

theorem memoryOk_opExp2 {n log : Nat} {a : State} (h : MemoryOk a) : MemoryOk (opExp2 n log a) := by
  unfold opExp2
  exact memoryOk_vecUn h

theorem memoryOk_opLog2 {n log : Nat} {a : State} (h : MemoryOk a) : MemoryOk (opLog2 n log a) := by
  unfold opLog2
  exact memoryOk_vecUn h

theorem memoryOk_opExp {n log : Nat} {a : State} (h : MemoryOk a) : MemoryOk (opExp n log a) := by
  unfold opExp
  exact memoryOk_vecUn h

theorem memoryOk_opLn {n log : Nat} {a : State} (h : MemoryOk a) : MemoryOk (opLn n log a) := by
  unfold opLn
  exact memoryOk_vecUn h

theorem memoryOk_opTanh {n log : Nat} {a : State} (h : MemoryOk a) : MemoryOk (opTanh n log a) := by
  unfold opTanh
  exact memoryOk_vecUn h

theorem memoryOk_opSigmoid {n log : Nat} {a : State} (h : MemoryOk a) : MemoryOk (opSigmoid n log a) := by
  unfold opSigmoid
  exact memoryOk_vecUn h

theorem memoryOk_opErf {n log : Nat} {a : State} (h : MemoryOk a) : MemoryOk (opErf n log a) := by
  unfold opErf
  exact memoryOk_vecUn h

theorem memoryOk_opGelu {n log : Nat} {a : State} (h : MemoryOk a) : MemoryOk (opGelu n log a) := by
  unfold opGelu
  exact memoryOk_vecUn h

theorem memoryOk_opSilu {n log : Nat} {a : State} (h : MemoryOk a) : MemoryOk (opSilu n log a) := by
  unfold opSilu
  exact memoryOk_vecUn h

theorem memoryOk_opLsum {n log : Nat} {s : State} (h : MemoryOk s) : MemoryOk (opLsum n log s) := by
  unfold opLsum
  exact memoryOk_vecReg h

theorem memoryOk_opLmax {n log : Nat} {s : State} (h : MemoryOk s) : MemoryOk (opLmax n log s) := by
  unfold opLmax
  exact memoryOk_vecReg h

theorem memoryOk_opLmin {n log : Nat} {s : State} (h : MemoryOk s) : MemoryOk (opLmin n log s) := by
  unfold opLmin
  exact memoryOk_vecReg h

theorem memoryOk_opIadd {n log : Nat} {a : State} (h : MemoryOk a) : MemoryOk (opIadd n log a) := by
  unfold opIadd
  exact memoryOk_vecBin h

theorem memoryOk_opIsub {n log : Nat} {a : State} (h : MemoryOk a) : MemoryOk (opIsub n log a) := by
  unfold opIsub
  exact memoryOk_vecBin h

theorem memoryOk_opImul {n log : Nat} {a : State} (h : MemoryOk a) : MemoryOk (opImul n log a) := by
  unfold opImul
  exact memoryOk_vecBin h

theorem memoryOk_opShl {n log : Nat} {a : State} (h : MemoryOk a) : MemoryOk (opShl n log a) := by
  unfold opShl
  exact memoryOk_vecBin h

theorem memoryOk_opShr {n log : Nat} {a : State} (h : MemoryOk a) : MemoryOk (opShr n log a) := by
  unfold opShr
  exact memoryOk_vecBin h

theorem memoryOk_opAnd {n log : Nat} {a : State} (h : MemoryOk a) : MemoryOk (opAnd n log a) := by
  unfold opAnd
  exact memoryOk_vecBin h

theorem memoryOk_opOr {n log : Nat} {a : State} (h : MemoryOk a) : MemoryOk (opOr n log a) := by
  unfold opOr
  exact memoryOk_vecBin h

theorem memoryOk_opXor {n log : Nat} {a : State} (h : MemoryOk a) : MemoryOk (opXor n log a) := by
  unfold opXor
  exact memoryOk_vecBin h

theorem memoryOk_opIcmp {n log : Nat} {s : State} (h : MemoryOk s) : MemoryOk (opIcmp n log s) := by
  unfold opIcmp
  exact memoryOk_vecReg h

theorem memoryOk_opPopcnt {n log : Nat} {a : State} (h : MemoryOk a) : MemoryOk (opPopcnt n log a) := by
  unfold opPopcnt
  exact memoryOk_vecUn h

theorem memoryOk_opClz {n log : Nat} {a : State} (h : MemoryOk a) : MemoryOk (opClz n log a) := by
  unfold opClz
  exact memoryOk_vecUn h

theorem memoryOk_opCvt {n log : Nat} {s : State} (h : MemoryOk s) : MemoryOk (opCvt n log s) := by
  unfold opCvt
  dsimp only
  split
  · exact h
  · exact memoryOk_vecNext (memoryOk_ite (memoryOk_setCore (memoryOk_noteRaised h)) (memoryOk_noteRaised h))

theorem memoryOk_opRand {n log : Nat} {s : State} (h : MemoryOk s) : MemoryOk (opRand n log s) := by
  unfold opRand
  dsimp only
  split
  · exact h
  · exact memoryOk_vecNext (memoryOk_setCore h)

theorem memoryOk_opSort {n log : Nat} {s : State} (h : MemoryOk s) : MemoryOk (opSort n log s) := by
  unfold opSort
  dsimp only
  split
  · exact h
  · exact memoryOk_vecNext h

theorem memoryOk_opVecEnd {n log : Nat} {s : State} (h : MemoryOk s) : MemoryOk (opVecEnd n log s) := by
  unfold opVecEnd
  dsimp only
  split
  · exact h
  · exact memoryOk_ite (memoryOk_finishCore (memoryOk_flushTask (memoryOk_setCore (memoryOk_partStored h))))
      (memoryOk_setCore (memoryOk_partStored h))

/-! ### Paged -/

theorem memoryOk_countFinal {s : State} {n : Nat} {rows : List RowState} (h : MemoryOk s) : MemoryOk (countFinal s n rows) := by
  unfold countFinal
  dsimp only
  exact memoryOk_ite (memoryOk_ite h (memoryOk_count32 h)) (memoryOk_count32 (memoryOk_ite h (memoryOk_count32 h)))

theorem memoryOk_noteHdrFault {s : State} {n code frame : Nat} {id : W32} (h : MemoryOk s) :
    MemoryOk (noteHdrFault s n code frame id) := by
  unfold noteHdrFault
  dsimp only
  exact memoryOk_recordOnce (memoryOk_count32 h)

theorem memoryOk_noteLenFault {s : State} {n code entry : Nat} {id : W32} (h : MemoryOk s) :
    MemoryOk (noteLenFault s n code entry id) := by
  unfold noteLenFault
  exact memoryOk_recordOnce h

theorem memoryOk_walkTiles {s : State} {n k tiles late : Nat} {cause : StallCause} (h : MemoryOk s) :
    MemoryOk (walkTiles s n k tiles late cause) := by
  unfold walkTiles
  dsimp only
  exact memoryOk_setStream (memoryOk_lateAs (memoryOk_count64 h))

/-! ### Tiers -/

theorem memoryOk_opDramWriteBack {word : Nat} {s : State} (h : MemoryOk s) : MemoryOk (opDramWriteBack word s) := by
  unfold opDramWriteBack
  dsimp only
  split
  · exact h
  · exact memoryOk_setChan (memoryOk_writeBackWord h)

theorem memoryOk_opDramRefresh {n : Nat} {tier1 : Bool} {device pc : Nat} {bank : Option Nat} {s : State} (h : MemoryOk s) :
    MemoryOk (opDramRefresh n tier1 device pc bank s) := by
  unfold opDramRefresh
  dsimp only
  exact memoryOk_ite h (memoryOk_setChan h)

theorem memoryOk_opHotChannelSample {n : Nat} {occ : List Nat} {s : State} (h : MemoryOk s) :
    MemoryOk (opHotChannelSample n occ s) := by
  unfold opHotChannelSample
  dsimp only
  refine memoryOk_ite (memoryOk_setChan h) ?_
  split
  · exact memoryOk_setChan h
  · exact memoryOk_ite (memoryOk_ite (memoryOk_setFld (memoryOk_setFld (memoryOk_setChan h))) (memoryOk_setChan h))
      (memoryOk_ite (memoryOk_post (memoryOk_recordOnce (memoryOk_count32 (memoryOk_setChan h))) _ _ _ _) (memoryOk_setChan h))

theorem memoryOk_migFault {s : State} {n : Nat} {c : MigCmd} (h : MemoryOk s) : MemoryOk (migFault s n c) := by
  unfold migFault
  exact memoryOk_post (memoryOk_setFlag h) _ _ _ _

theorem memoryOk_migEnqueue {n : Nat} {s : State} (h : MemoryOk s) : MemoryOk (migEnqueue n s) := by
  unfold migEnqueue
  dsimp only
  exact memoryOk_ite (memoryOk_setFlag h) (memoryOk_ite (memoryOk_migFault h) (memoryOk_startWake (memoryOk_setChan h)))

theorem memoryOk_migMark {s : State} {n i : Nat} {c : MigCmd} (h : MemoryOk s) : MemoryOk (migMark s n i c) := by
  unfold migMark
  dsimp only
  exact memoryOk_setChan h

theorem memoryOk_migDrop {s : State} {n i : Nat} (h : MemoryOk s) : MemoryOk (migDrop s n i) := by
  unfold migDrop
  dsimp only
  exact memoryOk_setChan h

theorem memoryOk_readMoved {s : State} {src : Nat} (h : MemoryOk s) : MemoryOk (readMoved s src) := by
  unfold readMoved
  dsimp only
  refine memoryOk_portBytes ?_
  split
  · exact h
  · split
    · exact memoryOk_noteCeWord (memoryOk_noteWriteBack (memoryOk_count32 h)) _
    · exact h
  · refine memoryOk_noteUeWord ?_ _
    split
    · exact memoryOk_count32 h
    · exact h

theorem memoryOk_putMoved {s : State} {src dst : Nat} (h : MemoryOk s) : MemoryOk (putMoved s src dst) := by
  unfold putMoved
  dsimp only
  split
  · exact memoryOk_portBytes (memoryOk_setChan (memoryOk_copyWord h _ _))
  · exact memoryOk_setChan (memoryOk_copyWord h _ _)
  · exact memoryOk_copyWord h _ _

theorem memoryOk_moveWord {s : State} {src dst : Nat} (h : MemoryOk s) : MemoryOk (moveWord s src dst) := by
  unfold moveWord
  exact memoryOk_putMoved (memoryOk_readMoved h)

theorem memoryOk_moveBytes {s : State} {src dst len : Nat} (h : MemoryOk s) : MemoryOk (moveBytes s src dst len) := by
  unfold moveBytes
  exact memoryOk_foldl (fun _ _ h1 => memoryOk_moveWord h1) h

theorem memoryOk_fillFrame {s : State} {n f src : Nat} (h : MemoryOk s) : MemoryOk (fillFrame s n f src) := by
  unfold fillFrame
  dsimp only
  exact memoryOk_ite (memoryOk_count64 (memoryOk_foldl (fun _ _ h1 => memoryOk_foldl (fun _ _ h2 => memoryOk_putMoved h2)
      (memoryOk_readMoved h1)) h)) (memoryOk_foldl (fun _ _ h1 => memoryOk_foldl (fun _ _ h2 => memoryOk_putMoved h2)
      (memoryOk_readMoved h1)) h)

theorem memoryOk_copyFrame {s : State} {n f t1 : Nat} (h : MemoryOk s) : MemoryOk (copyFrame s n f t1) := by
  unfold copyFrame
  split
  · exact memoryOk_moveBytes h
  · exact h

theorem memoryOk_migRun {o n : Nat} {addr : Bool} {act : MigCmd → State → Option State} {s : State}
    (hact : ∀ x0 x1, MemoryOk x1 → MemoryOkIf (act x0 x1)) (h : MemoryOk s) : MemoryOk (migRun o n addr act s) := by
  unfold migRun
  split
  · exact h
  · refine memoryOk_ite h ?_
    refine memoryOk_ite (memoryOk_migFault (memoryOk_migDrop h)) ?_
    split
    · next heq => exact hact _ _ (memoryOk_migMark h) _ heq
    · exact h

theorem memoryOk_opFetchFromTier1 {n : Nat} {s : State} (h : MemoryOk s) : MemoryOk (opFetchFromTier1 n s) := by
  unfold opFetchFromTier1
  exact memoryOk_migRun (fun _ _ h1 => memoryOk_some (memoryOk_markFrame (memoryOk_fillFrame h1))) h

theorem memoryOk_opCopyToTier1 {n : Nat} {s : State} (h : MemoryOk s) : MemoryOk (opCopyToTier1 n s) := by
  unfold opCopyToTier1
  exact memoryOk_migRun (fun _ _ h1 => memoryOk_some (memoryOk_copyFrame h1)) h

theorem memoryOk_opFetchFromHost {n : Nat} {s : State} (h : MemoryOk s) : MemoryOk (opFetchFromHost n s) := by
  unfold opFetchFromHost
  dsimp only
  split
  · exact h
  · refine memoryOk_ite h ?_
    split
    · exact memoryOk_migFault (memoryOk_migDrop h)
    · refine memoryOk_ite (memoryOk_migFault (memoryOk_migDrop h)) ?_
      split
      · exact memoryOk_migFault (memoryOk_migDrop h)
      · exact memoryOk_ite (memoryOk_migFault (memoryOk_migDrop (memoryOk_count32 h)))
          (memoryOk_markFrame (memoryOk_fillFrame (memoryOk_migMark h)))

theorem memoryOk_opMarkAbsent {n : Nat} {s : State} (h : MemoryOk s) : MemoryOk (opMarkAbsent n s) := by
  unfold opMarkAbsent
  exact memoryOk_migRun (fun _ _ h1 => memoryOk_some (memoryOk_markFrame h1)) h

theorem memoryOk_opMarkPresent {n : Nat} {s : State} (h : MemoryOk s) : MemoryOk (opMarkPresent n s) := by
  unfold opMarkPresent
  exact memoryOk_migRun (fun _ _ h1 => memoryOk_some (memoryOk_markFrame h1)) h

theorem memoryOk_opEvict {n : Nat} {s : State} (h : MemoryOk s) : MemoryOk (opEvict n s) := by
  unfold opEvict
  dsimp only
  split
  · exact h
  · exact memoryOk_ite h (memoryOk_ite (memoryOk_migFault (memoryOk_migDrop h))
      (memoryOk_ite (memoryOk_setChan (memoryOk_markFrame h)) (memoryOk_copyFrame (memoryOk_migMark (memoryOk_markFrame h)))))

theorem memoryOk_opRepairBlockFromMirror {n : Nat} {s : State} (h : MemoryOk s) : MemoryOk (opRepairBlockFromMirror n s) := by
  unfold opRepairBlockFromMirror
  dsimp only
  exact memoryOk_migRun (fun _ _ h1 => memoryOk_some (memoryOk_moveBytes h1)) h

theorem memoryOk_freeHalts {s : State} {p : TaskHalt → Bool} (h : MemoryOk s) : MemoryOk (freeHalts s p) := by
  unfold freeHalts
  dsimp only
  exact memoryOk_mk h

theorem memoryOk_resumeAll {s : State} {n f : Nat} (h : MemoryOk s) : MemoryOk (resumeAll s n f) := by
  unfold resumeAll
  dsimp only
  exact memoryOk_freeHalts (memoryOk_foldl (fun _ _ h1 => memoryOk_resumeStream h1) h)

theorem memoryOk_resumeMerges {s : State} {n off : Nat} (h : MemoryOk s) : MemoryOk (resumeMerges s n off) := by
  unfold resumeMerges
  dsimp only
  exact memoryOk_freeHalts h

theorem memoryOk_dirtyFrame {s : State} {n f : Nat} (h : MemoryOk s) : MemoryOk (dirtyFrame s n f) := by
  unfold dirtyFrame
  exact memoryOk_foldl (fun _ _ h1 => memoryOk_markDirty h1) h

theorem memoryOk_opMigrationComplete {n : Nat} {s : State} (h : MemoryOk s) : MemoryOk (opMigrationComplete n s) := by
  unfold opMigrationComplete
  dsimp only
  split
  · exact h
  · split
    · exact h
    · exact memoryOk_ite (memoryOk_post (memoryOk_ite (memoryOk_resumeAll
        (memoryOk_ite (memoryOk_setChan (memoryOk_ite (memoryOk_resumeMerges
        (memoryOk_ite (memoryOk_dirtyFrame (memoryOk_count64 (memoryOk_migDrop h))) (memoryOk_count64 (memoryOk_migDrop h))))
        (memoryOk_ite (memoryOk_dirtyFrame (memoryOk_count64 (memoryOk_migDrop h))) (memoryOk_count64 (memoryOk_migDrop h)))))
        (memoryOk_ite (memoryOk_resumeMerges (memoryOk_ite (memoryOk_dirtyFrame (memoryOk_count64 (memoryOk_migDrop h)))
        (memoryOk_count64 (memoryOk_migDrop h)))) (memoryOk_ite (memoryOk_dirtyFrame (memoryOk_count64 (memoryOk_migDrop h)))
        (memoryOk_count64 (memoryOk_migDrop h)))))) (memoryOk_ite (memoryOk_setChan
        (memoryOk_ite (memoryOk_resumeMerges (memoryOk_ite (memoryOk_dirtyFrame (memoryOk_count64 (memoryOk_migDrop h)))
        (memoryOk_count64 (memoryOk_migDrop h)))) (memoryOk_ite (memoryOk_dirtyFrame (memoryOk_count64 (memoryOk_migDrop h)))
        (memoryOk_count64 (memoryOk_migDrop h))))) (memoryOk_ite (memoryOk_resumeMerges
        (memoryOk_ite (memoryOk_dirtyFrame (memoryOk_count64 (memoryOk_migDrop h))) (memoryOk_count64 (memoryOk_migDrop h))))
        (memoryOk_ite (memoryOk_dirtyFrame (memoryOk_count64 (memoryOk_migDrop h)))
        (memoryOk_count64 (memoryOk_migDrop h)))))) _ _ _ _) (memoryOk_ite
        (memoryOk_resumeAll (memoryOk_ite (memoryOk_setChan (memoryOk_ite
        (memoryOk_resumeMerges (memoryOk_ite (memoryOk_dirtyFrame (memoryOk_count64 (memoryOk_migDrop h)))
        (memoryOk_count64 (memoryOk_migDrop h)))) (memoryOk_ite (memoryOk_dirtyFrame (memoryOk_count64 (memoryOk_migDrop h)))
        (memoryOk_count64 (memoryOk_migDrop h))))) (memoryOk_ite (memoryOk_resumeMerges
        (memoryOk_ite (memoryOk_dirtyFrame (memoryOk_count64 (memoryOk_migDrop h))) (memoryOk_count64 (memoryOk_migDrop h))))
        (memoryOk_ite (memoryOk_dirtyFrame (memoryOk_count64 (memoryOk_migDrop h))) (memoryOk_count64 (memoryOk_migDrop h))))))
        (memoryOk_ite (memoryOk_setChan (memoryOk_ite (memoryOk_resumeMerges
        (memoryOk_ite (memoryOk_dirtyFrame (memoryOk_count64 (memoryOk_migDrop h))) (memoryOk_count64 (memoryOk_migDrop h))))
        (memoryOk_ite (memoryOk_dirtyFrame (memoryOk_count64 (memoryOk_migDrop h))) (memoryOk_count64 (memoryOk_migDrop h)))))
        (memoryOk_ite (memoryOk_resumeMerges (memoryOk_ite (memoryOk_dirtyFrame (memoryOk_count64 (memoryOk_migDrop h)))
        (memoryOk_count64 (memoryOk_migDrop h)))) (memoryOk_ite (memoryOk_dirtyFrame (memoryOk_count64 (memoryOk_migDrop h)))
        (memoryOk_count64 (memoryOk_migDrop h))))))

theorem memoryOk_fence {s : State} {n unit : Nat} {die : Bool} (h : MemoryOk s) : MemoryOk (fence s n unit die) := by
  unfold fence
  dsimp only
  exact memoryOk_ite h (memoryOk_post (memoryOk_wr h) _ _ _ _)

theorem memoryOk_loseTier1 {s : State} {n : Nat} (h : MemoryOk s) : MemoryOk (loseTier1 s n) := by
  unfold loseTier1
  dsimp only
  exact memoryOk_ite (memoryOk_setChan h) (memoryOk_post (memoryOk_setChan (memoryOk_setFlag (memoryOk_setChan h))) _ _ _ _)

theorem memoryOk_opT0FenceWrite {n : Nat} {v : W64} {s : State} (h : MemoryOk s) : MemoryOk (opT0FenceWrite n v s) := by
  unfold opT0FenceWrite
  exact memoryOk_ite h (memoryOk_ite (memoryOk_fence h) h)

theorem memoryOk_opIlLockWrite {v : W64} {s : State} (h : MemoryOk s) : MemoryOk (opIlLockWrite v s) := by
  unfold opIlLockWrite
  exact memoryOk_ite h (memoryOk_ite (memoryOk_setFlag h) h)

theorem memoryOk_shadowBlock {s : State} {n b : Nat} (h : MemoryOk s) : MemoryOk (shadowBlock s n b) := by
  unfold shadowBlock
  dsimp only
  exact memoryOk_ite h (memoryOk_ite (memoryOk_setChan h) (memoryOk_count64 (memoryOk_moveBytes (memoryOk_setChan h))))

theorem memoryOk_opShadowBlockCopy {n b : Nat} {s : State} (h : MemoryOk s) : MemoryOk (opShadowBlockCopy n b s) := by
  unfold opShadowBlockCopy
  exact memoryOk_ite h (memoryOk_shadowBlock h)

theorem memoryOk_askSync {s : State} {n tag : Nat} (h : MemoryOk s) : MemoryOk (askSync s n tag) := by
  unfold askSync
  dsimp only
  exact memoryOk_setChan (memoryOk_setFld (memoryOk_setFlag h))

theorem memoryOk_opShadowSyncRequest {n : Nat} {v : W64} {s : State} (h : MemoryOk s) : MemoryOk (opShadowSyncRequest n v s) := by
  unfold opShadowSyncRequest
  exact memoryOk_ite h (memoryOk_ite (memoryOk_askSync h) (memoryOk_setFld h))

theorem memoryOk_endSync {s : State} {n : Nat} {y : Sync} (h : MemoryOk s) : MemoryOk (endSync s n y) := by
  unfold endSync
  dsimp only
  exact memoryOk_post (memoryOk_mk (memoryOk_setChan (memoryOk_setFlag h))) _ _ _ _

theorem memoryOk_opShadowSyncComplete {n : Nat} {s : State} (h : MemoryOk s) : MemoryOk (opShadowSyncComplete n s) := by
  unfold opShadowSyncComplete
  dsimp only
  split
  · exact h
  · exact memoryOk_ite (memoryOk_ite (memoryOk_askSync (memoryOk_endSync h)) (memoryOk_endSync h)) h

theorem memoryOk_syncNow {s : State} {n : Nat} (h : MemoryOk s) : MemoryOk (syncNow s n) := by
  unfold syncNow
  dsimp only
  split
  · exact memoryOk_endSync (memoryOk_foldl (fun _ _ h1 => memoryOk_shadowBlock h1) (memoryOk_askSync h))
  · exact memoryOk_foldl (fun _ _ h1 => memoryOk_shadowBlock h1) (memoryOk_askSync h)

/-! ### Links -/

theorem memoryOk_noteSent {s : State} {send : Option (Nat × Nat)} {n : Nat} (h : MemoryOk s) : MemoryOk (noteSent s send n) := by
  unfold noteSent
  dsimp only
  split
  · exact h
  · exact memoryOk_setChan h

theorem memoryOk_pumpGo {s : State} {p : Nat} {ts : List TxMsg} {blocked : List Nat} {keep : List TxMsg} (h : MemoryOk s) :
    MemoryOk (pumpGo s p ts blocked keep) := by
  induction ts generalizing s blocked keep with
  | nil => exact memoryOk_setPort h
  | cons t r ih =>
    unfold pumpGo
    exact memoryOk_ite (ih (memoryOk_noteSent (memoryOk_setPort h))) (ih h)

theorem memoryOk_pump {s : State} {p : Nat} (h : MemoryOk s) : MemoryOk (pump s p) := by
  unfold pump
  dsimp only
  exact memoryOk_ite (memoryOk_pumpGo h) h

theorem memoryOk_sendOn {s : State} {p : Nat} {t : TxMsg} (h : MemoryOk s) : MemoryOk (sendOn s p t) := by
  unfold sendOn
  dsimp only
  exact memoryOk_pump (memoryOk_setPort h)

theorem memoryOk_hostSend {s : State} {p : Nat} {m : Msg} (h : MemoryOk s) : MemoryOk (hostSend s p m) := by
  unfold hostSend
  dsimp only
  exact memoryOk_ite h (memoryOk_ite (memoryOk_setPort h) (memoryOk_setPort h))

theorem memoryOk_emit {s : State} {prefer : Option Nat} {send : Option (Nat × Nat)} {m : Msg} (h : MemoryOk s) :
    MemoryOk (emit s prefer send m) := by
  unfold emit
  refine memoryOk_ite ?_ ?_
  · refine memoryOk_ite ?_ (memoryOk_count32 h)
    split
    · exact memoryOk_hostSend h
    · exact h
  · split
    · exact memoryOk_count32 h
    · exact memoryOk_sendOn h

theorem memoryOk_freeCredits {s : State} {p : Nat} {m : Msg} (h : MemoryOk s) : MemoryOk (freeCredits s p m) := by
  unfold freeCredits
  dsimp only
  exact memoryOk_setPort h

theorem memoryOk_receive {s : State} {p : Nat} {m : Msg} (h : MemoryOk s) : MemoryOk (receive s p m) := by
  unfold receive
  dsimp only
  exact memoryOk_ite (memoryOk_mk (memoryOk_setPort h)) (memoryOk_setPort h)

theorem memoryOk_acceptMsgs {s : State} {p : Nat} {ms : List Msg} (h : MemoryOk s) : MemoryOk (acceptMsgs s p ms) := by
  unfold acceptMsgs
  exact memoryOk_foldl (fun _ _ h1 => memoryOk_ite (memoryOk_receive h1) (memoryOk_freeCredits (memoryOk_count32 h1))) h

theorem memoryOk_applyAck {s : State} {p ack : Nat} (h : MemoryOk s) : MemoryOk (applyAck s p ack) := by
  unfold applyAck
  dsimp only
  refine memoryOk_foldl ?_ (memoryOk_setPort h)
  intro _ _ h1
  split
  · exact h1
  · exact memoryOk_setChan h1

theorem memoryOk_applyHeader {s : State} {p : Nat} {f : Flit} (h : MemoryOk s) : MemoryOk (applyHeader s p f) := by
  unfold applyHeader
  dsimp only
  exact memoryOk_pump (memoryOk_setPort (memoryOk_ite (memoryOk_applyAck h) h))

theorem memoryOk_resend {s : State} {p : Nat} (h : MemoryOk s) : MemoryOk (resend s p) := by
  unfold resend
  dsimp only
  exact memoryOk_setPort h

theorem memoryOk_countedResend {s : State} {p : Nat} (h : MemoryOk s) : MemoryOk (countedResend s p) := by
  unfold countedResend
  exact memoryOk_ite h (memoryOk_count32 (memoryOk_resend h))

theorem memoryOk_sendNak {s : State} {p : Nat} (h : MemoryOk s) : MemoryOk (sendNak s p) := by
  unfold sendNak
  dsimp only
  exact memoryOk_setPort h

theorem memoryOk_discardFlit {s : State} {p : Nat} (h : MemoryOk s) : MemoryOk (discardFlit s p) := by
  unfold discardFlit
  exact memoryOk_ite h (memoryOk_sendNak h)

theorem memoryOk_receiveFlit {s : State} {p : Nat} {f : Flit} {c : FlitCheck} (h : MemoryOk s) :
    MemoryOk (receiveFlit s p f c) := by
  unfold receiveFlit
  dsimp only
  exact memoryOk_ite h (memoryOk_ite (memoryOk_discardFlit (memoryOk_count32 h))
      (memoryOk_ite (memoryOk_discardFlit (memoryOk_count32 (memoryOk_ite (memoryOk_count64 h) h)))
      (memoryOk_ite (memoryOk_discardFlit (memoryOk_ite (memoryOk_count64 h) h))
      (memoryOk_ite (memoryOk_ite (memoryOk_acceptMsgs (memoryOk_setPort
      (memoryOk_applyHeader (memoryOk_ite (memoryOk_count64 h) h)))) (memoryOk_discardFlit
      (memoryOk_applyHeader (memoryOk_ite (memoryOk_count64 h) h)))) (memoryOk_ite
      (memoryOk_countedResend (memoryOk_applyHeader (memoryOk_ite (memoryOk_count64 h) h)))
      (memoryOk_applyHeader (memoryOk_ite (memoryOk_count64 h) h)))))))

theorem memoryOk_dropMsg {s : State} {p : Nat} {m : Msg} (h : MemoryOk s) : MemoryOk (dropMsg s p m) := by
  unfold dropMsg
  dsimp only
  exact memoryOk_freeCredits (memoryOk_setPort h)

theorem memoryOk_strikeMsg {p : Nat} {s : State} {m : Msg} (h : MemoryOk s) : MemoryOk (strikeMsg p s m) := by
  unfold strikeMsg
  dsimp only
  exact memoryOk_ite (memoryOk_setPort h) (memoryOk_dropMsg h)

theorem memoryOk_opDataFlit {p : Nat} {f : Flit} {c : FlitCheck} {struck : List Nat} {s : State} (h : MemoryOk s) :
    MemoryOk (opDataFlit p f c struck s) := by
  unfold opDataFlit
  dsimp only
  exact memoryOk_foldl (fun _ _ h1 => memoryOk_strikeMsg h1) (memoryOk_ite (memoryOk_receiveFlit h) h)

theorem memoryOk_opIdleFlit {p : Nat} {f : Flit} {c : FlitCheck} {s : State} (h : MemoryOk s) :
    MemoryOk (opIdleFlit p f c s) := by
  unfold opIdleFlit
  exact memoryOk_ite (memoryOk_receiveFlit h) h

theorem memoryOk_opNakFlit {p : Nat} {f : Flit} {c : FlitCheck} {s : State} (h : MemoryOk s) : MemoryOk (opNakFlit p f c s) := by
  unfold opNakFlit
  exact memoryOk_ite (memoryOk_receiveFlit h) h

theorem memoryOk_opReplayTimeout {p : Nat} {s : State} (h : MemoryOk s) : MemoryOk (opReplayTimeout p s) := by
  unfold opReplayTimeout
  exact memoryOk_ite (memoryOk_countedResend h) h

theorem memoryOk_opNakResendTimeout {p : Nat} {s : State} (h : MemoryOk s) : MemoryOk (opNakResendTimeout p s) := by
  unfold opNakResendTimeout
  exact memoryOk_ite (memoryOk_sendNak h) h

theorem memoryOk_staleMsg {s : State} {p : Nat} {m : Msg} (h : MemoryOk s) : MemoryOk (staleMsg s p m) := by
  unfold staleMsg
  exact memoryOk_count32 (memoryOk_dropMsg h)

theorem memoryOk_opMessageForward {p c : Nat} {s : State} (h : MemoryOk s) : MemoryOk (opMessageForward p c s) := by
  unfold opMessageForward
  dsimp only
  split
  · exact h
  · refine memoryOk_ite h ?_
    refine memoryOk_ite (memoryOk_count32 (memoryOk_dropMsg h)) ?_
    split
    · exact memoryOk_count32 (memoryOk_dropMsg h)
    · exact memoryOk_ite (memoryOk_setPort (memoryOk_dropMsg h)) h

theorem memoryOk_opMessageAgeDrop {p c : Nat} {s : State} (h : MemoryOk s) : MemoryOk (opMessageAgeDrop p c s) := by
  unfold opMessageAgeDrop
  split
  · exact h
  · exact memoryOk_count32 (memoryOk_dropMsg h)

theorem memoryOk_sendReject {s : State} {m : Msg} {reason : Nat} (h : MemoryOk s) : MemoryOk (sendReject s m reason) := by
  unfold sendReject
  dsimp only
  exact memoryOk_emit (memoryOk_count32 h)

theorem memoryOk_opWindowWrite {p : Nat} {dataBad : Bool} {s : State} (h : MemoryOk s) :
    MemoryOk (opWindowWrite p dataBad s) := by
  unfold opWindowWrite
  dsimp only
  split
  · exact h
  · split
    · exact memoryOk_staleMsg h
    · refine memoryOk_sendReject ?_
      refine memoryOk_ite ?_ ?_
      · refine memoryOk_startWake ?_
        split
        · exact memoryOk_count32 (memoryOk_dropMsg h)
        · exact memoryOk_dropMsg h
      · split
        · exact memoryOk_count32 (memoryOk_dropMsg h)
        · exact memoryOk_dropMsg h
    · exact memoryOk_arriveAt (memoryOk_foldl (fun _ _ h1 => memoryOk_csWrite h1) (memoryOk_dropMsg h))
    · exact memoryOk_setFld (memoryOk_writeRange (memoryOk_dropMsg h) _ _)

theorem memoryOk_opReject {p : Nat} {s : State} (h : MemoryOk s) : MemoryOk (opReject p s) := by
  unfold opReject
  split
  · exact h
  · exact memoryOk_post (memoryOk_dropMsg h) _ _ _ _

theorem memoryOk_opSendCommand {n : Nat} {v : W64} {s : State} (h : MemoryOk s) : MemoryOk (opSendCommand n v s) := by
  unfold opSendCommand
  dsimp only
  exact memoryOk_ite h (memoryOk_ite (memoryOk_setFlag h) (memoryOk_startWake (memoryOk_setChan (memoryOk_wr h))))

theorem memoryOk_readSource {s : State} {a len : Nat} (h : MemoryOk s) : MemoryOk (readSource s a len).1 := by
  unfold readSource
  split
  · next heq => exact memoryOk_fst heq (memoryOk_readRange h)
  · next heq =>
      have h1 := memoryOk_fst heq (memoryOk_readRange h)
      exact memoryOk_stopEvent h1

theorem memoryOk_sendParts {n k i : Nat} {c : SendCmd} {s : State} (h : MemoryOk s) : MemoryOk (sendParts n c k i s).1 := by
  induction k generalizing s i with
  | zero => exact h
  | succ k ih =>
    unfold sendParts
    dsimp only
    split
    · next heq => exact memoryOk_fst heq (memoryOk_readSource h)
    · next heq => exact ih (memoryOk_emit (memoryOk_fst heq (memoryOk_readSource h)))

theorem memoryOk_opSendStart {n : Nat} {s : State} (h : MemoryOk s) : MemoryOk (opSendStart n s) := by
  unfold opSendStart
  dsimp only
  split
  · exact h
  · exact memoryOk_ite h (memoryOk_ite (memoryOk_sendParts (memoryOk_setChan h))
      (memoryOk_setChan (memoryOk_sendParts (memoryOk_setChan h))))

theorem memoryOk_opSendComplete {n : Nat} {s : State} (h : MemoryOk s) : MemoryOk (opSendComplete n s) := by
  unfold opSendComplete
  dsimp only
  split
  · exact h
  · exact memoryOk_ite (memoryOk_ite (memoryOk_post (memoryOk_setChan h) _ _ _ _) (memoryOk_setChan h))
      (memoryOk_post (memoryOk_setFlag (memoryOk_setChan h)) _ _ _ _)

theorem memoryOk_setState {s : State} {p st lanes : Nat} (h : MemoryOk s) : MemoryOk (setState s p st lanes) := by
  unfold setState
  exact memoryOk_setFld (memoryOk_setFld h)

theorem memoryOk_failPort {s : State} {p reason : Nat} (h : MemoryOk s) : MemoryOk (failPort s p reason) := by
  unfold failPort
  dsimp only
  exact memoryOk_post (memoryOk_setFld (memoryOk_setState h)) _ _ _ _

theorem memoryOk_newPartner {s : State} {p : Nat} (h : MemoryOk s) : MemoryOk (newPartner s p) := by
  unfold newPartner
  dsimp only
  exact memoryOk_foldl (fun _ _ h1 => memoryOk_setChan h1) (memoryOk_setPort h)

theorem memoryOk_comeUp {s : State} {p lanes partner pport : Nat} {bypassed : Bool} (h : MemoryOk s) :
    MemoryOk (comeUp s p lanes partner pport bypassed) := by
  unfold comeUp
  dsimp only
  exact memoryOk_pump (memoryOk_ite (memoryOk_setFlag (memoryOk_setFld (memoryOk_setFld
      (memoryOk_setState (memoryOk_setPort (memoryOk_endRecovery (memoryOk_ite (memoryOk_newPartner h) h)))))))
      (memoryOk_resend (memoryOk_setFlag (memoryOk_setFld (memoryOk_setFld
      (memoryOk_setState (memoryOk_setPort (memoryOk_endRecovery (memoryOk_ite (memoryOk_newPartner h) h)))))))))

theorem memoryOk_startTrain {s : State} {p : Nat} (h : MemoryOk s) : MemoryOk (startTrain s p) := by
  unfold startTrain
  exact memoryOk_setState (memoryOk_endRecovery h)

theorem memoryOk_laneLost {p lane other : Nat} {s : State} (h : MemoryOk s) : MemoryOk (laneLost p lane other s) := by
  unfold laneLost
  dsimp only
  exact memoryOk_ite h (memoryOk_ite (memoryOk_failPort (memoryOk_post (memoryOk_count32 h) _ _ _ _))
      (memoryOk_ite (memoryOk_failPort (memoryOk_post (memoryOk_count32 (memoryOk_post (memoryOk_count32 h) _ _ _ _)) _ _ _ _))
      (memoryOk_resend (memoryOk_setState (memoryOk_post (memoryOk_count32 h) _ _ _ _)))))

theorem memoryOk_signalLost {p : Nat} {s : State} (h : MemoryOk s) : MemoryOk (signalLost p s) := by
  unfold signalLost
  dsimp only
  exact memoryOk_ite h (memoryOk_ite (memoryOk_beginRecovery (memoryOk_setPort (memoryOk_setState h))) (memoryOk_startTrain h))

theorem memoryOk_opRelockTimeout {p : Nat} {s : State} (h : MemoryOk s) : MemoryOk (opRelockTimeout p s) := by
  unfold opRelockTimeout
  exact memoryOk_ite (memoryOk_startTrain h) h

theorem memoryOk_opLinkEnable {p : Nat} {v : W64} {s : State} (h : MemoryOk s) : MemoryOk (opLinkEnable p v s) := by
  unfold opLinkEnable
  dsimp only
  exact memoryOk_ite h (memoryOk_ite (memoryOk_setFlag h) (memoryOk_ite (memoryOk_setState
      (memoryOk_endRecovery (memoryOk_setFlag h))) (memoryOk_ite (memoryOk_startTrain (memoryOk_setFlag h))
      (memoryOk_ite (memoryOk_startTrain (memoryOk_setFlag h)) (memoryOk_ite
      (memoryOk_ite (memoryOk_setPort (memoryOk_setState (memoryOk_setFlag h))) (memoryOk_startTrain (memoryOk_setFlag h)))
      (memoryOk_setFlag h))))))

theorem memoryOk_opRetrain {p : Nat} {s : State} (h : MemoryOk s) : MemoryOk (opRetrain p s) := by
  unfold opRetrain
  exact memoryOk_ite (memoryOk_startTrain h) h

theorem memoryOk_opRelockDirect {p : Nat} {s : State} (h : MemoryOk s) : MemoryOk (opRelockDirect p s) := by
  unfold opRelockDirect
  dsimp only
  exact memoryOk_ite h (memoryOk_ite (memoryOk_setPort (memoryOk_setState h)) (memoryOk_startTrain h))

theorem memoryOk_setRelays {s : State} (h : MemoryOk s) : MemoryOk (setRelays s) := by
  unfold setRelays
  exact memoryOk_setFld h

theorem memoryOk_setInsert {s : State} {b : Bool} (h : MemoryOk s) : MemoryOk (setInsert s b) := by
  unfold setInsert
  exact memoryOk_setRelays (memoryOk_setFlag h)

theorem memoryOk_opByeInsertWrite {v : W64} {s : State} (h : MemoryOk s) : MemoryOk (opByeInsertWrite v s) := by
  unfold opByeInsertWrite
  exact memoryOk_ite h (memoryOk_setInsert h)

theorem memoryOk_opByeFault {k : Nat} {closed : Bool} {s : State} (h : MemoryOk s) : MemoryOk (opByeFault k closed s) := by
  unfold opByeFault
  dsimp only
  exact memoryOk_ite h (memoryOk_post (memoryOk_setFlag (memoryOk_setFlag h)) _ _ _ _)

/-! ### Firmware -/

theorem memoryOk_setBook {s : State} {n : Nat} {b : Book} (h : MemoryOk s) : MemoryOk (setBook s n b) := by
  unfold setBook
  dsimp only
  exact memoryOk_setChan h

theorem memoryOk_setRef {s : State} {r : Referee} (h : MemoryOk s) : MemoryOk (setRef s r) := by
  unfold setRef
  exact memoryOk_mk h

theorem memoryOk_putLive {s : State} {q : Live} (h : MemoryOk s) : MemoryOk (putLive s q) := by
  unfold putLive
  dsimp only
  exact memoryOk_setRef h

theorem memoryOk_cancelOp {s : State} {n : Nat} {id : W32} (h : MemoryOk s) : MemoryOk (cancelOp s n id) := by
  unfold cancelOp
  exact memoryOk_ite (memoryOk_opCancelComplete (memoryOk_askCancel h)) h

theorem memoryOk_presentNow {s : State} {n f : Nat} (h : MemoryOk s) : MemoryOk (presentNow s n f) := by
  unfold presentNow
  exact memoryOk_dirtyFrame (memoryOk_count64 (memoryOk_markFrame h))

theorem memoryOk_addPage {s : State} {n : Nat} {m : ModelPlan} {id gen l : Nat} (h : MemoryOk s) :
    MemoryOkIf (addPage s n m id gen l) := by
  unfold addPage
  dsimp only
  exact memoryOk_map fun _ => memoryOk_setBook (memoryOk_writeRange (memoryOk_presentNow (memoryOk_writeRange h _ _)) _ _)

theorem memoryOk_saveHeader {s : State} {n : Nat} {p : PageRec} {hdr : List Byte} (h : MemoryOk s) :
    MemoryOk (saveHeader s n p hdr) := by
  unfold saveHeader
  dsimp only
  split
  · exact memoryOk_writeRange h _ _
  · exact h

theorem memoryOk_evictPage {s : State} {n : Nat} {p : PageRec} (h : MemoryOk s) : MemoryOk (evictPage s n p) := by
  unfold evictPage
  dsimp only
  split
  · exact h
  · exact memoryOk_setBook (memoryOk_count64 (memoryOk_moveBytes (memoryOk_markFrame (memoryOk_saveHeader h))))

theorem memoryOk_parkSeq {s : State} {n id : Nat} (h : MemoryOk s) : MemoryOk (parkSeq s n id) := by
  unfold parkSeq
  dsimp only
  exact memoryOk_foldl (fun _ _ h1 => memoryOk_evictPage h1) (memoryOk_syncNow h)

theorem memoryOk_slotBad {s : State} {a : Nat} (h : MemoryOk s) : MemoryOk (slotBad s a).1 := by
  unfold slotBad
  refine memoryOk_foldl_fst ?_ h
  intro _ _ h1
  refine memoryOk_ite_fst ?_ h1
  refine memoryOk_noteUeWord ?_ _
  split
  · exact memoryOk_count32 h1
  · exact h1

/-- The kernel would read the slot's 2,048 words to compare the body with the name: both are taken of names here. -/
theorem memoryOk_pageSource {s : State} {n a : Nat} {p : PageRec} (h : MemoryOk s) : MemoryOk (pageSource s n a p).1 := by
  obtain ⟨q, hq⟩ : ∃ q, slotBad s a = q := ⟨_, rfl⟩
  have hSlot : MemoryOk q.1 := hq ▸ memoryOk_slotBad h
  obtain ⟨f, hf⟩ : ∃ f, pageSource = f := ⟨_, rfl⟩
  obtain ⟨r, hr⟩ : ∃ r, f s n a p = r := ⟨_, rfl⟩
  rw [hf, hr]
  delta pageSource at hf
  rw [← hf] at hr
  beta_reduce at hr
  rw [hq] at hr
  obtain ⟨u, ok⟩ := q
  cases ok
  · rw [← hr]
    exact hSlot
  · rw [← hr]
    exact hSlot

theorem memoryOk_fetchPage {s : State} {n : Nat} {m : ModelPlan} {p : PageRec} {at_ : Nat} (h : MemoryOk s) :
    MemoryOkIf (fetchPage s n m p at_) := by
  unfold fetchPage
  dsimp only
  split
  · exact memoryOk_some h
  · exact memoryOk_map fun _ => memoryOk_setBook (memoryOk_writeRange (memoryOk_writeRange
      (memoryOk_presentNow (memoryOk_fillFrame (memoryOk_pageSource h))) _ _) _ _)

theorem memoryOk_withRoom {n j self k : Nat} {act : State → Option State} {s : State}
    (hact : ∀ t, MemoryOk t → MemoryOkIf (act t)) (h : MemoryOk s) : MemoryOk (withRoom n j self act k s).1 := by
  induction k generalizing s with
  | zero => exact h
  | succ k ih =>
    unfold withRoom
    split
    · next heq => exact hact s h _ heq
    · dsimp only
      split
      · exact ih (memoryOk_foldl (fun _ _ ht => memoryOk_parkSeq ht) (memoryOk_putLive h))
      · exact memoryOk_post h _ _ _ _

theorem memoryOk_growList {n id gen l pages k : Nat} {m : ModelPlan} {s : State} (h : MemoryOk s) :
    MemoryOk (growList n m id gen l pages k s).1 := by
  induction k generalizing s with
  | zero => exact h
  | succ k ih =>
    have hRoom : MemoryOk (withRoom n m.pool id (fun t => addPage t n m id gen l) 64 s).1 :=
      memoryOk_withRoom (fun _ ht => memoryOk_addPage ht) h
    unfold growList
    split
    · exact h
    · split
      · next heq => exact ih (memoryOk_fst heq hRoom)
      · exact hRoom

theorem memoryOk_unparkPages {n : Nat} {m : ModelPlan} {ps : List (PageRec × Nat)} {s : State} (h : MemoryOk s) :
    MemoryOk (unparkPages n m ps s).1 := by
  induction ps generalizing s with
  | nil => exact h
  | cons p r ih =>
    have hRoom : MemoryOk (withRoom n m.pool p.1.seq (fun t => fetchPage t n m p.1 p.2) 64 s).1 :=
      memoryOk_withRoom (fun _ ht => memoryOk_fetchPage ht) h
    unfold unparkPages
    split
    · next heq => exact ih (memoryOk_fst heq hRoom)
    · exact hRoom

theorem memoryOk_stepPages {s : State} {n : Nat} {m : ModelPlan} {q : Live} (h : MemoryOk s) :
    MemoryOk (stepPages s n m q).1 := by
  unfold stepPages
  dsimp only
  split
  · next heq => exact memoryOk_fst heq (memoryOk_unparkPages h)
  · next heq =>
      have h1 := memoryOk_fst heq (memoryOk_unparkPages h)
      exact memoryOk_foldl_fst (fun _ _ h2 => memoryOk_ite_fst (memoryOk_growList h2) h2) h1

theorem memoryOk_appendEntry {s : State} {n e : Nat} (h : MemoryOk s) : MemoryOk (appendEntry s n e) := by
  unfold appendEntry
  dsimp only
  exact memoryOk_setFld (memoryOk_writeRange h _ _)

theorem memoryOk_queueOp {n : Nat} {r : State × List W32} {t : Template} (h : MemoryOk r.1) : MemoryOk (queueOp n r t).1 := by
  unfold queueOp
  dsimp only
  exact memoryOk_appendEntry (memoryOk_writeRange (memoryOk_setBook h) _ _)

theorem memoryOk_writeLens {s : State} {n : Nat} {m : ModelPlan} {q : Live} {stored : Bool} {es : List (Nat × Nat)}
    (h : MemoryOk s) : MemoryOk (writeLens s n m q stored es) := by
  unfold writeLens
  exact memoryOk_foldl (fun _ _ h1 => memoryOk_writeRange h1 _ _) h

theorem memoryOk_queueTemplate {n : Nat} {m : ModelPlan} {q : Live} {r : State × List W32} {t : Template} (h : MemoryOk r.1) :
    MemoryOk (queueTemplate n m q r t).1 := by
  unfold queueTemplate
  exact memoryOk_queueOp (memoryOk_writeLens h)

theorem memoryOk_expandStep {s : State} {id : Nat} (h : MemoryOk s) : MemoryOk (expandStep s id) := by
  unfold expandStep
  dsimp only
  split
  · exact h
  · split
    · exact h
    · exact memoryOk_ite (memoryOk_putLive (memoryOk_foldl_fst (fun _ _ h1 => memoryOk_ite_fst (memoryOk_stepPages h1) h1) h))
        (memoryOk_putLive (memoryOk_startWake (memoryOk_foldl_fst (fun _ _ h1 => memoryOk_foldl_fst
        (fun _ _ h2 => memoryOk_queueTemplate h2) h1) (memoryOk_foldl_fst
        (fun _ _ h1 => memoryOk_ite_fst (memoryOk_stepPages h1) h1) h))))

theorem memoryOk_retryWaits {s : State} (h : MemoryOk s) : MemoryOk (retryWaits s) := by
  unfold retryWaits
  exact memoryOk_foldl (fun _ _ h1 => memoryOk_expandStep h1) h

theorem memoryOk_countStored {s : State} {n : Nat} {q : Live} (h : MemoryOk s) : MemoryOk (countStored s n q) := by
  unfold countStored
  split
  · split
    · exact memoryOk_writeLens h
    · exact h
  · exact h

theorem memoryOk_noteOpDone {s : State} {n : Nat} {id : W32} (h : MemoryOk s) : MemoryOk (noteOpDone s n id) := by
  unfold noteOpDone
  dsimp only
  exact memoryOk_ite h (memoryOk_retryWaits (memoryOk_ite (memoryOk_foldl (fun _ _ h1 => memoryOk_countStored h1)
      (memoryOk_setRef h)) (memoryOk_askSync (memoryOk_foldl (fun _ _ h1 => memoryOk_countStored h1) (memoryOk_setRef h)))))

theorem memoryOk_opResponseIssue {seq : W16} {token : W32} {s : State} (h : MemoryOk s) :
    MemoryOk (opResponseIssue seq token s) := by
  unfold opResponseIssue
  dsimp only
  split
  · exact h
  · split
    · exact h
    · exact memoryOk_ite h (memoryOk_ite (memoryOk_expandStep (memoryOk_putLive (memoryOk_count64 (memoryOk_emit h))))
        (memoryOk_emit (memoryOk_putLive (memoryOk_count64 (memoryOk_emit h)))))

theorem memoryOk_startSequence {s : State} {r : Request} (h : MemoryOk s) : MemoryOk (startSequence s r) := by
  unfold startSequence
  dsimp only
  exact memoryOk_expandStep (memoryOk_startWake (memoryOk_count64 (memoryOk_setRef h)))

theorem memoryOk_takeRequest {s : State} {r : Request} (h : MemoryOk s) : MemoryOk (takeRequest s r) := by
  unfold takeRequest
  dsimp only
  split
  · exact memoryOk_emit h
  · exact memoryOk_ite (memoryOk_count32 (memoryOk_setRef h)) (memoryOk_startSequence h)

theorem memoryOk_opDeferredAdmit {s : State} (h : MemoryOk s) : MemoryOk (opDeferredAdmit s) := by
  unfold opDeferredAdmit
  dsimp only
  split
  · exact h
  · exact memoryOk_ite h (memoryOk_startSequence (memoryOk_setRef h))

theorem memoryOk_cancelSteps {s : State} {q : Live} (h : MemoryOk s) : MemoryOk (cancelSteps s q) := by
  unfold cancelSteps
  exact memoryOk_foldl (fun _ _ h1 => memoryOk_cancelOp h1) h

theorem memoryOk_stopStep {s : State} {q : Live} (h : MemoryOk s) : MemoryOk (stopStep s q) := by
  unfold stopStep
  dsimp only
  exact memoryOk_putLive (memoryOk_cancelSteps h)

theorem memoryOk_endRequest {s : State} {q : Live} {code : Nat} (h : MemoryOk s) : MemoryOk (endRequest s q code) := by
  unfold endRequest
  dsimp only
  exact memoryOk_emit (memoryOk_putLive (memoryOk_stopStep h))

theorem memoryOk_issueRestore {s : State} {n : Nat} {p : PageRec} (h : MemoryOk s) : MemoryOkIf (issueRestore s n p) := by
  unfold issueRestore
  dsimp only
  split
  · exact memoryOk_map fun _ => memoryOk_startWake (memoryOk_setChan (memoryOk_setBook
      (memoryOk_writeRange (memoryOk_writeRange (memoryOk_ite h (memoryOk_count64 (memoryOk_markFrame h))) _ _) _ _)))
  · exact memoryOk_some h

theorem memoryOk_issueRestores {n k : Nat} {s : State} (h : MemoryOk s) : MemoryOk (issueRestores n k s) := by
  induction k generalizing s with
  | zero => exact h
  | succ k ih =>
    unfold issueRestores
    dsimp only
    split
    · exact h
    · split
      · exact h
      · split
        · next heq => exact ih (memoryOk_issueRestore (memoryOk_setBook h) _ heq)
        · exact memoryOk_setBook (memoryOk_setBook h)

theorem memoryOk_settleRestore {n : Nat} {s : State} (h : MemoryOk s) : MemoryOk (settleRestore n s) := by
  unfold settleRestore
  dsimp only
  exact memoryOk_ite h (memoryOk_ite (memoryOk_retryWaits (memoryOk_issueRestores (memoryOk_setBook h)))
      (memoryOk_issueRestores (memoryOk_setBook h)))

theorem memoryOk_rewriteHeader {s : State} {n f : Nat} (h : MemoryOk s) : MemoryOk (rewriteHeader s n f) := by
  unfold rewriteHeader
  split
  · exact memoryOk_writeRange h _ _
  · exact h

theorem memoryOk_opTier1Fetch {n : Nat} {s : State} (h : MemoryOk s) : MemoryOk (opTier1Fetch n s) := by
  unfold opTier1Fetch
  exact memoryOk_settleRestore (memoryOk_opFetchFromTier1 h)

theorem memoryOk_opMigrationDone {n : Nat} {s : State} (h : MemoryOk s) : MemoryOk (opMigrationDone n s) := by
  unfold opMigrationDone
  dsimp only
  refine memoryOk_settleRestore ?_
  split
  · exact memoryOk_ite (memoryOk_rewriteHeader (memoryOk_opMigrationComplete h)) (memoryOk_opMigrationComplete h)
  · exact memoryOk_opMigrationComplete h

theorem memoryOk_rerunWhere {s : State} {p : Live → Bool} (h : MemoryOk s) : MemoryOk (rerunWhere s p) := by
  unfold rerunWhere
  exact memoryOk_foldl (fun _ _ h1 => memoryOk_expandStep (memoryOk_stopStep h1)) h

theorem memoryOk_takeOver {s : State} {n : Nat} (h : MemoryOk s) : MemoryOk (takeOver s n) := by
  unfold takeOver
  dsimp only
  exact memoryOk_settleRestore (memoryOk_rerunWhere (memoryOk_foldl (fun _ _ h1 => memoryOk_saveHeader h1)
      (memoryOk_setBook (memoryOk_setBook h))))

theorem memoryOk_freePages {s : State} {n id : Nat} (h : MemoryOk s) : MemoryOk (freePages s n id) := by
  unfold freePages
  dsimp only
  exact memoryOk_ite h (memoryOk_setBook (memoryOk_foldl (fun _ _ h1 => memoryOk_ite h1
      (memoryOk_writeRange (memoryOk_count64 (memoryOk_markFrame h1)) _ _)) (memoryOk_syncNow h)))

theorem memoryOk_dropLost {s : State} {n id : Nat} (h : MemoryOk s) : MemoryOk (dropLost s n id) := by
  unfold dropLost
  dsimp only
  exact memoryOk_setBook h

theorem memoryOk_opSequenceRetire {seq : W16} {s : State} (h : MemoryOk s) : MemoryOk (opSequenceRetire seq s) := by
  unfold opSequenceRetire
  dsimp only
  split
  · exact h
  · exact memoryOk_ite (memoryOk_ite h (memoryOk_setRef (memoryOk_foldl (fun _ _ h1 => memoryOk_dropLost h1)
      (memoryOk_foldl (fun _ _ h1 => memoryOk_setFld h1) h)))) (memoryOk_foldl (fun _ _ h1 => memoryOk_settleRestore h1)
      (memoryOk_post (memoryOk_setRef (memoryOk_foldl (fun _ _ h1 => memoryOk_freePages h1)
      (memoryOk_ite h (memoryOk_setRef (memoryOk_foldl (fun _ _ h1 => memoryOk_dropLost h1)
      (memoryOk_foldl (fun _ _ h1 => memoryOk_setFld h1) h)))))) _ _ _ _))

theorem memoryOk_queueTrain {n : Nat} {r : State × List W32} {t : Template × List (Nat × List Byte)} (h : MemoryOk r.1) :
    MemoryOk (queueTrain n r t).1 := by
  unfold queueTrain
  exact memoryOk_queueOp (memoryOk_foldl (fun _ _ h1 => memoryOk_writeRange h1 _ _) h)

theorem memoryOk_queueJob {s : State} (h : MemoryOk s) : MemoryOk (queueJob s) := by
  unfold queueJob
  dsimp only
  split
  · exact h
  · split
    · exact h
    · exact memoryOk_ite h (memoryOk_ite (memoryOk_setRef (memoryOk_foldl_fst
        (fun _ _ h1 => memoryOk_foldl_fst (fun _ _ h2 => memoryOk_queueTrain h2) h1) h))
        (memoryOk_startWake (memoryOk_setRef (memoryOk_foldl_fst (fun _ _ h1 => memoryOk_foldl_fst
        (fun _ _ h2 => memoryOk_queueTrain h2) h1) h))))

theorem memoryOk_startJob {s : State} (h : MemoryOk s) : MemoryOk (startJob s) := by
  unfold startJob
  dsimp only
  split
  · exact memoryOk_ite (memoryOk_queueJob h) (memoryOk_queueJob (memoryOk_setRef (memoryOk_queueJob h)))
  · exact memoryOk_queueJob h

theorem memoryOk_cancelJob {s : State} {j : Job} (h : MemoryOk s) : MemoryOk (cancelJob s j) := by
  unfold cancelJob
  exact memoryOk_foldl (fun _ _ h1 => memoryOk_cancelOp h1) h

theorem memoryOk_rerunJob {s : State} {n : Nat} (h : MemoryOk s) : MemoryOk (rerunJob s n) := by
  unfold rerunJob
  dsimp only
  split
  · exact h
  · exact memoryOk_ite h (memoryOk_queueJob (memoryOk_setRef (memoryOk_cancelJob h)))

theorem memoryOk_rerunSteps {s : State} {n : Nat} (h : MemoryOk s) : MemoryOk (rerunSteps s n) := by
  unfold rerunSteps
  exact memoryOk_rerunJob (memoryOk_rerunWhere h)

theorem memoryOk_replayWhere {s : State} {n : Nat} {p : LoadedOp → Bool} (h : MemoryOk s) : MemoryOk (replayWhere s n p) := by
  unfold replayWhere
  dsimp only
  exact memoryOk_foldl (fun _ _ h1 => memoryOk_ite (memoryOk_cancelOp h1) (memoryOk_appendEntry (memoryOk_cancelOp h1)))
      (memoryOk_ite (memoryOk_rerunJob (memoryOk_rerunWhere h)) (memoryOk_rerunWhere h))

theorem memoryOk_redoOp {s : State} {n : Nat} {l : LoadedOp} (h : MemoryOk s) : MemoryOk (redoOp s n l) := by
  unfold redoOp
  dsimp only
  split
  · exact memoryOk_expandStep (memoryOk_stopStep h)
  · exact memoryOk_queueJob (memoryOk_setRef (memoryOk_cancelJob h))
  · exact memoryOk_ite h (memoryOk_appendEntry h)

theorem memoryOk_opStreamCancel {n : Nat} {v : W64} {s : State} (h : MemoryOk s) : MemoryOk (opStreamCancel n v s) := by
  unfold opStreamCancel
  dsimp only
  refine memoryOk_ite (memoryOk_askCancel h) ?_
  split
  · exact memoryOk_ite (memoryOk_endRequest (memoryOk_askCancel h)) (memoryOk_ite (memoryOk_redoOp (memoryOk_askCancel h))
      (memoryOk_askCancel h))
  · exact memoryOk_ite (memoryOk_redoOp (memoryOk_askCancel h)) (memoryOk_askCancel h)
  · exact memoryOk_askCancel h

theorem memoryOk_moveMirrored {s : State} {src dst len : Nat} (h : MemoryOk s) :
    MemoryOk (abortJob.moveMirrored s src dst len) := by
  unfold abortJob.moveMirrored
  dsimp only
  split
  · exact memoryOk_ite (memoryOk_count64 (memoryOk_moveBytes (memoryOk_moveBytes h))) (memoryOk_moveBytes h)
  · exact memoryOk_moveBytes h

theorem memoryOk_abortJob {s : State} {cause : Nat} (h : MemoryOk s) : MemoryOk (abortJob s cause) := by
  unfold abortJob
  dsimp only
  refine memoryOk_post ?_ _ _ _ _
  refine memoryOk_setFld ?_
  split
  · exact memoryOk_setFld h
  · exact memoryOk_setRef (memoryOk_foldl_fst (fun _ _ h1 => memoryOk_moveMirrored h1) (memoryOk_cancelJob (memoryOk_setFld h)))

theorem memoryOk_markAbort {s : State} {cause : Nat} (h : MemoryOk s) : MemoryOk (markAbort s cause) := by
  unfold markAbort
  dsimp only
  split
  · exact h
  · exact memoryOk_ite h (memoryOk_setRef h)

theorem memoryOk_opTrainingJobStart {j : TrainJob} {s : State} (h : MemoryOk s) : MemoryOk (opTrainingJobStart j s) := by
  unfold opTrainingJobStart
  dsimp only
  exact memoryOk_ite h (memoryOk_ite (memoryOk_post (memoryOk_setFld h) _ _ _ _)
      (memoryOk_startJob (memoryOk_setFld (memoryOk_setRef (memoryOk_foldl_fst (fun _ _ h1 => memoryOk_moveBytes h1) h)))))

theorem memoryOk_endPart {s : State} {j : Job} (h : MemoryOk s) : MemoryOk (endPart s j) := by
  unfold endPart
  dsimp only
  refine memoryOk_ite (memoryOk_queueJob (memoryOk_setRef h)) ?_
  split
  · exact memoryOk_abortJob (memoryOk_setRef (memoryOk_count64 h))
  · exact memoryOk_ite (memoryOk_queueJob (memoryOk_setRef (memoryOk_count64 h)))
      (memoryOk_setFld (memoryOk_setRef (memoryOk_setRef (memoryOk_count64 h))))

theorem memoryOk_noteTrainStep {s : State} {n : Nat} {id : W32} (h : MemoryOk s) : MemoryOk (noteTrainStep s n id) := by
  unfold noteTrainStep
  dsimp only
  split
  · exact h
  · exact memoryOk_ite (memoryOk_queueJob h) (memoryOk_ite (memoryOk_endPart h) (memoryOk_setRef h))

theorem memoryOk_opOperationComplete {n : Nat} {id : W32} {s : State} (h : MemoryOk s) :
    MemoryOk (opOperationComplete n id s) := by
  unfold opOperationComplete
  dsimp only
  exact memoryOk_ite (memoryOk_noteTrainStep (memoryOk_noteOpDone (memoryOk_completeOp h))) (memoryOk_completeOp h)

theorem memoryOk_maskBroken {s : State} (h : MemoryOk s) : MemoryOk (maskBroken s) := by
  unfold maskBroken
  split
  · exact memoryOk_ite h (memoryOk_abortJob h)
  · exact h

/-! ### Collect -/

theorem memoryOk_putEntry {s : State} {tag hi lo v : Nat} (h : MemoryOk s) : MemoryOk (putEntry s tag hi lo v) := by
  unfold putEntry
  dsimp only
  exact memoryOk_writeRange h _ _

theorem memoryOk_setBucketState {s : State} {tag st : Nat} (h : MemoryOk s) : MemoryOk (setBucketState s tag st) := by
  unfold setBucketState
  exact memoryOk_putEntry h

theorem memoryOk_digest {s : State} {tag : Nat} {rx : Bool} {bs : List Byte} (h : MemoryOk s) :
    MemoryOk (digest s tag rx bs) := by
  unfold digest
  dsimp only
  exact memoryOk_writeRange h _ _

theorem memoryOk_redCommand {s : State} {op tag : Nat} (h : MemoryOk s) : MemoryOk (redCommand s op tag) := by
  unfold redCommand
  exact memoryOk_setFld (memoryOk_setFld (memoryOk_setFlag h))

theorem memoryOk_cmdFault {s : State} (h : MemoryOk s) : MemoryOk (cmdFault s) := by
  unfold cmdFault
  exact memoryOk_setFlag h

theorem memoryOk_opReady {tag : Nat} {s : State} (h : MemoryOk s) : MemoryOk (opReady tag s) := by
  obtain ⟨u, hu⟩ : ∃ u, redCommand s 1 tag = u := ⟨_, rfl⟩
  obtain ⟨b, hb⟩ : ∃ b, bucketEntry u tag = b := ⟨_, rfl⟩
  have hOk : MemoryOk u := hu ▸ memoryOk_redCommand h
  obtain ⟨f, hf⟩ : ∃ f, opReady = f := ⟨_, rfl⟩
  rw [hf]
  delta opReady at hf
  rw [← hf]
  beta_reduce
  rw [hu]
  dsimp only
  rw [hb]
  cases b with
  | none => exact memoryOk_cmdFault hOk
  | some e =>
    exact memoryOk_ite (memoryOk_cmdFault hOk)
      (memoryOk_setBucket (memoryOk_setBucketState (memoryOk_putEntry (memoryOk_writeRange hOk _ _))))

theorem memoryOk_sendRed {s : State} {e : Entry6} {op tag to_ index : Nat} {bs : List Byte} (h : MemoryOk s) :
    MemoryOk (sendRed s e op tag to_ index bs) := by
  unfold sendRed
  dsimp only
  exact memoryOk_sendOn (memoryOk_digest h)

theorem memoryOk_endReturn {s : State} {tag : Nat} {e : Entry6} (h : MemoryOk s) : MemoryOk (endReturn s tag e) := by
  unfold endReturn
  dsimp only
  exact memoryOk_post (memoryOk_setBucket (memoryOk_setBucketState (memoryOk_putEntry h))) _ _ _ _

theorem memoryOk_opReturn {tag : Nat} {s : State} (h : MemoryOk s) : MemoryOk (opReturn tag s) := by
  obtain ⟨u, hu⟩ : ∃ u, redCommand s 2 tag = u := ⟨_, rfl⟩
  obtain ⟨b, hb⟩ : ∃ b, bucketEntry u tag = b := ⟨_, rfl⟩
  have hOk : MemoryOk u := hu ▸ memoryOk_redCommand h
  obtain ⟨f, hf⟩ : ∃ f, opReturn = f := ⟨_, rfl⟩
  rw [hf]
  delta opReturn at hf
  rw [← hf]
  beta_reduce
  rw [hu]
  dsimp only
  rw [hb]
  cases b with
  | none => exact memoryOk_cmdFault hOk
  | some e =>
    refine memoryOk_ite (memoryOk_cmdFault hOk) (memoryOk_endReturn ?_)
    cases nextIn (returnChain e) e.owner with
    | none => exact hOk
    | some t =>
      exact memoryOk_foldl (fun _ _ ht => memoryOk_sendRed ht) (memoryOk_foldl (fun _ _ ht => memoryOk_sendRed ht) hOk)

theorem memoryOk_opRedReset {tag : Nat} {s : State} (h : MemoryOk s) : MemoryOk (opRedReset tag s) := by
  obtain ⟨u, hu⟩ : ∃ u, redCommand s 3 tag = u := ⟨_, rfl⟩
  obtain ⟨b, hb⟩ : ∃ b, bucketEntry u tag = b := ⟨_, rfl⟩
  have hOk : MemoryOk u := hu ▸ memoryOk_redCommand h
  obtain ⟨f, hf⟩ : ∃ f, opRedReset = f := ⟨_, rfl⟩
  rw [hf]
  delta opRedReset at hf
  rw [← hf]
  beta_reduce
  rw [hu]
  dsimp only
  rw [hb]
  cases b with
  | none => exact memoryOk_cmdFault hOk
  | some e =>
    exact memoryOk_setBucket (memoryOk_setBucketState hOk)

theorem memoryOk_redDrop {s : State} {tag order : Nat} (h : MemoryOk s) : MemoryOk (redDrop s tag order) := by
  unfold redDrop
  dsimp only
  exact memoryOk_post (memoryOk_setFlag (memoryOk_count32 h)) _ _ _ _

theorem memoryOk_redTake {s : State} {p op : Nat} {act : State → Msg → Entry6 → State} (h : MemoryOk s)
    (hact : ∀ x0 x1 x2, MemoryOk x0 → MemoryOk (act x0 x1 x2)) : MemoryOk (redTake s p op act) := by
  unfold redTake
  dsimp only
  split
  · exact h
  · split
    · exact memoryOk_staleMsg h
    · exact memoryOk_ite (memoryOk_startWake (memoryOk_redDrop (memoryOk_dropMsg h))) (memoryOk_redDrop (memoryOk_dropMsg h))
    · exact hact _ _ _ (memoryOk_dropMsg h)

theorem memoryOk_opReduceSegment {p : Nat} {s : State} (h : MemoryOk s) : MemoryOk (opReduceSegment p s) := by
  unfold opReduceSegment
  dsimp only
  exact memoryOk_redTake h (fun _ _ _ h1 => memoryOk_setBucket (memoryOk_writeRange h1 _ _))

theorem memoryOk_returnOn {s : State} {m : Msg} {e : Entry6} {area : Nat} (h : MemoryOk s) : MemoryOk (returnOn s m e area) := by
  unfold returnOn
  dsimp only
  split
  · exact memoryOk_sendRed (memoryOk_digest (memoryOk_writeRange h _ _))
  · exact memoryOk_digest (memoryOk_writeRange h _ _)

theorem memoryOk_settleReturn {s : State} {tag : Nat} {e : Entry6} (h : MemoryOk s) : MemoryOk (settleReturn s tag e) := by
  unfold settleReturn
  dsimp only
  exact memoryOk_ite (memoryOk_endReturn h) h

theorem memoryOk_opReturnParameters {p : Nat} {s : State} (h : MemoryOk s) : MemoryOk (opReturnParameters p s) := by
  unfold opReturnParameters
  dsimp only
  exact memoryOk_redTake h (fun _ _ _ h1 => memoryOk_settleReturn (memoryOk_setBucket (memoryOk_returnOn h1)))

theorem memoryOk_opReturnScales {p : Nat} {s : State} (h : MemoryOk s) : MemoryOk (opReturnScales p s) := by
  unfold opReturnScales
  dsimp only
  exact memoryOk_redTake h (fun _ _ _ h1 => memoryOk_settleReturn (memoryOk_setBucket (memoryOk_returnOn h1)))

theorem memoryOk_opAdderSegment {tag : Nat} {s : State} (h : MemoryOk s) : MemoryOk (opAdderSegment tag s) := by
  unfold opAdderSegment
  dsimp only
  split
  · exact h
  · refine memoryOk_ite h ?_
    refine memoryOk_ite (memoryOk_ite (memoryOk_post (memoryOk_setBucketState
        (memoryOk_writeRange (memoryOk_setBucket (memoryOk_ite (memoryOk_setFlag
        (memoryOk_count32 (memoryOk_count64 (memoryOk_count32 (memoryOk_count64 (memoryOk_ite h (memoryOk_digest h)))))))
        (memoryOk_count32 (memoryOk_count64 (memoryOk_count32 (memoryOk_count64
        (memoryOk_ite h (memoryOk_digest h)))))))) _ _)) _ _ _ _) (memoryOk_writeRange
        (memoryOk_setBucket (memoryOk_ite (memoryOk_setFlag (memoryOk_count32
        (memoryOk_count64 (memoryOk_count32 (memoryOk_count64 (memoryOk_ite h (memoryOk_digest h)))))))
        (memoryOk_count32 (memoryOk_count64 (memoryOk_count32 (memoryOk_count64 (memoryOk_ite h (memoryOk_digest h)))))))) _ _))
        ?_
    refine memoryOk_ite ?_ ?_
    · refine memoryOk_setBucketState ?_
      split
      · exact memoryOk_sendRed (memoryOk_setBucket (memoryOk_ite (memoryOk_setFlag
          (memoryOk_count32 (memoryOk_count64 (memoryOk_count32 (memoryOk_count64 (memoryOk_ite h (memoryOk_digest h)))))))
          (memoryOk_count32 (memoryOk_count64 (memoryOk_count32 (memoryOk_count64 (memoryOk_ite h (memoryOk_digest h))))))))
      · exact memoryOk_setBucket (memoryOk_ite (memoryOk_setFlag (memoryOk_count32
          (memoryOk_count64 (memoryOk_count32 (memoryOk_count64 (memoryOk_ite h (memoryOk_digest h)))))))
          (memoryOk_count32 (memoryOk_count64 (memoryOk_count32 (memoryOk_count64 (memoryOk_ite h (memoryOk_digest h)))))))
    · split
      · exact memoryOk_sendRed (memoryOk_setBucket (memoryOk_ite (memoryOk_setFlag
          (memoryOk_count32 (memoryOk_count64 (memoryOk_count32 (memoryOk_count64 (memoryOk_ite h (memoryOk_digest h)))))))
          (memoryOk_count32 (memoryOk_count64 (memoryOk_count32 (memoryOk_count64 (memoryOk_ite h (memoryOk_digest h))))))))
      · exact memoryOk_setBucket (memoryOk_ite (memoryOk_setFlag (memoryOk_count32
          (memoryOk_count64 (memoryOk_count32 (memoryOk_count64 (memoryOk_ite h (memoryOk_digest h)))))))
          (memoryOk_count32 (memoryOk_count64 (memoryOk_count32 (memoryOk_count64 (memoryOk_ite h (memoryOk_digest h)))))))

theorem memoryOk_failBuckets {s : State} (h : MemoryOk s) : MemoryOk (failBuckets s) := by
  unfold failBuckets
  refine memoryOk_ite h ?_
  refine memoryOk_foldl ?_ h
  intro _ _ h1
  split
  · exact h1
  · exact memoryOk_ite (memoryOk_post (memoryOk_setBucket (memoryOk_setBucketState h1)) _ _ _ _) h1

/-! ### Ready -/

theorem memoryOk_setPhase {s : State} {p : Nat} (h : MemoryOk s) : MemoryOk (setPhase s p) := by
  unfold setPhase
  dsimp only
  exact memoryOk_ite h (memoryOk_setFld (memoryOk_setFld h))

theorem memoryOk_failStart {s : State} {code : Nat} (h : MemoryOk s) : MemoryOk (failStart s code) := by
  unfold failStart
  dsimp only
  exact memoryOk_setFld (memoryOk_setFld (memoryOk_setPhase h))

theorem memoryOk_commitSvn {s : State} (h : MemoryOk s) : MemoryOk (commitSvn s) := by
  unfold commitSvn
  dsimp only
  exact memoryOk_mk h

theorem memoryOk_tryReady {s : State} (h : MemoryOk s) : MemoryOk (tryReady s) := by
  unfold tryReady
  dsimp only
  exact memoryOk_ite h (memoryOk_commitSvn (memoryOk_setFlag (memoryOk_setFlag (memoryOk_setPhase h))))

/-! ### Group -/

theorem memoryOk_rewriteRoutes {s : State} (h : MemoryOk s) : MemoryOk (rewriteRoutes s) := by
  unfold rewriteRoutes
  dsimp only
  exact memoryOk_foldl (fun _ _ h1 => memoryOk_ite (memoryOk_wr h1) (memoryOk_wr h1)) h

theorem memoryOk_sendCtl {s : State} {p : Nat} {w1 : W64} (h : MemoryOk s) : MemoryOk (sendCtl s p w1) := by
  unfold sendCtl
  dsimp only
  exact memoryOk_ite h (memoryOk_sendOn h)

theorem memoryOk_flood {s : State} {skip : Option Nat} {w1 : W64} (h : MemoryOk s) : MemoryOk (flood s skip w1) := by
  unfold flood
  exact memoryOk_foldl (fun _ _ h1 => memoryOk_sendCtl h1) h

theorem memoryOk_tellHost {s : State} {code index : Nat} (h : MemoryOk s) : MemoryOk (tellHost s code index) := by
  unfold tellHost
  exact memoryOk_emit h

theorem memoryOk_adoptView {s : State} {epoch mask : Nat} {cap sb : Option Nat} (h : MemoryOk s) :
    MemoryOk (adoptView s epoch mask cap sb) := by
  unfold adoptView
  dsimp only
  exact memoryOk_ite (memoryOk_tryReady (memoryOk_setPhase (memoryOk_foldl (fun _ _ h1 => memoryOk_setPort h1)
      (memoryOk_setRef (memoryOk_ite (memoryOk_tellHost (memoryOk_ite (memoryOk_markAbort
      (memoryOk_failBuckets (memoryOk_rewriteRoutes (memoryOk_post (memoryOk_count32
      (memoryOk_setFlag (memoryOk_setFld (memoryOk_setFlag (memoryOk_setFld (memoryOk_setFld (memoryOk_setFld h))))))) _ _ _ _))))
      (memoryOk_failBuckets (memoryOk_rewriteRoutes (memoryOk_post (memoryOk_count32
      (memoryOk_setFlag (memoryOk_setFld (memoryOk_setFlag (memoryOk_setFld
      (memoryOk_setFld (memoryOk_setFld h))))))) _ _ _ _))))) (memoryOk_ite
      (memoryOk_tellHost (memoryOk_ite (memoryOk_markAbort (memoryOk_failBuckets
      (memoryOk_rewriteRoutes (memoryOk_post (memoryOk_count32 (memoryOk_setFlag
      (memoryOk_setFld (memoryOk_setFlag (memoryOk_setFld (memoryOk_setFld (memoryOk_setFld h))))))) _ _ _ _))))
      (memoryOk_failBuckets (memoryOk_rewriteRoutes (memoryOk_post (memoryOk_count32
      (memoryOk_setFlag (memoryOk_setFld (memoryOk_setFlag (memoryOk_setFld
      (memoryOk_setFld (memoryOk_setFld h))))))) _ _ _ _))))) (memoryOk_ite
      (memoryOk_markAbort (memoryOk_failBuckets (memoryOk_rewriteRoutes (memoryOk_post
      (memoryOk_count32 (memoryOk_setFlag (memoryOk_setFld (memoryOk_setFlag
      (memoryOk_setFld (memoryOk_setFld (memoryOk_setFld h))))))) _ _ _ _))))
      (memoryOk_failBuckets (memoryOk_rewriteRoutes (memoryOk_post (memoryOk_count32
      (memoryOk_setFlag (memoryOk_setFld (memoryOk_setFlag (memoryOk_setFld
      (memoryOk_setFld (memoryOk_setFld h))))))) _ _ _ _)))))))))) (memoryOk_ite
      (memoryOk_tellHost (memoryOk_ite (memoryOk_markAbort (memoryOk_failBuckets
      (memoryOk_rewriteRoutes (memoryOk_post (memoryOk_count32 (memoryOk_setFlag
      (memoryOk_setFld (memoryOk_setFlag (memoryOk_setFld (memoryOk_setFld (memoryOk_setFld h))))))) _ _ _ _))))
      (memoryOk_failBuckets (memoryOk_rewriteRoutes (memoryOk_post (memoryOk_count32
      (memoryOk_setFlag (memoryOk_setFld (memoryOk_setFlag (memoryOk_setFld
      (memoryOk_setFld (memoryOk_setFld h))))))) _ _ _ _))))) (memoryOk_ite
      (memoryOk_tellHost (memoryOk_ite (memoryOk_markAbort (memoryOk_failBuckets
      (memoryOk_rewriteRoutes (memoryOk_post (memoryOk_count32 (memoryOk_setFlag
      (memoryOk_setFld (memoryOk_setFlag (memoryOk_setFld (memoryOk_setFld (memoryOk_setFld h))))))) _ _ _ _))))
      (memoryOk_failBuckets (memoryOk_rewriteRoutes (memoryOk_post (memoryOk_count32
      (memoryOk_setFlag (memoryOk_setFld (memoryOk_setFlag (memoryOk_setFld
      (memoryOk_setFld (memoryOk_setFld h))))))) _ _ _ _))))) (memoryOk_ite
      (memoryOk_markAbort (memoryOk_failBuckets (memoryOk_rewriteRoutes (memoryOk_post
      (memoryOk_count32 (memoryOk_setFlag (memoryOk_setFld (memoryOk_setFlag
      (memoryOk_setFld (memoryOk_setFld (memoryOk_setFld h))))))) _ _ _ _))))
      (memoryOk_failBuckets (memoryOk_rewriteRoutes (memoryOk_post (memoryOk_count32
      (memoryOk_setFlag (memoryOk_setFld (memoryOk_setFlag (memoryOk_setFld
      (memoryOk_setFld (memoryOk_setFld h))))))) _ _ _ _))))))

theorem memoryOk_issueView {s : State} {epoch mask : Nat} {cap sb : Option Nat} (h : MemoryOk s) :
    MemoryOk (issueView s epoch mask cap sb) := by
  unfold issueView
  dsimp only
  exact memoryOk_flood (memoryOk_adoptView h)

theorem memoryOk_issueUpdate {s : State} {mask : Nat} (h : MemoryOk s) : MemoryOk (issueUpdate s mask) := by
  unfold issueUpdate
  dsimp only
  exact memoryOk_issueView h

theorem memoryOk_nameCaptain {s : State} (h : MemoryOk s) : MemoryOk (nameCaptain s) := by
  unfold nameCaptain
  dsimp only
  exact memoryOk_issueView h

theorem memoryOk_endRounds {s : State} (h : MemoryOk s) : MemoryOk (endRounds s) := by
  unfold endRounds
  exact memoryOk_ite (memoryOk_nameCaptain h) h

theorem memoryOk_settle {s : State} (h : MemoryOk s) : MemoryOk (settle s) := by
  unfold settle
  exact memoryOk_ite (memoryOk_endRounds (memoryOk_setPhase h)) h

theorem memoryOk_opHeartbeatSend {s : State} (h : MemoryOk s) : MemoryOk (opHeartbeatSend s) := by
  unfold opHeartbeatSend
  exact memoryOk_ite h (memoryOk_foldl (fun _ _ h1 => memoryOk_ite h1 (memoryOk_sendCtl h1)) h)

theorem memoryOk_opHeartbeat {p : Nat} {s : State} (h : MemoryOk s) : MemoryOk (opHeartbeat p s) := by
  unfold opHeartbeat
  dsimp only
  split
  · exact h
  · exact memoryOk_setPort (memoryOk_dropMsg h)

theorem memoryOk_opNeighbourHung {p : Nat} {s : State} (h : MemoryOk s) : MemoryOk (opNeighbourHung p s) := by
  unfold opNeighbourHung
  dsimp only
  exact memoryOk_ite h (memoryOk_issueUpdate (memoryOk_post h _ _ _ _))

theorem memoryOk_opMembershipUpdate {p : Nat} {s : State} (h : MemoryOk s) : MemoryOk (opMembershipUpdate p s) := by
  unfold opMembershipUpdate
  dsimp only
  split
  · exact h
  · exact memoryOk_ite (memoryOk_staleMsg h) (memoryOk_ite (memoryOk_ite (memoryOk_dropMsg h)
      (memoryOk_issueUpdate (memoryOk_dropMsg h))) (memoryOk_flood (memoryOk_adoptView (memoryOk_dropMsg h))))

theorem memoryOk_rejoinTake {s : State} {p sub : Nat} {fresh : State → Nat → Bool} {act : State → Nat → State} (h : MemoryOk s)
    (hact : ∀ x0 x1, MemoryOk x0 → MemoryOk (act x0 x1)) : MemoryOk (rejoinTake s p sub fresh act) := by
  unfold rejoinTake
  dsimp only
  split
  · exact h
  · exact memoryOk_ite (memoryOk_staleMsg h) (memoryOk_ite (hact _ _ (memoryOk_flood (memoryOk_dropMsg h))) (memoryOk_dropMsg h))

theorem memoryOk_opRejoinStart {p : Nat} {s : State} (h : MemoryOk s) : MemoryOk (opRejoinStart p s) := by
  unfold opRejoinStart
  dsimp only
  exact memoryOk_rejoinTake h (fun _ _ h1 => memoryOk_ite (memoryOk_setRef h1)
      (memoryOk_foldl (fun _ _ h2 => memoryOk_ite (memoryOk_opRelockDirect h2) h2) (memoryOk_rewriteRoutes (memoryOk_setRef h1))))

theorem memoryOk_opRejoinDone {p : Nat} {s : State} (h : MemoryOk s) : MemoryOk (opRejoinDone p s) := by
  unfold opRejoinDone
  dsimp only
  exact memoryOk_rejoinTake h (fun _ _ h1 => memoryOk_ite (memoryOk_rewriteRoutes (memoryOk_setRef h1))
      (memoryOk_endRounds (memoryOk_setRef h1)))

theorem memoryOk_opBypassRound {s : State} (h : MemoryOk s) : MemoryOk (opBypassRound s) := by
  unfold opBypassRound
  dsimp only
  exact memoryOk_ite h (memoryOk_setRef (memoryOk_flood h))

theorem memoryOk_opBypassRoundClose {s : State} (h : MemoryOk s) : MemoryOk (opBypassRoundClose s) := by
  unfold opBypassRoundClose
  dsimp only
  exact memoryOk_ite (memoryOk_setRef (memoryOk_setInsert h)) h

theorem memoryOk_opBypassRoundInsert {s : State} (h : MemoryOk s) : MemoryOk (opBypassRoundInsert s) := by
  unfold opBypassRoundInsert
  dsimp only
  exact memoryOk_ite (memoryOk_setRef (memoryOk_setInsert h)) h

theorem memoryOk_roundDone {s : State} (h : MemoryOk s) : MemoryOk (roundDone s) := by
  unfold roundDone
  dsimp only
  exact memoryOk_ite (memoryOk_endRounds (memoryOk_setRef (memoryOk_flood h))) h

theorem memoryOk_noteBypassed {s : State} {p : Nat} (h : MemoryOk s) : MemoryOk (noteBypassed s p) := by
  unfold noteBypassed
  dsimp only
  exact memoryOk_ite h (memoryOk_ite h (memoryOk_issueUpdate h))

theorem memoryOk_finishRejoin {s : State} (h : MemoryOk s) : MemoryOk (finishRejoin s) := by
  unfold finishRejoin
  dsimp only
  split
  · exact h
  · exact memoryOk_ite (memoryOk_flood (memoryOk_issueUpdate (memoryOk_setRef h))) h

theorem memoryOk_afterPort {s : State} {p : Nat} (h : MemoryOk s) : MemoryOk (afterPort s p) := by
  unfold afterPort
  exact memoryOk_roundDone (memoryOk_settle (memoryOk_finishRejoin (memoryOk_noteBypassed (memoryOk_rewriteRoutes h))))

theorem memoryOk_opRelockComplete {p : Nat} {lanes : BitVec 4} {partner pport : Nat} {s : State} (h : MemoryOk s) :
    MemoryOk (opRelockComplete p lanes partner pport s) := by
  unfold opRelockComplete
  dsimp only
  exact memoryOk_ite h (memoryOk_afterPort (memoryOk_count32 (memoryOk_comeUp h)))

theorem memoryOk_opTrainingComplete {p : Nat} {lanes : BitVec 4} {partner pport : Nat} {s : State} (h : MemoryOk s) :
    MemoryOk (opTrainingComplete p lanes partner pport s) := by
  unfold opTrainingComplete
  dsimp only
  exact memoryOk_ite h (memoryOk_ite (memoryOk_afterPort (memoryOk_ite (memoryOk_setFlag (memoryOk_comeUp h))
      (memoryOk_ite (memoryOk_setFlag (memoryOk_comeUp h)) (memoryOk_comeUp h))))
      (memoryOk_afterPort (memoryOk_post (memoryOk_setState (memoryOk_setFlag (memoryOk_comeUp h))) _ _ _ _)))

theorem memoryOk_opTrainingTimeout {p : Nat} {seen : Bool} {s : State} (h : MemoryOk s) :
    MemoryOk (opTrainingTimeout p seen s) := by
  unfold opTrainingTimeout
  dsimp only
  refine memoryOk_ite h ?_
  refine memoryOk_afterPort ?_
  split
  · exact memoryOk_ite (memoryOk_issueUpdate (memoryOk_failPort h)) (memoryOk_failPort h)
  · exact memoryOk_failPort h

theorem memoryOk_opLaneLoss {p lane other : Nat} {s : State} (h : MemoryOk s) : MemoryOk (opLaneLoss p lane other s) := by
  unfold opLaneLoss
  exact memoryOk_ite h (memoryOk_rewriteRoutes (memoryOk_laneLost h))

theorem memoryOk_opLossOfSignal {p : Nat} {s : State} (h : MemoryOk s) : MemoryOk (opLossOfSignal p s) := by
  unfold opLossOfSignal
  dsimp only
  exact memoryOk_ite (memoryOk_signalLost h) (memoryOk_rewriteRoutes (memoryOk_signalLost
      (memoryOk_ite (memoryOk_markAbort h) h)))

theorem memoryOk_opHostLinkUp {p : Nat} {s : State} (h : MemoryOk s) : MemoryOk (opHostLinkUp p s) := by
  unfold opHostLinkUp
  dsimp only
  exact memoryOk_ite h (memoryOk_setPort h)

theorem memoryOk_hostAck {s : State} {p hack : Nat} (h : MemoryOk s) : MemoryOk (hostAck s p hack) := by
  unfold hostAck
  dsimp only
  exact memoryOk_foldl (fun _ _ h1 => memoryOk_hostSend h1) (memoryOk_setPort h)

theorem memoryOk_hostMsg {p : Nat} {s : State} {m : Msg} (h : MemoryOk s) : MemoryOk (hostMsg p s m) := by
  unfold hostMsg
  dsimp only
  exact memoryOk_ite (memoryOk_receive (memoryOk_mk h)) (memoryOk_count32 h)

theorem memoryOk_opHostFrame {p : Nat} {f : HostFrame} {s : State} (h : MemoryOk s) : MemoryOk (opHostFrame p f s) := by
  unfold opHostFrame
  dsimp only
  refine memoryOk_ite h ?_
  refine memoryOk_ite (memoryOk_count32 h) ?_
  refine memoryOk_ite h ?_
  refine memoryOk_ite (memoryOk_count32 h) ?_
  split
  · exact memoryOk_count32 h
  · exact memoryOk_ite (memoryOk_hostAck (memoryOk_setPort h)) (memoryOk_foldl (fun _ _ h1 => memoryOk_hostMsg h1)
      (memoryOk_count64 (memoryOk_setPort (memoryOk_hostAck (memoryOk_setPort h)))))

theorem memoryOk_hostResend {s : State} {p : Nat} (h : MemoryOk s) : MemoryOk (hostResend s p) := by
  unfold hostResend
  dsimp only
  exact memoryOk_setPort h

theorem memoryOk_opHostResendTimeout {p : Nat} {s : State} (h : MemoryOk s) : MemoryOk (opHostResendTimeout p s) := by
  unfold opHostResendTimeout
  exact memoryOk_ite h (memoryOk_count32 (memoryOk_hostResend h))

/-! ### Power -/

theorem memoryOk_setPower {s : State} {x : Nat} (h : MemoryOk s) : MemoryOk (setPower s x) := by
  unfold setPower
  exact memoryOk_setRelays (memoryOk_setFld h)

theorem memoryOk_clockStatus {s : State} {n : Nat} (h : MemoryOk s) : MemoryOk (clockStatus s n) := by
  unfold clockStatus
  dsimp only
  exact memoryOk_wr h

theorem memoryOk_clockAll {s : State} (h : MemoryOk s) : MemoryOk (clockAll s) := by
  unfold clockAll
  exact memoryOk_foldl (fun _ _ h1 => memoryOk_clockStatus h1) h

theorem memoryOk_opSupplySag {n level : Nat} {s : State} (h : MemoryOk s) : MemoryOk (opSupplySag n level s) := by
  unfold opSupplySag
  exact memoryOk_ite h (memoryOk_clockStatus (memoryOk_count32 (memoryOk_setFld h)))

theorem memoryOk_opStretchRelease {n : Nat} {s : State} (h : MemoryOk s) : MemoryOk (opStretchRelease n s) := by
  unfold opStretchRelease
  exact memoryOk_ite h (memoryOk_clockStatus (memoryOk_setFld h))

theorem memoryOk_opInputCurrentLimit {s : State} (h : MemoryOk s) : MemoryOk (opInputCurrentLimit s) := by
  unfold opInputCurrentLimit
  dsimp only
  exact memoryOk_ite h (memoryOk_clockAll (memoryOk_count32 (memoryOk_mk h)))

theorem memoryOk_opCurrentLimitRelease {s : State} (h : MemoryOk s) : MemoryOk (opCurrentLimitRelease s) := by
  unfold opCurrentLimitRelease
  dsimp only
  exact memoryOk_ite h (memoryOk_clockAll (memoryOk_mk h))

theorem memoryOk_opVinLow {low : Bool} {s : State} (h : MemoryOk s) : MemoryOk (opVinLow low s) := by
  unfold opVinLow
  dsimp only
  exact memoryOk_clockAll (memoryOk_mk h)

theorem memoryOk_opPowerCapUpdate {watts : Nat} {s : State} (h : MemoryOk s) : MemoryOk (opPowerCapUpdate watts s) := by
  unfold opPowerCapUpdate
  dsimp only
  exact memoryOk_ite (memoryOk_clockAll (memoryOk_mk h)) (memoryOk_ite (memoryOk_ite h
      (memoryOk_count32 (memoryOk_clockAll (memoryOk_mk h)))) (memoryOk_ite (memoryOk_clockAll (memoryOk_mk h)) h))

theorem memoryOk_opCoreClockGate {n i : Nat} {s : State} (h : MemoryOk s) : MemoryOk (opCoreClockGate n i s) := by
  unfold opCoreClockGate
  dsimp only
  exact memoryOk_ite h (memoryOk_setCore h)

theorem memoryOk_enterReset {causes : Nat} {toAux : Bool} {s : State} (_h : MemoryOk s) :
    MemoryOk (enterReset causes toAux s) := by
  unfold enterReset
  dsimp only
  exact memoryOk_clockAll (memoryOk_setInsert (memoryOk_setFld (memoryOk_wr
      (memoryOk_wr (memoryOk_wr (memoryOk_foldl (fun _ _ h1 => memoryOk_setChan h1)
      (memoryOk_setFld (memoryOk_mk memoryOk_reset))))))))

theorem memoryOk_sequenceUp {s : State} (h : MemoryOk s) : MemoryOk (sequenceUp s) := by
  unfold sequenceUp
  exact memoryOk_ite (memoryOk_setPower h) h

theorem memoryOk_opPowerOn {s : State} (h : MemoryOk s) : MemoryOk (opPowerOn s) := by
  unfold opPowerOn
  dsimp only
  exact memoryOk_ite h (memoryOk_ite (memoryOk_setFlag (memoryOk_ite (memoryOk_mk h) h))
      (memoryOk_sequenceUp (memoryOk_wr (memoryOk_setFlag (memoryOk_setFlag (memoryOk_ite (memoryOk_mk h) h))))))

theorem memoryOk_opBrownout {s : State} (h : MemoryOk s) : MemoryOk (opBrownout s) := by
  unfold opBrownout
  dsimp only
  exact memoryOk_ite h (memoryOk_ite (memoryOk_enterReset (memoryOk_setRelays (memoryOk_setFlag (memoryOk_setFlag h))))
      (memoryOk_setRelays (memoryOk_setFlag (memoryOk_setFlag h))))

theorem memoryOk_opBrownoutRestart {s : State} (h : MemoryOk s) : MemoryOk (opBrownoutRestart s) := by
  unfold opBrownoutRestart
  dsimp only
  exact memoryOk_ite h (memoryOk_sequenceUp (memoryOk_setFlag (memoryOk_mk h)))

theorem memoryOk_opRailFault {page : Nat} {s : State} (h : MemoryOk s) : MemoryOk (opRailFault page s) := by
  unfold opRailFault
  dsimp only
  exact memoryOk_ite h (memoryOk_enterReset (memoryOk_mk (memoryOk_setFld (memoryOk_setFlag h))))

theorem memoryOk_opResetSignal {high : Bool} {lowNs : Nat} {s : State} (h : MemoryOk s) :
    MemoryOk (opResetSignal high lowNs s) := by
  unfold opResetSignal
  dsimp only
  exact memoryOk_ite (memoryOk_sequenceUp (memoryOk_mk (memoryOk_ite (memoryOk_enterReset h) h)))
      (memoryOk_mk (memoryOk_ite (memoryOk_enterReset h) h))

theorem memoryOk_opManagementReset {s : State} (h : MemoryOk s) : MemoryOk (opManagementReset s) := by
  unfold opManagementReset
  exact memoryOk_ite (memoryOk_enterReset h) h

theorem memoryOk_opTapLeaveTestLogicReset {s : State} (h : MemoryOk s) : MemoryOk (opTapLeaveTestLogicReset s) := by
  unfold opTapLeaveTestLogicReset
  dsimp only
  exact memoryOk_ite h (memoryOk_mk (memoryOk_ite (memoryOk_enterReset h) h))

theorem memoryOk_opTapReturnTestLogicReset {s : State} (h : MemoryOk s) : MemoryOk (opTapReturnTestLogicReset s) := by
  unfold opTapReturnTestLogicReset
  dsimp only
  exact memoryOk_ite h (memoryOk_ite (memoryOk_setFlag (memoryOk_mk h)) (memoryOk_mk h))

theorem memoryOk_opAuxInputLoss {s : State} (_h : MemoryOk s) : MemoryOk (opAuxInputLoss s) := by
  unfold opAuxInputLoss
  dsimp only
  exact memoryOk_setFlag (memoryOk_mk memoryOk_reset)

theorem memoryOk_tryUnlock {s : State} (h : MemoryOk s) : MemoryOk (tryUnlock s) := by
  unfold tryUnlock
  dsimp only
  exact memoryOk_ite (memoryOk_sequenceUp (memoryOk_mk h)) h

theorem memoryOk_thermStatus {s : State} (h : MemoryOk s) : MemoryOk (thermStatus s) := by
  unfold thermStatus
  dsimp only
  refine memoryOk_foldl (fun _ _ h1 => memoryOk_setFlag h1) ?_
  split
  · exact memoryOk_setFld (memoryOk_setFld h)
  · exact h

theorem memoryOk_opThermalSensorSample {readings : List (Sensor × Int)} {s : State} (h : MemoryOk s) :
    MemoryOk (opThermalSensorSample readings s) := by
  unfold opThermalSensorSample
  dsimp only
  split
  · exact memoryOk_ite (memoryOk_enterReset (memoryOk_mk (memoryOk_setFld
      (memoryOk_setFlag (memoryOk_thermStatus (memoryOk_mk h)))))) (memoryOk_thermStatus (memoryOk_mk h))
  · exact memoryOk_tryUnlock (memoryOk_thermStatus (memoryOk_mk h))

theorem memoryOk_opThermalStepUpdate {s : State} (h : MemoryOk s) : MemoryOk (opThermalStepUpdate s) := by
  unfold opThermalStepUpdate
  dsimp only
  exact memoryOk_clockAll (memoryOk_mk (memoryOk_foldl (fun _ _ h1 => memoryOk_ite
      (memoryOk_ite h1 (memoryOk_count32 (memoryOk_mk h1))) (memoryOk_ite h1 (memoryOk_mk h1))) h))

theorem memoryOk_opDormant {s : State} (h : MemoryOk s) : MemoryOk (opDormant s) := by
  unfold opDormant
  dsimp only
  exact memoryOk_ite h (memoryOk_ite (memoryOk_setFlag h) (memoryOk_setPower
      (memoryOk_mk (memoryOk_foldl (fun _ _ h1 => memoryOk_setChan h1) (memoryOk_foldl (fun _ _ h1 => memoryOk_syncNow h1)
      (memoryOk_setFld h))))))

theorem memoryOk_opActive {s : State} (h : MemoryOk s) : MemoryOk (opActive s) := by
  unfold opActive
  exact memoryOk_startWake (memoryOk_setFld h)

theorem memoryOk_opWakeComplete {s : State} (h : MemoryOk s) : MemoryOk (opWakeComplete s) := by
  unfold opWakeComplete
  dsimp only
  exact memoryOk_ite h (memoryOk_clockAll (memoryOk_setPower (memoryOk_mk
      (memoryOk_foldl (fun _ _ h1 => memoryOk_setChan h1) h))))

/-! ### Clock -/

theorem memoryOk_stretchTick {t : Nat} {s : State} {n : Nat} (h : MemoryOk s) : MemoryOk (stretchTick t s n) := by
  unfold stretchTick
  exact memoryOk_ite h (memoryOk_count64 h)

theorem memoryOk_cycleTick {t : Nat} {s : State} {n : Nat} (h : MemoryOk s) : MemoryOk (cycleTick t s n) := by
  unfold cycleTick
  dsimp only
  exact memoryOk_setChan h

theorem memoryOk_idleTick {s : State} (h : MemoryOk s) : MemoryOk (idleTick s) := by
  unfold idleTick
  dsimp only
  exact memoryOk_ite h (memoryOk_ite (memoryOk_wr h) (memoryOk_foldl (fun _ _ h1 => memoryOk_stretchTick h1)
      (memoryOk_foldl (fun _ _ h1 => memoryOk_cycleTick h1) (memoryOk_wr h))))

/-! ### Attention -/

/-- What holds of a value by recursion, where it passes from each value to the next. -/
theorem brecOn_induct {M : Nat → Type} {P : ∀ k, M k → Prop} {F : ∀ k, Nat.below (motive := M) k → M k}
    (hZero : ∀ b, P 0 (F 0 b)) (hSucc : ∀ k b, P k b.1 → P (k + 1) (F (k + 1) b)) (k : Nat) : P k (Nat.brecOn k F) := by
  induction k with
  | zero => exact hZero _
  | succ k ih => exact hSucc k _ ih

/-- The kernel would read the page list to compare the walk with its equation: the reading is a name here, and the recursion the
one that the walk is compiled to. -/
theorem memoryOk_walkPages {n upto k ix tok : Nat} {op : Op} {e : LenEntry} {acc : List PageRun} {s : State} (h : MemoryOk s) :
    MemoryOk (walkPages n op e upto k s ix tok acc).1 := by
  obtain ⟨read, hr⟩ : ∃ f, readRange = f := ⟨_, rfl⟩
  have hRead {t : State} (ht : MemoryOk t) (a len : Nat) : MemoryOk (read t a len).1 := hr ▸ memoryOk_readRange ht
  obtain ⟨F, hF⟩ : ∃ f, walkPages._f n op e upto = f := ⟨_, rfl⟩
  obtain ⟨w, hw⟩ : ∃ w, walkPages n op e upto = w := ⟨_, rfl⟩
  rw [hw]
  delta walkPages at hw
  rw [hF] at hw
  rw [← hw]
  beta_reduce
  delta walkPages._f at hF
  rw [hr] at hF
  refine brecOn_induct (M := fun _ => State → Nat → Nat → List PageRun → State × List PageRun × Option WalkStop)
    (P := fun _ f => ∀ s ix tok acc, MemoryOk s → MemoryOk (f s ix tok acc).1) ?_ ?_ k s ix tok acc h
  · intro b s ix tok acc h
    rw [← hF]
    exact h
  · intro k b ih s ix tok acc h
    rw [← hF]
    dsimp only
    refine memoryOk_ite_fst h ?_
    split
    · next heq => exact memoryOk_fst heq (hRead h _ _)
    · next heq =>
      have hList := memoryOk_fst heq (hRead h _ _)
      refine memoryOk_ite_fst hList (memoryOk_ite_fst hList ?_)
      split
      · next heq => exact memoryOk_fst heq (hRead hList _ _)
      · next heq =>
        have hHeader := memoryOk_fst heq (hRead hList _ _)
        split
        · exact hHeader
        · exact hHeader
        · exact ih _ _ _ _ hHeader

theorem memoryOk_haltWalk {s : State} {n k tile : Nat} {id : W32} {w : WalkStop} (h : MemoryOk s) :
    MemoryOk (haltWalk s n k tile id w) := by
  unfold haltWalk
  split
  · exact memoryOk_haltStop h
  · exact memoryOk_haltStream h
  · exact memoryOk_haltStream (memoryOk_noteHdrFault h)
  · exact memoryOk_haltStream (memoryOk_setFlag h)

theorem memoryOk_putAttn {s : State} {n : Nat} {g : GridCore} {f : ArrayTask → ArrayTask} (h : MemoryOk s) :
    MemoryOk (putAttn s n g f) := by
  unfold putAttn
  dsimp only
  exact memoryOk_setCore h

theorem memoryOk_finishTile {s : State} {n : Nat} {l : LoadedOp} {g : GridCore} {t : TileIx} {x : AttnTile} (h : MemoryOk s) :
    MemoryOk (finishTile s n l g t x).1 := by
  unfold finishTile
  dsimp only
  split
  · next heq => exact memoryOk_fst heq (memoryOk_storeResults h)
  · next heq =>
      have h1 := memoryOk_fst heq (memoryOk_storeResults h)
      split
      · next heq => exact memoryOk_fst heq (memoryOk_ite_fst (memoryOk_storeResults h1) h1)
      · next heq =>
          have h2 := memoryOk_fst heq (memoryOk_ite_fst (memoryOk_storeResults h1) h1)
          exact memoryOk_arriveStore (memoryOk_countFinal h2)

theorem memoryOk_nextTile {s : State} {n : Nat} {l : LoadedOp} {g : GridCore} (h : MemoryOk s) : MemoryOk (nextTile s n l g) := by
  unfold nextTile
  dsimp only
  split
  · exact memoryOk_ite (memoryOk_finishCore (memoryOk_putAttn h)) (memoryOk_putAttn h)
  · exact memoryOk_putAttn h

theorem memoryOk_openTiles {n k : Nat} {l : LoadedOp} {g : GridCore} {s : State} (h : MemoryOk s) :
    MemoryOk (openTiles n l g k s) := by
  induction k generalizing s with
  | zero => exact h
  | succ k ih =>
    unfold openTiles
    split
    · exact h
    · split
      · exact h
      · split
        · exact h
        · split
          · next heq => exact ih (memoryOk_nextTile (memoryOk_fst heq (memoryOk_finishTile h)))
          · next heq => exact memoryOk_fst heq (memoryOk_finishTile h)
      · dsimp only
        split
        · exact ih (memoryOk_nextTile h)
        · exact ih (memoryOk_putAttn (memoryOk_ite h (memoryOk_count64 h)))

theorem memoryOk_feedAttention {s : State} {n : Nat} {l : LoadedOp} {g : GridCore} {late : Nat} {cause : StallCause}
    (h : MemoryOk s) : MemoryOk (feedAttention s n l g late cause) := by
  unfold feedAttention
  dsimp only
  refine memoryOk_ite (memoryOk_takeTiles h) ?_
  split
  · split
    · refine memoryOk_ite (memoryOk_openTiles (memoryOk_takeTiles h)) ?_
      split
      · exact memoryOk_openTiles (memoryOk_takeTiles h)
      · split
        · exact memoryOk_openTiles (memoryOk_takeTiles h)
        · split
          · next heq =>
              have h1 := memoryOk_fst heq (memoryOk_walkPages (memoryOk_openTiles (memoryOk_takeTiles h)))
              exact memoryOk_haltWalk h1
          · next heq =>
              have h1 := memoryOk_fst heq (memoryOk_walkPages (memoryOk_openTiles (memoryOk_takeTiles h)))
              split
              · next heq =>
                  have h2 := memoryOk_fst heq (memoryOk_readWordsOn (memoryOk_ite h1 (memoryOk_openTiles (memoryOk_takeTiles h))))
                  exact memoryOk_haltStop h2
              · next heq =>
                  have h2 := memoryOk_fst heq (memoryOk_readWordsOn (memoryOk_ite h1 (memoryOk_openTiles (memoryOk_takeTiles h))))
                  exact memoryOk_putAttn (memoryOk_noteRaised (memoryOk_ite
                      (memoryOk_walkTiles (memoryOk_ite (memoryOk_cacheReads h2)
                      (memoryOk_ite h1 (memoryOk_openTiles (memoryOk_takeTiles h)))))
                      (memoryOk_ite (memoryOk_cacheReads h2) (memoryOk_ite h1 (memoryOk_openTiles (memoryOk_takeTiles h))))))
    · exact memoryOk_openTiles (memoryOk_takeTiles h)
  · exact memoryOk_openTiles (memoryOk_takeTiles h)

theorem memoryOk_monitorAttn {s : State} {n : Nat} {op : Op} {g : GridCore} {t : TileIx} {x : AttnTile} {p : Pass}
    (h : MemoryOk s) : MemoryOk (monitorAttn s n op g t x p) := by
  unfold monitorAttn
  refine memoryOk_foldl ?_ h
  intro _ _ h1
  refine memoryOk_ite h1 ?_
  split
  · exact memoryOk_noteCancel h1
  · exact h1

theorem memoryOk_endGroup {s : State} {n : Nat} {l : LoadedOp} {g : GridCore} {t : TileIx} {x : AttnTile} (h : MemoryOk s) :
    MemoryOk (endGroup s n l g t x) := by
  unfold endGroup
  dsimp only
  split
  · exact memoryOk_ite (memoryOk_putAttn h) (memoryOk_putAttn h)
  · exact memoryOk_putAttn h
  · split
    · next heq =>
        have h1 := memoryOk_fst heq (memoryOk_finishTile h)
        exact memoryOk_nextTile h1
    · next heq => exact memoryOk_fst heq (memoryOk_finishTile h)

theorem memoryOk_compareAttention {s : State} {n : Nat} {l : LoadedOp} {g : GridCore} {ds : List Disturb} (h : MemoryOk s) :
    MemoryOk (compareAttention s n l g ds) := by
  unfold compareAttention
  dsimp only
  split
  · exact h
  · split
    · split
      · exact memoryOk_putAttn (memoryOk_coreFault h)
      · exact memoryOk_ite (memoryOk_endGroup (memoryOk_putAttn (memoryOk_monitorAttn h)))
          (memoryOk_putAttn (memoryOk_monitorAttn h))
    · exact memoryOk_ite (memoryOk_endGroup h) h
    · exact h

/-! ### Sparse -/

theorem memoryOk_openPairs {s : State} {n : Nat} {l : LoadedOp} {g : GridCore} (h : MemoryOk s) :
    MemoryOk (openPairs s n l g) := by
  unfold openPairs
  exact memoryOk_ite h (memoryOk_startPass (memoryOk_loadSwap h))

theorem memoryOk_settlePairs {n k : Nat} {l : LoadedOp} {g : GridCore} {s : State} (h : MemoryOk s) :
    MemoryOk (settlePairs n l g k s) := by
  induction k generalizing s with
  | zero => exact h
  | succ k ih =>
    unfold settlePairs
    split
    · exact h
    · split
      · exact h
      · split
        · exact h
        · dsimp only
          split
          · exact memoryOk_openPairs h
          · exact ih (memoryOk_putAttn (memoryOk_openPairs h))

theorem memoryOk_settleProducer {s : State} {n : Nat} {l : LoadedOp} (h : MemoryOk s) : MemoryOk (settleProducer s n l) := by
  unfold settleProducer
  dsimp only
  split
  · exact h
  · exact memoryOk_ite (memoryOk_finishCore h) h

theorem memoryOk_replayPairs {s : State} {n : Nat} {l : LoadedOp} {g : GridCore} (h : MemoryOk s) :
    MemoryOk (replayPairs s n l g) := by
  unfold replayPairs
  dsimp only
  split
  · exact memoryOk_putOp h
  · exact h

theorem memoryOk_isectFault {s : State} {n : Nat} {p : LoadedOp} {operand die code pos : Nat} {w : Nat × Nat} (h : MemoryOk s) :
    MemoryOk (isectFault s n p operand die code pos w) := by
  unfold isectFault
  dsimp only
  split
  · exact memoryOk_ite (memoryOk_haltStream (memoryOk_setFlag h)) (memoryOk_structFault h)
  · exact h

theorem memoryOk_recordIn {s : State} {n : Nat} {g : GridCore} {id : W32} {r : W64} (h : MemoryOk s) :
    MemoryOk (recordIn s n g id r) := by
  unfold recordIn
  dsimp only
  split
  · exact h
  · exact memoryOk_setStream (memoryOk_foldl (fun _ _ h1 => memoryOk_csWrite h1) h)

theorem memoryOk_opBlock {n log : Nat} {r : W64} {s : State} (h : MemoryOk s) : MemoryOk (opBlock n log r s) := by
  unfold opBlock
  dsimp only
  split
  · exact h
  · split
    · refine memoryOk_ite h ?_
      split
      · split
        · exact memoryOk_isectFault h
        · exact memoryOk_isectFault h
        · split
          · exact memoryOk_openPairs h
          · exact memoryOk_settleProducer (memoryOk_settlePairs (memoryOk_unitsAsk
              (memoryOk_portUp (memoryOk_portDown (memoryOk_recordIn (memoryOk_putAttn
              (memoryOk_putOp (memoryOk_openPairs h))))))))
      · exact h
    · exact h

theorem memoryOk_recordUp {s : State} {n : Nat} {l : LoadedOp} {w : Option (Nat × Nat)} (h : MemoryOk s) :
    MemoryOk (recordUp s n l w) := by
  unfold recordUp
  split
  · exact memoryOk_portUp h
  · exact h

theorem memoryOk_opPair {n log : Nat} {r : W64} {s : State} (h : MemoryOk s) : MemoryOk (opPair n log r s) := by
  unfold opPair
  dsimp only
  split
  · exact h
  · split
    · exact memoryOk_ite h (memoryOk_settleProducer (memoryOk_settlePairs
        (memoryOk_count64 (memoryOk_recordUp (memoryOk_recordIn (memoryOk_putAttn h))))))
    · exact h

theorem memoryOk_opEnd {n log : Nat} {r : W64} {s : State} (h : MemoryOk s) : MemoryOk (opEnd n log r s) := by
  unfold opEnd
  split
  · exact h
  · exact memoryOk_ite h (memoryOk_settleProducer (memoryOk_settlePairs (memoryOk_recordUp (memoryOk_recordIn h))))

/-! ### Letrix -/

theorem memoryOk_putLx {s : State} {n : Nat} {l : LoadedOp} {w : LxWork} (h : MemoryOk s) : MemoryOk (putLx s n l w) := by
  unfold putLx
  dsimp only
  exact memoryOk_setChan h

theorem memoryOk_putCombine {s : State} {n phys off : Nat} {bs : List Byte} (h : MemoryOk s) :
    MemoryOk (putCombine s n phys off bs) := by
  unfold putCombine
  exact memoryOk_foldl (fun _ _ h1 => memoryOk_csWrite h1) h

theorem memoryOk_opSumChunkSend {k : Nat} {id : W32} {waited : Nat} {s : State} (h : MemoryOk s) :
    MemoryOk (opSumChunkSend k id waited s) := by
  unfold opSumChunkSend
  dsimp only
  split
  · exact h
  · exact memoryOk_ite h (memoryOk_putLx (memoryOk_noteRaised (memoryOk_foldl (fun _ _ h1 => memoryOk_putCombine h1)
      (memoryOk_portUp (memoryOk_ite (memoryOk_count64 h) (memoryOk_count64 (memoryOk_count64 h)))))))

theorem memoryOk_chunkStore {s : State} {n : Nat} {l : LoadedOp} {h : Nat} (hOk : MemoryOk s) :
    MemoryOk (chunkStore s n l h).1 := by
  unfold chunkStore
  dsimp only
  exact memoryOk_storeResults hOk

theorem memoryOk_lxHalt {s : State} {n : Nat} {id : W32} {e : Stop} (h : MemoryOk s) : MemoryOk (lxHalt s n id e) := by
  unfold lxHalt
  dsimp only
  split
  · exact memoryOk_putLx h
  · exact h

theorem memoryOk_entryRead {s : State} {n : Nat} {l : LoadedOp} {ws : List (Nat × Nat)} (h : MemoryOk s) :
    MemoryOk (entryRead s n l ws).1 := by
  unfold entryRead
  dsimp only
  split
  · next heq => exact memoryOk_fst heq (memoryOk_csRead h)
  · next heq =>
      have h1 := memoryOk_fst heq (memoryOk_csRead h)
      exact memoryOk_lxHalt (memoryOk_stopEvent h1)

theorem memoryOk_opCombineChunk {n : Nat} {id : W32} {s : State} (h : MemoryOk s) : MemoryOk (opCombineChunk n id s) := by
  unfold opCombineChunk
  dsimp only
  split
  · exact h
  · refine memoryOk_ite h ?_
    split
    · next heq => exact memoryOk_fst heq (memoryOk_entryRead h)
    · next heq =>
        have h1 := memoryOk_fst heq (memoryOk_entryRead h)
        split
        · next heq =>
            have h2 := memoryOk_fst heq (memoryOk_chunkStore h1)
            exact memoryOk_lxHalt h2
        · next heq =>
            have h2 := memoryOk_fst heq (memoryOk_chunkStore h1)
            refine memoryOk_ite ?_ ?_
            · refine memoryOk_finishCore ?_
              refine memoryOk_unitsAsk ?_
              refine memoryOk_putLx ?_
              refine memoryOk_arriveStore ?_
              refine memoryOk_noteRaised ?_
              refine memoryOk_ite h2 ?_
              refine memoryOk_foldl ?_ h2
              intro _ _ h3
              refine memoryOk_ite h3 ?_
              split
              · exact memoryOk_noteCancel h3
              · exact h3
            · refine memoryOk_unitsAsk ?_
              refine memoryOk_putLx ?_
              refine memoryOk_arriveStore ?_
              refine memoryOk_noteRaised ?_
              refine memoryOk_ite h2 ?_
              refine memoryOk_foldl ?_ h2
              intro _ _ h3
              refine memoryOk_ite h3 ?_
              split
              · exact memoryOk_noteCancel h3
              · exact h3

theorem memoryOk_unitWrite {s : State} {n : Nat} {id : W32} {bs : List (Nat × Nat × Nat)} (h : MemoryOk s) :
    MemoryOk (unitWrite s n id bs).1 := by
  unfold unitWrite
  exact memoryOk_storeWords h

theorem memoryOk_dieWrite {s : State} {n : Nat} {id : W32} {dies : List Nat} {bs : List (Nat × Nat × Nat)} (h : MemoryOk s) :
    MemoryOk (dieWrite s n id dies bs).1 := by
  unfold dieWrite
  dsimp only
  exact memoryOk_foldl (fun _ _ h1 => memoryOk_wr h1) (memoryOk_unitWrite h)

theorem memoryOk_addGroup {s : State} {n : Nat} {op : Op} {d : Nat} {grp : W32 × List Nat} (h : MemoryOk s) :
    MemoryOk (addGroup s n op d grp).1 := by
  unfold addGroup
  dsimp only
  split
  · split
    · next heq => exact memoryOk_fst heq (memoryOk_readWordsOn h)
    · next heq =>
        have h1 := memoryOk_fst heq (memoryOk_readWordsOn h)
        split
        · next heq => exact memoryOk_fst heq (memoryOk_dieWrite (memoryOk_drawFree h1))
        · next heq =>
            have h2 := memoryOk_fst heq (memoryOk_dieWrite (memoryOk_drawFree h1))
            exact memoryOk_noteRaised h2
  · exact h

theorem memoryOk_scatterRow {s : State} {n : Nat} {op : Op} {d : Nat} {grp : W32 × List Nat} (h : MemoryOk s) :
    MemoryOk (scatterRow s n op d grp).1 := by
  unfold scatterRow
  dsimp only
  exact memoryOk_unitWrite h

theorem memoryOk_addGroups {n d : Nat} {op : Op} {gs : List (W32 × List Nat)} {s : State} (h : MemoryOk s) :
    MemoryOk (addGroups n op d gs s).1 := by
  induction gs generalizing s with
  | nil => exact h
  | cons g r ih =>
    have hOne : MemoryOk (if gsWork op = 2 then addGroup s n op d g else scatterRow s n op d g).1 :=
      memoryOk_ite_fst (memoryOk_addGroup h) (memoryOk_scatterRow h)
    unfold addGroups
    split
    · next heq => exact memoryOk_fst heq hOne
    · next heq => exact ih (memoryOk_fst heq hOne)

theorem memoryOk_badIndex {s : State} {n : Nat} {op : Op} {e : Nat} {halts : Bool} (h : MemoryOk s) :
    MemoryOk (badIndex s n op e halts) := by
  unfold badIndex
  dsimp only
  exact memoryOk_ite (memoryOk_setFlag (memoryOk_count32 h)) (memoryOk_wr (memoryOk_wr (memoryOk_setFlag (memoryOk_count32 h))))

theorem memoryOk_passIndex {s : State} {n : Nat} {l : LoadedOp} {d e : Nat} {ix : W32} {row : List (Nat × Nat)} {groups : List
    (W32 × List Nat)} (h : MemoryOk s) : MemoryOk (passIndex s n l d e ix row groups) := by
  unfold passIndex
  dsimp only
  exact memoryOk_putLx h

theorem memoryOk_settleIndices {s : State} {n : Nat} {id : W32} (h : MemoryOk s) : MemoryOk (settleIndices s n id) := by
  unfold settleIndices
  dsimp only
  split
  · exact memoryOk_ite (memoryOk_finishCore (memoryOk_unitsAsk h)) (memoryOk_unitsAsk h)
  · exact memoryOk_unitsAsk h

theorem memoryOk_noteIndex {s : State} {n k : Nat} {again none_ : Bool} (h : MemoryOk s) :
    MemoryOk (noteIndex s n k again none_) := by
  unfold noteIndex
  exact memoryOk_ite (memoryOk_count64 h) (memoryOk_ite h (memoryOk_count64 h))

theorem memoryOk_gatherRow {s : State} {kept : Option (List (Nat × Nat))} {mine : List Piece} (h : MemoryOk s) :
    MemoryOk (gatherRow s kept mine).1 := by
  unfold gatherRow
  split
  · exact h
  · split
    · next heq => exact memoryOk_fst heq (memoryOk_readWordsOn h)
    · next heq => exact memoryOk_fst heq (memoryOk_readWordsOn h)

theorem memoryOk_moveIndex {s : State} {n k : Nat} {id : W32} {row : List (Nat × Nat)} {mine : List Piece} {pad : List
    (Nat × Nat × Nat)} (h : MemoryOk s) : MemoryOk (moveIndex s n k id row mine pad).1 := by
  unfold moveIndex
  dsimp only
  exact memoryOk_unitWrite (memoryOk_portUp h)

theorem memoryOk_gsHalt {s : State} {n : Nat} {id : W32} {d st e : Nat} {x : Stop} (h : MemoryOk s) :
    MemoryOk (gsHalt s n id d st e x) := by
  unfold gsHalt
  dsimp only
  exact memoryOk_haltStop h

theorem memoryOk_endIndices {s : State} {n : Nat} {id : W32} {l : LoadedOp} {d st e : Nat} (h : MemoryOk s) :
    MemoryOk (endIndices s n id l d st e) := by
  unfold endIndices
  dsimp only
  split
  · next heq =>
      have h1 := memoryOk_fst heq (memoryOk_addGroups h)
      exact memoryOk_gsHalt (memoryOk_putLx h1)
  · next heq =>
      have h1 := memoryOk_fst heq (memoryOk_addGroups h)
      exact memoryOk_settleIndices (memoryOk_putLx h1)

theorem memoryOk_invalidIndex {s : State} {n : Nat} {id : W32} {l : LoadedOp} {d st e : Nat} {w : W32} (h : MemoryOk s) :
    MemoryOk (invalidIndex s n id l d st e w) := by
  unfold invalidIndex
  dsimp only
  refine memoryOk_ite (memoryOk_ite (memoryOk_haltStream (memoryOk_badIndex h)) h) ?_
  split
  · next heq =>
      have h1 := memoryOk_fst heq (memoryOk_unitWrite (memoryOk_ite (memoryOk_badIndex h) h))
      exact memoryOk_gsHalt h1
  · next heq =>
      have h1 := memoryOk_fst heq (memoryOk_unitWrite (memoryOk_ite (memoryOk_badIndex h) h))
      exact memoryOk_settleIndices (memoryOk_passIndex h1)

theorem memoryOk_opGatherIndex {k : Nat} {id : W32} {s : State} (h : MemoryOk s) : MemoryOk (opGatherIndex k id s) := by
  unfold opGatherIndex
  dsimp only
  split
  · exact h
  · split
    · exact h
    · refine memoryOk_ite h ?_
      refine memoryOk_ite (memoryOk_endIndices h) ?_
      refine memoryOk_ite h ?_
      refine memoryOk_ite (memoryOk_invalidIndex h) ?_
      refine memoryOk_ite ?_ ?_
      · split
        · next heq =>
            have h1 := memoryOk_fst heq (memoryOk_addGroups h)
            exact memoryOk_gsHalt (memoryOk_putLx h1)
        · next heq =>
            have h1 := memoryOk_fst heq (memoryOk_addGroups h)
            exact memoryOk_settleIndices (memoryOk_passIndex (memoryOk_noteIndex (memoryOk_ite (memoryOk_portDown h1) h1)))
      · split
        · next heq =>
            have h1 := memoryOk_fst heq (memoryOk_gatherRow h)
            exact memoryOk_gsHalt h1
        · next heq =>
            have h1 := memoryOk_fst heq (memoryOk_gatherRow h)
            split
            · next heq =>
                have h2 := memoryOk_fst heq (memoryOk_moveIndex h1)
                exact memoryOk_gsHalt h2
            · next heq =>
                have h2 := memoryOk_fst heq (memoryOk_moveIndex h1)
                exact memoryOk_settleIndices (memoryOk_passIndex (memoryOk_noteIndex h2))

theorem memoryOk_sendQueries {s : State} {n : Nat} {op : Op} {e : LenEntry} (h : MemoryOk s) :
    MemoryOk (sendQueries s n op e) := by
  unfold sendQueries
  dsimp only
  exact memoryOk_foldl (fun _ _ h1 => memoryOk_portDown h1) h

theorem memoryOk_settleWalk {n k : Nat} {id : W32} {s : State} (h : MemoryOk s) : MemoryOk (settleWalk n id k s) := by
  induction k generalizing s with
  | zero => exact h
  | succ k ih =>
    unfold settleWalk
    split
    · exact h
    · extract_lets w u
      split
      · exact h
      · refine memoryOk_ite h (memoryOk_ite (memoryOk_ite h (memoryOk_putLx h)) ?_)
        extract_lets rows v st x y
        have hu : MemoryOk u := by
          unfold u
          split
          · exact memoryOk_foldl (fun _ _ ht => memoryOk_count64 ht) h
          · exact h
        have hx : MemoryOk x :=
          memoryOk_foldl (fun _ _ ht => memoryOk_putCombine ht) (memoryOk_foldl (fun _ _ ht => memoryOk_portUp ht) hu)
        have hy : MemoryOk y := by
          unfold y
          split
          · exact memoryOk_sendQueries hx
          · exact hx
        exact ih (memoryOk_putLx hy)

theorem memoryOk_writeEntry {s : State} {n : Nat} {l : LoadedOp} {e : LenEntry} {rows : List RowState} (h : MemoryOk s) :
    MemoryOk (writeEntry s n l e rows).1 := by
  unfold writeEntry
  dsimp only
  split
  · next heq =>
      have h1 := memoryOk_fst heq (memoryOk_storeResults h)
      exact memoryOk_lxHalt h1
  · next heq =>
      have h1 := memoryOk_fst heq (memoryOk_storeResults h)
      split
      · next heq =>
          have h2 := memoryOk_fst heq (memoryOk_ite_fst (memoryOk_storeResults h1) h1)
          exact memoryOk_lxHalt h2
      · next heq =>
          have h2 := memoryOk_fst heq (memoryOk_ite_fst (memoryOk_storeResults h1) h1)
          exact memoryOk_arriveStore (memoryOk_countFinal h2)

theorem memoryOk_settleDecode {s : State} {n : Nat} {id : W32} (h : MemoryOk s) : MemoryOk (settleDecode s n id) := by
  unfold settleDecode
  dsimp only
  split
  · exact h
  · refine memoryOk_ite h ?_
    refine memoryOk_ite (memoryOk_finishCore h) ?_
    refine memoryOk_ite h ?_
    split
    · next heq =>
        have h1 := memoryOk_fst heq (memoryOk_storeWords h)
        exact memoryOk_lxHalt (memoryOk_haltStore h1)
    · next heq =>
        have h1 := memoryOk_fst heq (memoryOk_storeWords h)
        exact memoryOk_finishCore (memoryOk_arriveStore h1)

theorem memoryOk_opLengthTableEntry {n : Nat} {id : W32} {s : State} (h : MemoryOk s) : MemoryOk (opLengthTableEntry n id s) := by
  unfold opLengthTableEntry
  dsimp only
  split
  · exact h
  · split
    · refine memoryOk_ite h ?_
      split
      · next heq =>
          have h1 := memoryOk_fst heq (memoryOk_ite_fst h (memoryOk_readRange h))
          exact memoryOk_haltStop h1
      · next heq =>
          have h1 := memoryOk_fst heq (memoryOk_ite_fst h (memoryOk_readRange h))
          refine memoryOk_ite (memoryOk_ite (memoryOk_putLx (memoryOk_count32 h1))
              (memoryOk_settleDecode (memoryOk_unitsAsk (memoryOk_putLx (memoryOk_count32 h1))))) ?_
          split
          · exact memoryOk_haltStream (memoryOk_noteLenFault h1)
          · exact memoryOk_ite (memoryOk_putLx h1) (memoryOk_settleWalk (memoryOk_unitsAsk
              (memoryOk_ite (memoryOk_sendQueries (memoryOk_putLx h1)) (memoryOk_putLx h1))))
    · exact h

theorem memoryOk_haltWalkers {s : State} {n : Nat} {id : W32} {f : State → Nat → State} (h : MemoryOk s)
    (hf : ∀ x0 x1, MemoryOk x0 → MemoryOk (f x0 x1)) : MemoryOk (haltWalkers s n id f) := by
  unfold haltWalkers
  refine memoryOk_foldl ?_ h
  intro _ _ h1
  split
  · exact hf _ _ h1
  · exact h1

theorem memoryOk_opPageListEntry {n : Nat} {id : W32} {s : State} (h : MemoryOk s) : MemoryOk (opPageListEntry n id s) := by
  unfold opPageListEntry
  dsimp only
  split
  · exact h
  · split
    · exact h
    · refine memoryOk_ite h ?_
      split
      · next heq =>
          have h1 := memoryOk_fst heq (memoryOk_readWordsOn h)
          exact memoryOk_haltWalkers h1 (fun _ _ h2 => memoryOk_haltStop h2)
      · next heq =>
          have h1 := memoryOk_fst heq (memoryOk_readWordsOn h)
          exact memoryOk_ite (memoryOk_haltWalkers (memoryOk_ite (memoryOk_foldl (fun _ _ h2 => memoryOk_portDown h2)
              (memoryOk_portBytes h1)) h1) (fun _ _ h2 => memoryOk_haltStream h2))
              (memoryOk_ite (memoryOk_haltWalkers (memoryOk_ite (memoryOk_foldl (fun _ _ h2 => memoryOk_portDown h2)
              (memoryOk_portBytes h1)) h1) (fun _ _ h2 => memoryOk_haltStop h2))
              (memoryOk_putLx (memoryOk_ite (memoryOk_foldl (fun _ _ h2 => memoryOk_portDown h2) (memoryOk_portBytes h1)) h1)))

theorem memoryOk_dieReads {s : State} {n : Nat} {id : W32} {op : Op} {page : Nat} {r : PageRun} {toks : List (List Nat)}
    (h : MemoryOk s) : MemoryOk (dieReads s n id op page r toks).1 := by
  unfold dieReads
  dsimp only
  refine memoryOk_foldl_fst ?_ h
  intro _ _ h1
  split
  · next heq =>
      have h2 := memoryOk_fst heq (memoryOk_readWordsOn h1)
      split
      · exact memoryOk_haltStop h2
      · exact h2
  · next heq => exact memoryOk_fst heq (memoryOk_readWordsOn h1)

theorem memoryOk_walkBlocks {s : State} {n : Nat} {id : W32} {op : Op} {r : PageRun} {d late : Nat} {cause : StallCause}
    {toks : List Nat} (h : MemoryOk s) : MemoryOk (walkBlocks s n id op r d late cause toks) := by
  unfold walkBlocks
  dsimp only
  split
  · exact h
  · exact memoryOk_setStream (memoryOk_lateAs (memoryOk_count64 h))

theorem memoryOk_passPage {s : State} {n : Nat} {id : W32} {l : LoadedOp} {i : Nat} {e : LenEntry} {r : PageRun} {toks : List
    (List Nat)} {late : List (Nat × StallCause)} (h : MemoryOk s) : MemoryOk (passPage s n id l i e r toks late) := by
  unfold passPage
  dsimp only
  exact memoryOk_settleWalk (memoryOk_putLx (memoryOk_noteRaised (memoryOk_foldl
      (fun _ _ h1 => memoryOk_count64 (memoryOk_count64 h1)) (memoryOk_foldl (fun _ _ h1 => memoryOk_walkBlocks h1) h))))

theorem memoryOk_opPageHeader {n : Nat} {id : W32} {s : State} {late : List (Nat × StallCause)} (h : MemoryOk s) :
    MemoryOk (opPageHeader n id s late) := by
  unfold opPageHeader
  split
  · exact h
  · extract_lets op w
    split
    · refine memoryOk_ite h ?_
      split
      · next heq => exact memoryOk_haltWalkers (memoryOk_fst heq (memoryOk_readRange h)) (fun _ _ ht => memoryOk_haltStop ht)
      · next heq =>
        have h1 := memoryOk_fst heq (memoryOk_readRange h)
        extract_lets hd
        split
        · exact memoryOk_haltWalkers (memoryOk_setFlag h1) (fun _ _ ht => memoryOk_haltStream ht)
        · exact memoryOk_haltWalkers (memoryOk_noteHdrFault h1) (fun _ _ ht => memoryOk_haltStream ht)
        · have hDown := memoryOk_foldl (l := List.range 3) (fun _ d ht => memoryOk_portDown (k := dieNo n d) (n := 32) ht) h1
          split
          · next heq => exact memoryOk_fst heq (memoryOk_dieReads hDown)
          · next heq => exact memoryOk_passPage (memoryOk_fst heq (memoryOk_dieReads hDown))
    · exact h

theorem memoryOk_opAttentionStatesMerge {n : Nat} {id : W32} {s : State} (h : MemoryOk s) :
    MemoryOk (opAttentionStatesMerge n id s) := by
  unfold opAttentionStatesMerge
  dsimp only
  split
  · exact h
  · split
    · exact memoryOk_settleDecode h
    · refine memoryOk_ite h ?_
      split
      · next heq => exact memoryOk_fst heq (memoryOk_entryRead h)
      · next heq =>
          have h1 := memoryOk_fst heq (memoryOk_entryRead h)
          split
          · next heq => exact memoryOk_fst heq (memoryOk_ite_fst (memoryOk_writeEntry h1) h1)
          · next heq =>
              have h2 := memoryOk_fst heq (memoryOk_ite_fst (memoryOk_writeEntry h1) h1)
              exact memoryOk_settleDecode (memoryOk_settleWalk (memoryOk_putLx h2))

theorem memoryOk_mergeExports {n k : Nat} {id : W32} {s : State} (h : MemoryOk s) : MemoryOk (mergeExports n id k s).1 := by
  induction k generalizing s with
  | zero => exact h
  | succ k ih =>
    unfold mergeExports
    split
    · exact h
    · split
      · exact h
      · split
        · next heq => exact memoryOk_fst heq (memoryOk_writeEntry h)
        · next heq => exact ih (memoryOk_putLx (memoryOk_fst heq (memoryOk_writeEntry h)))

theorem memoryOk_opExportMerge {n : Nat} {id : W32} {s : State} (h : MemoryOk s) : MemoryOk (opExportMerge n id s) := by
  unfold opExportMerge
  dsimp only
  split
  · exact h
  · refine memoryOk_ite h ?_
    split
    · split
      · exact h
      · refine memoryOk_ite h ?_
        split
        · next heq =>
            have h1 := memoryOk_fst heq (memoryOk_csRead h)
            exact memoryOk_lxHalt (memoryOk_stopEvent h1)
        · next heq =>
            have h1 := memoryOk_fst heq (memoryOk_csRead h)
            split
            · next heq => exact memoryOk_fst heq (memoryOk_mergeExports h1)
            · next heq =>
                have h2 := memoryOk_fst heq (memoryOk_mergeExports h1)
                exact memoryOk_finishCore h2
    · exact h

/-! ### Codec -/

theorem memoryOk_countGroups {s : State} {n : Nat} {l : Layout} {xform : Nat} {qs : List (Nat × Nat)} (h : MemoryOk s) :
    MemoryOk (countGroups s n l xform qs) := by
  unfold countGroups
  exact memoryOk_foldl (fun _ _ h1 => memoryOk_count64 h1) h

theorem memoryOk_crossGroups {s : State} {n : Nat} {up : Bool} {l : Layout} {xform : Nat} {qs : List (Nat × Nat)}
    {bytes : Nat × Nat → Nat} (h : MemoryOk s) : MemoryOk (crossGroups s n up l xform qs bytes) := by
  unfold crossGroups
  dsimp only
  exact memoryOk_foldl (fun _ _ h1 => memoryOk_ite (memoryOk_portUp h1) (memoryOk_portDown h1)) h

theorem memoryOk_encodeEnd {s : State} {n : Nat} {l : LoadedOp} {src map : Layout} (h : MemoryOk s) :
    MemoryOk (encodeEnd s n l src map) := by
  unfold encodeEnd
  dsimp only
  split
  · next heq =>
      have h1 := memoryOk_fst heq (memoryOk_storeWords h)
      exact memoryOk_haltStop h1
  · next heq =>
      have h1 := memoryOk_fst heq (memoryOk_storeWords h)
      exact memoryOk_finishCore h1

theorem memoryOk_decodeStep {s : State} {n g st : Nat} {l : LoadedOp} {src dst : Layout} {m : SparseMap} (h : MemoryOk s) :
    MemoryOk (decodeStep s n l src dst m g st).s := by
  obtain ⟨r, hr⟩ : ∃ r, decodeStep s n l src dst m g st = r := ⟨_, rfl⟩
  rw [hr]
  unfold decodeStep at hr
  extract_lets op f k pos entry tileNo coords at_ tile at hr
  clear_value tile entry
  split at hr
  · rw [← hr]
    exact memoryOk_haltStream (memoryOk_setFlag h)
  · rw [← hr]
    exact memoryOk_structFault h
  · rw [← hr]
    exact memoryOk_structFault h
  · extract_lets code data scale written at hr
    have hWritten : MemoryOk written.1 := by
      unfold written
      split
      · next heq => exact memoryOk_unitWrite (memoryOk_fst heq (memoryOk_dieWrite h))
      · exact memoryOk_dieWrite h
    clear_value written
    split at hr
    · rw [← hr]
      exact memoryOk_haltStop hWritten
    · rw [← hr]
      exact memoryOk_putLx (memoryOk_countGroups (memoryOk_crossGroups hWritten))

theorem memoryOk_encodeStep {s : State} {n g st : Nat} {l : LoadedOp} {src dst map : Layout} (h : MemoryOk s) :
    MemoryOk (encodeStep s n l src dst map g st).s := by
  unfold encodeStep
  extract_lets op f turn get code from_ lines spot pos half
  split
  · exact memoryOk_maskBroken (memoryOk_structFault h)
  · extract_lets off ws
    split
    · next heq => exact memoryOk_haltStop (memoryOk_fst heq (memoryOk_storeWords h))
    · next heq => exact memoryOk_putLx (memoryOk_countGroups (memoryOk_crossGroups (memoryOk_fst heq (memoryOk_storeWords h))))

theorem memoryOk_codecRun {n k : Nat} {id : W32} {s : State} (h : MemoryOk s) : MemoryOk (codecRun n id k s) := by
  induction k generalizing s with
  | zero => exact h
  | succ k ih =>
    unfold codecRun
    split
    · exact h
    · split
      · exact h
      · dsimp only
        split
        · split
          · exact memoryOk_ite (memoryOk_finishCore h) (memoryOk_ite (memoryOk_decodeStep h) (ih (memoryOk_decodeStep h)))
          · exact h
        · split
          · exact memoryOk_ite (memoryOk_encodeEnd h) (memoryOk_ite (memoryOk_encodeStep h) (ih (memoryOk_encodeStep h)))
          · exact h

theorem memoryOk_runCodec {s : State} {n : Nat} {id : W32} (h : MemoryOk s) : MemoryOk (runCodec s n id) := by
  unfold runCodec
  split
  · refine memoryOk_ite ?_ h
    split
    · exact memoryOk_codecRun h
    · exact h
  · exact h

theorem memoryOk_opFetchDone {n k tile lateBy : Nat} {cause : StallCause} {upsets : List Upset} {s : State} (h : MemoryOk s) :
    MemoryOk (opFetchDone n k tile lateBy cause upsets s) := by
  unfold opFetchDone
  dsimp only
  exact memoryOk_ite (memoryOk_runCodec (memoryOk_opFetchComplete h)) (memoryOk_opFetchComplete h)

/-! ### Faults -/

theorem memoryOk_cancelWhere {s : State} {n : Nat} {p : LoadedOp → Bool} (h : MemoryOk s) : MemoryOk (cancelWhere s n p) := by
  unfold cancelWhere
  exact memoryOk_foldl (fun _ _ h1 => memoryOk_cancelOp h1) h

theorem memoryOk_afterFence {s : State} {n : Nat} (h : MemoryOk s) : MemoryOk (afterFence s n) := by
  unfold afterFence
  dsimp only
  exact memoryOk_markAbort (memoryOk_takeOver (memoryOk_foldl (fun _ _ h1 => memoryOk_replayWhere h1) h))

theorem memoryOk_opFenceWrite {n : Nat} {v : W64} {s : State} (h : MemoryOk s) : MemoryOk (opFenceWrite n v s) := by
  unfold opFenceWrite
  dsimp only
  exact memoryOk_ite (memoryOk_opT0FenceWrite h) (memoryOk_afterFence (memoryOk_opT0FenceWrite h))

theorem memoryOk_loseStack {s : State} {n unit : Nat} {die : Bool} (h : MemoryOk s) : MemoryOk (loseStack s n unit die) := by
  unfold loseStack
  dsimp only
  exact memoryOk_ite h (memoryOk_afterFence (memoryOk_ite (memoryOk_setDie (memoryOk_fence h)) (memoryOk_fence h)))

theorem memoryOk_opStackLoss {n unit : Nat} {die : Bool} {cause : LossCause} {s : State} (h : MemoryOk s) :
    MemoryOk (opStackLoss n unit die cause s) := by
  unfold opStackLoss
  dsimp only
  exact memoryOk_ite h (memoryOk_loseStack h)

theorem memoryOk_wipeCore {s : State} {n i : Nat} (h : MemoryOk s) : MemoryOk (wipeCore s n i) := by
  unfold wipeCore
  dsimp only
  exact memoryOk_mk (memoryOk_setCore (memoryOk_wipeKeys (memoryOk_wipeKeys h _ _) _ _))

theorem memoryOk_moveGrid {s : State} {n a b : Nat} (h : MemoryOk s) : MemoryOk (moveGrid s n a b) := by
  unfold moveGrid
  dsimp only
  exact memoryOk_setChan h

theorem memoryOk_copyStore {s : State} {n a b : Nat} (h : MemoryOk s) : MemoryOk (copyStore s n a b).1 := by
  unfold copyStore
  dsimp only
  exact memoryOk_foldl (fun _ _ h1 => memoryOk_copyRow h1) h

theorem memoryOk_dropFlights {s : State} {n i : Nat} (h : MemoryOk s) : MemoryOk (dropFlights s n i) := by
  unfold dropFlights
  dsimp only
  exact memoryOk_foldl (fun _ _ h1 => memoryOk_replayWhere h1) h

theorem memoryOk_retireCore {s : State} {n log spare : Nat} {readable : Bool} (h : MemoryOk s) :
    MemoryOk (retireCore s n log spare readable) := by
  unfold retireCore
  dsimp only
  exact memoryOk_setFld (memoryOk_setFlag (memoryOk_setFlag (memoryOk_endRecovery
      (memoryOk_recordField (memoryOk_count32 (memoryOk_setChan (memoryOk_setFld
      (memoryOk_wipeCore (memoryOk_setFld (memoryOk_dropFlights (memoryOk_moveGrid
      (memoryOk_setCore (memoryOk_foldl (fun _ _ h1 => memoryOk_wr h1) (memoryOk_ite_fst (memoryOk_copyStore h) h))))))))))))))

theorem memoryOk_channelOut {s : State} {n : Nat} (h : MemoryOk s) : MemoryOk (channelOut s n) := by
  unfold channelOut
  dsimp only
  exact memoryOk_ite h (memoryOk_tryReady (memoryOk_takeOver (memoryOk_post (memoryOk_setChan h) _ _ _ _)))

theorem memoryOk_retireWithout {s : State} {n log : Nat} (h : MemoryOk s) : MemoryOk (retireWithout s n log) := by
  unfold retireWithout
  dsimp only
  exact memoryOk_channelOut (memoryOk_rerunSteps (memoryOk_endRecovery (memoryOk_dropFlights
      (memoryOk_recordField (memoryOk_count32 (memoryOk_setFld (memoryOk_wipeCore (memoryOk_setChan (memoryOk_setFld h)))))))))

theorem memoryOk_replaceCore {s : State} {n log spare : Nat} (h : MemoryOk s) : MemoryOk (replaceCore s n log spare) := by
  unfold replaceCore
  dsimp only
  exact memoryOk_rerunSteps (memoryOk_cancelWhere (memoryOk_retireCore h))

theorem memoryOk_opCoreRetire {n : Nat} {v : W64} {s : State} (h : MemoryOk s) : MemoryOk (opCoreRetire n v s) := by
  unfold opCoreRetire
  dsimp only
  exact memoryOk_ite h (memoryOk_ite (memoryOk_setFld (memoryOk_setFld h))
      (memoryOk_ite (memoryOk_setFld (memoryOk_setFlag (memoryOk_setFld (memoryOk_setFld h))))
      (memoryOk_ite (memoryOk_replaceCore (memoryOk_setFld (memoryOk_setFld h)))
      (memoryOk_retireCore (memoryOk_setFld (memoryOk_setFld h))))))

theorem memoryOk_opCoreUnresponsive {n log spare : Nat} {s : State} (h : MemoryOk s) :
    MemoryOk (opCoreUnresponsive n log spare s) := by
  unfold opCoreUnresponsive
  dsimp only
  exact memoryOk_ite h (memoryOk_ite (memoryOk_setChan h) (memoryOk_ite (memoryOk_replaceCore
      (memoryOk_setFld (memoryOk_setFld (memoryOk_setChan h)))) (memoryOk_ite h (memoryOk_retireWithout (memoryOk_setChan h)))))

theorem memoryOk_settleSpares {n : Nat} {s : State} (h : MemoryOk s) : MemoryOk (settleSpares n s) := by
  unfold settleSpares
  refine memoryOk_ite h ?_
  refine memoryOk_foldl ?_ h
  intro _ _ h1
  split
  · exact memoryOk_retireWithout h1
  · exact h1

theorem memoryOk_dropChannel {s : State} {n : Nat} (h : MemoryOk s) : MemoryOk (dropChannel s n) := by
  unfold dropChannel
  dsimp only
  exact memoryOk_foldl (fun _ _ h1 => memoryOk_setDie h1) (memoryOk_mk (memoryOk_setChan (memoryOk_setRecov h)))

theorem memoryOk_dropPort {s : State} {p : Nat} (h : MemoryOk s) : MemoryOk (dropPort s p) := by
  unfold dropPort
  dsimp only
  exact memoryOk_setPort (memoryOk_setState h)

theorem memoryOk_opThaderLoss {s : State} (h : MemoryOk s) : MemoryOk (opThaderLoss s) := by
  unfold opThaderLoss
  dsimp only
  exact memoryOk_ite h (memoryOk_markAbort (memoryOk_foldl (fun _ _ h1 => memoryOk_takeOver h1)
      (memoryOk_foldl (fun _ _ h1 => memoryOk_replayWhere h1) (memoryOk_ite
      (memoryOk_issueView (memoryOk_setFlag (memoryOk_foldl (fun _ _ h1 => memoryOk_dropPort h1)
      (memoryOk_ite (memoryOk_setFld (memoryOk_setFlag (memoryOk_foldl (fun _ _ h1 => memoryOk_loseTier1 h1)
      (memoryOk_foldl (fun _ _ h1 => memoryOk_ite h1 (memoryOk_wr h1)) (memoryOk_foldl
      (fun _ _ h1 => memoryOk_post (memoryOk_dropChannel h1) _ _ _ _) (memoryOk_setFlag h))))))
      (memoryOk_setFlag (memoryOk_foldl (fun _ _ h1 => memoryOk_loseTier1 h1)
      (memoryOk_foldl (fun _ _ h1 => memoryOk_ite h1 (memoryOk_wr h1)) (memoryOk_foldl
      (fun _ _ h1 => memoryOk_post (memoryOk_dropChannel h1) _ _ _ _) (memoryOk_setFlag h)))))))))
      (memoryOk_rewriteRoutes (memoryOk_foldl (fun _ _ h1 => memoryOk_dropPort h1)
      (memoryOk_ite (memoryOk_setFld (memoryOk_setFlag (memoryOk_foldl (fun _ _ h1 => memoryOk_loseTier1 h1)
      (memoryOk_foldl (fun _ _ h1 => memoryOk_ite h1 (memoryOk_wr h1)) (memoryOk_foldl
      (fun _ _ h1 => memoryOk_post (memoryOk_dropChannel h1) _ _ _ _) (memoryOk_setFlag h))))))
      (memoryOk_setFlag (memoryOk_foldl (fun _ _ h1 => memoryOk_loseTier1 h1)
      (memoryOk_foldl (fun _ _ h1 => memoryOk_ite h1 (memoryOk_wr h1)) (memoryOk_foldl
      (fun _ _ h1 => memoryOk_post (memoryOk_dropChannel h1) _ _ _ _) (memoryOk_setFlag h))))))))))))

theorem memoryOk_opThader0Loss {s : State} (h : MemoryOk s) : MemoryOk (opThader0Loss s) := by
  unfold opThader0Loss
  dsimp only
  exact memoryOk_ite h (memoryOk_setInsert (memoryOk_foldl (fun _ _ h1 => memoryOk_dropPort h1)
      (memoryOk_foldl (fun _ _ h1 => memoryOk_post (memoryOk_dropChannel h1) _ _ _ _)
      (memoryOk_ite (memoryOk_post (memoryOk_count32 (memoryOk_setFld (memoryOk_setFld
      (memoryOk_setFlag (memoryOk_setFlag (memoryOk_setFlag h)))))) _ _ _ _)
      (memoryOk_setFld (memoryOk_setFlag (memoryOk_setFlag (memoryOk_setFlag h))))))))

theorem memoryOk_opDieTransferUncorrectable {path : DiePath} {s : State} (h : MemoryOk s) :
    MemoryOk (opDieTransferUncorrectable path s) := by
  unfold opDieTransferUncorrectable
  dsimp only
  refine memoryOk_ite (memoryOk_setDie h) ?_
  split
  · exact memoryOk_loseStack (memoryOk_setDie h)
  · exact memoryOk_ite (memoryOk_opThaderLoss (memoryOk_setDie h)) (memoryOk_opThader0Loss (memoryOk_setDie h))

theorem memoryOk_scrubWord {s : State} {w : Nat} (h : MemoryOk s) : MemoryOk (scrubWord s w) := by
  unfold scrubWord
  dsimp only
  split
  · exact h
  · refine memoryOk_rewriteWord ?_ _
    refine memoryOk_noteCeWord ?_ _
    split
    · exact memoryOk_count32 h
    · exact h
  · refine memoryOk_noteUeWord ?_ _
    split
    · exact memoryOk_count32 h
    · exact h

theorem memoryOk_scrubStore {s : State} {w : Nat} (h : MemoryOk s) : MemoryOk (scrubStore s w) := by
  unfold scrubStore
  split
  · split
    · exact h
    · exact memoryOk_noteCeRow (memoryOk_rewriteWord (memoryOk_count32 h) _)
    · exact memoryOk_storeFaultEvent (memoryOk_count32 h)
  · exact h

theorem memoryOk_scrubCached {n : Nat} {s : State} {w : Nat} (h : MemoryOk s) : MemoryOk (scrubCached n s w) := by
  unfold scrubCached
  split
  · exact memoryOk_dropLine h
  · exact memoryOk_freshCached h

theorem memoryOk_opScrubPass {n : Nat} {t : ScrubTarget} {ups : List Upset} {s : State} (h : MemoryOk s) :
    MemoryOk (opScrubPass n t ups s) := by
  unfold opScrubPass
  dsimp only
  refine memoryOk_ite (memoryOk_strike h) ?_
  split
  · exact memoryOk_foldl (fun _ _ h1 => memoryOk_scrubStore h1) (memoryOk_strike h)
  · exact memoryOk_foldl (fun _ _ h1 => memoryOk_scrubCached h1) (memoryOk_strike h)
  · exact memoryOk_count32 (memoryOk_setChan (memoryOk_foldl (fun _ _ h1 => memoryOk_scrubWord h1) (memoryOk_strike h)))

/-! ### Pmbus -/

theorem memoryOk_answer {s : State} {bs : List Byte} (h : MemoryOk s) : MemoryOk (answer s bs) := by
  unfold answer
  dsimp only
  exact memoryOk_ite h (memoryOk_mk h)

theorem memoryOk_answerWord {s : State} {v : Nat} (h : MemoryOk s) : MemoryOk (answerWord s v) := by
  unfold answerWord
  exact memoryOk_answer h

theorem memoryOk_commFault {s : State} (h : MemoryOk s) : MemoryOk (commFault s) := by
  unfold commFault
  dsimp only
  exact memoryOk_ite h (memoryOk_mk h)

theorem memoryOk_guarded {s : State} {pecOk : Bool} {f : State → State} (h : MemoryOk s) (hf : ∀ x0, MemoryOk x0 → MemoryOk
    (f x0)) : MemoryOk (guarded s pecOk f) := by
  unfold guarded
  exact memoryOk_ite h (memoryOk_ite (hf _ h) (memoryOk_commFault h))

theorem memoryOk_opPage {write : Option Byte} {pecOk : Bool} {s : State} (h : MemoryOk s) : MemoryOk (opPage write pecOk s) := by
  unfold opPage
  dsimp only
  split
  · exact memoryOk_answer h
  · exact memoryOk_guarded h (fun _ h1 => memoryOk_ite (memoryOk_commFault h1) (memoryOk_mk h1))

theorem memoryOk_opClearFaults {pecOk : Bool} {s : State} (h : MemoryOk s) : MemoryOk (opClearFaults pecOk s) := by
  unfold opClearFaults
  dsimp only
  exact memoryOk_guarded h (fun _ h1 => memoryOk_tryUnlock (memoryOk_mk (memoryOk_setFlag
      (memoryOk_setFlag (memoryOk_setFlag h1)))))

theorem memoryOk_opVoutMode {s : State} (h : MemoryOk s) : MemoryOk (opVoutMode s) := by
  unfold opVoutMode
  exact memoryOk_answer h

theorem memoryOk_opStatusWord {s : State} (h : MemoryOk s) : MemoryOk (opStatusWord s) := by
  unfold opStatusWord
  exact memoryOk_answerWord h

theorem memoryOk_opStatusVout {s : State} (h : MemoryOk s) : MemoryOk (opStatusVout s) := by
  unfold opStatusVout
  exact memoryOk_answer h

theorem memoryOk_opStatusIout {s : State} (h : MemoryOk s) : MemoryOk (opStatusIout s) := by
  unfold opStatusIout
  exact memoryOk_answer h

theorem memoryOk_opStatusInput {s : State} (h : MemoryOk s) : MemoryOk (opStatusInput s) := by
  unfold opStatusInput
  exact memoryOk_answer h

theorem memoryOk_opStatusTemperature {s : State} (h : MemoryOk s) : MemoryOk (opStatusTemperature s) := by
  unfold opStatusTemperature
  exact memoryOk_answer h

theorem memoryOk_onPages {s : State} {ok : Nat → Bool} {v : Nat} (h : MemoryOk s) : MemoryOk (onPages s ok v) := by
  unfold onPages
  exact memoryOk_ite (memoryOk_answerWord h) (memoryOk_answer (memoryOk_commFault h))

theorem memoryOk_opReadVin {milli : Nat} {s : State} (h : MemoryOk s) : MemoryOk (opReadVin milli s) := by
  unfold opReadVin
  exact memoryOk_onPages h

theorem memoryOk_opReadIin {milli : Nat} {s : State} (h : MemoryOk s) : MemoryOk (opReadIin milli s) := by
  unfold opReadIin
  exact memoryOk_onPages h

theorem memoryOk_opReadVout {milli : Nat} {s : State} (h : MemoryOk s) : MemoryOk (opReadVout milli s) := by
  unfold opReadVout
  exact memoryOk_onPages h

theorem memoryOk_opReadIout {milli : Nat} {s : State} (h : MemoryOk s) : MemoryOk (opReadIout milli s) := by
  unfold opReadIout
  exact memoryOk_onPages h

theorem memoryOk_opReadTemperature1 {s : State} (h : MemoryOk s) : MemoryOk (opReadTemperature1 s) := by
  unfold opReadTemperature1
  dsimp only
  exact memoryOk_answerWord h

theorem memoryOk_opReadPout {milli : Nat} {s : State} (h : MemoryOk s) : MemoryOk (opReadPout milli s) := by
  unfold opReadPout
  exact memoryOk_onPages h

theorem memoryOk_opReadPin {milli : Nat} {s : State} (h : MemoryOk s) : MemoryOk (opReadPin milli s) := by
  unfold opReadPin
  exact memoryOk_onPages h

theorem memoryOk_opPmbusRevision {s : State} (h : MemoryOk s) : MemoryOk (opPmbusRevision s) := by
  unfold opPmbusRevision
  exact memoryOk_answer h

theorem memoryOk_opMfrId {s : State} (h : MemoryOk s) : MemoryOk (opMfrId s) := by
  unfold opMfrId
  exact memoryOk_answer h

theorem memoryOk_opMfrModel {s : State} (h : MemoryOk s) : MemoryOk (opMfrModel s) := by
  unfold opMfrModel
  exact memoryOk_answer h

theorem memoryOk_mfrWord {r : RegRef} {hi : Bool} {write : Option W16} {pecOk : Bool} {put : W16 → State → State} {s : State}
    (hput : ∀ x0 x1, MemoryOk x1 → MemoryOk (put x0 x1)) (h : MemoryOk s) : MemoryOk (mfrWord r hi write pecOk put s) := by
  unfold mfrWord
  split
  · exact memoryOk_answerWord h
  · exact memoryOk_guarded h (fun _ h1 => hput _ _ h1)

theorem memoryOk_clearBits {s : State} {r : RegRef} {mask w : Nat} (h : MemoryOk s) : MemoryOk (clearBits s r mask w) := by
  unfold clearBits
  exact memoryOk_wr h

theorem memoryOk_opMfrPwrStatusLo {write : Option W16} {pecOk : Bool} {s : State} (h : MemoryOk s) :
    MemoryOk (opMfrPwrStatusLo write pecOk s) := by
  unfold opMfrPwrStatusLo
  exact memoryOk_mfrWord (fun _ _ h1 => h1) h

theorem memoryOk_opMfrPwrStatusHi {write : Option W16} {pecOk : Bool} {s : State} (h : MemoryOk s) :
    MemoryOk (opMfrPwrStatusHi write pecOk s) := by
  unfold opMfrPwrStatusHi
  exact memoryOk_mfrWord (fun _ _ h1 => memoryOk_tryUnlock (memoryOk_clearBits h1)) h

theorem memoryOk_opMfrThermStatusLo {write : Option W16} {pecOk : Bool} {s : State} (h : MemoryOk s) :
    MemoryOk (opMfrThermStatusLo write pecOk s) := by
  unfold opMfrThermStatusLo
  exact memoryOk_mfrWord (fun _ _ h1 => memoryOk_tryUnlock (memoryOk_clearBits h1)) h

theorem memoryOk_opMfrThermStatusHi {write : Option W16} {pecOk : Bool} {s : State} (h : MemoryOk s) :
    MemoryOk (opMfrThermStatusHi write pecOk s) := by
  unfold opMfrThermStatusHi
  exact memoryOk_mfrWord (fun _ _ h1 => h1) h

theorem memoryOk_opMfrByeCtrl {write : Option W16} {pecOk : Bool} {s : State} (h : MemoryOk s) :
    MemoryOk (opMfrByeCtrl write pecOk s) := by
  unfold opMfrByeCtrl
  exact memoryOk_mfrWord (fun _ _ h1 => memoryOk_opByeInsertWrite h1) h

theorem memoryOk_opMfrByeStatus {write : Option W16} {pecOk : Bool} {s : State} (h : MemoryOk s) :
    MemoryOk (opMfrByeStatus write pecOk s) := by
  unfold opMfrByeStatus
  exact memoryOk_mfrWord (fun _ _ h1 => memoryOk_clearBits h1) h

theorem memoryOk_opMfrStartCtrl {write : Option W16} {pecOk : Bool} {s : State} (h : MemoryOk s) :
    MemoryOk (opMfrStartCtrl write pecOk s) := by
  unfold opMfrStartCtrl
  exact memoryOk_mfrWord (fun _ _ h1 => memoryOk_ite (memoryOk_setFlag h1) h1) h

theorem memoryOk_opMfrResetCause {s : State} (h : MemoryOk s) : MemoryOk (opMfrResetCause s) := by
  unfold opMfrResetCause
  exact memoryOk_answerWord h

theorem memoryOk_opMfrDieStatus {s : State} (h : MemoryOk s) : MemoryOk (opMfrDieStatus s) := by
  unfold opMfrDieStatus
  exact memoryOk_answerWord h

theorem memoryOk_opMfrModuleReset {pecOk : Bool} {s : State} (h : MemoryOk s) : MemoryOk (opMfrModuleReset pecOk s) := by
  unfold opMfrModuleReset
  exact memoryOk_guarded h (fun _ h1 => memoryOk_opManagementReset h1)

theorem memoryOk_opPmbusUnsupported {_code : Byte} {s : State} (h : MemoryOk s) : MemoryOk (opPmbusUnsupported _code s) := by
  unfold opPmbusUnsupported
  exact memoryOk_answer (memoryOk_commFault h)

/-! ### Control -/

theorem memoryOk_ccTakeover {s : State} {k reason : Nat} (h : MemoryOk s) : MemoryOk (ccTakeover s k reason) := by
  unfold ccTakeover
  dsimp only
  exact memoryOk_ite h (memoryOk_ite (memoryOk_channelOut (memoryOk_ite (memoryOk_setRecov
      (memoryOk_post (memoryOk_count32 (memoryOk_setFld (memoryOk_setFld (memoryOk_setFld (memoryOk_setFlag h))))) _ _ _ _))
      (memoryOk_post (memoryOk_count32 (memoryOk_setFld (memoryOk_setFld (memoryOk_setFld (memoryOk_setFlag h))))) _ _ _ _)))
      (memoryOk_ite (memoryOk_setRecov (memoryOk_post (memoryOk_count32 (memoryOk_setFld
      (memoryOk_setFld (memoryOk_setFld (memoryOk_setFlag h))))) _ _ _ _))
      (memoryOk_post (memoryOk_count32 (memoryOk_setFld (memoryOk_setFld (memoryOk_setFld (memoryOk_setFlag h))))) _ _ _ _)))

theorem memoryOk_opWatchdogInterval {k : Nat} {s : State} (h : MemoryOk s) : MemoryOk (opWatchdogInterval k s) := by
  unfold opWatchdogInterval
  exact memoryOk_ite h (memoryOk_ite (memoryOk_mk h) (memoryOk_ite (memoryOk_setFld h) (memoryOk_ccTakeover h)))

theorem memoryOk_opMachineCheck {k : Nat} {s : State} (h : MemoryOk s) : MemoryOk (opMachineCheck k s) := by
  unfold opMachineCheck
  exact memoryOk_ite (memoryOk_ccTakeover h) h

theorem memoryOk_opHeartbeatWrite {k : Nat} {seat : Seat} {v : W64} {s : State} (h : MemoryOk s) :
    MemoryOk (opHeartbeatWrite k seat v s) := by
  unfold opHeartbeatWrite
  dsimp only
  exact memoryOk_ite h (memoryOk_mk (memoryOk_setFld (memoryOk_setFld h)))

theorem memoryOk_opEventQueueHeadWrite {q : Nat} {v : W64} {s : State} (h : MemoryOk s) :
    MemoryOk (opEventQueueHeadWrite q v s) := by
  unfold opEventQueueHeadWrite
  exact memoryOk_ite h (memoryOk_evRoom (memoryOk_setFld h))

theorem memoryOk_opEventQueueBaseWrite {q : Nat} {v : W64} {s : State} (h : MemoryOk s) :
    MemoryOk (opEventQueueBaseWrite q v s) := by
  unfold opEventQueueBaseWrite
  dsimp only
  exact memoryOk_ite h (memoryOk_evRoom (memoryOk_setFld h))

theorem memoryOk_opEventForward {s : State} (h : MemoryOk s) : MemoryOk (opEventForward s) := by
  obtain ⟨record, hRecord⟩ : ∃ f, globalRecord s = f := ⟨_, rfl⟩
  obtain ⟨fresh, hFresh⟩ : ∃ l, unforwarded s = l := ⟨_, rfl⟩
  obtain ⟨f, hf⟩ : ∃ f, opEventForward = f := ⟨_, rfl⟩
  rw [hf]
  delta opEventForward at hf
  rw [← hf]
  beta_reduce
  rw [hRecord, hFresh]
  split
  · exact h
  · dsimp only
    split
    · exact memoryOk_mk h
    · exact memoryOk_ite (memoryOk_setFlag (memoryOk_count64 (memoryOk_emit (memoryOk_mk h))))
        (memoryOk_count64 (memoryOk_emit (memoryOk_mk h)))

theorem memoryOk_opEventAcknowledge {s : State} (h : MemoryOk s) : MemoryOk (opEventAcknowledge s) := by
  unfold opEventAcknowledge
  exact memoryOk_setFlag h

/-! ### Engine -/

theorem memoryOk_feedTask {s : State} {n i late : Nat} {cause : StallCause} (h : MemoryOk s) :
    MemoryOk (feedTask s n i late cause) := by
  unfold feedTask
  refine memoryOk_ite h ?_
  split
  · exact memoryOk_ite (memoryOk_feedAttention h) (memoryOk_ite (memoryOk_feedArrays h)
      (memoryOk_ite (memoryOk_settlePairs (memoryOk_takeTiles h)) h))
  · exact h

theorem memoryOk_withBehind {n i : Nat} {f : State → State} {s : State} (hf : ∀ x0, MemoryOk x0 → MemoryOk (f x0))
    (h : MemoryOk s) : MemoryOk (withBehind n i f s) := by
  unfold withBehind
  dsimp only
  split
  · exact hf _ h
  · exact memoryOk_setCore (hf _ (memoryOk_setCore h))

theorem memoryOk_withFeeding {n i : Nat} {f : State → State} {s : State} (hf : ∀ x0, MemoryOk x0 → MemoryOk (f x0))
    (h : MemoryOk s) : MemoryOk (withFeeding n i f s) := by
  unfold withFeeding
  exact memoryOk_ite (memoryOk_withBehind hf h) (hf _ h)

theorem memoryOk_opCoreStoreAccess {n i : Nat} {a : CsAccess} {waited : Nat} {ups : List Upset} {s : State} {late : Nat}
    {cause : StallCause} (h : MemoryOk s) : MemoryOk (opCoreStoreAccess n i a waited ups s late cause) := by
  unfold opCoreStoreAccess
  dsimp only
  exact memoryOk_ite (memoryOk_strike h) (memoryOk_ite (memoryOk_withFeeding (fun _ h1 => memoryOk_feedTask h1)
      (memoryOk_csAccess (memoryOk_ite (memoryOk_count64 (memoryOk_strike h)) (memoryOk_strike h))))
      (memoryOk_csAccess (memoryOk_ite (memoryOk_count64 (memoryOk_strike h)) (memoryOk_strike h))))

theorem memoryOk_compareFront {n i : Nat} {ds : List Disturb} {s : State} (h : MemoryOk s) :
    MemoryOk (compareFront n i ds s) := by
  unfold compareFront
  dsimp only
  split
  · exact h
  · exact memoryOk_ite (memoryOk_compareAttention h) (memoryOk_ite (memoryOk_comparePass h)
      (memoryOk_ite (memoryOk_replayPairs (memoryOk_comparePass h)) (memoryOk_settleProducer
      (memoryOk_settlePairs (memoryOk_comparePass h)))))

theorem memoryOk_opChecksumCompare {n log : Nat} {ds : List Disturb} {s : State} (h : MemoryOk s) :
    MemoryOk (opChecksumCompare n log ds s) := by
  unfold opChecksumCompare
  dsimp only
  exact memoryOk_settleSpares (memoryOk_ite (memoryOk_withBehind (fun _ h1 => memoryOk_compareFront h1) h)
      (memoryOk_compareFront h))

theorem memoryOk_opCombineNext {n log : Nat} {s : State} (h : MemoryOk s) : MemoryOk (opCombineNext n log s) := by
  unfold opCombineNext
  exact memoryOk_withBehind (fun _ h1 => memoryOk_opCombine h1) h

theorem memoryOk_opStorePathWait {n log cycles : Nat} {s : State} (h : MemoryOk s) :
    MemoryOk (opStorePathWait n log cycles s) := by
  unfold opStorePathWait
  dsimp only
  split
  · exact memoryOk_ite (memoryOk_count64 h) (memoryOk_ite (memoryOk_lateNoStream h) h)
  · exact h

theorem memoryOk_resumeOn {n : Nat} {s : State} {i : Nat} (h : MemoryOk s) : MemoryOk (resumeOn n s i) := by
  unfold resumeOn
  dsimp only
  exact memoryOk_setCore h

theorem memoryOk_opArrivalWaitResume {n log : Nat} {s : State} (h : MemoryOk s) : MemoryOk (opArrivalWaitResume n log s) := by
  unfold opArrivalWaitResume
  exact memoryOk_foldl (fun _ _ h1 => memoryOk_resumeOn h1) h

theorem memoryOk_fillDone {s : State} {n : Nat} {l : LoadedOp} {g : GridCore} {f : FillTask} (h : MemoryOk s) :
    MemoryOk (fillDone s n l g f) := by
  unfold fillDone
  dsimp only
  exact memoryOk_ite (memoryOk_finishCore (memoryOk_setCore h)) (memoryOk_setCore h)

theorem memoryOk_opFill {n log : Nat} {s : State} (h : MemoryOk s) : MemoryOk (opFill n log s) := by
  unfold opFill
  dsimp only
  split
  · exact h
  · exact memoryOk_ite (memoryOk_scoreHeld h) (memoryOk_fillDone (memoryOk_foldl (fun _ _ h1 => memoryOk_csWrite h1) h))

theorem memoryOk_opCopy {n log : Nat} {s : State} (h : MemoryOk s) : MemoryOk (opCopy n log s) := by
  unfold opCopy
  dsimp only
  split
  · exact h
  · refine memoryOk_ite (memoryOk_scoreHeld h) ?_
    split
    · next heq => exact memoryOk_fst heq (memoryOk_taskRead h)
    · next heq =>
        have h1 := memoryOk_fst heq (memoryOk_taskRead h)
        exact memoryOk_fillDone (memoryOk_foldl (fun _ _ h2 => memoryOk_csWrite h2) h1)

/-! ### Security -/

theorem memoryOk_lcStatus {s : State} (h : MemoryOk s) : MemoryOk (lcStatus s) := by
  unfold lcStatus
  dsimp only
  exact memoryOk_setFlag (memoryOk_setFld (memoryOk_setFlag (memoryOk_setFld h)))

theorem memoryOk_setWide {s : State} {r : Nat → RegRef} {n v : Nat} (h : MemoryOk s) : MemoryOk (setWide s r n v) := by
  unfold setWide
  exact memoryOk_foldl (fun _ _ h1 => memoryOk_wr h1) h

theorem memoryOk_extend {s : State} {i : Nat} {d : BitVec 512} (h : MemoryOk s) : MemoryOk (extend s i d) := by
  unfold extend
  dsimp only
  exact memoryOk_ite (memoryOk_setFlag (memoryOk_setWide h)) (memoryOk_mk (memoryOk_setWide h))

theorem memoryOk_setWindow {s : State} {r : Nat → RegRef} {bs : List Byte} (h : MemoryOk s) : MemoryOk (setWindow s r bs) := by
  unfold setWindow
  exact memoryOk_foldl (fun _ _ h1 => memoryOk_wr h1) h

theorem memoryOk_opAttestationRequest {s : State} (h : MemoryOk s) : MemoryOk (opAttestationRequest s) := by
  unfold opAttestationRequest
  dsimp only
  split
  · exact h
  · exact memoryOk_setFlag (memoryOk_setFlag (memoryOk_setWindow (memoryOk_mk h)))

theorem memoryOk_endAttempt {s : State} {result : Nat} {nonce : W64} (h : MemoryOk s) : MemoryOk (endAttempt s result nonce) := by
  unfold endAttempt
  dsimp only
  exact memoryOk_wr (memoryOk_setFld (memoryOk_setFlag (memoryOk_setFlag h)))

theorem memoryOk_cutBurn {s : State} {to_ : Nat} {c : BurnCut} (h : MemoryOk s) : MemoryOk (cutBurn s to_ c) := by
  unfold cutBurn
  dsimp only
  split
  · exact memoryOk_enterReset (memoryOk_mk h)
  · exact memoryOk_enterReset (memoryOk_mk h)
  · exact memoryOk_enterReset (memoryOk_mk h)

theorem memoryOk_transitionAct {s : State} {to_ : Nat} {seed : List Byte} (h : MemoryOk s) :
    MemoryOk (transitionAct s to_ seed) := by
  unfold transitionAct
  dsimp only
  split
  · exact memoryOk_mk h
  · exact memoryOk_mk h
  · exact memoryOk_mk h
  · exact memoryOk_mk h
  · exact h

theorem memoryOk_opLcTransition {seed seedBack : List Byte} {nonce : W64} {cut : Option BurnCut} {s : State} (h : MemoryOk s) :
    MemoryOk (opLcTransition seed seedBack nonce cut s) := by
  unfold opLcTransition
  dsimp only
  refine memoryOk_ite (memoryOk_endAttempt h) ?_
  split
  · exact memoryOk_cutBurn h
  · exact memoryOk_ite (memoryOk_endAttempt (memoryOk_mk h)) (memoryOk_enterReset
      (memoryOk_endAttempt (memoryOk_mk (memoryOk_transitionAct h))))

theorem memoryOk_opDebugToken {nonce : W64} {s : State} (h : MemoryOk s) : MemoryOk (opDebugToken nonce s) := by
  unfold opDebugToken
  dsimp only
  exact memoryOk_ite (memoryOk_endAttempt (memoryOk_setFlag h)) (memoryOk_endAttempt
      (memoryOk_extend (memoryOk_setFlag (memoryOk_setFlag h))))

theorem memoryOk_opModelWeightDigest {model : Nat} {s : State} (h : MemoryOk s) : MemoryOk (opModelWeightDigest model s) := by
  unfold opModelWeightDigest
  dsimp only
  split
  · exact h
  · exact memoryOk_ite h (memoryOk_tryReady (memoryOk_setRef (memoryOk_extend h)))

/-! ### Startup -/

theorem memoryOk_firmwareWrite {s : State} {r : RegRef} {v : W64} (h : MemoryOk s) : MemoryOk (firmwareWrite s r v) := by
  unfold firmwareWrite
  split
  · exact memoryOk_ite (memoryOk_wr h) h
  · exact h

theorem memoryOk_loadFuses {s : State} (h : MemoryOk s) : MemoryOk (loadFuses s) := by
  unfold loadFuses
  dsimp only
  exact memoryOk_foldl (fun _ _ h1 => memoryOk_ite (memoryOk_setFld (memoryOk_setFlag h1)) h1)
      (memoryOk_foldl (fun _ _ h1 => memoryOk_foldl (fun _ _ h2 => memoryOk_setFld h2) h1) h)

theorem memoryOk_imageFault {s : State} (h : MemoryOk s) : MemoryOk (imageFault s) := by
  unfold imageFault
  exact memoryOk_failStart (memoryOk_setFlag h)

theorem memoryOk_bootRom {s : State} (h : MemoryOk s) : MemoryOk (bootRom s) := by
  unfold bootRom
  dsimp only
  refine memoryOk_ite (memoryOk_setPhase h) ?_
  split
  · exact memoryOk_imageFault (memoryOk_mk h)
  · exact memoryOk_setPhase (memoryOk_extend (memoryOk_extend (memoryOk_mk (memoryOk_mk h))))

theorem memoryOk_opResetRelease {straps : Nat} {primaryStarts : Bool} {nonce : W64} {s : State} (h : MemoryOk s) :
    MemoryOk (opResetRelease straps primaryStarts nonce s) := by
  unfold opResetRelease
  dsimp only
  exact memoryOk_ite h (memoryOk_bootRom (memoryOk_loadFuses (memoryOk_lcStatus
      (memoryOk_ite (memoryOk_wr (memoryOk_setFld (memoryOk_setPower (memoryOk_mk h))))
      (memoryOk_setFld (memoryOk_setFlag (memoryOk_wr (memoryOk_setFld (memoryOk_setPower (memoryOk_mk h))))))))))

theorem memoryOk_opMemoryTrainingDone {deadT0 deadT1 : List Nat} {t0Dead t1Dead : Bool} {s : State} (h : MemoryOk s) :
    MemoryOk (opMemoryTrainingDone deadT0 deadT1 t0Dead t1Dead s) := by
  unfold opMemoryTrainingDone
  dsimp only
  exact memoryOk_ite h (memoryOk_ite (memoryOk_failStart (memoryOk_opThader0Loss h))
      (memoryOk_setPhase (memoryOk_foldl (fun _ _ h1 => memoryOk_ite h1 (memoryOk_loseTier1 h1))
      (memoryOk_foldl (fun _ _ h1 => memoryOk_fence h1) (memoryOk_ite (memoryOk_opThaderLoss h) h)))))

theorem memoryOk_writeConfig {p : RunPlan} {s : State} (h : MemoryOk s) : MemoryOk (writeConfig p s) := by
  unfold writeConfig
  dsimp only
  exact memoryOk_setFlag (memoryOk_setFld (memoryOk_ite (memoryOk_ite (memoryOk_setFlag
      (memoryOk_ite (memoryOk_setFlag (memoryOk_firmwareWrite (memoryOk_foldl
      (fun _ _ h1 => memoryOk_firmwareWrite (memoryOk_foldl (fun _ _ h2 => memoryOk_firmwareWrite h2)
      (memoryOk_firmwareWrite (memoryOk_foldl (fun _ _ h2 => memoryOk_firmwareWrite h2) h1))))
      (memoryOk_foldl (fun _ _ h1 => memoryOk_firmwareWrite h1) h)))) (memoryOk_firmwareWrite
      (memoryOk_foldl (fun _ _ h1 => memoryOk_firmwareWrite (memoryOk_foldl (fun _ _ h2 => memoryOk_firmwareWrite h2)
      (memoryOk_firmwareWrite (memoryOk_foldl (fun _ _ h2 => memoryOk_firmwareWrite h2) h1))))
      (memoryOk_foldl (fun _ _ h1 => memoryOk_firmwareWrite h1) h))))) (memoryOk_ite
      (memoryOk_setFlag (memoryOk_firmwareWrite (memoryOk_foldl (fun _ _ h1 => memoryOk_firmwareWrite
      (memoryOk_foldl (fun _ _ h2 => memoryOk_firmwareWrite h2) (memoryOk_firmwareWrite
      (memoryOk_foldl (fun _ _ h2 => memoryOk_firmwareWrite h2) h1)))) (memoryOk_foldl (fun _ _ h1 => memoryOk_firmwareWrite h1)
      h)))) (memoryOk_firmwareWrite (memoryOk_foldl (fun _ _ h1 => memoryOk_firmwareWrite
      (memoryOk_foldl (fun _ _ h2 => memoryOk_firmwareWrite h2) (memoryOk_firmwareWrite
      (memoryOk_foldl (fun _ _ h2 => memoryOk_firmwareWrite h2) h1)))) (memoryOk_foldl (fun _ _ h1 => memoryOk_firmwareWrite h1)
      h))))) (memoryOk_firmwareWrite (memoryOk_foldl (fun _ _ h1 => memoryOk_firmwareWrite
      (memoryOk_foldl (fun _ _ h2 => memoryOk_firmwareWrite h2) (memoryOk_firmwareWrite
      (memoryOk_foldl (fun _ _ h2 => memoryOk_firmwareWrite h2) h1)))) (memoryOk_foldl (fun _ _ h1 => memoryOk_firmwareWrite h1)
      h)))))

theorem memoryOk_holdRow {s : State} {n pl : Nat} (h : MemoryOk s) : MemoryOk (applyEntry.holdRow s n pl) := by
  unfold applyEntry.holdRow
  dsimp only
  exact memoryOk_setChan h

theorem memoryOk_applyEntry {s : State} {e : FieldEntry} (h : MemoryOk s) : MemoryOk (applyEntry s e) := by
  unfold applyEntry
  dsimp only
  split
  · split
    · exact memoryOk_opRowMapWrite h
    · exact h
  · split
    · exact memoryOk_retireCore h
    · exact memoryOk_retireWithout h
    · exact h
  · exact memoryOk_holdRow h
  · exact h

theorem memoryOk_applyRecord {s : State} (h : MemoryOk s) : MemoryOk (applyRecord s) := by
  unfold applyRecord
  dsimp only
  exact memoryOk_foldl (fun _ _ h1 => memoryOk_applyEntry h1) (memoryOk_setFlag (memoryOk_setFld h))

theorem memoryOk_markAllAbsent {p : RunPlan} {s : State} (h : MemoryOk s) : MemoryOk (markAllAbsent p s) := by
  unfold markAllAbsent
  dsimp only
  exact memoryOk_foldl (fun _ _ h1 => memoryOk_setChan h1) h

theorem memoryOk_setQueues {p : RunPlan} {s : State} (h : MemoryOk s) : MemoryOk (setQueues p s) := by
  unfold setQueues
  dsimp only
  exact memoryOk_opEventQueueBaseWrite (memoryOk_foldl (fun _ _ h1 => memoryOk_opEventQueueBaseWrite (memoryOk_setFld h1)) h)

theorem memoryOk_bringUpLinks {p : RunPlan} {s : State} (h : MemoryOk s) : MemoryOk (bringUpLinks p s) := by
  unfold bringUpLinks
  dsimp only
  exact memoryOk_rewriteRoutes (memoryOk_setPhase (memoryOk_foldl (fun _ _ h1 => memoryOk_opLinkEnable h1)
      (memoryOk_ite (memoryOk_setFld (memoryOk_setFld (memoryOk_ite (memoryOk_setInsert h) h)))
      (memoryOk_ite (memoryOk_setInsert h) h))))

theorem memoryOk_bootFirmware {s : State} (h : MemoryOk s) : MemoryOk (bootFirmware s) := by
  unfold bootFirmware
  dsimp only
  split
  · exact memoryOk_imageFault h
  · split
    · exact memoryOk_imageFault (memoryOk_extend (memoryOk_extend (memoryOk_mk h)))
    · exact memoryOk_ite (memoryOk_imageFault (memoryOk_extend (memoryOk_extend (memoryOk_mk h))))
        (memoryOk_bringUpLinks (memoryOk_setRef (memoryOk_setQueues (memoryOk_markAllAbsent
        (memoryOk_applyRecord (memoryOk_writeConfig (memoryOk_setPhase (memoryOk_extend (memoryOk_extend (memoryOk_mk h))))))))))

theorem memoryOk_wipeAll {s : State} : MemoryOk (wipeAll s) := by
  have hEmpty (t : State) (ht : t.mem = []) : MemoryOk t := (memoryOk_iff t).2 (ht ▸ canonical_nil 0)
  unfold wipeAll
  exact memoryOk_foldl (fun _ _ h1 => memoryOk_foldl (fun _ _ h2 => memoryOk_setFld h2) h1)
    (memoryOk_foldl (fun _ _ h1 => memoryOk_mk h1) (hEmpty _ rfl))

theorem memoryOk_opWipeComplete {s : State} (h : MemoryOk s) : MemoryOk (opWipeComplete s) := by
  unfold opWipeComplete
  dsimp only
  exact memoryOk_ite h (memoryOk_ite (memoryOk_setFld (memoryOk_setPhase (memoryOk_setFlag memoryOk_wipeAll)))
      (memoryOk_bootFirmware (memoryOk_setPhase (memoryOk_setFlag memoryOk_wipeAll))))

theorem memoryOk_opTimingModeWrite {n : Nat} {v : W64} {s : State} (h : MemoryOk s) : MemoryOk (opTimingModeWrite n v s) := by
  unfold opTimingModeWrite
  dsimp only
  exact memoryOk_ite h (memoryOk_tryReady (memoryOk_setFld (memoryOk_ite
      (memoryOk_setFlag (memoryOk_ite (memoryOk_foldl (fun _ _ h1 => memoryOk_wr h1) (memoryOk_setChan h)) h))
      (memoryOk_ite (memoryOk_foldl (fun _ _ h1 => memoryOk_wr h1) (memoryOk_setChan h)) h))))

/-! ### RegAccess -/

theorem memoryOk_readReg {s : State} {a : Nat} (h : MemoryOk s) : MemoryOk (readReg s a).1 := by
  unfold readReg
  dsimp only
  split
  · exact memoryOk_ite_fst (memoryOk_mk h) h
  · split
    · exact memoryOk_ite_fst (memoryOk_wr h) h
    · exact h

theorem memoryOk_opRcCounterRead {a : Nat} {increment : Bool} {s : State} (h : MemoryOk s) :
    MemoryOk (opRcCounterRead a increment s) := by
  unfold opRcCounterRead
  dsimp only
  split
  · exact h
  · exact memoryOk_ite h (memoryOk_mk (memoryOk_ite (memoryOk_wr (memoryOk_readReg h)) (memoryOk_readReg h)))

theorem memoryOk_redWrite {v : Nat} {s : State} (h : MemoryOk s) : MemoryOk (redWrite v s) := by
  unfold redWrite
  dsimp only
  refine memoryOk_ite (memoryOk_setFld (memoryOk_setFld h)) ?_
  split
  · exact memoryOk_opReady h
  · exact memoryOk_opReturn h
  · exact memoryOk_opRedReset h
  · exact memoryOk_cmdFault (memoryOk_redCommand h)

theorem memoryOk_drawSeed {s : State} {rule : Nat} (h : MemoryOk s) : MemoryOk (drawSeed s rule).1 := by
  unfold drawSeed
  exact memoryOk_foldl_fst (fun q i hq => memoryOk_drawFree (s := q.1) (rule := rule) (args := [i]) hq) h

theorem memoryOk_lcWrite {v : Nat} {s : State} (h : MemoryOk s) : MemoryOk (lcWrite v s) := by
  unfold lcWrite
  dsimp only
  exact memoryOk_ite (memoryOk_setFlag h) (memoryOk_ite (memoryOk_opDebugToken (memoryOk_drawFree h))
      (memoryOk_opLcTransition (memoryOk_drawSeed (memoryOk_drawSeed (memoryOk_setFlag (memoryOk_drawFree h))))))

theorem memoryOk_chEffect {a : Nat} {v : W64} {s : State} (h : MemoryOk s) : MemoryOkIf (chEffect a v s) := by
  unfold chEffect
  extract_lets n
  clear_value n
  refine memoryOk_ite_opt (memoryOk_some (memoryOk_opTimingModeWrite h)) ?_
  refine memoryOk_ite_opt (memoryOk_some (memoryOk_setFlag (memoryOk_setFld h))) ?_
  refine memoryOk_ite_opt (memoryOk_some (memoryOk_setChan (memoryOk_wr h))) ?_
  refine memoryOk_ite_opt (memoryOk_some (memoryOk_opT0FenceWrite h)) ?_
  refine memoryOk_ite_opt (memoryOk_some (memoryOk_opCoreRetire h)) ?_
  refine memoryOk_ite_opt (memoryOk_some (memoryOk_opShadowSyncRequest h)) ?_
  refine memoryOk_ite_opt (memoryOk_some (memoryOk_opStreamResume h)) ?_
  refine memoryOk_ite_opt (memoryOk_some (memoryOk_opStreamCancel h)) ?_
  refine memoryOk_ite_opt (memoryOk_some (memoryOk_opWorkQueueTailWrite h)) ?_
  refine memoryOk_ite_opt (memoryOk_some (memoryOk_opEventQueueBaseWrite h)) ?_
  refine memoryOk_ite_opt (memoryOk_some (memoryOk_opEventQueueHeadWrite h)) ?_
  refine memoryOk_ite_opt (memoryOk_some (memoryOk_opSendCommand h)) ?_
  refine memoryOk_ite_opt (memoryOk_some (memoryOk_opLinkEnable h)) ?_
  refine memoryOk_ite_opt (memoryOk_some (memoryOk_opLinkEnable h)) ?_
  refine memoryOk_ite_opt (memoryOk_some (memoryOk_ite (memoryOk_wr h) h)) ?_
  cases slotOf (Reg.chCoreMap n 0).addr 768 a with
  | some c => exact memoryOk_some (memoryOk_opCoreMapWrite h)
  | none =>
    refine memoryOk_bind fun p => ?_
    refine memoryOk_ite_opt (memoryOk_some (memoryOk_opCoreCsPowerWrite h)) ?_
    cases slotOf (Reg.coreRecvWindow n p.1 0).addr 8 a with
    | some k => exact memoryOk_some (memoryOk_opRecvWindowWrite h)
    | none =>
      cases slotOf (Reg.coreArrival n p.1 0).addr 8 a with
      | some k => exact memoryOk_some (memoryOk_opArrivalCounterWrite h)
      | none => exact memoryOk_map fun _ => memoryOk_opRowMapWrite h

theorem memoryOk_glbEffect {a : Nat} {v : W64} {plain s : State} (h : MemoryOk plain) (h1' : MemoryOk s) :
    MemoryOkIf (glbEffect a v plain s) := by
  unfold glbEffect
  dsimp only
  exact memoryOk_ite_opt (memoryOk_some (memoryOk_opEventQueueBaseWrite h1'))
      (memoryOk_ite_opt (memoryOk_some (memoryOk_opEventQueueHeadWrite h1'))
      (memoryOk_ite_opt (memoryOk_some (memoryOk_ite (memoryOk_opManagementReset h1') h1'))
      (memoryOk_ite_opt (memoryOk_some (memoryOk_opIlLockWrite h1')) (memoryOk_ite_opt
      (memoryOk_some (memoryOk_opByeInsertWrite h1')) (memoryOk_ite_opt (memoryOk_some (memoryOk_redWrite h1'))
      (memoryOk_ite_opt (memoryOk_some (memoryOk_ite (memoryOk_opActive h1') (memoryOk_ite (memoryOk_opDormant h1') h1')))
      (memoryOk_ite_opt (memoryOk_some (memoryOk_clockAll h)) (memoryOk_ite_opt (memoryOk_some (memoryOk_lcWrite h1'))
      (memoryOk_ite_opt (memoryOk_some (memoryOk_ite (memoryOk_opAttestationRequest (memoryOk_ite (memoryOk_setFlag h1') h1'))
      (memoryOk_ite (memoryOk_setFlag h1') h1'))) (memoryOk_ite_opt (memoryOk_some (memoryOk_tryUnlock h)) memoryOk_none))))))))))

theorem memoryOk_writeReg {s : State} {seat : Seat} {a : Nat} {v : W64} (h : MemoryOk s) : MemoryOk (writeReg s seat a v).1 := by
  unfold writeReg
  dsimp only
  split
  · exact h
  · refine memoryOk_ite_fst h ?_
    split
    · exact memoryOk_ite_fst (memoryOk_opHeartbeatWrite h) h
    · exact memoryOk_ite_fst (memoryOk_ite_fst (memoryOk_migEnqueue h) h)
        (memoryOk_ite_fst h (memoryOk_ite_fst h (memoryOk_getD (memoryOk_ite_opt (memoryOk_chEffect h)
        (memoryOk_glbEffect (memoryOk_wr h) h)) (memoryOk_wr h))))

theorem memoryOk_opPlainRegisterWrite {seat : Seat} {a : Nat} {v : W64} {s : State} (h : MemoryOk s) :
    MemoryOk (opPlainRegisterWrite seat a v s) := by
  unfold opPlainRegisterWrite
  exact memoryOk_writeReg h

theorem memoryOk_debugDelay {s : State} {n i cycles : Nat} (h : MemoryOk s) : MemoryOk (debugDelay s n i cycles) := by
  unfold debugDelay
  split
  · exact memoryOk_lateNoStream h
  · exact h

theorem memoryOk_opDebugPortAccess {acc : DebugAccess} {cycles : Nat} {s : State} (h : MemoryOk s) :
    MemoryOk (opDebugPortAccess acc cycles s) := by
  unfold opDebugPortAccess
  dsimp only
  refine memoryOk_ite h ?_
  split
  · exact memoryOk_mk (memoryOk_readReg h)
  · exact memoryOk_writeReg h
  · exact memoryOk_debugDelay (memoryOk_csAccess h)

/-! ### Host -/

theorem memoryOk_mgmtReply {s : State} {p : Nat} {m : Msg} {result : Nat} {data : List Byte} (h : MemoryOk s) :
    MemoryOk (mgmtReply s p m result data) := by
  unfold mgmtReply
  exact memoryOk_emit h

theorem memoryOk_mgmtRead {k a : Nat} {acc : List Byte} {s : State} (h : MemoryOk s) : MemoryOk (mgmtRead k a acc s).1 := by
  induction k generalizing s a acc with
  | zero => exact h
  | succ k ih =>
    unfold mgmtRead
    split
    · exact ih (memoryOk_readReg h)
    · exact h

theorem memoryOk_mgmtWrite {k a : Nat} {bs : List Byte} {s : State} (h : MemoryOk s) : MemoryOk (mgmtWrite k a bs s).1 := by
  induction k generalizing s a bs with
  | zero => exact h
  | succ k ih =>
    unfold mgmtWrite
    split
    · split
      · next heq => exact ih (memoryOk_fst heq (memoryOk_writeReg h))
      · next heq => exact memoryOk_fst heq (memoryOk_writeReg h)
    · exact h

theorem memoryOk_opRegisterRead {p : Nat} {s : State} (h : MemoryOk s) : MemoryOk (opRegisterRead p s) := by
  unfold opRegisterRead
  dsimp only
  split
  · exact h
  · exact memoryOk_ite h (memoryOk_mgmtReply (memoryOk_mgmtRead (memoryOk_dropMsg h)))

theorem memoryOk_opRegisterWrite {p : Nat} {s : State} (h : MemoryOk s) : MemoryOk (opRegisterWrite p s) := by
  unfold opRegisterWrite
  dsimp only
  split
  · exact h
  · exact memoryOk_ite h (memoryOk_mgmtReply (memoryOk_mgmtWrite (memoryOk_dropMsg h)))

theorem memoryOk_toHost {s : State} {p : Nat} {m : Msg} (h : MemoryOk s) : MemoryOk (toHost s p m) := by
  unfold toHost
  refine memoryOk_ite (memoryOk_dropMsg h) ?_
  split
  · exact h
  · exact memoryOk_hostSend (memoryOk_dropMsg h)

theorem memoryOk_opReply {p : Nat} {s : State} (h : MemoryOk s) : MemoryOk (opReply p s) := by
  unfold opReply
  split
  · exact h
  · exact memoryOk_toHost h

theorem memoryOk_opEventNotice {p : Nat} {s : State} (h : MemoryOk s) : MemoryOk (opEventNotice p s) := by
  unfold opEventNotice
  split
  · exact h
  · exact memoryOk_toHost h

theorem memoryOk_opTransferData {p : Nat} {s : State} (h : MemoryOk s) : MemoryOk (opTransferData p s) := by
  unfold opTransferData
  dsimp only
  split
  · exact h
  · split
    · exact memoryOk_mgmtReply (memoryOk_count32 (memoryOk_dropMsg h))
    · exact memoryOk_setBook (memoryOk_writeRange (memoryOk_dropMsg h) _ _)

theorem memoryOk_opRequest {p : Nat} {s : State} (h : MemoryOk s) : MemoryOk (opRequest p s) := by
  unfold opRequest
  dsimp only
  split
  · exact h
  · exact memoryOk_ite h (memoryOk_ite (memoryOk_takeRequest (memoryOk_setRef (memoryOk_dropMsg h)))
      (memoryOk_setRef (memoryOk_dropMsg h)))

theorem memoryOk_opRequestIncompleteTimeout {htag : W32} {s : State} (h : MemoryOk s) :
    MemoryOk (opRequestIncompleteTimeout htag s) := by
  unfold opRequestIncompleteTimeout
  dsimp only
  split
  · exact h
  · exact memoryOk_emit (memoryOk_setRef h)

theorem memoryOk_onSequence {s : State} {p fkind : Nat} {act : State → Msg → Live → State} (h : MemoryOk s)
    (hact : ∀ x0 x1 x2, MemoryOk x0 → MemoryOk (act x0 x1 x2)) : MemoryOk (onSequence s p fkind act) := by
  unfold onSequence
  split
  · exact h
  · split
    · exact memoryOk_emit (memoryOk_dropMsg h)
    · exact hact _ _ _ h

theorem memoryOk_opContinueSequence {p : Nat} {s : State} (h : MemoryOk s) : MemoryOk (opContinueSequence p s) := by
  unfold opContinueSequence
  dsimp only
  refine memoryOk_onSequence h ?_
  intro _ _ _ h1
  refine memoryOk_ite h1 ?_
  split
  · exact memoryOk_emit (memoryOk_dropMsg h1)
  · exact memoryOk_expandStep (memoryOk_startWake (memoryOk_putLive (memoryOk_dropMsg h1)))

theorem memoryOk_opCancel {p : Nat} {s : State} (h : MemoryOk s) : MemoryOk (opCancel p s) := by
  unfold opCancel
  exact memoryOk_onSequence h (fun _ _ _ h1 => memoryOk_endRequest (memoryOk_dropMsg h1))

theorem memoryOk_opReplay {p : Nat} {s : State} (h : MemoryOk s) : MemoryOk (opReplay p s) := by
  unfold opReplay
  exact memoryOk_onSequence h (fun _ _ _ h1 => memoryOk_foldl (fun _ _ h2 => memoryOk_emit h2) (memoryOk_dropMsg h1))

theorem memoryOk_opResponse {p : Nat} {s : State} (h : MemoryOk s) : MemoryOk (opResponse p s) := by
  unfold opResponse
  split
  · exact h
  · exact memoryOk_toHost h

theorem memoryOk_opStatus {p : Nat} {s : State} (h : MemoryOk s) : MemoryOk (opStatus p s) := by
  unfold opStatus
  split
  · exact h
  · exact memoryOk_toHost h

/-! ### Commands -/

theorem memoryOk_keepQueue {s t : State} (h : MemoryOk t) : MemoryOk (keepQueue s t) := h.of_mem (keepQueue_mem s t)

/-! ### Commands -/

/-- What a command leaves has its memory in canonical form. -/
theorem memoryOk_exec {s : State} (h : MemoryOk s) (c : Instr) : ∃ u, exec c s = .next (keepQueue s u) ∧ MemoryOk u := by
  cases c with
  | powerOn => exact ⟨_, rfl, memoryOk_opPowerOn h⟩
  | resetRelease => exact ⟨_, rfl, memoryOk_opResetRelease h⟩
  | memoryTrainingDone => exact ⟨_, rfl, memoryOk_opMemoryTrainingDone h⟩
  | wipeComplete => exact ⟨_, rfl, memoryOk_opWipeComplete h⟩
  | bypassRound => exact ⟨_, rfl, memoryOk_opBypassRound h⟩
  | bypassRoundClose => exact ⟨_, rfl, memoryOk_opBypassRoundClose h⟩
  | bypassRoundInsert => exact ⟨_, rfl, memoryOk_opBypassRoundInsert h⟩
  | modelWeightDigest => exact ⟨_, rfl, memoryOk_opModelWeightDigest h⟩
  | timingModeWrite => exact ⟨_, rfl, memoryOk_opTimingModeWrite h⟩
  | brownout => exact ⟨_, rfl, memoryOk_opBrownout h⟩
  | brownoutRestart => exact ⟨_, rfl, memoryOk_opBrownoutRestart h⟩
  | inputCurrentLimit => exact ⟨_, rfl, memoryOk_opInputCurrentLimit h⟩
  | currentLimitRelease => exact ⟨_, rfl, memoryOk_opCurrentLimitRelease h⟩
  | railFault => exact ⟨_, rfl, memoryOk_opRailFault h⟩
  | thermalSensorSample => exact ⟨_, rfl, memoryOk_opThermalSensorSample h⟩
  | thermalStepUpdate => exact ⟨_, rfl, memoryOk_opThermalStepUpdate h⟩
  | powerCapUpdate => exact ⟨_, rfl, memoryOk_opPowerCapUpdate h⟩
  | supplySag => exact ⟨_, rfl, memoryOk_opSupplySag h⟩
  | stretchRelease => exact ⟨_, rfl, memoryOk_opStretchRelease h⟩
  | resetSignal => exact ⟨_, rfl, memoryOk_opResetSignal h⟩
  | managementReset => exact ⟨_, rfl, memoryOk_opManagementReset h⟩
  | tapLeaveTestLogicReset => exact ⟨_, rfl, memoryOk_opTapLeaveTestLogicReset h⟩
  | tapReturnTestLogicReset => exact ⟨_, rfl, memoryOk_opTapReturnTestLogicReset h⟩
  | dormant => exact ⟨_, rfl, memoryOk_opDormant h⟩
  | active => exact ⟨_, rfl, memoryOk_opActive h⟩
  | coreClockGate => exact ⟨_, rfl, memoryOk_opCoreClockGate h⟩
  | lcTransition => exact ⟨_, rfl, memoryOk_opLcTransition h⟩
  | debugToken => exact ⟨_, rfl, memoryOk_opDebugToken h⟩
  | attestationRequest => exact ⟨_, rfl, memoryOk_opAttestationRequest h⟩
  | product => exact ⟨_, rfl, memoryOk_opProduct h⟩
  | prefillAttention => exact ⟨_, rfl, memoryOk_opPrefillAttention h⟩
  | sparseBySparse => exact ⟨_, rfl, memoryOk_opSparseBySparse h⟩
  | vectorOperation => exact ⟨_, rfl, memoryOk_opVectorOperation h⟩
  | fillAndCopy => exact ⟨_, rfl, memoryOk_opFillAndCopy h⟩
  | matrixVector => exact ⟨_, rfl, memoryOk_opMatrixVector h⟩
  | decodeAttention => exact ⟨_, rfl, memoryOk_opDecodeAttention h⟩
  | gather => exact ⟨_, rfl, memoryOk_opGather h⟩
  | scatter => exact ⟨_, rfl, memoryOk_opScatter h⟩
  | scatterAdd => exact ⟨_, rfl, memoryOk_opScatterAdd h⟩
  | indexIntersection => exact ⟨_, rfl, memoryOk_opIndexIntersection h⟩
  | encode => exact ⟨_, rfl, memoryOk_opEncode h⟩
  | decode => exact ⟨_, rfl, memoryOk_opDecode h⟩
  | operationHeldLoad => exact ⟨_, rfl, memoryOk_opOperationHeldLoad h⟩
  | workQueueTailWrite => exact ⟨_, rfl, memoryOk_opWorkQueueTailWrite h⟩
  | operationStart => exact ⟨_, rfl, memoryOk_opOperationStart h⟩
  | operationComplete => exact ⟨_, rfl, memoryOk_opOperationComplete h⟩
  | operationDeadlineMiss => exact ⟨_, rfl, memoryOk_opOperationDeadlineMiss h⟩
  | tileRequest => exact ⟨_, rfl, memoryOk_opTileRequest h⟩
  | fetchIssue => exact ⟨_, rfl, memoryOk_opFetchIssue h⟩
  | fetchComplete => exact ⟨_, rfl, memoryOk_opFetchDone h⟩
  | dramWriteBack => exact ⟨_, rfl, memoryOk_opDramWriteBack h⟩
  | streamResume => exact ⟨_, rfl, memoryOk_opStreamResume h⟩
  | streamCancel => exact ⟨_, rfl, memoryOk_opStreamCancel h⟩
  | cancelComplete => exact ⟨_, rfl, memoryOk_opCancelComplete h⟩
  | scale => exact ⟨_, rfl, memoryOk_opScale h⟩
  | pageList => exact ⟨_, rfl, memoryOk_opPageList h⟩
  | counter => exact ⟨_, rfl, memoryOk_opCounter h⟩
  | arrivalNotice => exact ⟨_, rfl, memoryOk_opArrivalNotice h⟩
  | cancelNotice => exact ⟨_, rfl, memoryOk_opCancelNotice h⟩
  | rotationForward => exact ⟨_, rfl, memoryOk_opRotationForward h⟩
  | checksumCompare => exact ⟨_, rfl, memoryOk_opChecksumCompare h⟩
  | storePathWait => exact ⟨_, rfl, memoryOk_opStorePathWait h⟩
  | combine => exact ⟨_, rfl, memoryOk_opCombineNext h⟩
  | arrivalWaitResume => exact ⟨_, rfl, memoryOk_opArrivalWaitResume h⟩
  | coreStoreAccess => exact ⟨_, rfl, memoryOk_opCoreStoreAccess h⟩
  | coreStoreWriteBack => exact ⟨_, rfl, memoryOk_opCoreStoreWriteBack h⟩
  | fill => exact ⟨_, rfl, memoryOk_opFill h⟩
  | copy => exact ⟨_, rfl, memoryOk_opCopy h⟩
  | coreCsPowerWrite => exact ⟨_, rfl, memoryOk_opCoreCsPowerWrite h⟩
  | rowMapWrite => exact ⟨_, rfl, memoryOk_opRowMapWrite h⟩
  | recvWindowWrite => exact ⟨_, rfl, memoryOk_opRecvWindowWrite h⟩
  | arrivalCounterWrite => exact ⟨_, rfl, memoryOk_opArrivalCounterWrite h⟩
  | coreMapWrite => exact ⟨_, rfl, memoryOk_opCoreMapWrite h⟩
  | dramRefresh => exact ⟨_, rfl, memoryOk_opDramRefresh h⟩
  | hotChannelSample => exact ⟨_, rfl, memoryOk_opHotChannelSample h⟩
  | fetchFromTier1 => exact ⟨_, rfl, memoryOk_opTier1Fetch h⟩
  | copyToTier1 => exact ⟨_, rfl, memoryOk_opCopyToTier1 h⟩
  | fetchFromHost => exact ⟨_, rfl, memoryOk_opFetchFromHost h⟩
  | markAbsent => exact ⟨_, rfl, memoryOk_opMarkAbsent h⟩
  | markPresent => exact ⟨_, rfl, memoryOk_opMarkPresent h⟩
  | evict => exact ⟨_, rfl, memoryOk_opEvict h⟩
  | repairBlockFromMirror => exact ⟨_, rfl, memoryOk_opRepairBlockFromMirror h⟩
  | migrationComplete => exact ⟨_, rfl, memoryOk_opMigrationDone h⟩
  | t0FenceWrite => exact ⟨_, rfl, memoryOk_opFenceWrite h⟩
  | stackLoss => exact ⟨_, rfl, memoryOk_opStackLoss h⟩
  | dieTransferUncorrectable => exact ⟨_, rfl, memoryOk_opDieTransferUncorrectable h⟩
  | ilLockWrite => exact ⟨_, rfl, memoryOk_opIlLockWrite h⟩
  | combineChunk => exact ⟨_, rfl, memoryOk_opCombineChunk h⟩
  | sumChunkSend => exact ⟨_, rfl, memoryOk_opSumChunkSend h⟩
  | lengthTableEntry => exact ⟨_, rfl, memoryOk_opLengthTableEntry h⟩
  | pageHeader => exact ⟨_, rfl, memoryOk_opPageHeader h⟩
  | pageListEntry => exact ⟨_, rfl, memoryOk_opPageListEntry h⟩
  | attentionStatesMerge => exact ⟨_, rfl, memoryOk_opAttentionStatesMerge h⟩
  | exportMerge => exact ⟨_, rfl, memoryOk_opExportMerge h⟩
  | gatherIndex => exact ⟨_, rfl, memoryOk_opGatherIndex h⟩
  | pair => exact ⟨_, rfl, memoryOk_withFeeding (fun _ h1 => memoryOk_opPair h1) h⟩
  | block => exact ⟨_, rfl, memoryOk_withFeeding (fun _ h1 => memoryOk_opBlock h1) h⟩
  | end_ => exact ⟨_, rfl, memoryOk_withFeeding (fun _ h1 => memoryOk_opEnd h1) h⟩
  | shadowBlockCopy => exact ⟨_, rfl, memoryOk_opShadowBlockCopy h⟩
  | shadowSyncRequest => exact ⟨_, rfl, memoryOk_opShadowSyncRequest h⟩
  | shadowSyncComplete => exact ⟨_, rfl, memoryOk_opShadowSyncComplete h⟩
  | sequenceRetire => exact ⟨_, rfl, memoryOk_opSequenceRetire h⟩
  | responseIssue => exact ⟨_, rfl, memoryOk_opResponseIssue h⟩
  | deferredAdmit => exact ⟨_, rfl, memoryOk_opDeferredAdmit h⟩
  | dataFlit => exact ⟨_, rfl, memoryOk_opDataFlit h⟩
  | idleFlit => exact ⟨_, rfl, memoryOk_opIdleFlit h⟩
  | nakFlit => exact ⟨_, rfl, memoryOk_opNakFlit h⟩
  | replayTimeout => exact ⟨_, rfl, memoryOk_opReplayTimeout h⟩
  | nakResendTimeout => exact ⟨_, rfl, memoryOk_opNakResendTimeout h⟩
  | messageForward => exact ⟨_, rfl, memoryOk_opMessageForward h⟩
  | messageAgeDrop => exact ⟨_, rfl, memoryOk_opMessageAgeDrop h⟩
  | windowWrite => exact ⟨_, rfl, memoryOk_opWindowWrite h⟩
  | reject => exact ⟨_, rfl, memoryOk_opReject h⟩
  | heartbeat => exact ⟨_, rfl, memoryOk_opHeartbeat h⟩
  | heartbeatSend => exact ⟨_, rfl, memoryOk_opHeartbeatSend h⟩
  | neighbourHung => exact ⟨_, rfl, memoryOk_opNeighbourHung h⟩
  | membershipUpdate => exact ⟨_, rfl, memoryOk_opMembershipUpdate h⟩
  | rejoinStart => exact ⟨_, rfl, memoryOk_opRejoinStart h⟩
  | rejoinDone => exact ⟨_, rfl, memoryOk_opRejoinDone h⟩
  | registerRead => exact ⟨_, rfl, memoryOk_opRegisterRead h⟩
  | registerWrite => exact ⟨_, rfl, memoryOk_opRegisterWrite h⟩
  | reply => exact ⟨_, rfl, memoryOk_opReply h⟩
  | transferData => exact ⟨_, rfl, memoryOk_opTransferData h⟩
  | eventNotice => exact ⟨_, rfl, memoryOk_opEventNotice h⟩
  | request => exact ⟨_, rfl, memoryOk_opRequest h⟩
  | continueSequence => exact ⟨_, rfl, memoryOk_opContinueSequence h⟩
  | cancel => exact ⟨_, rfl, memoryOk_opCancel h⟩
  | replay => exact ⟨_, rfl, memoryOk_opReplay h⟩
  | response => exact ⟨_, rfl, memoryOk_opResponse h⟩
  | status => exact ⟨_, rfl, memoryOk_opStatus h⟩
  | requestIncompleteTimeout => exact ⟨_, rfl, memoryOk_opRequestIncompleteTimeout h⟩
  | hostFrame => exact ⟨_, rfl, memoryOk_opHostFrame h⟩
  | hostResendTimeout => exact ⟨_, rfl, memoryOk_opHostResendTimeout h⟩
  | laneLoss => exact ⟨_, rfl, memoryOk_opLaneLoss h⟩
  | lossOfSignal => exact ⟨_, rfl, memoryOk_opLossOfSignal h⟩
  | relockComplete => exact ⟨_, rfl, memoryOk_opRelockComplete h⟩
  | relockTimeout => exact ⟨_, rfl, memoryOk_opRelockTimeout h⟩
  | trainingComplete => exact ⟨_, rfl, memoryOk_opTrainingComplete h⟩
  | trainingTimeout => exact ⟨_, rfl, memoryOk_opTrainingTimeout h⟩
  | linkEnable => exact ⟨_, rfl, memoryOk_opLinkEnable h⟩
  | retrain => exact ⟨_, rfl, memoryOk_opRetrain h⟩
  | relockDirect => exact ⟨_, rfl, memoryOk_opRelockDirect h⟩
  | byeInsertWrite => exact ⟨_, rfl, memoryOk_opByeInsertWrite h⟩
  | byeFault => exact ⟨_, rfl, memoryOk_opByeFault h⟩
  | sendCommand => exact ⟨_, rfl, memoryOk_opSendCommand h⟩
  | sendStart => exact ⟨_, rfl, memoryOk_opSendStart h⟩
  | sendComplete => exact ⟨_, rfl, memoryOk_opSendComplete h⟩
  | ready => exact ⟨_, rfl, memoryOk_opReady h⟩
  | return_ => exact ⟨_, rfl, memoryOk_opReturn h⟩
  | redReset => exact ⟨_, rfl, memoryOk_opRedReset h⟩
  | reduceSegment => exact ⟨_, rfl, memoryOk_opReduceSegment h⟩
  | adderSegment => exact ⟨_, rfl, memoryOk_opAdderSegment h⟩
  | returnParameters => exact ⟨_, rfl, memoryOk_opReturnParameters h⟩
  | returnScales => exact ⟨_, rfl, memoryOk_opReturnScales h⟩
  | watchdogInterval => exact ⟨_, rfl, memoryOk_opWatchdogInterval h⟩
  | machineCheck => exact ⟨_, rfl, memoryOk_opMachineCheck h⟩
  | heartbeatWrite => exact ⟨_, rfl, memoryOk_opHeartbeatWrite h⟩
  | eventQueueHeadWrite => exact ⟨_, rfl, memoryOk_opEventQueueHeadWrite h⟩
  | eventQueueBaseWrite => exact ⟨_, rfl, memoryOk_opEventQueueBaseWrite h⟩
  | eventForward => exact ⟨_, rfl, memoryOk_opEventForward h⟩
  | eventAcknowledge => exact ⟨_, rfl, memoryOk_opEventAcknowledge h⟩
  | coreUnresponsive => exact ⟨_, rfl, memoryOk_opCoreUnresponsive h⟩
  | coreRetire => exact ⟨_, rfl, memoryOk_opCoreRetire h⟩
  | thaderLoss => exact ⟨_, rfl, memoryOk_opThaderLoss h⟩
  | thader0Loss => exact ⟨_, rfl, memoryOk_opThader0Loss h⟩
  | scrubPass => exact ⟨_, rfl, memoryOk_opScrubPass h⟩
  | page => exact ⟨_, rfl, memoryOk_opPage h⟩
  | clearFaults => exact ⟨_, rfl, memoryOk_opClearFaults h⟩
  | voutMode => exact ⟨_, rfl, memoryOk_opVoutMode h⟩
  | statusWord => exact ⟨_, rfl, memoryOk_opStatusWord h⟩
  | statusVout => exact ⟨_, rfl, memoryOk_opStatusVout h⟩
  | statusIout => exact ⟨_, rfl, memoryOk_opStatusIout h⟩
  | statusInput => exact ⟨_, rfl, memoryOk_opStatusInput h⟩
  | statusTemperature => exact ⟨_, rfl, memoryOk_opStatusTemperature h⟩
  | readVin => exact ⟨_, rfl, memoryOk_opReadVin h⟩
  | readIin => exact ⟨_, rfl, memoryOk_opReadIin h⟩
  | readVout => exact ⟨_, rfl, memoryOk_opReadVout h⟩
  | readIout => exact ⟨_, rfl, memoryOk_opReadIout h⟩
  | readTemperature1 => exact ⟨_, rfl, memoryOk_opReadTemperature1 h⟩
  | readPout => exact ⟨_, rfl, memoryOk_opReadPout h⟩
  | readPin => exact ⟨_, rfl, memoryOk_opReadPin h⟩
  | pmbusRevision => exact ⟨_, rfl, memoryOk_opPmbusRevision h⟩
  | mfrId => exact ⟨_, rfl, memoryOk_opMfrId h⟩
  | mfrModel => exact ⟨_, rfl, memoryOk_opMfrModel h⟩
  | mfrPwrStatusLo => exact ⟨_, rfl, memoryOk_opMfrPwrStatusLo h⟩
  | mfrPwrStatusHi => exact ⟨_, rfl, memoryOk_opMfrPwrStatusHi h⟩
  | mfrThermStatusLo => exact ⟨_, rfl, memoryOk_opMfrThermStatusLo h⟩
  | mfrThermStatusHi => exact ⟨_, rfl, memoryOk_opMfrThermStatusHi h⟩
  | mfrByeCtrl => exact ⟨_, rfl, memoryOk_opMfrByeCtrl h⟩
  | mfrByeStatus => exact ⟨_, rfl, memoryOk_opMfrByeStatus h⟩
  | mfrStartCtrl => exact ⟨_, rfl, memoryOk_opMfrStartCtrl h⟩
  | mfrResetCause => exact ⟨_, rfl, memoryOk_opMfrResetCause h⟩
  | mfrDieStatus => exact ⟨_, rfl, memoryOk_opMfrDieStatus h⟩
  | mfrModuleReset => exact ⟨_, rfl, memoryOk_opMfrModuleReset h⟩
  | pmbusUnsupported => exact ⟨_, rfl, memoryOk_opPmbusUnsupported h⟩
  | plainRegisterWrite => exact ⟨_, rfl, memoryOk_opPlainRegisterWrite h⟩
  | ld => exact ⟨_, rfl, memoryOk_opLd h⟩
  | st => exact ⟨_, rfl, memoryOk_opSt h⟩
  | bcast => exact ⟨_, rfl, memoryOk_opBcast h⟩
  | add => exact ⟨_, rfl, memoryOk_opAdd h⟩
  | sub => exact ⟨_, rfl, memoryOk_opSub h⟩
  | mul => exact ⟨_, rfl, memoryOk_opMul h⟩
  | fma => exact ⟨_, rfl, memoryOk_opFma h⟩
  | min => exact ⟨_, rfl, memoryOk_opMin h⟩
  | max => exact ⟨_, rfl, memoryOk_opMax h⟩
  | abs => exact ⟨_, rfl, memoryOk_opAbs h⟩
  | neg => exact ⟨_, rfl, memoryOk_opNeg h⟩
  | copysign => exact ⟨_, rfl, memoryOk_opCopysign h⟩
  | cmp => exact ⟨_, rfl, memoryOk_opCmp h⟩
  | sel => exact ⟨_, rfl, memoryOk_opSel h⟩
  | div => exact ⟨_, rfl, memoryOk_opDiv h⟩
  | sqrt => exact ⟨_, rfl, memoryOk_opSqrt h⟩
  | recip => exact ⟨_, rfl, memoryOk_opRecip h⟩
  | rsqrt => exact ⟨_, rfl, memoryOk_opRsqrt h⟩
  | exp2 => exact ⟨_, rfl, memoryOk_opExp2 h⟩
  | log2 => exact ⟨_, rfl, memoryOk_opLog2 h⟩
  | exp => exact ⟨_, rfl, memoryOk_opExp h⟩
  | ln => exact ⟨_, rfl, memoryOk_opLn h⟩
  | tanh => exact ⟨_, rfl, memoryOk_opTanh h⟩
  | sigmoid => exact ⟨_, rfl, memoryOk_opSigmoid h⟩
  | erf => exact ⟨_, rfl, memoryOk_opErf h⟩
  | gelu => exact ⟨_, rfl, memoryOk_opGelu h⟩
  | silu => exact ⟨_, rfl, memoryOk_opSilu h⟩
  | lsum => exact ⟨_, rfl, memoryOk_opLsum h⟩
  | lmax => exact ⟨_, rfl, memoryOk_opLmax h⟩
  | lmin => exact ⟨_, rfl, memoryOk_opLmin h⟩
  | iadd => exact ⟨_, rfl, memoryOk_opIadd h⟩
  | isub => exact ⟨_, rfl, memoryOk_opIsub h⟩
  | imul => exact ⟨_, rfl, memoryOk_opImul h⟩
  | shl => exact ⟨_, rfl, memoryOk_opShl h⟩
  | shr => exact ⟨_, rfl, memoryOk_opShr h⟩
  | and => exact ⟨_, rfl, memoryOk_opAnd h⟩
  | or => exact ⟨_, rfl, memoryOk_opOr h⟩
  | xor => exact ⟨_, rfl, memoryOk_opXor h⟩
  | icmp => exact ⟨_, rfl, memoryOk_opIcmp h⟩
  | popcnt => exact ⟨_, rfl, memoryOk_opPopcnt h⟩
  | clz => exact ⟨_, rfl, memoryOk_opClz h⟩
  | cvt => exact ⟨_, rfl, memoryOk_opCvt h⟩
  | rand => exact ⟨_, rfl, memoryOk_opRand h⟩
  | sort => exact ⟨_, rfl, memoryOk_opSort h⟩
  | vecEnd => exact ⟨_, rfl, memoryOk_opVecEnd h⟩
  | auxInputLoss => exact ⟨_, rfl, memoryOk_opAuxInputLoss h⟩
  | vinLow => exact ⟨_, rfl, memoryOk_opVinLow h⟩
  | hostLinkUp => exact ⟨_, rfl, memoryOk_opHostLinkUp h⟩
  | wakeComplete => exact ⟨_, rfl, memoryOk_opWakeComplete h⟩
  | debugPortAccess => exact ⟨_, rfl, memoryOk_opDebugPortAccess h⟩
  | rcCounterRead => exact ⟨_, rfl, memoryOk_opRcCounterRead h⟩
  | trainingJobStart => exact ⟨_, rfl, memoryOk_opTrainingJobStart h⟩

/-- Settles O48: every function of the model that hands on a state keeps its memory in canonical form, since the memory is
written by single bytes, by the removal of a range of keys and by the wipe alone; a step is one of these functions. -/
theorem memoryStaysCanonical : Obligations.MemoryStaysCanonical := by
  unfold Obligations.MemoryStaysCanonical
  intro s t h hStep
  cases hQueue : s.pending with
  | nil =>
    rw [step_nil hQueue] at hStep
    cases hStep
    exact memoryOk_idleTick h
  | cons c r =>
    obtain ⟨u, hExec, hu⟩ := memoryOk_exec (memoryOk_mk (pending := r) h) c
    rw [step_cons hQueue, hExec] at hStep
    cases hStep
    exact memoryOk_keepQueue hu

end Sys2Proof.Machine
end
